-- ==== Sys2Proof/Word.lean ====
section
/-! DEFINITION. The word types of the Quinoon Q8 (R37, R45, R63, R125) and sparse maps in one canonical form. -/
namespace Sys2Proof

/-- A lane register (R76). -/
abbrev Word := BitVec 32
/-- A pair of lane registers, a pointer or a 64-bit register (R90, R125). -/
abbrev DWord := BitVec 64
/-- A mask with one bit for each lane of a warp (R63). -/
abbrev Lanes := BitVec 32
/-- An instruction word (R37). -/
abbrev IWord := BitVec 128

/-- A sparse map from keys to bit vectors: keys strictly rising, no entry equal to zero, which is what an
unlisted key reads as. Equal maps are equal lists. -/
abbrev SMap (n : Nat) := List (Nat × BitVec n)

end Sys2Proof
end

