-- ==== Sys2Proof/Machine/Maps.lean ====
section
/-! DEFINITION. Reading and writing sparse maps, byte order (R5) and bit fields: the helpers every other file uses. -/
namespace Sys2Proof.Machine
open Sys2Proof

/-- The value of a key; an unlisted key reads as zero. -/
def mget {n : Nat} : List (Nat × BitVec n) → Nat → BitVec n
  | [], _ => 0
  | (a, v) :: r, k => if a = k then v else mget r k

/-- The map with one key changed, in canonical form. -/
def mset {n : Nat} : List (Nat × BitVec n) → Nat → BitVec n → List (Nat × BitVec n)
  | [], k, v => if v = 0 then [] else [(k, v)]
  | (a, x) :: r, k, v =>
    if k < a then (if v = 0 then (a, x) :: r else (k, v) :: (a, x) :: r)
    else if k = a then (if v = 0 then r else (k, v) :: r)
    else (a, x) :: mset r k v

/-- The canonical form of a sparse map, with no key below `lo`: keys strictly rise, and no value is what an unlisted key reads as. -/
def rising {n : Nat} (lo : Nat) : List (Nat × BitVec n) → Bool
  | [] => true
  | (a, v) :: r => decide (lo ≤ a) && v != 0 && rising (a + 1) r

/-- Several writes, the last one of a key last. -/
def msetAll {n : Nat} (m : List (Nat × BitVec n)) (kvs : List (Nat × BitVec n)) : List (Nat × BitVec n) :=
  kvs.foldl (fun m kv => mset m kv.1 kv.2) m

/-- The map without the keys of which `p` holds: they read as zero. -/
def mdrop {n : Nat} (m : List (Nat × BitVec n)) (p : Nat → Bool) : List (Nat × BitVec n) :=
  m.filter fun kv => !p kv.1

/-- R5: the `n` bytes of a value, the lowest first. -/
def leBytes (v : Nat) : Nat → List (BitVec 8)
  | 0 => []
  | n + 1 => BitVec.ofNat 8 v :: leBytes (v / 256) n

/-- R5: the value of bytes, the lowest first. -/
def ofLe : List (BitVec 8) → Nat
  | [] => 0
  | b :: r => b.toNat + 256 * ofLe r

/-- The bytes as they stand at `a` on. -/
def getBytes (m : List (Nat × BitVec 8)) (a : Nat) : Nat → List (BitVec 8)
  | 0 => []
  | n + 1 => mget m a :: getBytes m (a + 1) n

/-- The map with bytes written at `a` on. -/
def putBytes (m : List (Nat × BitVec 8)) (a : Nat) : List (BitVec 8) → List (Nat × BitVec 8)
  | [] => m
  | b :: r => putBytes (mset m a b) (a + 1) r

/-- R4: bits [lo + n - 1 : lo] of a number. -/
def fld (x lo n : Nat) : Nat := x / 2 ^ lo % 2 ^ n

/-- Bit `i` of a number. -/
def bitAt (x i : Nat) : Bool := x / 2 ^ i % 2 == 1

/-- R4: a number with the field at `lo` of `n` bits replaced. -/
def setFld (x lo n v : Nat) : Nat :=
  x / 2 ^ (lo + n) * 2 ^ (lo + n) + (v % 2 ^ n) * 2 ^ lo + x % 2 ^ lo

/-- An association list's value. -/
def alist {α : Type} (l : List (Nat × α)) (k : Nat) : Option α := (l.find? (·.1 == k)).map (·.2)

/-- An association list with one key set. -/
def aput {α : Type} (l : List (Nat × α)) (k : Nat) (v : α) : List (Nat × α) := (k, v) :: l.filter (·.1 != k)

/-- The 32 lane numbers. -/
def lanes32 : List Nat := List.range 32

/-- The lanes of a mask, in increasing order (R10). -/
def lanesOf (m : Lanes) : List Nat := lanes32.filter fun i => m.getLsbD i

/-- The mask of the lanes of which `p` holds. -/
def maskOf (p : Nat → Bool) : Lanes := lanes32.foldl (fun m i => if p i then m ||| (1#32 <<< i) else m) 0

/-- A value sign-extended from `n` bits to an integer. -/
def sx (n : Nat) (x : Nat) : Int := if x % 2 ^ n < 2 ^ (n - 1) then (x % 2 ^ n : Nat) else ((x % 2 ^ n : Nat) : Int) - (2 ^ n : Nat)

/-- An integer's two's complement in `n` bits, as a number. -/
def tc (n : Nat) (x : Int) : Nat := (x % (2 ^ n : Nat)).toNat

/-- An element placed before the first one with a larger key. -/
def insertBy {α : Type} (key : α → Nat) (x : α) : List α → List α
  | [] => [x]
  | y :: r => if key x < key y then x :: y :: r else y :: insertBy key x r

/-- The elements by rising key; those of one key keep their order. -/
def sortBy {α : Type} (key : α → Nat) (l : List α) : List α := l.foldl (fun r x => insertBy key x r) []

/-- The quotient rounded up. -/
def cdiv (a b : Nat) : Nat := (a + b - 1) / b

end Sys2Proof.Machine
end

