-- ==== Sys2Proof/Syntax.lean ====
section
/-! DEFINITION. The syntax: one constructor of `Instr` for each row of spec/opcode_table.json. The first 165 rows are
instructions, which carry the decoded fields of their word (R37, R45); the others are the device's events and the host's
commands, which carry what the event brings. An event that the
state itself determines carries nothing: it serves what is due, the oldest first (log 6); these stand last. -/
namespace Sys2Proof

/-- R38: the type codes, in the order of their codes 0x0 to 0xF. -/
inductive Ty where
  | i32 | n32 | i64 | n64 | i16x2 | n16x2 | i8x4 | n8x4 | i4x8 | f32 | f64 | f16x2 | bf16x2 | q8ax4 | q8bx4 | q4x8
  deriving DecidableEq, Repr, Inhabited

/-- R47: the lane patterns, in the order of their codes 0 to 7. -/
inductive Pat where
  | id | bc | rot | x | m | up | dn | sg
  deriving DecidableEq, Repr, Inhabited

/-- R45: the half select. -/
inductive Half where
  | none | lo | hi
  deriving DecidableEq, Repr, Inhabited

/-- R40 to R43: the scheduling and predicate fields. `setf` is 0 to 11, or 15 for none (12 to 14 are reserved). -/
structure Sched where
  dist   : BitVec 4
  wait   : BitVec 12
  setf   : BitVec 4
  pen    : Bool
  psense : Bool
  preg   : BitVec 8
  pbit   : BitVec 5
  deriving DecidableEq, Repr, Inhabited

/-- R45: a source field. -/
structure Src where
  reg  : BitVec 8
  pat  : Pat
  k    : BitVec 5
  neg  : Bool
  abs  : Bool
  half : Half
  deriving DecidableEq, Repr, Inhabited

/-- R49: the three sources, or source a and a 32-bit immediate that replaces b and c. -/
inductive Args where
  | regs (a b c : Src)
  | imm (a : Src) (i : Word)
  deriving DecidableEq, Repr, Inhabited

/-- R37: the fields of an instruction word beside OP. -/
structure Fields where
  sched : Sched
  ty    : Ty
  var   : BitVec 4
  dst   : BitVec 8
  args  : Args
  deriving DecidableEq, Repr, Inhabited

/-- R432, R447, R448: how a host request arrives: through which function, and whether on that function's IDE stream. -/
structure Via where
  fn  : Nat := 0
  ide : Bool := false
  deriving DecidableEq, Repr, Inhabited

/-- R102, R447: a register page, 0 for the management page, and how a host request comes to it. -/
structure PageAt where
  via  : Via := {}
  page : Nat := 0
  deriving DecidableEq, Repr, Inhabited

/-- One step of the part: an instruction, an event or a host command (95_what_each_step_holds). -/
inductive Instr where
  /-- `NOP`: Does nothing (R206). -/
  | nop (f : Fields)
  /-- `PREP`: Writes a branch-target register with an immediate target and starts fetching that target (R193). -/
  | prep (f : Fields)
  /-- `PREPV`: Writes a branch-target register from a uniform lane target and count, checks the target, and starts fetching it (R194). -/
  | prepv (f : Fields)
  /-- `XFER`: Performs a uniform transfer of the whole warp, with the .uni, .any or .all decision over the predicate (R197). -/
  | xfer (f : Fields)
  /-- `XFERS`: Splits the active lanes, pushes a reconvergence entry and sends the predicated lanes to the prepared target (R201). -/
  | xfers (f : Fields)
  /-- `JOIN`: Switches to the pending path or pops the reconvergence stack, restores EXM and transfers (R201). -/
  | join (f : Fields)
  /-- `CALL`: Transfers through one branch-target register and writes the return offset into another (R198). -/
  | call (f : Fields)
  /-- `RET`: Transfers to the target held in a branch-target register (R198). -/
  | ret (f : Fields)
  /-- `LOOP`: Decrements the register's COUNT and transfers while COUNT was at least 2; otherwise clears COUNT and falls through (R199). -/
  | loop (f : Fields)
  /-- `HOLD`: Opens a region of n words that then issue at exact distances (R203). -/
  | hold (f : Fields)
  /-- `ICINV`: Sets STALE in the warp's own branch-target registers for a page and discards the core's fetched words of that page (R205). -/
  | icinv (f : Fields)
  /-- `SLEEP`: Delays eligibility of the warp's next word by imm cycles (R206). -/
  | sleep (f : Fields)
  /-- `EXIT`: Clears LIVE for the executing lanes; when unpredicated, also clears HELD and ends the warp (R207). -/
  | exit (f : Fields)
  /-- `TRAP`: Delivers a software trap of cause TRAPI to the supervisor's handler for the executing lanes (R208). -/
  | trap (f : Fields)
  /-- `IADD`: Integer add with wrap or saturation, per element (R149). -/
  | iadd (f : Fields)
  /-- `ISUB`: Integer subtract with wrap or saturation, per element (R149). -/
  | isub (f : Fields)
  /-- `IADDC`: 32-bit add with carry in and carry out into a pair (R150). -/
  | iaddc (f : Fields)
  /-- `ISUBB`: 32-bit subtract with borrow in and borrow out into a pair (R150). -/
  | isubb (f : Fields)
  /-- `IMUL`: Low part of an integer product, with wrap or saturation (R149). -/
  | imul (f : Fields)
  /-- `IMULH`: High w bits of the exact integer product (R149). -/
  | imulh (f : Fields)
  /-- `IMAD`: Integer multiply-add with wrap or saturation (R149). -/
  | imad (f : Fields)
  /-- `IMADW`: 32x32 multiply plus a 64-bit addend, giving a 64-bit pair (R151). -/
  | imadw (f : Fields)
  /-- `INEG`: Integer negation with wrap or saturation (R149). -/
  | ineg (f : Fields)
  /-- `IABS`: Integer absolute value with wrap or saturation (R149). -/
  | iabs (f : Fields)
  /-- `IMIN`: Integer minimum (R149). -/
  | imin (f : Fields)
  /-- `IMAX`: Integer maximum (R149). -/
  | imax (f : Fields)
  /-- `ICLAMP`: Integer clamp of a between b and c (R149). -/
  | iclamp (f : Fields)
  /-- `ICMP`: Integer compare per element, writing one result bit per element (R152). -/
  | icmp (f : Fields)
  /-- `ISET`: Integer compare per element, writing an all-ones or zero mask per element (R152). -/
  | iset (f : Fields)
  /-- `SEL`: Bitwise select of a and b under the mask c (R153). -/
  | sel (f : Fields)
  /-- `SHL`: Shift left (R154). -/
  | shl (f : Fields)
  /-- `SHR`: Logical shift right (R154). -/
  | shr (f : Fields)
  /-- `SAR`: Arithmetic shift right (R154). -/
  | sar (f : Fields)
  /-- `ROTL`: Rotate left (R154). -/
  | rotl (f : Fields)
  /-- `ROTR`: Rotate right (R154). -/
  | rotr (f : Fields)
  /-- `AND`: Bitwise and (R155). -/
  | andOp (f : Fields)
  /-- `OR`: Bitwise or (R155). -/
  | orOp (f : Fields)
  /-- `XOR`: Bitwise exclusive or (R155). -/
  | xorOp (f : Fields)
  /-- `ANDN`: Bitwise a and not b (R155). -/
  | andn (f : Fields)
  /-- `LOGT`: Any bitwise function of three inputs, taken from a truth table held in MOD (R156). -/
  | logt (f : Fields)
  /-- `POPC`: Counts the set bits (R157). -/
  | popc (f : Fields)
  /-- `CLZ`: Counts the leading zero bits (R157). -/
  | clz (f : Fields)
  /-- `FNSB`: Finds the position of the nth set bit, counted forwards or backwards (R158). -/
  | fnsb (f : Fields)
  /-- `BREV`: Reverses the bit order (R157). -/
  | brev (f : Fields)
  /-- `BFX`: Extracts a bit field with sign or zero extension (R159). -/
  | bfx (f : Fields)
  /-- `BFI`: Inserts a bit field into c (R159). -/
  | bfi (f : Fields)
  /-- `BPERM`: Permutes bytes of the concatenation of b above a (R160). -/
  | bperm (f : Fields)
  /-- `MOV`: Copies a register or pair unchanged (R161). -/
  | mov (f : Fields)
  /-- `MOVI`: Writes a widened immediate (R161). -/
  | movi (f : Fields)
  /-- `MOVX`: Reads a register named by a computed index, trapping REGRANGE when the index is out of range (R162). -/
  | movx (f : Fields)
  /-- `MOVXW`: Reads a register pair named by a computed index (R162). -/
  | movxw (f : Fields)
  /-- `MOVS`: Reads a 32-bit special register (.get), or writes a uniform value to EXM (.put) (R163). -/
  | movs (f : Fields)
  /-- `MOVSW`: Reads a 64-bit special register into a pair at one instant (R166). -/
  | movsw (f : Fields)
  /-- `CVT`: Converts element by element between types of one group (R168). -/
  | cvt (f : Fields)
  /-- `PACK`: Narrows two sources into one packed destination (R169). -/
  | pack (f : Fields)
  /-- `UNPK`: Widens one packed source into a pair (R169). -/
  | unpk (f : Fields)
  /-- `FADD`: Floating add, rounded once (R177). -/
  | fadd (f : Fields)
  /-- `FSUB`: Floating subtract, rounded once (R177). -/
  | fsub (f : Fields)
  /-- `FMUL`: Floating multiply, rounded once (R177). -/
  | fmul (f : Fields)
  /-- `FFMA`: Fused multiply-add, rounded once (R177). -/
  | ffma (f : Fields)
  /-- `FMIN`: Floating minimum that ignores NaN (R179). -/
  | fmin (f : Fields)
  /-- `FMAX`: Floating maximum that ignores NaN (R179). -/
  | fmax (f : Fields)
  /-- `FMINP`: Floating minimum that propagates NaN (R179). -/
  | fminp (f : Fields)
  /-- `FMAXP`: Floating maximum that propagates NaN (R179). -/
  | fmaxp (f : Fields)
  /-- `FCMP`: Floating compare per element, writing a bit mask (R180). -/
  | fcmp (f : Fields)
  /-- `FCLASS`: Tests each element against a class mask (R181). -/
  | fclass (f : Fields)
  /-- `FRND`: Rounds to an integral value in the same format (R182). -/
  | frnd (f : Fields)
  /-- `FSCALE`: Multiplies by 2^b and rounds (R183). -/
  | fscale (f : Fields)
  /-- `FEXP`: Extracts the exponent or the mantissa (R184). -/
  | fexp (f : Fields)
  /-- `FDIV`: Division on the slot's divide unit (R178). -/
  | fdiv (f : Fields)
  /-- `FSQRT`: Square root on the slot's divide unit (R178). -/
  | fsqrt (f : Fields)
  /-- `RCP`: Reciprocal, correctly rounded (R185). -/
  | rcp (f : Fields)
  /-- `RSQ`: Reciprocal square root (R185). -/
  | rsq (f : Fields)
  /-- `EX2`: Power of two (R185). -/
  | ex2 (f : Fields)
  /-- `LG2`: Base-2 logarithm (R185). -/
  | lg2 (f : Fields)
  /-- `FSIN`: Sine (R185). -/
  | fsin (f : Fields)
  /-- `FCOS`: Cosine (R185). -/
  | fcos (f : Fields)
  /-- `TANH`: Hyperbolic tangent (R185). -/
  | tanh (f : Fields)
  /-- `SIGM`: Logistic sigmoid (R185). -/
  | sigm (f : Fields)
  /-- `DOT4`: Exact dot product of four 8-bit elements into an accumulator (R187). -/
  | dot4 (f : Fields)
  /-- `DOT8`: Exact dot product of eight i4 elements into an accumulator (R187). -/
  | dot8 (f : Fields)
  /-- `DOTF8`: Scaled q8 dot product into an f32 accumulator, rounded once (R188). -/
  | dotf8 (f : Fields)
  /-- `DOTF4`: Scaled q4 dot product into an f32 accumulator, rounded once (R188). -/
  | dotf4 (f : Fields)
  /-- `DOT2H`: Two f16 or bf16 products added to an f32 accumulator (R189). -/
  | dot2h (f : Fields)
  /-- `SHFL`: Each lane reads source a from an indexed lane, with share filtering (R215). -/
  | shfl (f : Fields)
  /-- `SHFLX`: Xor-indexed shuffle (R215). -/
  | shflx (f : Fields)
  /-- `SHFLU`: Shuffle from a lower lane (R215). -/
  | shflu (f : Fields)
  /-- `SHFLD`: Shuffle from a higher lane (R215). -/
  | shfld (f : Fields)
  /-- `BCAST`: Broadcasts from a uniform lane, or from the first or last lane of the share set (R216). -/
  | bcast (f : Fields)
  /-- `VOTE`: All, any or uniform vote on one bit over the supplying set (R217). -/
  | vote (f : Fields)
  /-- `BALLOT`: Mask of supplying lanes whose bit n is set (R217). -/
  | ballot (f : Fields)
  /-- `MATCH`: Mask of supplying lanes whose value equals the reader's (R217). -/
  | matchOp (f : Fields)
  /-- `REDI`: Integer reduction over the supplying set (R218). -/
  | redi (f : Fields)
  /-- `REDF`: Floating sum over a fixed pairwise tree (R219). -/
  | redf (f : Fields)
  /-- `REDM`: Min, max, argmin or argmax reduction (R220). -/
  | redm (f : Fields)
  /-- `SCAN`: Inclusive or exclusive prefix over the supplying set (R222). -/
  | scan (f : Fields)
  /-- `COMPACT`: Packs the values of lanes whose keep flag is set (R223). -/
  | compact (f : Fields)
  /-- `LD`: Per-lane translated load (R116). -/
  | ld (f : Fields)
  /-- `ST`: Per-lane translated store (R116). -/
  | st (f : Fields)
  /-- `LDRO`: Load through the read-only cache (R116). -/
  | ldro (f : Fields)
  /-- `PREF`: Prefetches translations, and with .ro also lines, without faulting (R119). -/
  | pref (f : Fields)
  /-- `TLOCK`: Translates the lanes' addresses and locks the entries in the slot, opening the locked region (R120). -/
  | tlock (f : Fields)
  /-- `TFREE`: Releases the warp's locked entries and closes the region (R121). -/
  | tfree (f : Fields)
  /-- `LDS`: Scratchpad window load (R235). -/
  | lds (f : Fields)
  /-- `STS`: Scratchpad window store (R235). -/
  | sts (f : Fields)
  /-- `SPTAG`: Looks a key up in the window's tag entries (R236). -/
  | sptag (f : Fields)
  /-- `SPSET`: Writes a tag entry for a slot of the window (R237). -/
  | spset (f : Fields)
  /-- `SPCLR`: Clears one or all tag entries of the window (R238). -/
  | spclr (f : Fields)
  /-- `CPY`: Queues a per-lane copy between global or window ranges (R240). -/
  | cpy (f : Fields)
  /-- `CPYM`: Queues a per-lane multicast copy into the windows of selected cores of the cluster (R241). -/
  | cpym (f : Fields)
  /-- `CPYG`: Queues a per-lane gather of s bytes into the window (R240). -/
  | cpyg (f : Fields)
  /-- `CSCAT`: Queues a per-lane scatter of s bytes from the window (R240). -/
  | cscat (f : Fields)
  /-- `CSEAL`: Closes each lane's open copy batch and returns its number (R244). -/
  | cseal (f : Fields)
  /-- `CWAIT`: Waits for the completion of sealed batches (R245). -/
  | cwait (f : Fields)
  /-- `RNG`: Philox random words from a counter and a key (R369). -/
  | rng (f : Fields)
  /-- `TRNODE`: Reads a draft-template node's presence, depth and parent under a prune bitmap (R367). -/
  | trnode (f : Fields)
  /-- `PGSPEC`: Makes a page speculative with a committed copy (R372). -/
  | pgspec (f : Fields)
  /-- `PGCMT`: Commits a speculative page's present contents (R372). -/
  | pgcmt (f : Fields)
  /-- `PGDROP`: Returns a speculative page to its committed contents (R372). -/
  | pgdrop (f : Fields)
  /-- `ATOM`: Global atomic operation that returns the old value (R267). -/
  | atom (f : Fields)
  /-- `ATOMS`: Scratchpad atomic operation that returns the old value (R267). -/
  | atoms (f : Fields)
  /-- `CAS`: Global compare-and-swap (R267). -/
  | cas (f : Fields)
  /-- `CASS`: Scratchpad compare-and-swap (R267). -/
  | cass (f : Fields)
  /-- `RED`: Global atomic operation without a result (R267). -/
  | red (f : Fields)
  /-- `FENCE`: Orders the executing lanes' accesses at a scope (R270). -/
  | fence (f : Fields)
  /-- `BAR`: Arrives at a group barrier and waits for the phase to complete (R274). -/
  | bar (f : Fields)
  /-- `BARA`: Arrives at a group barrier and returns a phase token (R274). -/
  | bara (f : Fields)
  /-- `BARW`: Waits until the phase named by a token has completed (R274). -/
  | barw (f : Fields)
  /-- `NBAR`: Sync, arrive or wait on a named barrier of the cluster (R275). -/
  | nbar (f : Fields)
  /-- `CWT`: Waits until a memory word reaches a target (R280). -/
  | cwt (f : Fields)
  /-- `BITSET`: Sets bits of a group's completion bitmap and publishes earlier accesses (R279). -/
  | bitset (f : Fields)
  /-- `BITWAIT`: Waits until the named bits of a group's bitmap are set (R279). -/
  | bitwait (f : Fields)
  /-- `GJOIN`: Adds the warp to a group (R276). -/
  | gjoin (f : Fields)
  /-- `GLEAVE`: Removes the warp from a group (R276). -/
  | gleave (f : Fields)
  /-- `MRES`: Creates a matrix reservation for a group on the core (R340). -/
  | mres (f : Fields)
  /-- `MREL`: Releases a matrix reservation (R341). -/
  | mrel (f : Fields)
  /-- `MLDB`: Loads a B tile into macro planes (R342). -/
  | mldb (f : Fields)
  /-- `MLDA`: Stages A rows into the row buffer (R342). -/
  | mlda (f : Fields)
  /-- `MMA`: Multiplies the row buffer by a B tile and accumulates into a tile (R343). -/
  | mma (f : Fields)
  /-- `MSPR`: Prunes a B tile two-of-four in place (R344). -/
  | mspr (f : Fields)
  /-- `MZERO`: Clears an accumulator tile (R343). -/
  | mzero (f : Fields)
  /-- `MMOV`: Reads accumulator tile elements into lanes (R345). -/
  | mmov (f : Fields)
  /-- `MPUT`: Writes lane data into accumulator tile elements (R345). -/
  | mput (f : Fields)
  /-- `MSTAT`: Reads, or reads and clears, the group's matrix status word (R346). -/
  | mstat (f : Fields)
  /-- `QSBIND`: Binds a column to the selection unit (R294). -/
  | qsbind (f : Fields)
  /-- `QSRANK`: Computes W and sets the rank to reach (R296). -/
  | qsrank (f : Fields)
  /-- `QSSTEP`: Walks the next p bit planes (R297). -/
  | qsstep (f : Fields)
  /-- `QSRUN`: Walks every remaining plane (R297). -/
  | qsrun (f : Fields)
  /-- `QSMASK`: Clears or sets candidates (R295). -/
  | qsmask (f : Fields)
  /-- `QSRES`: Returns the answer image and index and releases the unit (R298). -/
  | qsres (f : Fields)
  /-- `KEYF`: Computes the monotone integer image (R300). -/
  | keyf (f : Fields)
  /-- `KEYR`: Computes the inverse of the monotone image (R300). -/
  | keyr (f : Fields)
  /-- `TSND`: Sends a stamped frame on a rink port (R414). -/
  | tsnd (f : Fields)
  /-- `TRCV`: Reads the frame due this cycle from a port's delivery buffer (R417). -/
  | trcv (f : Fields)
  /-- `ATC`: Holds the warp's next word until a stated TASKC (R413). -/
  | atc (f : Fields)
  /-- `DRFT`: Starts a phase correction spread over 4,096 schedule cycles (R412). -/
  | drft (f : Fields)
  /-- `TRET`: Ends the handler, releases the held warp and schedules replays (R383). -/
  | tret (f : Fields)
  /-- `PGMAP`: Maps a first-touch page with a zeroed pool frame (R384). -/
  | pgmap (f : Fields)
  /-- `PGUNMAP`: Unmaps a level-4 leaf, to invalid or to first touch (R385). -/
  | pgunmap (f : Fields)
  /-- `EJECT`: Ejects the ASIDs of the held warp's lanes into parked records (R386). -/
  | eject (f : Fields)
  /-- `SCRUB`: Replaces a paddock's keys, clears its state and zeroes its SRAM share (R437). -/
  | scrub (f : Fields)
  /-- `MEXT`: Extends, reads or clears a measurement register (R439). -/
  | mext (f : Fields)
  /-- `SHAB`: Computes SHA-512 of a buffer (R441). -/
  | shab (f : Fields)
  /-- `EDSIGN`: Makes an Ed25519 signature with the device or alias key, or verifies one (R442). -/
  | edsign (f : Fields)
  /-- `LOCKIF`: Moves a paddock's TDISP interface through lock, run, stop or error (R443). -/
  | lockif (f : Fields)
  /-- `SLOT_ISSUE`: In each unfrozen cycle the slot scheduler picks one eligible word to issue (R359). -/
  | slotIssue (core slot : Nat)
  /-- `PAGE_WALK_COMPLETE`: A page walk ends at a present leaf or at a fault result (R98). -/
  | pageWalkComplete (op : Nat) (lanes : Lanes)
  /-- `PORT_STAMP`: A store or atomic is stamped at its die's fabric port and enters the outbound table (R251). -/
  | portStamp (op : Nat) (lanes : Lanes)
  /-- `FRONTIER_BROADCAST`: A die broadcasts its frontier of applied accesses (R252). -/
  | frontierBroadcast (die : Nat)
  /-- `HOME_APPLY`: A home applies an access once it is applicable and counts the issuer's flag down (R252). -/
  | homeApply (op : Nat) (lane : Nat)
  /-- `LOAD_COMPLETE`: A load's value lands, with the clock merge of R252 (R253). -/
  | loadComplete (op : Nat) (lanes : Lanes)
  /-- `COPY_SOURCE_READ_DONE`: Every lane's copy has read its source, and the copy's flag counts down (R243). -/
  | copySourceReadDone (op : Nat)
  /-- `COPY_DEST_WRITE`: The copy engine writes destination words in bank cycles that no lane access uses (R242). -/
  | copyDestWrite (op lane off count : Nat)
  /-- `BARRIER_ARRIVAL_APPLY`: An arrival, join or leave is applied at the group's state (R273). -/
  | barrierArrivalApply (op : Nat)
  /-- `BARRIER_NOTIFY`: A completion notification reaches a waiting member, and its flag counts down after the clock merge (R273). -/
  | barrierNotify (op : Nat)
  /-- `MATRIX_STATUS_UPDATE`: A reporting command ORs its report into the status word at its home (R328). -/
  | matrixStatusUpdate (cmd : Nat)
  /-- `PAGE_OP_APPLY`: A page operation is applied atomically at the frame's home (R373). -/
  | pageOpApply (op frame : Nat)
  /-- `SHARE_RECOMPUTE`: After a revocation, a resident warp's share relation is recomputed at a boundary (R70). -/
  | shareRecompute (wid : Nat)
  /-- `PREEMPT_REQUEST`: Issue stops in the cluster's warps in the cycle after the request (R390). -/
  | preemptRequest (p lid clid : Nat)
  /-- `CLUSTER_RESTORE`: A saved cluster is placed again, with windows, units, replay entries, locks and waits restored (R393). -/
  | clusterRestore (p idx : Nat)
  /-- `CLUSTER_PLACE`: When room frees, the head cluster of the most urgent placement queue is placed (R357). -/
  | clusterPlace (p : Nat)
  /-- `DOORBELL_WRITE`: The host writes the newest SEQ to DOORBELL (R352). -/
  | doorbellWrite (at_ : PageAt) (seq : DWord)
  /-- `RING_ENTRY_READ`: The device reads the next ring entry, checks its SEQ and tag, and accepts it or discards it, halts or errors (R352). -/
  | ringEntryRead (p : Nat)
  /-- `COMPLETION_RECORD_WRITE`: The next completion record is written in SEQ order once there is room, and DONESEQ advances (R353). -/
  | completionRecordWrite (p : Nat)
  /-- `CRHEAD_WRITE`: The host advances CRHEAD as it consumes records (R353). -/
  | crheadWrite (at_ : PageAt) (seq : DWord)
  /-- `REGISTER_WRITE`: A write to a register that has no row of its own, under its access code (R8). -/
  | registerWrite (at_ : PageAt) (off : Nat) (val : DWord)
  /-- `LAUNCH`: Host command that starts a launch from its descriptor (R355). -/
  | launch (p seq : Nat) (payload : BitVec 256)
  /-- `YARDPOST`: Host command that posts a lane request to a yard (R72). -/
  | yardpost (p seq : Nat) (payload : BitVec 256)
  /-- `REKEY`: Installs the session's next ring key and restarts the sequence at 1 (R352). -/
  | rekey (p seq : Nat) (payload : BitVec 256)
  /-- `PDCREATE`: Creates a paddock with a new world (R428). -/
  | pdcreate (p seq : Nat) (payload : BitVec 256)
  /-- `PDDESTROY`: Scrubs a paddock and returns its slices to the parent (R428). -/
  | pddestroy (p seq : Nat) (payload : BitVec 256)
  /-- `PDBUDGET`: Replaces a paddock's budgets (R428). -/
  | pdbudget (p seq : Nat) (payload : BitVec 256)
  /-- `YARDCREATE`: Creates a yard from a KIND 2 descriptor (R455). -/
  | yardcreate (p seq : Nat) (payload : BitVec 256)
  /-- `YARDDESTROY`: Reports the yard's pending requests failed and removes the yard (R455). -/
  | yarddestroy (p seq : Nat) (payload : BitVec 256)
  /-- `TMPLSET`: Checks a draft template and writes it whole (R365). -/
  | tmplset (p seq : Nat) (payload : BitVec 256)
  /-- `SHGRANT`: Enters or revokes one side of a share grant (R67). -/
  | shgrant (p seq : Nat) (payload : BitVec 256)
  /-- `PRESUME`: Resumes a parked record as a warp of its own (R396). -/
  | presume (p seq : Nat) (payload : BitVec 256)
  /-- `PREEMPT`: Saves the named resident clusters of a launch (R397). -/
  | preempt (p seq : Nat) (payload : BitVec 256)
  /-- `CRESUME`: Queues a saved cluster for restore, with a new TSTART for a timed launch (R398). -/
  | cresume (p seq : Nat) (payload : BitVec 256)
  /-- `XMAP`: Scans an image and maps it executable, returning a handle (R61). -/
  | xmap (p seq : Nat) (payload : BitVec 256)
  /-- `XUNMAP`: Unmaps an executable image and marks prepared targets stale (R61). -/
  | xunmap (p seq : Nat) (payload : BitVec 256)
  /-- `RKFORM`: Measures the rink links and forms the rink, extending MEAS2 (R456). -/
  | rkform (p seq : Nat) (payload : BitVec 256)
  /-- `HTEST`: Runs the quick health test of a paddock (R457). -/
  | htest (p seq : Nat) (payload : BitVec 256)
  /-- `HTEST_COMPLETE`: The health test ends: pages retired, paddock scrubbed, MEAS3 extended, HTSTAT set (R457). -/
  | htestComplete (p : Nat) (report : BitVec 512)
  /-- `BGZERO_LINE`: The background pass rewrites an old-generation line as zeros (R438). -/
  | bgzeroLine (p line : Nat)
  /-- `GET_CAPABILITIES`: SPDM capabilities exchange (R444). -/
  | getCapabilities (ver : BitVec 8) (ok : Bool)
  /-- `NEGOTIATE_ALGORITHMS`: SPDM algorithm negotiation (R444). -/
  | negotiateAlgorithms (ver : BitVec 8) (ok : Bool)
  /-- `GET_CERTIFICATE`: Returns the slot 0 certificate chain (R444). -/
  | getCertificate (ver : BitVec 8) (slot : Nat)
  /-- `CHALLENGE`: SPDM challenge signed with the alias key (R444). -/
  | challenge (ver : BitVec 8) (slot : Nat)
  /-- `GET_MEASUREMENTS`: Returns signed measurement blocks carrying MEAS0 to MEAS7 (R444). -/
  | getMeasurements (ver : BitVec 8) (block : Nat)
  /-- `KEY_EXCHANGE`: Starts a session with P-384 DHE (R444). -/
  | keyExchange (ver : BitVec 8) (iface : Nat)
  /-- `FINISH`: Completes the session handshake and binds the ring key (R444). -/
  | finish (ver : BitVec 8) (session : Nat)
  /-- `KEY_UPDATE`: Updates the session keys (R444). -/
  | keyUpdate (ver : BitVec 8) (session : Nat)
  /-- `SPDM_DECRYPT_FAIL`: A secured record that fails decryption ends the session (R445). -/
  | spdmDecryptFail (session : Nat)
  /-- `LOCK_INTERFACE_REQUEST`: TDISP request that locks the interface through LOCKIF .lock (R433). -/
  | lockInterfaceRequest (session : Nat)
  /-- `START_INTERFACE_REQUEST`: TDISP request that moves a locked interface to RUN (R433). -/
  | startInterfaceRequest (session : Nat)
  /-- `STOP_INTERFACE_REQUEST`: TDISP request that scrubs the paddock and returns it to CONFIG_UNLOCKED (R433). -/
  | stopInterfaceRequest (session : Nat)
  /-- `HOST_MEMORY_WRITE`: A host write through BAR2 to device or paddock memory (R447). -/
  | hostMemoryWrite (via : Via) (addr : Nat) (bytes : List (BitVec 8))
  /-- `HOST_MEMORY_READ`: A host read through BAR2, served at the line's home (R447). -/
  | hostMemoryRead (via : Via) (addr len : Nat)
  /-- `FLR_VF`: A function-level reset of a virtual function resets and scrubs its paddock (R449). -/
  | flrVf (p : Nat)
  /-- `RING_RESTART`: After a reset, the accepted but unreported commands are reported aborted by reset (R363). -/
  | ringRestart (p : Nat)
  /-- `POWER_GOOD`: Power good starts the boot ROM, firmware verification, training and measurement (R454). -/
  | powerGood (rootImage : List (BitVec 8)) (others : List (List (BitVec 8))) (fail : Nat)
  /-- `THROTTLE_START`: Excess power or temperature freezes cores outside timed mode (R459). -/
  | throttleStart (core : Nat)
  /-- `THROTTLE_END`: The throttle clears when both conditions clear (R459). -/
  | throttleEnd (core : Nat)
  /-- `SKID_ANNOUNCE_RECEIVE`: A flooded skid announcement arrives at a member (R419). -/
  | skidAnnounceReceive (port origin stamp index : Nat) (planned : Bool)
  /-- `UNPLANNED_SKID`: A freeze cause on a timed core starts a skid of the whole member (R418). -/
  | unplannedSkid (core : Nat)
  /-- `TIMING_FLIT_RECEIVE`: A timing flit updates the phase offset and the skew check against the neighbour (R410). -/
  | timingFlitReceive (port member count taken phase : Nat)
  /-- `RINK_FRAME_ARRIVE`: A frame arrives on a rink port and enters the delivery buffer or awaits relay (R416). -/
  | rinkFrameArrive (port : Nat) (frame : BitVec 1152)
  /-- `TIMING_FAULT`: A member finds a timing fault, records RKFAULT and floods an abort (R422). -/
  | timingFault (cause tstart : Nat)
  /-- `TIMING_ABORT_RECEIVE`: An abort reaches a member, which traps the task's warps and discards its frames (R422). -/
  | timingAbortReceive (port member cause tstart : Nat)
  /-- `RINK_LINK_LOST`: A rink link is lost, a timing fault of cause LINK (R422). -/
  | rinkLinkLost (port : Nat)
  /-- `RINK_PREEMPT_ANNOUNCE`: A timed pre-emption announcement is flooded with stop cycle S (R423). -/
  | rinkPreemptAnnounce (p lid : Nat)
  /-- `NQCTL_WRITE`: A write to NQCTL enables or configures a queue pair, refusing a duplicate binding (R451). -/
  | nqctlWrite (at_ : PageAt) (q : Nat) (val : DWord)
  /-- `ETH_SEND_DESCRIPTOR`: The device sends the frame of the next send descriptor and advances CONS (R452). -/
  | ethSendDescriptor (p q : Nat)
  /-- `ETH_FRAME_RECEIVE`: A received frame is steered by VLAN to a queue pair and written, or dropped (R453). -/
  | ethFrameReceive (port : Nat) (fcsOk : Bool) (vlan : Option Nat) (bytes : List (BitVec 8))
  /-- `PORT_LINK_DOWN`: A scale-out port's link goes down, allowing a mode change (R450). -/
  | portLinkDown (port : Nat)
  /-- `PORT_LINK_UP`: A scale-out port's link comes up in its configured mode (R450). -/
  | portLinkUp (port : Nat)
  /-- `SEQUENCE_FORK`: Obvik forks a sequence from a parent ASID to a child ASID, and the device maps copy-on-write views of the committed contents of the named speculative pages and writes the child's stream records (R375). -/
  | sequenceFork (p parent child : Nat) (f : Word) (pages : List Nat) (streams : List (Nat × Nat))
  /-- `DIE_RESET`: The firmware resets one die only, which counts as a paddock reset of every paddock with a slice on that die, and the other header copy keeps each ring header (R466). -/
  | dieReset (die : Nat)
  /-- `FLOW_CONTROL_FRAME_RECEIVE`: An IEEE 802.1Qbb priority flow-control frame from the link partner pauses or releases a priority, and the send queues of that priority wait or resume (R452). -/
  | flowControlFrameReceive (port prio : Nat) (pause : Bool)
  /-- `SPDM_UNSUPPORTED_REQUEST`: An SPDM request whose code the responder does not support is answered with ERROR UnsupportedRequest and changes no state (R445). -/
  | spdmUnsupportedRequest (code : BitVec 8)
  /-- `PREEMPTION_ANNOUNCEMENT_RECEIVE`: A flooded pre-emption announcement reaches a rink member, which learns the stop cycle S of the timed task (R423). -/
  | preemptionAnnouncementReceive (port tstart stop : Nat)
  /-- `FIXED_RESULT_LAND`: A fixed-class result lands lambda cycles after issue and counts its flag down (R51). -/
  | fixedResultLand
  /-- `WAIT_FLAG_COUNT_DOWN`: A class V instruction's flag counts down at completion, or in the cycle after issue when no lane executes it (R41). -/
  | waitFlagCountDown
  /-- `DIVIDE_UNIT_ACCEPT`: The divide unit accepts a waiting FDIV or FSQRT when it becomes free (R178). -/
  | divideUnitAccept
  /-- `DIVIDE_COMPLETE`: A divide result lands 28 or 56 cycles after acceptance (R178). -/
  | divideComplete
  /-- `TARGET_FETCH_READY`: A prepared target becomes eligible 32 cycles after its preparation (R195). -/
  | targetFetchReady
  /-- `HOLD_OVERRUN`: A region that exceeds 512 wall cycles raises HOLDOVR at the word after it (R204). -/
  | holdOverrun
  /-- `HOLD_DEFERRED_TRAP`: A fault or trap found inside a HOLD region is taken after the region's last word (R465). -/
  | holdDeferredTrap
  /-- `WARP_RETIRE`: A warp with no remaining LIVE or HELD lane retires once its outstanding accesses complete, releasing its slots, groups and windows (R64). -/
  | warpRetire
  /-- `SCRATCH_ACCESS_CYCLE`: Scratchpad accesses of the core are served together 8 cycles after issue, in the order of R230 (R229). -/
  | scratchAccessCycle
  /-- `CORE_FREEZE_END`: A core's freeze ends, and completions that arrived meanwhile take effect (R362). -/
  | coreFreezeEnd
  /-- `TLB_LEASE_EXPIRE`: A TLB entry's lease runs out and the entry is never used again (R100). -/
  | tlbLeaseExpire
  /-- `UNMAP_COMPLETE`: An unmap completes once every earlier lease has run out by its own count (R101). -/
  | unmapComplete
  /-- `PARKED_RECORD_WRITE`: The parked record is written once the ejected lanes' earlier accesses have completed (R389). -/
  | parkedRecordWrite
  /-- `HANDLER_START`: A handler warp is formed for the held in-place faults or for a TRAPI (R381). -/
  | handlerStart
  /-- `HANDLER_FAIL`: A handler that faults or ends without TRET ejects the held lanes and counts HNDFAIL (R387). -/
  | handlerFail
  /-- `FAULT_REPLAY`: The faulting access of each held lane is replayed 4 cycles after TRET (R383). -/
  | faultReplay
  /-- `PRIVATE_SLOT_RETRY`: A warp waiting for private slots retries the slot allocation when room frees, or every 800,000 cycles (R93). -/
  | privateSlotRetry
  /-- `SELECT_COMMAND_START`: The selection unit starts the holder's next queued command (R302). -/
  | selectCommandStart
  /-- `SELECT_COMMAND_COMPLETE`: A selection command finishes after its cost, and its flag counts down (R302). -/
  | selectCommandComplete
  /-- `MATRIX_COMMAND_START`: A reservation's command starts once the earlier commands have released what it needs (R331). -/
  | matrixCommandStart
  /-- `MATRIX_COMMAND_COMPLETE`: A matrix command completes after its cost (R332). -/
  | matrixCommandComplete
  /-- `QUANTUM_EXPIRE`: A context that has run for one quantum while another waits triggers a pre-emption request (R426). -/
  | quantumExpire
  /-- `TIMED_LAUNCH_START`: The warps of a timed launch issue their first words when RINKC equals TSTART (R361). -/
  | timedLaunchStart
  /-- `XMAP_LEASE_DRAINED`: After the longest lease has passed, XMAP scans the code and sets EX (R61). -/
  | xmapLeaseDrained
  /-- `SCRUB_COMPLETE`: The SRAM share is zeroed, and the scrub's flag counts down with status 0 (R437). -/
  | scrubComplete
  /-- `BGZERO_PASS_END`: The background pass ends, and BGZERO clears (R438). -/
  | bgzeroPassEnd
  /-- `RINK_FRAME_EXPIRE`: A frame is removed at the end of its due cycle, and counted if unread (R416). -/
  | rinkFrameExpire
  /-- `RINK_FRAME_RELAY`: A frame is forwarded on its relay port at its due cycle (R416). -/
  | rinkFrameRelay
  /-- `CWT_PERIODIC_EVAL`: A counted-wait condition is re-evaluated at least every 4,096 cycles (R280). -/
  | cwtPeriodicEval
  /-- `YARD_FORM_TIMEOUT`: The yard forms a warp when the oldest pending request has waited 2 µs (R73). -/
  | yardFormTimeout
  /-- `BATCH_COMPLETE`: A sealed batch completes when every destination byte is written, and the CWAITs on it count down (R244). -/
  | batchComplete
  /-- `CORE_SEAL`: A core seals once its warps' outstanding operations have quiesced (R391). -/
  | coreSeal
  /-- `CLUSTER_SAVE`: The cluster context is written once the last core has sealed, and its resources are released (R391). -/
  | clusterSave
  /-- `RINK_START_FLIT`: The reference's start flit reaches a member, which sets RINKC to 0 (R456). -/
  | rinkStartFlit (port : Nat := 8) (fails : Bool := false)
  /-- `GET_VERSION`: SPDM request that returns VERSION and ends every session (R445). -/
  | getVersion
  /-- `PCIE_CONFIG_REQUEST`: A configuration request, answered with retry status before STAGE 4 (R454). -/
  | pcieConfigRequest
  /-- `DEVICE_RESET`: A RESETCTL write or an FLR of function 0 resets the device, keeping the ring headers (R466). -/
  | deviceReset
  /-- `BOOT_READY`: STAGE 4 is reached, and saved ring headers are restored and restarted (R454). -/
  | bootReady
  /-- `POWER_LOSS`: A loss of power without a trip loses all state (R466). -/
  | powerLoss
  /-- `THERMAL_TRIP`: A junction at 105 °C saves ring headers and removes power (R460). -/
  | thermalTrip
  /-- `PLANNED_SKID_ANNOUNCE`: A member in timed mode announces a planned skid to shed load (R420). -/
  | plannedSkidAnnounce
  /-- `SKID_TAKE`: A member takes a skid directly after schedule cycle s + 640h (R419). -/
  | skidTake
  /-- `SKID_END`: A 256-cycle skid ends (R418). -/
  | skidEnd
  /-- `DRIFTOBS_REFRESH`: DRIFTOBS is refreshed at every schedule cycle that is a multiple of 256 (R410). -/
  | driftobsRefresh
  /-- `DRFT_PHASE_STEP`: A scheduled 1/64-cycle phase step of a DRFT is applied (R412). -/
  | drftPhaseStep
  /-- `TIMED_STOP`: After schedule cycle S no warp of the task issues, and clusters and frames are saved (R423). -/
  | timedStop
  deriving DecidableEq, Repr

end Sys2Proof
end

