-- ==== Sys2Proof/Machine/State.lean ====
section
/-! DEFINITION. The state of the part: plain data, everything the spec gives the machine, and the model's own fields
(log 3, 5), which are named as such. Widths follow the spec where software sees the value as bits. -/
namespace Sys2Proof.Machine
open Sys2Proof

/-! ## Warps -/

/-- R80, R381: how a warp came to be. A warp resumed from a parked record keeps the kind of the warp it left. -/
inductive Kind where
  | grid | persist | yard | handler
  deriving DecidableEq, Repr, Inhabited

/-- R191: a branch-target register, with the unfrozen cycle of its last preparation (R195). -/
structure BReg where
  valid  : Bool := false
  stale  : Bool := false
  count  : BitVec 16 := 0
  target : BitVec 32 := 0
  prep   : Nat := 0
  deriving DecidableEq, Repr, Inhabited

/-- R200: an entry of the reconvergence stack. -/
structure StackEntry where
  saved   : Lanes := 0
  pend    : Lanes := 0
  joinoff : BitVec 28 := 0
  resume  : BitVec 28 := 0
  phase   : Bool := false
  deriving DecidableEq, Repr, Inhabited

/-- R272: a member slot: the group and the phase of the warp's last arrival at it; and, for the group's named barriers,
the last arrival at each (R275). -/
structure Member where
  group   : Nat := 0
  lastarr : Option Word := none
  nbarr   : List (Nat × Word) := []
  deriving DecidableEq, Repr, Inhabited

/-- R400: a translation a warp has locked: ASID, page (address bits [56:18], lower bits of a larger page zero) and size. -/
structure LockKey where
  asid : Nat := 0
  page : Nat := 0
  size : Nat := 0
  deriving DecidableEq, Repr, Inhabited

/-- R51, R52: results on their way to the registers: the unfrozen cycle of landing, whether they are of class V and so land after the
fixed-class ones of their cycle, the writes, a write of EXM (R163), and the flag that counts down. -/
structure Landing where
  due    : Nat := 0
  late   : Bool := false
  writes : List (Nat × Word) := []
  exm    : Option Word := none
  flag   : Option Nat := none
  deriving DecidableEq, Repr, Inhabited

/-- R203, R204: an open HOLD region: the words still to issue, the wall cycle of the HOLD, and the lanes in which later
words do not act (R465). -/
structure Region where
  left   : Nat := 0
  opened : Nat := 0
  last   : Nat := 0            -- wall cycle of its last word
  doomed : Lanes := 0
  deriving DecidableEq, Repr, Inhabited

/-- R105, R379: a lane's fault: its cause code, the address, whether it was a write and a first touch. -/
structure LaneFault where
  lane  : Nat := 0
  code  : Nat := 0
  va    : DWord := 0
  write : Bool := false
  ft    : Bool := false
  deriving DecidableEq, Repr, Inhabited

/-- A warp (R63, R74, R76 to R88, R191 to R204, R244, R261, R287, R379). Registers are keyed by 32 r + lane; values of lanes
by the lane. -/
structure Warp where
  id      : Nat := 0
  kind    : Kind := .grid
  pdk     : Nat := 0
  launch  : Nat := 0              -- the launch record it belongs to (R353)
  yard    : Option Nat := none
  image   : Nat := 0              -- handle (R61)
  n       : Nat := 1              -- declared count (R76)
  core    : Nat := 0
  slot    : Nat := 0
  index   : Nat := 0              -- WARPID [5:0] (R87)
  cls     : Nat := 0              -- priority class (R85)
  age     : Nat := 0              -- R74, R85
  lid     : Word := 0             -- launch identifier, internal (R402)
  clid    : Word := 0
  clshape : Word := 0
  pc      : DWord := 0
  exm     : Lanes := 0
  live    : Lanes := 0
  park    : Lanes := 0
  held    : Lanes := 0
  asid    : SMap 16 := []
  share   : SMap 32 := []         -- the grant part of the share relation held for the warp (R68)
  priv    : SMap 32 := []         -- private slot plus one; 0 for none (R93)
  privKB  : Nat := 0
  regs    : SMap 32 := []
  flags   : SMap 6 := []
  bregs   : List BReg := []       -- b0 to b7; a missing one reads as all zero
  stack   : List StackEntry := [] -- the top first
  pflags  : SMap 6 := []          -- the flags, LIVE, PARK and b0 to b7 at the end of the previous cycle (R40, R89, R196, R212)
  plive   : Lanes := 0
  ppark   : Lanes := 0
  pbregs  : List BReg := []
  pexm    : Lanes := 0            -- EXM and QSSTAT then (R89, R212)
  pqsstat : Word := 0
  members : List Member := []     -- at most four (R83)
  batch   : SMap 32 := []
  qsstat  : Word := 0
  lockOpen : Bool := false
  locks   : List LockKey := []
  region  : Option Region := none
  reopen  : Nat := 0              -- words of a region left at a resume point (R465)
  pend    : List Landing := []
  last    : Option Nat := none    -- unfrozen cycle of the last issue; none before the first (R40)
  ready   : Nat := 0              -- unfrozen cycle before which no word issues (R195, R206, R381)
  target  : Bool := false         -- the next word is a transfer's target or a pause's end, exact in timed mode (R361)
  atc     : Option DWord := none  -- a pending ATC target (R413)
  waitcnt : Nat := 0              -- R359
  passed  : Bool := false         -- it was eligible when its slot chose another warp in this cycle (R359)
  stopped : Bool := false         -- issue stopped by a pre-emption or a timed stop (R390, R423)
  timed   : Bool := false
  tstart  : DWord := 0
  det     : Bool := false
  phase   : Word := 0             -- P (R261)
  heldBy  : Option Nat := none    -- the handler that holds this warp (R381)
  holds   : Option Nat := none    -- the warp this handler serves
  handop  : Option Nat := none    -- the operation whose lanes the handler repairs; none for a TRAPI
  trapEnd : Bool := false         -- an unpredicated TRAP: TRET ends the held warp (R208)
  tmask   : Lanes := 0            -- TRAPMASK
  tcause  : SMap 32 := []         -- TRAPCAUSE by lane
  tva     : SMap 64 := []         -- TRAPVA by lane
  epc     : SMap 64 := []         -- EPC by lane
  ended   : Bool := false         -- an unpredicated EXIT or a warp trap has ended it (R207, R380)
  clno    : Nat := 0              -- its cluster in the launch record
  gone    : Bool := false         -- it has retired and its cluster still keeps its slot (R358)
  rooms   : List (Nat × Nat) := [] -- its rooms in the context directory, by ASID for a yard warp, else by 0 (R394)
  deriving DecidableEq, Repr, Inhabited

/-! ## Operations in flight -/

/-- R267: the atomic operations. -/
inductive AtomOp where
  | add | and | or | xor | min | max | xchg
  deriving DecidableEq, Repr, Inhabited

/-- R254, R270: scopes. -/
inductive Scope where
  | lane | warp | cluster | die | device | system
  deriving DecidableEq, Repr, Inhabited

/-- R372: page operations. -/
inductive PageOp where
  | spec | cmt | drop
  deriving DecidableEq, Repr, Inhabited

/-- What an operation of class V in flight does (R51, R55). -/
inductive OpKind where
  | load (ro : Bool)
  | store
  | atomic (op : AtomOp) (result : Bool)
  | cas
  | pref (ro : Bool)
  | tlock
  | fence (scope : Scope)
  | arrive (nb : Bool) (which : Nat) (waits : Bool)   -- BAR, BARA, NBAR .sync and .arr
  | await (nb : Bool) (which : Nat) (token : Word)     -- BARW, NBAR .wait, and an applied BAR
  | join (group : Nat)
  | leave (group : Nat)
  | bitset (group : Nat)
  | bitwait (group : Nat)
  | cwt
  | copy (form : Nat)                                  -- 0 CPY, 1 CPYM, 2 CPYG, 3 CSCAT
  | cwait (all : Bool)
  | divide (root : Bool)
  | pgmap
  | pgunmap (ft : Bool)
  | page (op : PageOp)
  | matrix (cmd : Nat)
  | select
  | send (port : Nat)
  | receive (port : Nat)
  | scrub (p : Nat)
  | root (what : Nat)                                  -- 0 MEXT, 1 SHAB, 2 EDSIGN
  | simple                                             -- completes in the cycle its result lands, with nothing left to do
  deriving DecidableEq, Repr, Inhabited

/-- Where a lane's access stands (R105, R251 to R253). -/
inductive Stage where
  | walk        -- its translation is not found yet
  | ready       -- translated; not yet at its port or home
  | stamped     -- a store or atomic at its die's port (R251)
  | left        -- a stamped store whose lane has been ejected: its home still applies it (R251), and no flag waits for it (R15)
  | done        -- performed; its value, if any, is in `old`
  | touch       -- a first-touch fault waiting for the handler (R106)
  | gone        -- ejected, cancelled or ended by a fault (R15, R107)
  deriving DecidableEq, Repr, Inhabited

/-- One lane's access: its address, the translation found, its operands, and the value read. -/
structure Acc where
  lane   : Nat := 0
  asid   : Nat := 0
  stage  : Stage := .walk
  addr   : DWord := 0          -- the pointer or offset
  va     : Nat := 0            -- the virtual address translated (of the arena, for a private pointer)
  pa     : Nat := 0            -- device-physical address, or scratchpad byte
  pad    : Bool := false       -- the location is a scratchpad byte
  addr2  : Nat := 0            -- the second range of a copy
  pad2   : Bool := false
  len    : Nat := 0
  spec   : Bool := false       -- the leaf has SPEC = 1
  data   : BitVec 128 := 0
  cmp    : DWord := 0
  old    : BitVec 128 := 0
  batch  : Nat := 0            -- the batch a copy belongs to
  moved  : List (Nat × Nat) := []       -- destination words of a copy written: core, offset
  srcs   : List (Nat × BitVec 33) := [] -- words of a copy read: offset, poison bit and word
  dpages : List (Nat × Nat × Bool) := [] -- translations of a copy's destination: page, device-physical base, SPEC
  spages : List (Nat × Nat × Bool) := [] -- translations of a copy's source, or of a page operation's frames
  stamp  : SMap 48 := []
  since  : Option Nat := none           -- the wall cycle in which its home could first apply it (R252)
  put    : Nat := 0                     -- bytes of a vector store that its home has applied (R255)
  fault  : Option LaneFault := none     -- the first-touch fault that waits for the handler (R106)
  deriving DecidableEq, Repr, Inhabited

/-- An operation in flight. `before` is the warp as it stood before the instruction issued (R16). -/
structure Op where
  id     : Nat := 0
  wid    : Nat := 0
  kind   : OpKind := .simple
  ty     : Ty := .i32
  var    : Nat := 0
  dst    : Nat := 0
  nregs  : Nat := 0            -- lane registers written from dst
  bytes  : Nat := 0            -- access size
  flag   : Option Nat := none
  pc     : DWord := 0
  issued : Nat := 0            -- unfrozen cycle of issue
  wall   : Nat := 0            -- wall cycle of issue, the moment the model's own order counts from (log 9)
  due    : Option Nat := none  -- the unfrozen cycle a fixed completion is bound to (R117, R178, R229)
  mask   : Lanes := 0          -- executing lanes
  accs   : List Acc := []
  write  : Bool := false
  classL : Bool := false       -- LDS and STS: their results are of class L (R51, R229)
  checked : Bool := false      -- the deterministic check has been made (R263)
  applied : Bool := false      -- an arrival, join or leave has been applied (R273); a copy has read its sources (R243)
  replay : Option Nat := none  -- the unfrozen cycle in which its held lanes are replayed (R383)
  before : Warp := {}
  deriving DecidableEq, Repr, Inhabited

/-- R465: a fault or trap of a HOLD region, taken after its last word: the warp before the raising word, the cause of a
warp trap or the lanes' faults. -/
structure Deferred where
  wid    : Nat := 0
  pc     : DWord := 0
  left   : Nat := 0            -- region words left from the raising word on
  trap   : Option Nat := none
  faults : List LaneFault := []
  upto   : Nat := 0            -- the operation of the raising word: what older ones land still reaches `before` (R107)
  before : Warp := {}
  deriving DecidableEq, Repr, Inhabited

/-- R106, R380, R389: an ejected ASID's parked record before it is written. -/
structure Parked where
  id     : Nat := 0
  room   : Option Nat := none
  pdk    : Nat := 0
  wid    : Nat := 0
  pc     : DWord := 0
  asid   : Nat := 0
  lanes  : Lanes := 0
  held   : Lanes := 0
  faults : List LaneFault := []
  upto   : Nat := 0            -- operations of the warp older than this are waited for (R107)
  reopen : Nat := 0
  before : Warp := {}
  deriving DecidableEq, Repr, Inhabited

/-- R381: in-place faults or a TRAPI that wait for a handler. -/
structure Pending where
  wid     : Nat := 0
  op      : Option Nat := none
  pc      : DWord := 0
  faults  : List LaneFault := []
  found   : Nat := 0           -- unfrozen cycle at which the fault was found
  trapEnd : Bool := false
  deriving DecidableEq, Repr, Inhabited

/-! ## Cores and slices -/

/-- R99, R100: a translation kept by a TLB, with its lease's end: unfrozen cycles of the core for a core TLB, wall cycles for a
slice TLB. `lease` is the LEASE of the walk. `locks` names the warps that lock it (R104). -/
structure TlbEntry where
  pdk   : Nat := 0
  asid  : Nat := 0
  page  : Nat := 0           -- virtual address of the page
  size  : Nat := 0           -- 0 256 KiB, 1 16 MiB, 2 1 GiB
  frame : Nat := 0           -- paddock-physical address of the page
  dev   : List (Option Nat) := []  -- R403: the device-physical base of each of its 16 MiB frames, as the walk composed them
  rd    : Bool := false
  wr    : Bool := false
  ex    : Bool := false
  spec  : Bool := false
  ends  : Nat := 0
  lease : Nat := 0
  locks : List (Nat × Nat) := []   -- slot, warp
  deriving DecidableEq, Repr, Inhabited

/-- R227: a scratchpad window. -/
structure Window where
  pdk    : Nat := 0
  launch : Nat := 0
  asid   : Nat := 0
  base   : Nat := 0
  slots  : Nat := 0
  deriving DecidableEq, Repr, Inhabited

/-- R231: a tag entry. -/
structure Tag where
  valid : Bool := false
  dirty : Bool := false
  asid  : BitVec 16 := 0
  tag   : BitVec 46 := 0
  deriving DecidableEq, Repr, Inhabited

/-- R232, R237, R238: a tag update on its way: the cycle from which SPTAG sees it, the issuing slot, the window, and the entries
it writes or, where VALID is 0, clears. -/
structure TagUpdate where
  due   : Nat := 0
  slot  : Nat := 0
  base  : Nat := 0
  slots : Nat := 0
  sets  : List (Nat × Tag) := []
  deriving DecidableEq, Repr, Inhabited

/-- R229: an access waiting for its access cycle. -/
inductive PadKind where
  | read | write
  | atomic (op : AtomOp) (ty : Ty) (result : Bool)
  | cas
  deriving DecidableEq, Repr, Inhabited

/-- R229, R230: a scratchpad instruction on its way to its access cycle. `op` is the operation of class V it belongs to, if any;
`acc` are the lanes' bytes. -/
structure PadAccess where
  wid   : Nat := 0
  slot  : Nat := 0
  kind  : PadKind := .read
  due   : Nat := 0            -- unfrozen cycle of the access
  land  : Nat := 0            -- unfrozen cycle of the landing
  bytes : Nat := 0
  ty    : Ty := .i32
  var   : Nat := 0
  dst   : Nat := 0
  nregs : Nat := 0
  flag  : Option Nat := none
  op    : Option Nat := none
  pc    : DWord := 0
  accs  : List Acc := []
  before : Warp := {}
  deriving DecidableEq, Repr, Inhabited

/-- R288, R302: a selection command that is queued or running. -/
inductive SelCmd where
  | bind (ty : Ty) (weighted streamed : Bool) (n values weights asid : Nat) (bad : Bool)
  | mask (set : Bool) (mask base : Word)
  | rank (fraction : Bool) (x : DWord)
  | step (p : Nat)
  | res
  deriving DecidableEq, Repr, Inhabited

/-- R286 to R288: the selection unit. The candidate set is a sparse map from index to one bit. -/
structure SelUnit where
  holder   : Option Nat := none
  ty       : Ty := .i32
  weighted : Bool := false
  streamed : Bool := false
  n        : Nat := 0
  values   : Nat := 0
  weights  : Nat := 0
  asid     : Nat := 0
  pages    : List (Nat × Nat × Bool) := []   -- streamed columns: page, device-physical base, SPEC
  cand     : SMap 1 := []
  total    : BitVec 64 := 0
  rank     : BitVec 64 := 0
  prefixBits : BitVec 32 := 0         -- PREFIX, of the image's width
  planes   : Nat := 0
  state    : Nat := 0
  err      : Nat := 0
  queue    : List (SelCmd × Nat) := []  -- commands and their operations, the running one first
  running  : Bool := false              -- the first command has started
  ends     : Nat := 0                   -- the unfrozen cycle at which it finishes
  left     : Nat := 0                   -- planes it still has to walk
  plane    : Nat := 0                   -- the unfrozen cycle at which its present plane, or its sum, started
  row      : Nat := 0                   -- reads made in the present plane
  seen     : SMap 32 := []              -- the words read in it: the values, then the weights
  released : Bool := false              -- released with later commands still queued
  deriving DecidableEq, Repr, Inhabited

/-- R315: one A row or one B column of a K-block, aligned: 128 elements, each with its value in bits [55:0], its special in
[57:56] (1 NaN, 2 +infinity, 3 -infinity), in [58] whether it is finite and not zero, in [59] the sign of such; and the exponent E of
each block. -/
structure Line where
  els  : List (BitVec 64) := []
  exps : List (BitVec 16) := []
  deriving DecidableEq, Repr, Inhabited

/-- R310: a B tile in the digit planes of a macro from a base plane on, column by column. -/
structure BTile where
  m     : Nat := 0
  p     : Nat := 0
  d     : Nat := 0
  lines : List Line := []
  deriving DecidableEq, Repr, Inhabited

/-- R312, R323 to R325: a reservation of the matrix unit. -/
structure Reservation where
  id     : Nat := 0            -- the operation of the MRES that made it
  pdk    : Nat := 0
  launch : Nat := 0
  group  : Nat := 0
  fmt    : Word := 0
  asoff  : Nat := 0
  bsoff  : Nat := 0
  asid   : Nat := 0
  owner  : Nat := 0            -- the warp of the MRES, and its cluster (R335, R347)
  clno   : Nat := 0
  tbase  : Nat := 0
  tslots : Nat := 0
  gbase  : Nat := 0
  gran   : Nat := 0
  macros : List Nat := []
  rows   : List Line := []     -- the row buffer
  apoison : Bool := false
  btiles : List BTile := []
  closed : Bool := false       -- its core has sealed for its cluster: no command acts on it until it is back (R391)
  deriving DecidableEq, Repr, Inhabited

/-- R331, R342 to R346: the matrix commands. -/
inductive MatCmd where
  | mres (fmt asoff bsoff : Word)
  | mrel
  | mldb (m p off : Nat)
  | mlda (off rows : Nat)
  | mma (t m p : Nat)
  | mspr (m p : Nat)
  | mzero (t : Nat)
  | mmov (t sel : Nat) (ty : Ty)
  | mput (t sel : Nat) (ty : Ty)
  | mstat (clear : Bool)
  deriving DecidableEq, Repr, Inhabited

/-- R331: a matrix command in the unit. -/
structure MatJob where
  id      : Nat := 0           -- its operation
  core    : Nat := 0
  wid     : Nat := 0
  pdk     : Nat := 0
  launch  : Nat := 0
  group   : Nat := 0
  cmd     : MatCmd := .mrel
  asid    : Nat := 0                   -- the acting ASID
  at?     : Option DWord := none       -- TASKC of an .at start (R338)
  accepted : Nat := 0
  started : Option Nat := none         -- unfrozen cycle of the start
  ends    : Nat := 0
  frees   : Nat := 0                   -- unfrozen cycle at which it stops broadcasting
  report  : BitVec 8 := 0
  res     : Nat := 0                   -- the reservation it acts on, by the operation that made it
  placed  : Bool := false              -- the placement of an MRES has been decided (R331)
  claimed : Bool := false              -- an MLDB has claimed its macro as it started (R326)
  finished : Bool := false
  bytes   : Nat := 0                   -- window bytes to read from `base` on, then scale codes from `sbase` on
  base    : Nat := 0
  sbytes  : Nat := 0
  sbase   : Nat := 0
  row     : Nat := 0                   -- reads made
  seen    : SMap 32 := []              -- words read: data from 0 on, scale codes from 2^20 on
  bad     : Bool := false              -- one of them was poisoned
  data    : SMap 64 := []              -- by lane: data of MPUT or MMOV; by 64 + lane: the element index
  rows    : List Line := []            -- what an MMA reads, as it starts
  cols    : List Line := []
  deriving DecidableEq, Repr, Inhabited

/-- R13, R322: an element of a core's storage: a 4-byte word of the scratchpad, a digit plane of a macro, an accumulator slot, a granule
of the operand buffer. -/
inductive Element where
  | word (w : Nat)
  | plane (m p : Nat)
  | slot (n : Nat)
  | granule (n : Nat)
  deriving DecidableEq, Repr, Inhabited

/-- A core (R1, R99, R178, R227 to R239, R286, R310 to R323, R362). -/
structure Core where
  id      : Nat := 0           -- 160 die + 20 slice-of-die + core-of-slice
  frozen  : Nat := 0           -- frozen cycles so far
  from_   : Nat := 0           -- the present freeze covers the wall cycles from `from_` to before `until_`
  until_  : Nat := 0
  throttled : Bool := false    -- R459
  issued  : List (Nat × Nat) := []     -- slot and the wall cycle after its last issue
  tlb     : List TlbEntry := []
  ro      : List Nat := []             -- lines of the read-only cache (R119)
  pad     : SMap 8 := []
  padPoison : List Nat := []           -- poisoned 4-byte words of the scratchpad
  windows : List Window := []
  tags    : List (Nat × Tag) := []     -- valid entries, by slot, rising
  tagq    : List TagUpdate := []
  padq    : List PadAccess := []
  divFree : List (Nat × Nat) := []     -- slot and the unfrozen cycle its divide unit is free (R178)
  f64Next : List (Nat × Nat) := []     -- slot and the unfrozen cycle that f64 blocks (R176)
  sel     : SelUnit := {}
  selFreed : Nat := 0                  -- wall cycle from which the unit, once released, may be taken (R286)
  selWait : List SelUnit := []         -- restored bindings that wait for the unit (R305)
  planePoison : List (Nat × Nat) := [] -- macro, plane
  tiles   : SMap 32 := []              -- accumulator slots: 512 slot + word
  tilePoison : List Nat := []          -- slots
  res     : List Reservation := []
  weak    : List (Element × Bool) := []  -- failures of elements: lasting, or gone at the retry (R13)
  dead    : List Element := []           -- elements that a SCRUB or a health test took out of use (R13, R437, R457)
  deriving DecidableEq, Repr, Inhabited

/-! ## Launches, clusters, groups -/

/-- R271, R275: the state of a barrier; and the cycle of its last update, with the place of its warp in the order of one cycle (R273). -/
structure Barrier where
  phase   : Word := 0
  arrived : Nat := 0
  count   : Nat := 0
  cycle   : Nat := 0           -- the wall cycle after that of the last update
  turn    : Nat := 0
  deriving DecidableEq, Repr, Inhabited

/-- R81, R271: a group table entry and its barrier state at the home die. -/
structure Group where
  no      : Nat := 0
  baraddr : Nat := 0
  mapaddr : Nat := 0
  launch  : Nat := 0           -- launch record
  count   : Nat := 0           -- the entry's COUNT
  mapbits : Nat := 0
  scope   : Nat := 0
  msw     : Bool := false
  members : List Nat := []     -- ordinals of the launch's member set (R82)
  cluster : Option Nat := none -- the group's cluster, for SCOPE cluster (R276)
  bar     : Barrier := {}
  firstDone : Bool := false
  deriving DecidableEq, Repr, Inhabited

/-- R357, R390: where a cluster stands. -/
inductive ClState where
  | waiting | resident | saved | ended | retired
  deriving DecidableEq, Repr, Inhabited

/-- R392: a replay entry: core index, ASID, window offset, bytes; the operation and lane whose portion it is, and the offsets of its poisoned
words. -/
structure Replay where
  core  : Nat := 0
  asid  : Nat := 0
  op    : Nat := 0
  lane  : Nat := 0
  off   : Nat := 0
  bytes : List (BitVec 8) := []
  bad   : List Nat := []
  deriving DecidableEq, Repr, Inhabited

/-- R262: a line's deterministic record. Line keys are device-physical line numbers, or scratchpad and tag lines beyond them. -/
structure DetRec where
  line   : Nat := 0
  launch : Word := 0           -- LAUNCHID
  writer : BitVec 16 := 0xFFFF
  wphase : Word := 0
  reader : BitVec 16 := 0xFFFF
  rphase : Word := 0
  aop    : Nat := 0
  awarp  : BitVec 16 := 0xFFFF
  aphase : Word := 0
  deriving DecidableEq, Repr, Inhabited

/-- R227, R399: a saved window: its tag entries, its bytes and its poisoned words, by their place in the window. -/
structure SavedWin where
  win  : Window := {}
  det  : List DetRec := []     -- records of its lines and tag entries (R262), by their place in the window
  bad  : List Nat := []
  tags : List (Nat × Tag) := []
  data : SMap 8 := []
  deriving DecidableEq, Repr, Inhabited

/-- R335: a saved reservation: its record, row buffer and tiles of B, its accumulator tiles, the poison bits. -/
structure SavedRes where
  res    : Reservation := {}
  tiles  : SMap 32 := []               -- by the place from its first slot on
  planePoison : List (Nat × Nat) := []
  tilePoison : List Nat := []
  deriving DecidableEq, Repr, Inhabited

/-- R391: what a core's seal froze: windows with tags and contents, the selection unit, reservations with their planes and
tiles, as the save copies them (R399). -/
structure Sealed where
  k       : Nat := 0
  windows : List SavedWin := []
  sel     : Option SelUnit := none
  res     : List SavedRes := []
  deriving DecidableEq, Repr, Inhabited

/-- R79: a cluster of a launch. A warp formed by a yard, or resumed from a parked record, is a cluster of one warp. -/
structure Cluster where
  no      : Nat := 0           -- y X + x; beyond the grid for a resumed warp
  rank    : Nat := 0           -- place in the launch's queue order (R357, R358)
  state   : ClState := .waiting
  slice   : Nat := 0
  cores   : List Nat := []
  preempt : Option Nat := none -- requested: 0 quantum, 1 command, 2 rink (R390)
  since   : Nat := 0           -- wall cycle of residence, for the quantum (R426)
  sealed  : List Sealed := []
  warps   : List Warp := []    -- the saved warps (R400), or the warp a yard or a record formed
  waits   : List Op := []      -- the saved waits (R401) and queued selection commands (R305)
  replays : List Replay := []
  nbs     : List (Nat × Nat × Barrier) := []  -- named barrier, bound group, state (R84)
  room    : Option Nat := none -- its room in the context directory
  queued  : Bool := true       -- queued for placement or restore
  entered : Nat := 0           -- wall cycle at which it was queued
  retry   : Nat := 0           -- wall cycle of the last slot attempt that failed, or 0 (R93)
  cmd     : Option Nat := none -- the PRESUME or CRESUME to report (R396, R398)
  deriving DecidableEq, Repr, Inhabited

/-- R355: a launch descriptor, as its fields. -/
structure Desc where
  argptr : DWord := 0
  glist  : Nat := 0
  nbbind : List Nat := []
  tstart : DWord := 0
  image  : Nat := 0
  entry  : Nat := 0
  gridx  : Nat := 0
  gridy  : Nat := 0
  gcount : Nat := 0
  phaseg : Nat := 0
  privkb : Nat := 0
  spslots : Nat := 0
  regs   : Nat := 0
  cls    : Nat := 0
  kind   : Nat := 0
  c      : Nat := 0
  w      : Nat := 0
  det    : Bool := false
  timed  : Bool := false
  deriving DecidableEq, Repr, Inhabited

/-- An accepted launch, or one warp's worth of a yard, that has not retired (R353, R261). -/
structure Launch where
  id      : Nat := 0
  pdk     : Nat := 0
  seq     : Option Nat := none  -- the command that started it
  lid     : Word := 0           -- internal (R402)
  asid    : Nat := 0
  age     : Nat := 0
  desc    : Desc := {}
  clusters : List Cluster := []
  yard    : Option Nat := none
  failed  : Option Nat := none  -- a reason found after acceptance (R261, R361)
  started : Bool := false       -- a timed launch's start has come (R361)
  startAt : DWord := 0          -- the RINKC of that start; after a stop, of the new one (R423)
  deriving DecidableEq, Repr, Inhabited

/-- R72, R14: a lane request posted to a yard. -/
structure Request where
  seq  : Nat := 0
  asid : Nat := 0
  arg  : DWord := 0
  time : Nat := 0
  deriving DecidableEq, Repr, Inhabited

/-- R72: a yard. -/
structure Yard where
  no      : Nat := 0
  ident   : BitVec 512 := 0
  desc    : Desc := {}
  pending : List Request := []   -- oldest first
  deriving DecidableEq, Repr, Inhabited

/-- R61: a mapped image. -/
structure Image where
  handle : Nat := 0
  asid   : Nat := 0
  va     : Nat := 0
  len    : Nat := 0
  n      : Nat := 1
  entry  : Nat := 0
  ident  : BitVec 512 := 0
  frames : List Nat := []          -- frames entered for it (R62)
  holds  : List Nat := []          -- offsets inside HOLD regions (R194)
  deriving DecidableEq, Repr, Inhabited

/-- R67: a share-grant entry. -/
structure Grant where
  no : Nat := 0
  a  : Nat := 0
  b  : Nat := 0
  inA : Bool := false
  inB : Bool := false
  deriving DecidableEq, Repr, Inhabited

/-- R61, R101: what waits for the leases before a page-table change to run out: an unmap of pages (ASID and page number), with the
operation and the results of its lanes, the frames that then go to the pool and those that leave the executable-frame table, and
the command to report; or a scan. -/
inductive Drain where
  | unmap (op : Option Nat) (lanes : List (Nat × Word)) (free exec : List Nat) (pages : List (Nat × Nat)) (seq : Option Nat)
  | xmap (seq : Nat) (image : Image)
  deriving DecidableEq, Repr, Inhabited

/-- R101: the change's wall cycle, XLMAXL then, and the unfrozen cycle each core of the paddock must reach. -/
structure Job where
  id    : Nat := 0
  since : Nat := 0
  lease : Nat := 0
  cores : List (Nat × Nat) := []
  what  : Drain := .xmap 0 {}
  deriving DecidableEq, Repr, Inhabited

/-- R353: the report of a command. -/
structure Report where
  seq     : Nat := 0
  status  : Nat := 0
  reason  : Nat := 0
  lid     : Word := 0
  tsc     : DWord := 0
  handle  : Nat := 0
  failoff : Nat := 0
  failwhy : Nat := 0
  deriving DecidableEq, Repr, Inhabited

/-- R353: a command accepted and not yet reported: its number, OPC and payload, whether it has started, and its report. -/
structure Cmd where
  seq     : Nat := 0
  opc     : Nat := 0
  payload : BitVec 256 := 0
  time    : Nat := 0             -- the wall cycle of its acceptance: a launch's age (R12, R85)
  started : Bool := false
  report  : Option Report := none
  left    : List Nat := []       -- rooms of clusters, or warps, it still waits for (R397, R70)
  first   : Option Nat := none   -- the room of the first cluster saved (R397)
  deriving DecidableEq, Repr, Inhabited

/-- A command ring (R349 to R353). The header's two copies (R349, R363). -/
structure Ring where
  cmds    : List Cmd := []
  header  : DWord × DWord := (0, 0)     -- ACKSEQ, DONESEQ on the die of CRBASE
  copy    : DWord × DWord := (0, 0)     -- the second copy
  session : Option Nat := none          -- the session whose ring key it uses
  rekeys  : Nat := 0
  waitDoor : Bool := false              -- a repeat waits for the next doorbell write (R352)
  deriving DecidableEq, Repr, Inhabited

/-- R451, R452: a queue pair's state beside its registers. -/
structure Queue where
  no     : Nat := 0
  served : Nat := 0      -- wall cycle of its last frame, for the round robin
  deriving DecidableEq, Repr, Inhabited

/-- R395: a room of the context area, as its directory entry has it. -/
structure Room where
  idx  : Nat := 0
  off  : Nat := 0     -- in 4 KiB units from CTXBASE
  size : Nat := 0
  kind : Nat := 0     -- 1 reserved, 2 saved cluster, 3 parked record, 4 rink frames
  lid  : Word := 0    -- internal
  yard : Option Nat := none
  asid : Nat := 0
  park : Option Parked := none  -- the parked record it holds (R389)
  launch : Nat := 0
  clid : Nat := 0
  deriving DecidableEq, Repr, Inhabited

/-- A paddock, or the root world as number 0 (R424 to R428). The register page is a sparse map by offset. -/
structure Pdk where
  no       : Nat := 0
  regs     : SMap 64 := []
  watch    : List Nat := []            -- watched offsets of its page (R434)
  ring     : Ring := {}
  rooms    : List Room := []           -- the context directory (R395)
  images   : List Image := []
  exframes : List Nat := []            -- executable-frame table (R62)
  world    : Nat := 0                  -- the draw of its keys (R429)
  netFree  : Nat := 0                  -- wall cycle at which the slots of its scale-out budget are free again (R426)
  grants   : List Grant := []
  groups   : List Group := []
  templates : SMap 16 := []            -- by 64 t + j (R364)
  yards    : List Yard := []
  pool     : List Nat := []            -- free paddock-physical 256 KiB frames (R97)
  spec     : List (Nat × Nat) := []    -- speculative frame and its committed frame (R371)
  jobs     : List Job := []
  queues   : List Queue := []
  bgptr    : Option Nat := none        -- the background pass's line (R438)
  bgleft   : Nat := 0                  -- lines of its channels that the pass has not passed yet (R438)
  bgwall   : Nat := 0                  -- wall cycle after that of the pass's last step
  scrubbing : Option Nat := none       -- the operation of a running scrub (R437)
  stopping : Bool := false             -- the scrub belongs to a LOCKIF .stop or a reset (R443)
  zeroing  : Bool := false
  deriving DecidableEq, Repr, Inhabited

/-- R444, R445: an SPDM session. -/
structure Session where
  id    : Nat := 0
  iface : Nat := 0
  done  : Bool := false      -- FINISH has completed
  keys  : Nat := 0           -- KEY_UPDATEs so far
  deriving DecidableEq, Repr, Inhabited

/-- R444: what the responder is capable of. -/
inductive SpdmCap where
  | cert | chal | measSigned | keyEx | encrypt | mac | keyUpd
  deriving DecidableEq, Repr, Inhabited

/-- R444: the algorithms it has: signatures, hashing, measurement, DHE and AEAD. -/
inductive SpdmAlg where
  | signEd25519 | hashSha512 | measSha512 | dheP384 | aeadAes256Gcm
  deriving DecidableEq, Repr, Inhabited

/-- R444: a certificate of the slot 0 chain, by its subject, with its public key. -/
inductive SpdmCert where
  | root (key : BitVec 256)
  | identity (key : BitVec 256)
  | alias_ (key : BitVec 256)
  deriving DecidableEq, Repr, Inhabited

/-- R444, R445: the responder's last reply: the response to the request, an ERROR with its code, or TDISP_ERROR INVALID_INTERFACE_STATE. What
is signed carries the alias key's signature. `response` is one without contents of its own. -/
inductive SpdmReply where
  | none
  | response
  | version (v : BitVec 8)
  | capabilities (l : List SpdmCap)
  | algorithms (l : List SpdmAlg)
  | certificate (chain : List SpdmCert)
  | challengeAuth (signature : BitVec 512)
  | measurements (count : Nat) (blocks : List (Nat × BitVec 512)) (signature : BitVec 512)
  | keyExchange (session : Nat) (signature : BitVec 512)
  | error (code : Nat)
  | tdispError
  deriving DecidableEq, Repr, Inhabited

/-- R435, R447, R454, R460: how the last host request completed: with data, as an unsupported request, with completer abort, with
Configuration Request Retry Status; or the surprise link-down of a device without power. -/
inductive HostReply where
  | none
  | ok (bytes : List (BitVec 8))
  | unsupported
  | abort
  | retry
  | linkDown
  deriving DecidableEq, Repr, Inhabited

/-- R444, R445: the responder. `stage`: 0 none, 1 VERSION, 2 CAPABILITIES, 3 ALGORITHMS. -/
structure Spdm where
  stage    : Nat := 0
  version  : BitVec 8 := 0
  sessions : List Session := []
  next     : Nat := 1
  reply    : SpdmReply := .none
  busy     : Option Nat := none   -- the paddock whose stop a STOP_INTERFACE_REQUEST in progress waits for (R445)
  deriving DecidableEq, Repr, Inhabited

/-- R419: a skid announced and not yet taken. -/
structure Skid where
  origin : Nat := 0
  stamp  : Nat := 0
  index  : Nat := 0
  due    : Nat := 0          -- schedule cycle after which it is taken
  planned : Bool := false
  deriving DecidableEq, Repr, Inhabited

/-- R416: a frame in a delivery buffer or waiting for its relay. -/
structure Frame where
  port  : Nat := 0
  relay : Option Nat := none
  bits  : BitVec 1152 := 0   -- with HOPS already counted up
  read  : Bool := false
  seen  : Nat := 0           -- wall cycle of its arrival
  deriving DecidableEq, Repr, Inhabited

/-- The rink engine of the device (R407 to R423). -/
structure Rink where
  formed  : Bool := false
  forming : Bool := false                -- RKFORM waits for the start flit
  rinkc   : DWord := 0
  driftobs : Word := 0
  pdrift  : Word := 0                    -- DRIFTOBS as it reads: its value at the end of the previous cycle (R89), 0 outside a rink (R409)
  was     : Option (Option DWord) := none -- RINKC as it reads for the rest of a cycle in which the formation changed (R89); none inside: no rink
  phase   : Int := 0                     -- the measured offset against the reference, 1/64 cycle (R410)
  drftx   : Int := 0                     -- the running correction (R412)
  drftk   : Nat := 0                     -- its schedule cycles so far
  drftn   : Nat := 0                     -- its steps so far
  refreshed : Option DWord := none       -- the schedule cycle of the last refresh of DRIFTOBS (R410)
  skids   : List Skid := []
  skidFrom : Nat := 0                    -- the present skids cover the wall cycles from here to before `skidEnds`
  skidEnds : Option Nat := none
  traps   : List DWord := []             -- tasks whose warps are trapped once the skid is over (R422)
  taken   : Nat := 0
  lastPlanned : Option Nat := none       -- schedule cycle of the last planned skid (R420)
  index   : Nat := 0
  done    : List (Nat × Nat × Nat) := []   -- origin, stamp and index of the last skids taken, so that none is taken twice (R419)
  frames  : List Frame := []
  starts  : List (Nat × Nat) := []       -- port and the schedule cycle of its last start (R415)
  chans   : List (Nat × DWord) := []     -- channel and the TSTART that last named it (R422)
  aborted : List DWord := []             -- tasks whose later frames are discarded (R422)
  stops   : List (DWord × Nat) := []     -- TSTART and stop cycle S (R423)
  relay   : SMap 8 := []                 -- RKRELAY, complemented so that 0 stands for 0xFF
  dist    : SMap 8 := []                 -- RKDIST, complemented likewise
  hop     : SMap 10 := []                -- RKHOP by port
  saved   : List (Nat × DWord × List Frame) := []  -- paddock, TSTART and the frames kept at a stop (R423)
  deriving DecidableEq, Repr, Inhabited

/-- R414, R416, R419, R422, R423, R456: what a member sends on a port of the rink: a frame, or the announcement of a skid, of an abort or of
the stop of a task, or the start flit of a formation, or word that it fails. -/
inductive RinkSent where
  | frame (port : Nat) (bits : BitVec 1152)
  | skid (port origin stamp index : Nat) (planned : Bool)
  | abort (port member cause tstart : Nat)
  | stop (port tstart stop : Nat)
  | start (port : Nat) (fails : Bool)
  deriving DecidableEq, Repr, Inhabited

/-- R450, R452: a scale-out port. -/
structure Port where
  no     : Nat := 0
  up     : Bool := false
  rink   : Bool := false
  paused : List Nat := []
  asked  : List Nat := []    -- priorities that it has asked its link partner to pause (R453)
  deriving DecidableEq, Repr, Inhabited

/-- R251: an entry of a die's outbound table: the operation and lane of a stamped store. -/
structure Outbound where
  die  : Nat := 0
  op   : Nat := 0
  lane : Nat := 0
  pa   : Nat := 0
  bytes : List (BitVec 8) := []
  deriving DecidableEq, Repr, Inhabited

/-- R13, R374: how a line of storage stands. -/
inductive LineMark where
  | transient    -- the next access fails once and succeeds on the retry
  | lasting      -- every access fails
  | poison       -- a mark the device set itself
  deriving DecidableEq, Repr, Inhabited

/-- R466, R460: a ring header kept over a reset. -/
structure SavedHeader where
  no     : Nat := 0
  crbase : DWord := 0
  crhost : DWord := 0
  ack    : DWord := 0
  done   : DWord := 0
  deriving DecidableEq, Repr, Inhabited

/-! ## The machine -/

/-- The whole part. -/
structure State where
  wall     : Nat := 0                    -- core cycles since device reset: TSC (R87)
  warps    : List Warp := []
  ops      : List Op := []               -- in order of issue
  cores    : List Core := []
  stlb     : List (Nat × TlbEntry) := [] -- slice TLBs
  mem      : List Host.Cell := []        -- device-physical memory
  marks    : List (Nat × LineMark) := [] -- storage failures and poison, by 64-byte line
  poison   : List Nat := []              -- poisoned 4-byte words of memory: what copies of poisoned words wrote (R242)
  redirect : List (Nat × Nat) := []      -- retired frame and its replacement (R13, R374)
  clocks   : SMap 48 := []               -- V_d[e] by 8 d + e (R252)
  frontier : SMap 48 := []               -- F as known, by e
  outbound : List Outbound := []         -- newest last
  wstamps  : List (Nat × SMap 48) := []  -- by byte, the stamp of the last write applied to it, newest first (R252)
  worlds   : List (Nat × Nat × Nat) := [] -- by line, the paddock and the draw of its keys that it was last written under (R429, R431)
  draws    : Nat := 0                    -- how often world keys have been drawn (R429)
  det      : List DetRec := []
  launches : List Launch := []
  deferred : List Deferred := []
  parked   : List Parked := []
  pending  : List Pending := []
  jobs     : List MatJob := []
  pdks     : List Pdk := []
  seqs     : List (Nat × Nat × Nat × Nat) := []  -- paddock, warp, lane and the yard request it carries (R353)
  hostmem  : List Host.Cell := []        -- what the device has written to the host: completion records
  irqs     : List (Nat × Nat) := []      -- the MSI-X messages sent: function and vector, newest first (R448)
  reply    : HostReply := .none          -- the completion of the last host request (R435, R447, R454)
  mgmt     : SMap 64 := []               -- management page by offset (R461, R408)
  root     : Ring := {}                  -- the root world's ring (R350)
  meas     : List (BitVec 512) := []     -- MEAS0 to MEAS7 (R439); a missing one reads as zero
  aliasSeed : BitVec 256 := 0            -- R442
  spdm     : Spdm := {}
  rink     : Rink := {}
  ports    : List Port := []
  sentFrames : List (Nat × List (BitVec 8)) := []  -- Ethernet frames handed to a port, newest first (R452)
  pauses   : List (Nat × Nat × Bool) := []  -- IEEE 802.1Qbb frames sent: port, priority, pause or resume, newest first (R453)
  rinkSent : List RinkSent := []         -- what the member has sent on the rink, newest first (R414, R416, R419, R422, R423, R456)
  flash    : List SavedHeader := []      -- R460, R466
  powered  : Bool := true
  fork     : Option Bool := none         -- whether Obvik's last fork was made, or reported failed; none before the first (R374, R375)
  -- the model's own fields (log 3, 5)
  agenda   : List Instr := []
  held     : List Instr := []            -- requests from outside that wait (R252, R434, R437, R449)
  issuing  : Option Nat := none
  nextId   : Nat := 1
  fresh    : Nat := 0
  deriving DecidableEq, Repr, Inhabited

/-- Why a step has no next state. -/
inductive Fault where
  /-- Raised by `step` when the word fetched from an executable page is none that the scanner admits. The scan and the
  executable-frame table keep every such word out (R56, R62), so no state that the part reaches raises it. Safe. -/
  | undecodable (reason : Nat)
  deriving DecidableEq, Repr, Inhabited

/-- Why a step is refused. -/
inductive Refusal where
  /-- Raised by `exec` for an instruction that has no meaning in this model yet. Safe. -/
  | notModelled (mnemonic : String)
  deriving DecidableEq, Repr, Inhabited

/-- R461: the management page at reset. Every other register of the device is zero or empty there; what the spec gives
no reset value for is named in log 1. -/
def State.reset : State :=
  { mgmt := [(0x000, 0x00080100), (0x008, 0x0AF0)] }

end Sys2Proof.Machine
end

