-- ==== Sys2Proof/Config.lean ====
section
/-! DEFINITION. What the device fixes (R1 and the figures of the chapters) and the values the spec leaves open,
which have no body: nothing can be proved of them. -/
namespace Sys2Proof

/-- R73: two microseconds of core cycles at 800 MHz (R1, R7). -/
def Config.yardWait : Nat := 1600
/-- R1: cores per slice. -/
def Config.coresPerSlice : Nat := 20
/-- R1: slices per die. -/
def Config.slicesPerDie : Nat := 8
/-- R72: pending requests of one yard. -/
def Config.yardLimit : Nat := 65536
/-- R359: unfrozen cycles after which a warp counts as starved. -/
def Config.starved : Nat := 4032
/-- R407: schedule cycles of one rink hop. -/
def Config.hop : Nat := 640
/-- R418: cycles of one skid. -/
def Config.skid : Nat := 256
/-- R419: notice of a planned skid, in schedule cycles. -/
def Config.skidNotice : Nat := 4096

/-- Cycles after which the model's own order of steps takes the next stage of an operation in flight, by the operation's number.
The spec leaves the latency of class V open (R18, R51). Free, log 9; the agenda may take a stage sooner. -/
opaque Config.latency : Nat → Nat
/-- R424: 256 KiB frames of one slice's share of the SRAM tier (192 MiB) and of its two LPDDR-6 channels (10.5 GiB). -/
def Config.sliceFrames : Nat := 768 + 43008
/-- R1, R424: the frames of the device's 64 slices, 12 GiB of SRAM and 672 GiB of LPDDR-6; they are numbered from 0 (log 8). -/
def Config.frames : Nat := 64 * Config.sliceFrames
/-- R1: lines of a core's read-only cache of 128 KiB. -/
def Config.roLines : Nat := 2048
/-- R13, R235: frozen cycles of a retried access. -/
def Config.retryCycles : Nat := 1

/-- Where each 256 KiB frame of the device stands: the frames of slice 0 first, those of its SRAM share before those of its channels; the
spec gives no layout (R98, R250, R424). Free, log 8. -/
opaque Config.layout : Equiv.Perm (Fin Config.frames)
/-- The place of a frame in that order. -/
def Config.placeOf (f : Nat) : Nat := if h : f < Config.frames then (Config.layout ⟨f, h⟩).val else 0
/-- The slice, 0 to 63, that owns a frame (R424). -/
def Config.sliceOf (f : Nat) : Fin 64 := Fin.ofNat 64 (Config.placeOf f / Config.sliceFrames)
/-- Whether a frame lies in the SRAM tier (R98, R424). -/
def Config.inSram (f : Nat) : Bool := decide (Config.placeOf f % Config.sliceFrames < 768)
/-- The home die, 0 to 7, of a frame (R250): that of the slice that owns it. -/
def Config.homeDie (f : Nat) : Fin 8 := Fin.ofNat 8 ((Config.sliceOf f).val / Config.slicesPerDie)
/-- The device-local pool a new paddock of these slices starts with, as paddock-physical frames (R97). Free, log 8. -/
opaque Config.poolFrames : BitVec 64 → List Nat
/-- The AES-256-GCM tag of a ring entry: session key, SEQ, paddock number, bytes 16 to 63 as one number (R351). Log 7. -/
opaque Config.ringTag : BitVec 256 → Nat → Nat → BitVec 384 → BitVec 128
/-- The ring key of a session, by its number and by how many REKEYs it has seen (R352, R444). Log 7. -/
opaque Config.ringKey : Nat → Nat → BitVec 256
/-- The seed of the device identity key (R442). Log 7. -/
opaque Config.identitySeed : BitVec 256
/-- LAUNCHID of the record of a command, by its number, whose payload a device reset has lost (R353, R466). Log 61. -/
opaque Config.lostLid : Nat → BitVec 32
/-- What PWRNOW and TJMAX measure, by the register's offset and the cycle (R461). Log 61. -/
opaque Config.sensor : Nat → Nat → BitVec 32
/-- What is left in the SRAM tier of data of another world, under new keys, by the draw of the keys and the device-physical address (R430).
Log 55. -/
opaque Config.noise : Nat → Nat → BitVec 8
/-- The transcript that a signed SPDM response covers, by a counter and what the response carries (R444). Log 27. -/
opaque Config.transcript : Nat → List (BitVec 8) → List (BitVec 8)
/-- The public key of the Ronhild root certificate (R444). Log 27. -/
opaque Config.rootKey : BitVec 256
/-- Which paddock a YARDCREATE or a TMPLSET names that stands in its own ring or in its parent's, by the ring and SEQ (R455). Log 22. -/
opaque Config.names : Nat → Nat → Nat
/-- What a copied context area does not hold of a launch, by its LAUNCHID and the field (R402). Log 19. -/
opaque Config.notCopied : BitVec 32 → Nat → Nat
/-- A value the spec leaves open, for the counter `State.fresh`. Log 5. -/
opaque Config.freeWord : Nat → BitVec 64

end Sys2Proof
end

