-- ==== Sys2Proof/WellFormed.lean ====
section
/-! DEFINITION. What the code scanner admits in one word (R38 to R49, R56 reasons 0x01 to 0x09) and the latency classes
(R55): the operand table of every instruction, and the checks over it. -/
namespace Sys2Proof

/-- R38: the code of a type. -/
def Ty.code : Ty → BitVec 4
  | .i32 => 0 | .n32 => 1 | .i64 => 2 | .n64 => 3 | .i16x2 => 4 | .n16x2 => 5 | .i8x4 => 6 | .n8x4 => 7
  | .i4x8 => 8 | .f32 => 9 | .f64 => 10 | .f16x2 => 11 | .bf16x2 => 12 | .q8ax4 => 13 | .q8bx4 => 14 | .q4x8 => 15

/-- R38: the type of a code. -/
def Ty.ofCode (c : BitVec 4) : Ty :=
  match c.toNat with
  | 0 => .i32 | 1 => .n32 | 2 => .i64 | 3 => .n64 | 4 => .i16x2 | 5 => .n16x2 | 6 => .i8x4 | 7 => .n8x4
  | 8 => .i4x8 | 9 => .f32 | 10 => .f64 | 11 => .f16x2 | 12 => .bf16x2 | 13 => .q8ax4 | 14 => .q8bx4 | _ => .q4x8

/-- R144, R173: the types whose operands are even and odd pairs. -/
def Ty.is64 (t : Ty) : Bool := t == .i64 || t == .n64 || t == .f64
/-- R144: i types are signed. -/
def Ty.isSigned (t : Ty) : Bool := t == .i32 || t == .i64 || t == .i16x2 || t == .i8x4 || t == .i4x8
/-- The floating types (R126, R130). -/
def Ty.isFloat (t : Ty) : Bool :=
  t == .f32 || t == .f64 || t == .f16x2 || t == .bf16x2 || t == .q8ax4 || t == .q8bx4 || t == .q4x8
/-- R48: the types whose sources admit a half select. -/
def Ty.halves (t : Ty) : Bool := t == .i16x2 || t == .n16x2 || t == .f16x2 || t == .bf16x2

/-- R168: types with the same element count convert into one another. -/
def Ty.group (t : Ty) : Nat :=
  match t with
  | .i32 | .n32 | .f32 | .i64 | .n64 | .f64 => 1
  | .i16x2 | .n16x2 | .f16x2 | .bf16x2 => 2
  | .i8x4 | .n8x4 | .q8ax4 | .q8bx4 => 4
  | .i4x8 | .q4x8 => 8

/-- R51, R55: the latency classes. -/
inductive Cls where
  | a | m | x | y | s | l | v | none
  deriving DecidableEq, Repr, Inhabited

/-- R51: the cycles of a fixed class. -/
def Cls.cycles : Cls → Nat
  | .a => 4 | .m => 6 | .x => 6 | .y => 10 | .s => 12 | .l => 16 | .v => 0 | .none => 0

/-- Whether results of the class land at a fixed cycle (R51). -/
def Cls.fixed : Cls → Bool
  | .v | .none => false
  | _ => true

/-- How an operand field is used (R44 to R46). A lane operand names `regs` registers from a multiple of `align`. -/
inductive Opnd where
  | unused
  | lane (regs align : Nat) (pat : Bool) (neg abs half : Bool)
  | target
  | sreg (w64 put : Bool)
  | base
  deriving DecidableEq, Repr, Inhabited

/-- The operand table's row for one instruction, resolved for its type and variant. -/
structure Row where
  tyOk    : Bool          -- R38: the type is admitted
  varOk   : Bool          -- R37: the variant is admitted
  cls     : Cls           -- R55
  pred    : Bool := true  -- the form admits a predicate
  immOk   : Bool := false -- R49: the immediate form is admitted
  immReq  : Bool := false -- R49: the immediate form is required
  immMask : Word := 0xFFFFFFFF
  immGood : Bool := true  -- further limits on the immediate (reason 0x09)
  dst     : Opnd := .unused
  dstRead : Bool := false -- R44: DST is read
  dstWrite : Bool := true -- DST is written
  a       : Opnd := .unused
  b       : Opnd := .unused
  c       : Opnd := .unused
  deriving DecidableEq, Repr, Inhabited

/-- A lane operand of one register without modifiers. -/
def Opnd.one : Opnd := .lane 1 1 true false false false
/-- A pair (R46). -/
def Opnd.pair : Opnd := .lane 2 2 true false false false
/-- A quad (R366). -/
def Opnd.quad : Opnd := .lane 4 4 true false false false
/-- A register, or a pair in a 64-bit type (R144). -/
def Opnd.byTy (t : Ty) : Opnd := if t.is64 then .pair else .one
/-- The same lane operand without a pattern. -/
def Opnd.noPat : Opnd → Opnd
  | .lane r al _ n a h => .lane r al false n a h
  | o => o
/-- R148: NEG and ABS on signed types, HALF on the 16-bit integer types. -/
def Opnd.intMods (t : Ty) : Opnd → Opnd
  | .lane r al p _ _ _ => .lane r al p t.isSigned t.isSigned t.halves
  | o => o
/-- R172: NEG and ABS on floating types, HALF on the 16-bit floating types. -/
def Opnd.floatMods (t : Ty) : Opnd → Opnd
  | .lane r al p _ _ _ => .lane r al p true true t.halves
  | o => o

/-- The immediate of the immediate form, zero otherwise. -/
def Fields.immVal (f : Fields) : Word := match f.args with | .imm _ i => i | .regs .. => 0
/-- R49: the immediate form. -/
def Fields.isImm (f : Fields) : Bool := match f.args with | .imm .. => true | .regs .. => false

/-- R115: the registers that a load or store moves, and their alignment. -/
def ldData (t : Ty) (v : Nat) : Opnd :=
  match v % 8 with
  | 0 => .byTy t
  | 3 => if t.is64 then .quad else .pair
  | 4 => .quad
  | _ => .one

/-- R115: the types each load variant admits. -/
def ldTyOk (t : Ty) (v : Nat) : Bool :=
  match v % 8 with
  | 0 => true
  | 1 => t == .i32 || t == .n32
  | 2 => t == .i32 || t == .n32
  | 3 => true
  | 4 => !t.is64
  | _ => false

/-- The types of IADD (R148). -/
def intTypes : List Ty := [.i32, .n32, .i64, .n64, .i16x2, .n16x2, .i8x4, .n8x4]
/-- The types of FADD (R172). -/
def floatTypes : List Ty := [.f32, .f64, .f16x2, .bf16x2]
/-- The types of the shifts and the logic (R148). -/
def wordTypes : List Ty := [.i32, .n32, .i64, .n64]

/-- R167: the variant codes a conversion from `s` to `d` admits. -/
def cvtVarOk (s d : Ty) (v : Nat) : Bool :=
  if d.isFloat then decide (v < 8)
  else if s.isFloat then decide (v < 4)
  else v == 0 || v == 4

/-- R168: the variant codes of which some source type of the destination's group admits the one given; so a word without an immediate, which
names no source, is judged. -/
def cvtAnyVar (d : Ty) (v : Nat) : Bool :=
  (List.range 16).any fun c => let s := Ty.ofCode (BitVec.ofNat 4 c); s.group == d.group && s != d && cvtVarOk s d v

/-- R169: the wider type of a packed type; a type that PACK does not admit is its own wider type. -/
def packWide : Ty → Ty
  | .f16x2 | .bf16x2 => .f32
  | .i16x2 => .i32 | .n16x2 => .n32
  | .q8ax4 | .q8bx4 => .f16x2
  | .i8x4 => .i16x2 | .n8x4 => .n16x2
  | .q4x8 => .q8ax4
  | .i4x8 => .i8x4
  | t => t

/-- A row of an instruction without a type: MOD.type is 0 (R38). -/
def plainRow (f : Fields) (nvars : Nat) (c : Cls) : Row :=
  { tyOk := f.ty == .i32, varOk := decide (f.var.toNat < nvars), cls := c }

/-- R192: the control instructions. -/
def controlRow (op : Nat) (f : Fields) : Option Row :=
  let r := plainRow f 1 .none
  let np := { r with pred := false }
  match op with
  | 0x00 => some np
  | 0x01 => some { np with dst := .target, immOk := true, immReq := true }
  | 0x02 => some { np with dst := .target, a := .one, b := .one, immOk := true, immMask := 0xFFFF }
  | 0x03 => some { plainRow f 3 .none with a := .target }
  | 0x04 => some { r with a := .target, immOk := true, immReq := true }
  | 0x05 => some np
  | 0x06 => some { np with dst := .target, a := .target }
  | 0x07 => some { np with a := .target }
  | 0x08 => some { np with a := .target }
  | 0x09 => some { np with immOk := true, immReq := true }
  | 0x0A => some { np with immOk := true, immReq := true }
  | 0x0B => some { np with immOk := true, immReq := true, immMask := 0xFFFFF }
  | 0x0C => some r
  | 0x0D => some { r with immOk := true, immReq := true, immMask := 0xFFFF }
  | _ => none

/-- R148: the integer, logic, bit-field and move instructions. A CVT without the immediate names no source type: its variant is
reserved where no source type admits it. -/
def integerRow (op : Nat) (f : Fields) : Option Row :=
  let t := f.ty
  let v := f.var.toNat
  let w := Opnd.byTy t
  let m := w.intMods t
  let mk (ts : List Ty) (n : Nat) (c : Cls) : Row := { tyOk := ts.contains t, varOk := decide (v < n), cls := c, dst := w, a := w }
  match op with
  | 0x10 | 0x11 => some { mk intTypes 2 .a with a := m, b := m, immOk := true }
  | 0x12 | 0x13 => some { mk [.n32] 1 .a with dst := .pair, b := w, c := w }
  | 0x14 => some { mk [.i32, .n32, .i64, .n64, .i16x2, .n16x2] 2 .m with a := m, b := m, immOk := true }
  | 0x15 => some { mk wordTypes 1 .m with a := m, b := m, immOk := true }
  | 0x16 => some { mk wordTypes 2 .m with a := m, b := m, c := m }
  | 0x17 => some { mk [.i32, .n32] 1 .m with dst := .pair, b := w, c := .pair }
  | 0x18 | 0x19 => some (mk [.i32, .i64, .i16x2, .i8x4] 2 .a)
  | 0x1A | 0x1B => some { mk intTypes 1 .a with a := m, b := m, immOk := true }
  | 0x1C => some { mk intTypes 1 .a with a := m, b := m, c := m }
  | 0x1D => some { mk intTypes 6 .a with dst := .one, a := m, b := m, immOk := true }
  | 0x1E => some { mk intTypes 6 .a with a := m, b := m, immOk := true }
  | 0x1F => some { mk [.n32, .n64] 1 .a with b := w, c := w }
  | 0x20 | 0x21 | 0x22 | 0x23 | 0x24 => some { mk wordTypes 1 .a with b := .one, immOk := true }
  | 0x25 | 0x26 | 0x27 | 0x28 => some { mk wordTypes 1 .a with b := w, immOk := true }
  | 0x29 => some { tyOk := true, varOk := true, cls := .a, dst := .one, a := .one, b := .one, c := .one }
  | 0x30 | 0x31 => some { mk [.n32, .n64] 1 .a with dst := .one }
  | 0x32 => some { mk [.n32, .n64] 2 .a with dst := .one, b := .one, immOk := true }
  | 0x33 => some (mk [.n32, .n64] 1 .a)
  | 0x34 => some { mk wordTypes 1 .a with b := .one, immOk := true }
  | 0x35 => some { mk [.n32, .n64] 1 .a with b := .one, c := w }
  | 0x36 => some { mk [.n32, .n64] 1 .a with b := w, c := .one }
  | 0x37 => some { mk [] 1 .a with tyOk := true }
  | 0x38 => some { mk [] 1 .a with tyOk := t != .f64, a := .unused, immOk := true, immReq := true }
  | 0x39 => some { plainRow f 1 .a with dst := .one, a := .base, b := .one }
  | 0x3A => some { plainRow f 1 .a with dst := .pair, a := .base, b := .one }
  | 0x3B =>
    if v == 0 then some { plainRow f 2 .a with dst := .one, a := .sreg false false }
    else some { plainRow f 2 .a with dst := .sreg false true, a := if f.isImm then .unused else .one, immOk := true }
  | 0x3C => some { plainRow f 1 .a with dst := .pair, a := .sreg true false }
  | 0x3D =>
    let s := Ty.ofCode (f.immVal.extractLsb' 0 4)
    some { tyOk := !f.isImm || ((f.immVal >>> 4 == 0) && s.group == t.group && s != t), varOk := if f.isImm then cvtVarOk s t v else cvtAnyVar t v,
           cls := .m, dst := w, a := .byTy s, immOk := true, immReq := true }
  | 0x3E => some { tyOk := packWide t != t, varOk := cvtVarOk (packWide t) t v, cls := .m, dst := .one, a := .one, b := .one }
  | 0x3F => some { tyOk := packWide t != t, varOk := v == 0, cls := .m, dst := .pair, a := .one }
  | _ => none

/-- R172: the floating-point, special-function and dot instructions. -/
def floatRow (op : Nat) (f : Fields) : Option Row :=
  let t := f.ty
  let v := f.var.toNat
  let w := if 4 ≤ v then Opnd.pair else Opnd.byTy t
  let w1 := Opnd.byTy t
  let m := w.floatMods t
  let m1 := w1.floatMods t
  let rmp : Bool := decide (v < 4) || (decide (v < 8) && t != .f64)
  let ok := floatTypes.contains t
  let sfu : Row := { tyOk := ok && t != .f64, varOk := v == 0, cls := .s, dst := .one, a := m1 }
  let dot (tyOk : Bool) (n : Nat) : Row :=
    { tyOk := tyOk, varOk := decide (v < n), cls := .m, dst := .one, dstRead := true, a := .one, b := .one }
  match op with
  | 0x40 | 0x41 | 0x42 => some { tyOk := ok, varOk := rmp, cls := .m, dst := w, a := m, b := m, immOk := true }
  | 0x43 => some { tyOk := ok, varOk := rmp, cls := .m, dst := w, a := m, b := m, c := m }
  | 0x44 | 0x45 | 0x46 | 0x47 => some { tyOk := ok, varOk := v == 0, cls := .m, dst := w1, a := m1, b := m1, immOk := true }
  | 0x48 => some { tyOk := ok, varOk := decide (v < 8), cls := .m, dst := .one, a := m1, b := m1, immOk := true }
  | 0x49 => some { tyOk := ok, varOk := v == 0, cls := .m, dst := .one, a := m1, b := .one, immOk := true }
  | 0x4A => some { tyOk := ok, varOk := decide (v < 4), cls := .m, dst := w1, a := m1 }
  | 0x4B => some { tyOk := ok, varOk := decide (v < 4), cls := .m, dst := w1, a := m1, b := .one, immOk := true }
  | 0x4C => some { tyOk := ok, varOk := decide (v < 2), cls := .m, dst := if v == 0 then .one else w1, a := m1 }
  | 0x4D => some { tyOk := ok, varOk := decide (v < 4), cls := .v, dst := w1, a := m1, b := m1, immOk := true }
  | 0x4E => some { tyOk := ok, varOk := decide (v < 4), cls := .v, dst := w1, a := m1 }
  | 0x50 | 0x51 | 0x52 | 0x53 | 0x54 | 0x55 | 0x56 | 0x57 => some sfu
  | 0x58 => some (dot (t == .i8x4 || t == .n8x4) 2)
  | 0x59 => some (dot (t == .i4x8) 2)
  | 0x5A => some { dot (t == .q8ax4 || t == .q8bx4) 4 with c := .one }
  | 0x5B => some { dot (t == .q4x8) 4 with c := .one }
  | 0x5C => some (dot (t == .f16x2 || t == .bf16x2) 4)
  | _ => none

/-- R213, R214: the cross-lane instructions. -/
def crossRow (op : Nat) (f : Fields) : Option Row :=
  let t := f.ty
  let v := f.var.toNat
  let w := Opnd.byTy t
  let a := w.noPat
  match op with
  | 0x60 | 0x61 | 0x62 | 0x63 => some { tyOk := true, varOk := v == 0, cls := .x, dst := w, a := a, b := .one, immOk := true }
  | 0x64 => some { tyOk := true, varOk := decide (v < 3), cls := .x, dst := w, a := a,
                   b := if v == 0 then .one else .unused, immOk := v == 0 }
  | 0x65 => some { plainRow f 3 .x with dst := .one, a := Opnd.one.noPat, immOk := true, immReq := true, immMask := 0x1F }
  | 0x66 => some { plainRow f 1 .x with dst := .one, a := Opnd.one.noPat, immOk := true, immReq := true, immMask := 0x1F }
  | 0x67 => some { tyOk := t == .n32 || t == .n64, varOk := v == 0, cls := .x, dst := .one, a := a }
  | 0x68 => some { tyOk := wordTypes.contains t, varOk := decide (v < 7), cls := .y, dst := w, a := a }
  | 0x69 => some { tyOk := floatTypes.contains t, varOk := decide (v < 4), cls := .y, dst := w, a := a }
  | 0x6A =>
    if v < 4 then some { tyOk := floatTypes.contains t, varOk := true, cls := .y, dst := w, a := a }
    else some { tyOk := t == .i32 || t == .n32 || t == .f32, varOk := decide (v < 6), cls := .y, dst := .pair, a := a,
                b := Opnd.one.noPat, immOk := true }
  | 0x6B =>
    some { tyOk := wordTypes.contains t || floatTypes.contains t,
           varOk := if t.isFloat then v % 8 < 4 else v % 8 < 7, cls := .y, dst := w, a := a }
  | 0x6C => some { tyOk := true, varOk := v == 0, cls := .y, dst := w, a := a, b := Opnd.one.noPat }
  | _ => none

/-- R115 to R121, R233, R234, R366: loads, stores, scratchpad, copies, random streams and speculative pages. -/
def memoryRow (op : Nat) (f : Fields) : Option Row :=
  let t := f.ty
  let v := f.var.toNat
  let d := ldData t v
  match op with
  | 0x70 => some { tyOk := ldTyOk t v, varOk := v % 8 < 5, cls := .v, dst := d, a := .pair, b := .one, immOk := true }
  | 0x71 => some { tyOk := ldTyOk t v, varOk := v % 8 < 5, cls := .v, dst := d, dstRead := true, dstWrite := false, a := .pair, b := .one, immOk := true }
  | 0x72 => some { tyOk := ldTyOk t v, varOk := decide (v < 5), cls := .v, dst := d, a := .pair, b := .one, immOk := true }
  | 0x73 => some { plainRow f 2 .v with a := .pair, b := .one, immOk := true }
  | 0x74 => some { plainRow f 1 .v with a := .pair, b := .one, immOk := true }
  | 0x75 => some (plainRow f 1 .v)
  | 0x76 => some { tyOk := ldTyOk t v, varOk := decide (v < 5), cls := .l, dst := d, a := .one, b := .one, immOk := true }
  | 0x77 => some { tyOk := ldTyOk t v, varOk := decide (v < 5), cls := .l, dst := d, dstRead := true, dstWrite := false, a := .one, b := .one, immOk := true }
  | 0x78 => some { plainRow f 1 .l with dst := .one, a := .pair }
  | 0x79 => some { plainRow f 2 .l with a := .pair, b := .one, immOk := true }
  | 0x7A => some { plainRow f 2 .l with b := if v == 0 then .one else .unused, immOk := v == 0 }
  | 0x80 => some { plainRow f 1 .v with a := .pair, b := .pair, c := .one }
  | 0x81 => some { plainRow f 1 .v with a := .one, b := .pair, c := .one }
  | 0x82 => some { plainRow f 7 .v with a := .one, b := .pair }
  | 0x83 => some { plainRow f 7 .v with a := .pair, b := .one }
  | 0x84 => some { plainRow f 1 .a with dst := .one }
  | 0x85 => some { plainRow f 2 .v with a := if v == 0 then .one else .unused }
  | 0x88 => some { plainRow f 2 .s with dst := .quad, a := .quad, b := .pair }
  | 0x89 => some { plainRow f 1 .m with dst := .one, a := .one, b := .one, c := .pair }
  | 0x8A | 0x8B | 0x8C => some { plainRow f 1 .v with a := .pair }
  | _ => none

/-- R265, R266: atomics, fences, barriers and completion bitmaps. -/
def syncRow (op : Nat) (f : Fields) : Option Row :=
  let t := f.ty
  let v := f.var.toNat
  let w := Opnd.byTy t
  let aty := wordTypes.contains t || floatTypes.contains t
  let avar (n : Nat) : Bool := decide (v < n) && !(t.isFloat && (v == 1 || v == 2 || v == 3))
  let grp := { plainRow f 1 .v with immOk := true, immReq := true, immMask := 0xFF }
  match op with
  | 0x90 => some { tyOk := aty, varOk := avar 7, cls := .v, dst := w, a := .pair, b := .one, c := w }
  | 0x91 => some { tyOk := aty, varOk := avar 7, cls := .v, dst := w, a := .one, b := w }
  | 0x92 => some { tyOk := t == .n32 || t == .n64, varOk := v == 0, cls := .v, dst := w, a := .pair, b := w, c := w }
  | 0x93 => some { tyOk := t == .n32 || t == .n64, varOk := v == 0, cls := .v, dst := w, a := .one, b := w, c := w }
  | 0x94 => some { tyOk := aty, varOk := avar 6, cls := .v, a := .pair, b := .one, c := w }
  | 0x95 => some (plainRow f 6 .v)
  | 0x96 => some grp
  | 0x97 => some { grp with dst := .one }
  | 0x98 => some { grp with a := .one }
  | 0x99 => some { plainRow f 3 .v with immOk := true, immReq := true, immMask := 0xF,
                                                            dst := if v == 1 then .one else .unused, a := if v == 2 then .one else .unused }
  | 0x9A => some { tyOk := t == .n32 || t == .n64, varOk := v == 0, cls := .v, a := .pair, b := w }
  | 0x9B | 0x9C => some { grp with a := .one }
  | 0x9D | 0x9E => some grp
  | _ => none

/-- R336, R337, R339: the matrix instructions. -/
def matrixRow (op : Nat) (f : Fields) : Option Row :=
  let t := f.ty
  let v := f.var.toNat
  let base (n : Nat) (mask : Word) : Row :=
    { plainRow f n .v with pred := false, immOk := true, immReq := true, immMask := mask }
  let go (mask : Word) : Row := { base 2 mask with dst := if v == 1 then .one else .unused, dstRead := v == 1, dstWrite := false }
  let mv : Row := { tyOk := t == .i32 || t == .f32 || t == .f64, varOk := v == 0, cls := .v, immOk := true, immReq := true,
                    immMask := 0xFFFF, dst := .byTy t, a := .one }
  match op with
  | 0xA0 => some { base 2 0xFF with a := if v == 1 then .lane 3 1 true false false false else .one }
  | 0xA1 => some (base 1 0xFF)
  | 0xA2 => some { go 0x1FFF with a := .one }
  | 0xA3 => some { go 0x7FF with a := .one }
  | 0xA4 => some (go 0x1FFFFF)
  | 0xA5 => some (go 0x1FFF)
  | 0xA6 => some (go 0xFFFF)
  | 0xA7 => some mv
  | 0xA8 => some { mv with dstRead := true, dstWrite := false }
  | 0xA9 => some { base 2 0xFF with dst := .pair }
  | _ => none

/-- R292, R411, R382, R436: selection, rink, handler and root-world instructions. -/
def unitRow (op : Nat) (f : Fields) : Option Row :=
  let t := f.ty
  let v := f.var.toNat
  let i := f.immVal
  match op with
  | 0xB0 =>
    let p := if v < 2 then Opnd.one else Opnd.pair
    some { tyOk := [Ty.i32, .n32, .f32, .i16x2, .n16x2, .f16x2, .bf16x2].contains t, varOk := decide (v < 4), cls := .v,
           a := p, b := .one, c := if v % 2 == 1 then p else .unused, immOk := v % 2 == 0 }
  | 0xB1 => some { plainRow f 2 .v with a := if f.isImm then .unused else if v == 0 then .one else .pair, immOk := true }
  | 0xB2 => some { plainRow f 1 .v with immOk := true, immReq := true, immGood := decide (1 ≤ i.toNat ∧ i.toNat ≤ 32) }
  | 0xB3 => some (plainRow f 1 .v)
  | 0xB4 => some { plainRow f 2 .v with a := .one, b := .one, immOk := true }
  | 0xB5 => some { plainRow f 1 .v with dst := .pair }
  | 0xB6 | 0xB7 => some { tyOk := true, varOk := v == 0, cls := .a, dst := .byTy t, a := .byTy t }
  | 0xB8 => some { plainRow f 1 .v with a := .one, immOk := true, immReq := true, immMask := 0xFF07 }
  | 0xB9 => some { plainRow f 1 .v with dst := .one, immOk := true, immReq := true, immMask := 0xFFFF07,
                                                            immGood := i.extractLsb' 16 8 != 0 }
  | 0xBA => some { plainRow f 1 .none with pred := false, immOk := true, immReq := true }
  | 0xBB => some { plainRow f 1 .none with a := .one }
  | 0xC0 => some { plainRow f 1 .none with pred := false }
  | 0xC1 => some { plainRow f 1 .v with dst := .one, a := .pair }
  | 0xC2 => some { plainRow f 2 .v with dst := .one, a := .pair }
  | 0xC3 => some (plainRow f 1 .none)
  | 0xC4 => some { plainRow f 1 .v with dst := .one, a := .one }
  | 0xC5 => some { plainRow f 3 .v with a := if v == 2 then .unused else .pair, immOk := true, immReq := true, immMask := 7,
                                                            immGood := !(v == 2) || decide (4 ≤ i.toNat) }
  | 0xC6 => some { plainRow f 1 .v with a := .pair, b := .pair, c := .one }
  | 0xC7 => some { plainRow f 3 .v with dst := .one, a := .pair, b := .pair, c := if v == 2 then .pair else .unused }
  | 0xC8 => some { plainRow f 4 .v with dst := .one, a := .one }
  | _ => none

/-- R54: the row of an operation code, none when the code is reserved. -/
def rowOf (op : Nat) (f : Fields) : Option Row :=
  match op / 16 with
  | 0x0 => controlRow op f
  | 0x1 | 0x2 | 0x3 => integerRow op f
  | 0x4 | 0x5 => floatRow op f
  | 0x6 => crossRow op f
  | 0x7 | 0x8 => memoryRow op f
  | 0x9 => syncRow op f
  | 0xA => matrixRow op f
  | 0xB | 0xC => unitRow op f
  | _ => none

/-- The special registers of R87 that a 32-bit read, a 64-bit read or a write may name. -/
def sregOk (w64 put : Bool) (r : Nat) : Bool :=
  if put then r == 0x06
  else if w64 then r == 0x0D || r == 0x0E || r == 0x0F || r == 0x13 || r == 0x15
  else decide (r ≤ 0x15) && !(r == 0x0D || r == 0x0E || r == 0x0F || r == 0x13 || r == 0x15)

/-- R56 reason 0x05: the register number of an operand under the declared count n. -/
def Opnd.regOk (o : Opnd) (n : Nat) (r : BitVec 8) : Bool :=
  match o with
  | .unused => true
  | .lane regs align _ _ _ _ => decide (r.toNat % align = 0) && decide (r.toNat + regs ≤ n)
  | .target => decide (r.toNat < 8)
  | .sreg w p => sregOk w p r.toNat
  | .base => decide (r.toNat < n)

/-- R47: the pattern arguments admitted with a pattern. -/
def Pat.kOk (p : Pat) (k : BitVec 5) : Bool :=
  match p with
  | .id => k == 0
  | .m => decide (1 ≤ k.toNat ∧ k.toNat ≤ 5)
  | .sg => decide (k.toNat ≤ 5)
  | _ => true

/-- R56 reason 0x06: the pattern of a source. -/
def Opnd.patOk (o : Opnd) (s : Src) : Bool :=
  match o with
  | .unused => true
  | .lane _ _ p _ _ _ => if p then s.pat.kOk s.k else s.pat == .id && s.k == 0
  | _ => s.pat == .id && s.k == 0

/-- R56 reason 0x07: the modifiers of a source. -/
def Opnd.modOk (o : Opnd) (s : Src) : Bool :=
  match o with
  | .unused => true
  | .lane _ _ _ n a h => (n || !s.neg) && (a || !s.abs) && (h || s.half == .none)
  | _ => !s.neg && !s.abs && s.half == .none

/-- A source field that holds zero (R39). -/
def Src.zero : Src := { reg := 0, pat := .id, k := 0, neg := false, abs := false, half := .none }

/-- R56 reason 0x09: an unused source field. -/
def Opnd.unusedOk (o : Opnd) (s : Src) : Bool :=
  match o with
  | .unused => s == Src.zero
  | _ => true

/-- The used sources of a word with their operand rows: in the immediate form only source a (R49). -/
def Row.sources (r : Row) (f : Fields) : List (Opnd × Src) :=
  match f.args with
  | .regs a b c => [(r.a, a), (r.b, b), (r.c, c)]
  | .imm a _ => [(r.a, a)]

/-- R56: the reasons 0x02 to 0x09 for which a word with this row fails, under the declared count n. -/
def Row.reasons (r : Row) (n : Nat) (f : Fields) : List Nat :=
  let ss := r.sources f
  let s := f.sched
  (if r.tyOk && r.varOk then [] else [2])
  ++ (if s.setf.toNat < 12 && r.cls != .none || s.setf == 15 then [] else [3])
  ++ (if s.pen then (if r.pred && decide (n ≤ s.preg.toNat) then [4] else [])
      else if r.pred && !(s.psense == false && s.preg == 0 && s.pbit == 0) then [4] else [])
  ++ (if r.dst.regOk n f.dst && ss.all (fun (o, x) => o.regOk n x.reg) then [] else [5])
  ++ (if ss.all (fun (o, x) => o.patOk x) then [] else [6])
  ++ (if ss.all (fun (o, x) => o.modOk x) then [] else [7])
  ++ (if (f.isImm && !r.immOk) || (!f.isImm && r.immReq) then [8] else [])
  ++ (if (r.dst != .unused || f.dst == 0) && ss.all (fun (o, x) => o.unusedOk x)
        && (!f.isImm || (f.immVal &&& ~~~ r.immMask == 0 && r.immGood))
        && (r.pred || !(s.pen || s.psense || s.preg != 0 || s.pbit != 0)) then [] else [9])

/-- The operation code of a constructor (R54); none for an event or a host command. -/
def Instr.opFields : Instr → Option (Nat × Fields)
  | .nop f => some (0x00, f)
  | .prep f => some (0x01, f)
  | .prepv f => some (0x02, f)
  | .xfer f => some (0x03, f)
  | .xfers f => some (0x04, f)
  | .join f => some (0x05, f)
  | .call f => some (0x06, f)
  | .ret f => some (0x07, f)
  | .loop f => some (0x08, f)
  | .hold f => some (0x09, f)
  | .icinv f => some (0x0A, f)
  | .sleep f => some (0x0B, f)
  | .exit f => some (0x0C, f)
  | .trap f => some (0x0D, f)
  | .iadd f => some (0x10, f)
  | .isub f => some (0x11, f)
  | .iaddc f => some (0x12, f)
  | .isubb f => some (0x13, f)
  | .imul f => some (0x14, f)
  | .imulh f => some (0x15, f)
  | .imad f => some (0x16, f)
  | .imadw f => some (0x17, f)
  | .ineg f => some (0x18, f)
  | .iabs f => some (0x19, f)
  | .imin f => some (0x1A, f)
  | .imax f => some (0x1B, f)
  | .iclamp f => some (0x1C, f)
  | .icmp f => some (0x1D, f)
  | .iset f => some (0x1E, f)
  | .sel f => some (0x1F, f)
  | .shl f => some (0x20, f)
  | .shr f => some (0x21, f)
  | .sar f => some (0x22, f)
  | .rotl f => some (0x23, f)
  | .rotr f => some (0x24, f)
  | .andOp f => some (0x25, f)
  | .orOp f => some (0x26, f)
  | .xorOp f => some (0x27, f)
  | .andn f => some (0x28, f)
  | .logt f => some (0x29, f)
  | .popc f => some (0x30, f)
  | .clz f => some (0x31, f)
  | .fnsb f => some (0x32, f)
  | .brev f => some (0x33, f)
  | .bfx f => some (0x34, f)
  | .bfi f => some (0x35, f)
  | .bperm f => some (0x36, f)
  | .mov f => some (0x37, f)
  | .movi f => some (0x38, f)
  | .movx f => some (0x39, f)
  | .movxw f => some (0x3A, f)
  | .movs f => some (0x3B, f)
  | .movsw f => some (0x3C, f)
  | .cvt f => some (0x3D, f)
  | .pack f => some (0x3E, f)
  | .unpk f => some (0x3F, f)
  | .fadd f => some (0x40, f)
  | .fsub f => some (0x41, f)
  | .fmul f => some (0x42, f)
  | .ffma f => some (0x43, f)
  | .fmin f => some (0x44, f)
  | .fmax f => some (0x45, f)
  | .fminp f => some (0x46, f)
  | .fmaxp f => some (0x47, f)
  | .fcmp f => some (0x48, f)
  | .fclass f => some (0x49, f)
  | .frnd f => some (0x4A, f)
  | .fscale f => some (0x4B, f)
  | .fexp f => some (0x4C, f)
  | .fdiv f => some (0x4D, f)
  | .fsqrt f => some (0x4E, f)
  | .rcp f => some (0x50, f)
  | .rsq f => some (0x51, f)
  | .ex2 f => some (0x52, f)
  | .lg2 f => some (0x53, f)
  | .fsin f => some (0x54, f)
  | .fcos f => some (0x55, f)
  | .tanh f => some (0x56, f)
  | .sigm f => some (0x57, f)
  | .dot4 f => some (0x58, f)
  | .dot8 f => some (0x59, f)
  | .dotf8 f => some (0x5A, f)
  | .dotf4 f => some (0x5B, f)
  | .dot2h f => some (0x5C, f)
  | .shfl f => some (0x60, f)
  | .shflx f => some (0x61, f)
  | .shflu f => some (0x62, f)
  | .shfld f => some (0x63, f)
  | .bcast f => some (0x64, f)
  | .vote f => some (0x65, f)
  | .ballot f => some (0x66, f)
  | .matchOp f => some (0x67, f)
  | .redi f => some (0x68, f)
  | .redf f => some (0x69, f)
  | .redm f => some (0x6A, f)
  | .scan f => some (0x6B, f)
  | .compact f => some (0x6C, f)
  | .ld f => some (0x70, f)
  | .st f => some (0x71, f)
  | .ldro f => some (0x72, f)
  | .pref f => some (0x73, f)
  | .tlock f => some (0x74, f)
  | .tfree f => some (0x75, f)
  | .lds f => some (0x76, f)
  | .sts f => some (0x77, f)
  | .sptag f => some (0x78, f)
  | .spset f => some (0x79, f)
  | .spclr f => some (0x7A, f)
  | .cpy f => some (0x80, f)
  | .cpym f => some (0x81, f)
  | .cpyg f => some (0x82, f)
  | .cscat f => some (0x83, f)
  | .cseal f => some (0x84, f)
  | .cwait f => some (0x85, f)
  | .rng f => some (0x88, f)
  | .trnode f => some (0x89, f)
  | .pgspec f => some (0x8A, f)
  | .pgcmt f => some (0x8B, f)
  | .pgdrop f => some (0x8C, f)
  | .atom f => some (0x90, f)
  | .atoms f => some (0x91, f)
  | .cas f => some (0x92, f)
  | .cass f => some (0x93, f)
  | .red f => some (0x94, f)
  | .fence f => some (0x95, f)
  | .bar f => some (0x96, f)
  | .bara f => some (0x97, f)
  | .barw f => some (0x98, f)
  | .nbar f => some (0x99, f)
  | .cwt f => some (0x9A, f)
  | .bitset f => some (0x9B, f)
  | .bitwait f => some (0x9C, f)
  | .gjoin f => some (0x9D, f)
  | .gleave f => some (0x9E, f)
  | .mres f => some (0xA0, f)
  | .mrel f => some (0xA1, f)
  | .mldb f => some (0xA2, f)
  | .mlda f => some (0xA3, f)
  | .mma f => some (0xA4, f)
  | .mspr f => some (0xA5, f)
  | .mzero f => some (0xA6, f)
  | .mmov f => some (0xA7, f)
  | .mput f => some (0xA8, f)
  | .mstat f => some (0xA9, f)
  | .qsbind f => some (0xB0, f)
  | .qsrank f => some (0xB1, f)
  | .qsstep f => some (0xB2, f)
  | .qsrun f => some (0xB3, f)
  | .qsmask f => some (0xB4, f)
  | .qsres f => some (0xB5, f)
  | .keyf f => some (0xB6, f)
  | .keyr f => some (0xB7, f)
  | .tsnd f => some (0xB8, f)
  | .trcv f => some (0xB9, f)
  | .atc f => some (0xBA, f)
  | .drft f => some (0xBB, f)
  | .tret f => some (0xC0, f)
  | .pgmap f => some (0xC1, f)
  | .pgunmap f => some (0xC2, f)
  | .eject f => some (0xC3, f)
  | .scrub f => some (0xC4, f)
  | .mext f => some (0xC5, f)
  | .shab f => some (0xC6, f)
  | .edsign f => some (0xC7, f)
  | .lockif f => some (0xC8, f)
  | _ => none

/-- R56: the reasons for which the scanner refuses the instruction under the declared count n. -/
def Instr.reasons (n : Nat) (i : Instr) : List Nat :=
  match i.opFields with
  | none => []
  | some (op, f) => match rowOf op f with
    | none => [1]
    | some r => r.reasons n f

/-- An instruction the scanner admits word by word, under the declared count n (R56, reasons 0x01 to 0x09). Every event
and host command is admitted: what it brings is checked by its own meaning. -/
def Instr.wf (n : Nat) (i : Instr) : Bool := (i.reasons n).isEmpty

end Sys2Proof
end

