-- ==== Sys2Proof/Machine/Ops.lean ====
section
/-! DEFINITION. The named operations over the state: lookup and update, time and freezes (R7, R362), completion of operations
(R15, R41), memory and the two stages of translation (R95 to R103, R403), fault records (R108 to R111), ejection (R106),
warp traps (R380) and the resolution of lane faults. -/
namespace Sys2Proof.Machine
open Sys2Proof

/-! ## Lookup and update. An identifier that names nothing reads as an idle default. -/

/-- The warp of an identifier. -/
def State.warp (s : State) (wid : Nat) : Warp := (s.warps.find? (·.id == wid)).getD {}
/-- Whether a warp exists. -/
def State.hasWarp (s : State) (wid : Nat) : Bool := s.warps.any (·.id == wid)
/-- The state with one warp changed. -/
def State.updWarp (s : State) (wid : Nat) (f : Warp → Warp) : State :=
  { s with warps := s.warps.map fun w => if w.id == wid then f w else w }
/-- The core of a number; cores are listed once they differ from an idle one. -/
def State.core (s : State) (c : Nat) : Core := (s.cores.find? (·.id == c)).getD { id := c }
/-- The state with one core changed. -/
def State.updCore (s : State) (c : Nat) (f : Core → Core) : State :=
  if s.cores.any (·.id == c) then { s with cores := s.cores.map fun x => if x.id == c then f x else x }
  else { s with cores := f { id := c } :: s.cores }
/-- The operation in flight of an identifier. -/
def State.op? (s : State) (o : Nat) : Option Op := s.ops.find? (·.id == o)
/-- The state with one operation changed. -/
def State.updOp (s : State) (o : Nat) (f : Op → Op) : State :=
  { s with ops := s.ops.map fun x => if x.id == o then f x else x }
/-- The state with every operation changed. -/
def State.mapOps (s : State) (f : Op → Op) : State := { s with ops := s.ops.map f }
/-- The operation with every lane's access changed. -/
def Op.mapAccs (x : Op) (f : Acc → Acc) : Op := { x with accs := x.accs.map f }
/-- An operation that writes through the outbound table (R251). -/
def OpKind.stores : OpKind → Bool
  | .store => true
  | _ => false
/-- A lane's access that no longer counts for its operation: performed, dropped, or left to its home. -/
def Acc.over (a : Acc) : Bool := a.stage == .done || a.stage == .gone || a.stage == .left
/-- The access of a lane that leaves its operation: a store that is stamped already is applied all the same (R251). -/
def Acc.drop (a : Acc) (stores : Bool) : Acc :=
  if a.over then a else if a.stage == .stamped && !a.pad && stores then { a with stage := .left } else { a with stage := .gone }
/-- The operation without the lanes of which `p` holds, unless they are done. -/
def Op.dropAccs (x : Op) (p : Nat → Bool) : Op := x.mapAccs fun a => if p a.lane then a.drop x.kind.stores else a
/-- The paddock of a number. -/
def State.pdk (s : State) (p : Nat) : Pdk := (s.pdks.find? (·.no == p)).getD { no := p }
/-- Whether a paddock exists (R428). -/
def State.hasPdk (s : State) (p : Nat) : Bool := s.pdks.any (·.no == p)
/-- The state with one paddock changed. -/
def State.updPdk (s : State) (p : Nat) (f : Pdk → Pdk) : State :=
  { s with pdks := s.pdks.map fun x => if x.no == p then f x else x }
/-- The launch record of an identifier. -/
def State.launchRec (s : State) (l : Nat) : Launch := (s.launches.find? (·.id == l)).getD {}
/-- The state with one launch record changed. -/
def State.updLaunch (s : State) (l : Nat) (f : Launch → Launch) : State :=
  { s with launches := s.launches.map fun x => if x.id == l then f x else x }
/-- A register of a paddock's page by its offset (R102, R349, R402, R427, R451). -/
def Pdk.reg (p : Pdk) (off : Nat) : BitVec 64 := mget p.regs off
/-- The page with one register changed. -/
def Pdk.setReg (p : Pdk) (off : Nat) (v : BitVec 64) : Pdk := { p with regs := mset p.regs off v }
/-- The image of a handle (R61). -/
def Pdk.image (p : Pdk) (h : Nat) : Option Image := p.images.find? (·.handle == h)
/-- The group table entry of a number (R81). -/
def Pdk.group (p : Pdk) (g : Nat) : Option Group := p.groups.find? (·.no == g)
/-- The paddock with one group changed. -/
def Pdk.updGroup (p : Pdk) (g : Nat) (f : Group → Group) : Pdk :=
  { p with groups := p.groups.map fun x => if x.no == g then f x else x }

/-- A number not used before, for a warp, an operation or a record. -/
def State.takeId (s : State) : Nat × State := (s.nextId, { s with nextId := s.nextId + 1 })
/-- A value the spec leaves open (log 5). -/
def State.freeVal (s : State) : DWord × State := (Config.freeWord s.fresh, { s with fresh := s.fresh + 1 })

/-! ## Where things are (R1, R424) -/

/-- The slice of a core. -/
def sliceOfCore (c : Nat) : Nat := c / Config.coresPerSlice
/-- The die of a core. -/
def dieOfCore (c : Nat) : Nat := c / Config.coresPerSlice / Config.slicesPerDie
/-- The home die of a device-physical address (R250). -/
def homeOf (pa : Nat) : Nat := (Config.homeDie (pa / 2 ^ 18)).val
/-- Whether an address lies in one of the slices of a mask. -/
def inShare (slices : Nat) (a : Nat) : Bool := bitAt slices (Config.sliceOf (a / 2 ^ 18)).val
/-- R424: the paddock in whose slices an address lies; the root world elsewhere. -/
def State.ownerOf (s : State) (pa : Nat) : Nat := ((s.pdks.find? fun q => inShare (q.reg 0x0C8).toNat pa).map (·.no)).getD 0
/-- Whether an address lies in the SRAM tier. -/
def inSramTier (pa : Nat) : Bool := Config.inSram (pa / 2 ^ 18)

/-! ## Time (R7, R362) -/

/-- Whether a core holds a warp of a timed launch (R418). -/
def State.holdsTimed (s : State) (c : Nat) : Bool := s.warps.any fun w => w.core == c && w.timed
/-- A wall cycle lies in the present skids (R418). -/
def Rink.skidAt (r : Rink) (wall : Nat) : Bool :=
  match r.skidEnds with | some e => decide (r.skidFrom ≤ wall) && decide (wall < e) | none => false
/-- A skid is being taken (R418). -/
def State.inSkid (s : State) : Bool := s.rink.skidAt s.wall
/-- Whether a core is frozen in the present wall cycle: by a cause of its own, or with a warp of a timed launch on it by the skids of the member
alone (R418). -/
def State.frozen (s : State) (c : Nat) : Bool :=
  let k := s.core c
  if s.holdsTimed c then s.inSkid else (decide (k.from_ ≤ s.wall) && decide (s.wall < k.until_)) || k.throttled
/-- The unfrozen cycle of a core. -/
def State.ucyc (s : State) (c : Nat) : Nat := s.wall - (s.core c).frozen
/-- R418, R419: skids are taken one after another, directly after the present cycle or the skid that runs. -/
def Rink.take (r : Rink) (wall n : Nat) : Rink :=
  let from_ := Nat.max (wall + 1) (r.skidEnds.getD 0)
  { r with skidFrom := if r.skidEnds.isSome then r.skidFrom else wall + 1, skidEnds := some (from_ + n * Config.skid), taken := r.taken + n }
/-- R418: the skids that a cause of `n` cycles after the present one starts, beyond the present ones. -/
def Rink.further (r : Rink) (wall n : Nat) : Nat := cdiv (n - ((r.skidEnds.getD 0) - (wall + 1))) Config.skid
/-- R408: this member's number. -/
def State.memberId (s : State) : Nat := fld (mget s.mgmt 0x100).toNat 24 8
/-- RKCTL. -/
def State.rkctl (s : State) : Nat := (mget s.mgmt 0x100).toNat
/-- R408, R450: a port is in rink mode: that of its link while it is up, else that of RKCTL. -/
def State.rinkPort (s : State) (p : Nat) : Bool :=
  match s.ports.find? fun x => x.no == p && x.up with | some x => x.rink | none => bitAt s.rkctl (8 + p)
/-- R419: an announcement is flooded over the rink-mode ports, once per link: not on the port it came in on. -/
def State.flood (s : State) (came : Option Nat) (mk : Nat → RinkSent) : State :=
  { s with rinkSent := (((List.range 8).filter fun p => s.rinkPort p && came != some p).map mk).reverse ++ s.rinkSent }
/-- R419: an own unplanned skid is announced and taken at once. -/
def State.ownSkid (s : State) : State :=
  let o := s.memberId
  let t := s.rink.rinkc.toNat
  let i := s.rink.index
  { (s.flood none fun p => .skid p o t i false) with
    rink := { (s.rink.take s.wall 1) with index := i + 1, done := (o, t, i) :: s.rink.done } }
/-- R418: skids of the whole member. -/
def State.ownSkids (s : State) : Nat → State
  | 0 => s
  | n + 1 => s.ownSkid.ownSkids n
/-- A cause freezes a core for `n` cycles after the present one; it extends a freeze that still runs. On a core that holds a warp of
a timed launch it starts a skid of the whole member (R418). -/
def State.freeze (s : State) (c n : Nat) : State :=
  if n = 0 then s else
  if s.holdsTimed c then s.ownSkids (s.rink.further s.wall n) else
  s.updCore c fun k =>
    if s.wall + 1 < k.until_ || s.wall < k.until_ then { k with until_ := Nat.max k.until_ (s.wall + 1 + n) }
    else { k with from_ := s.wall + 1, until_ := s.wall + 1 + n }
/-- TSC as a paddock's records and reads see it (R87, R402). -/
def State.tsc (s : State) (p : Nat) : DWord := BitVec.ofNat 64 s.wall + (s.pdk p).reg 0x0A0
/-- A launch identifier as exposed (R402). -/
def State.exposeLid (s : State) (p : Nat) (lid : Word) : Word := lid + ((s.pdk p).reg 0x0A8).truncate 32

/-! ## Warps -/

/-- R63: the active lanes. -/
def Warp.active (w : Warp) : Lanes := w.exm &&& w.live &&& ~~~w.park
/-- Lanes that are LIVE and not PARK. -/
def Warp.alive (w : Warp) : Lanes := w.live &&& ~~~w.park
/-- R76: register `r` of a lane. -/
def Warp.reg (w : Warp) (r lane : Nat) : Word := mget w.regs (32 * r + lane)
/-- A pair, the even register low (R44). -/
def Warp.reg64 (w : Warp) (r lane : Nat) : DWord := w.reg (r + 1) lane ++ w.reg r lane
/-- The ASID of a lane (R66). -/
def Warp.asidOf (w : Warp) (lane : Nat) : Nat := (mget w.asid lane).toNat
/-- The lanes of an ASID. -/
def Warp.asidMask (w : Warp) (a : Nat) : Lanes := maskOf fun i => w.asidOf i == a
/-- R68: share(i, j). -/
def Warp.shares (w : Warp) (i j : Nat) : Bool :=
  w.alive.getLsbD j && (i == j || w.asidOf i == w.asidOf j || (mget w.share i).getLsbD j)
/-- R87: the SHARE register of a lane. -/
def Warp.shareMask (w : Warp) (i : Nat) : Lanes := maskOf fun j => w.shares i j
/-- R69: the lanes of a mask span more than one share set. -/
def Warp.spans (w : Warp) (m : Lanes) : Bool :=
  (lanesOf m).any fun i => (lanesOf m).any fun j => !w.shares i j
/-- R41: a completion flag. -/
def Warp.flag (w : Warp) (n : Nat) : Nat := (mget w.flags n).toNat
/-- R41: a flag counts up or down. -/
def Warp.addFlag (w : Warp) (n : Nat) (d : BitVec 6) : Warp := { w with flags := mset w.flags n (mget w.flags n + d) }
/-- An open region with words left to issue. -/
def Warp.inRegion (w : Warp) : Bool := match w.region with | some r => r.left != 0 | none => false
/-- The flag that an operation counts, if any, counts down. -/
def Warp.flagDown (w : Warp) : Option Nat → Warp
  | some n => w.addFlag n (-1)
  | none => w
/-- R191: a branch-target register. -/
def Warp.breg (w : Warp) (b : Nat) : BReg := (w.bregs[b]?).getD {}
/-- R191: the registers with one written; the list grows to hold it. -/
def Warp.setBreg (w : Warp) (b : Nat) (x : BReg) : Warp :=
  { w with bregs := (List.range 8).map fun i => if i == b then x else w.breg i }
/-- R83: the member slot of a group. -/
def Warp.member? (w : Warp) (g : Nat) : Option Member := w.members.find? (·.group == g)
/-- R82: the ordinal of a warp in its launch: ((x + X y) c + k) w + m. -/
def Warp.ordinal (w : Warp) (gridx : Nat) : Nat :=
  let sh := w.clshape.toNat
  let cl := w.clid.toNat
  ((fld cl 0 16 + gridx * fld cl 16 16) * (fld sh 8 2 + 1) + fld sh 16 2) * (fld sh 0 4 + 1) + fld sh 12 4
/-- R63, R389: EXM takes a value; HELD lanes whose bit is set become LIVE. -/
def Warp.setExm (w : Warp) (v : Lanes) : Warp :=
  { w with exm := v, live := w.live ||| (w.held &&& v), held := w.held &&& ~~~v }
/-- One fixed-class result lands: its flag counts down, its registers and EXM are written (R41, R51, R163). -/
def Warp.landOne (w : Warp) (l : Landing) : Warp :=
  let w := { (w.flagDown l.flag) with regs := msetAll w.regs l.writes }
  match l.exm with | some v => w.setExm v | none => w
/-- R52: the writes of fixed-class results that are due reach the registers; EXM and the flags wait for the rest of each landing. -/
def Warp.landWrites (w : Warp) (now : Nat) : Warp :=
  let lands (l : Landing) : Bool := decide (l.due < now) || (l.due == now && !l.late)
  { w with regs := (sortBy Landing.due (w.pend.filter lands)).foldl (fun m l => msetAll m l.writes) w.regs
           pend := w.pend.map fun l => if lands l then { l with writes := [] } else l }
/-- R53: every fixed-class result lands. -/
def Warp.landAll (w : Warp) : Warp := w.pend.foldl Warp.landOne { w with pend := [] }

/-- The unfrozen cycle of a warp's core. -/
def State.now (s : State) (w : Warp) : Nat := s.ucyc w.core

/-! ## Registers written by operations of class V (R50 to R52) -/

/-- Registers of class V land in the warp as it stood before a later instruction, after the fixed-class results that land no later (R52). -/
def Warp.landBefore (b : Warp) (now : Nat) (ws : List (Nat × Word)) : Warp :=
  if ws.isEmpty then b else
    let b := b.landWrites now
    { b with regs := msetAll b.regs ws }

/-- A value lands in a warp's registers, and in what the warp looked like before every operation issued later than `o`, and in
the parked records and deferred faults of such: an ejection at one of those keeps the results of earlier instructions (R16, R53, R107). -/
def State.landRegs (s : State) (wid o : Nat) (ws : List (Nat × Word)) : State :=
  let now := s.now (s.warp wid)
  let s := s.updWarp wid fun w => { w with regs := msetAll w.regs ws }
  let s := s.mapOps fun x => if x.wid == wid && decide (o < x.id) then { x with before := x.before.landBefore now ws } else x
  let late (r : Parked) : Parked := { r with before := r.before.landBefore now ws }
  let deferred (d : Deferred) : Deferred := { d with before := d.before.landBefore now ws }
  { s with parked := s.parked.map fun r => if r.wid == wid && decide (o < r.upto) then late r else r
           deferred := s.deferred.map fun d => if d.wid == wid && decide (o < d.upto) then deferred d else d }

/-- The writes of `n` lane registers from `r` on with the bits of a value (R5, R116). -/
def regWrites (r lane n : Nat) (v : Nat) : List (Nat × Word) :=
  (List.range n).map fun k => (32 * (r + k) + lane, BitVec.ofNat 32 (v / 2 ^ (32 * k)))

/-- An operation ends: its flag counts down and it leaves the list (R41). -/
def State.endOp (s : State) (o : Nat) : State :=
  match s.op? o with
  | none => s
  | some x => { (s.updWarp x.wid fun w => w.flagDown x.flag) with ops := s.ops.filter (·.id != o) }

/-- What lands when an operation ends: the old values of an atomic (R269), the status of a root-world instruction (R436). Other kinds
land lane by lane, or nothing. -/
def Op.lastWrites (x : Op) : List (Nat × Word) :=
  match x.kind with
  | .simple | .scrub _ => (lanesOf x.mask).flatMap fun i => regWrites x.dst i x.nregs x.bytes
  | .atomic .. | .cas | .root _ => (x.accs.filter (·.stage == .done)).flatMap fun a => regWrites x.dst a.lane x.nregs a.old.toNat
  | _ => []

/-- R15, R107, R251: the flag counts down, and what is left of the operation is the stores that ejected lanes had stamped and the accesses of
ejected lanes that their record waits for. -/
def State.leaveOp (s : State) (x : Op) : State :=
  (s.updWarp x.wid fun w => w.flagDown x.flag).updOp x.id fun y =>
    { y with flag := none, mask := y.mask &&& maskOf fun i => y.accs.any fun a => a.lane == i && !a.over
             accs := y.accs.filter fun a => a.stage != .done && a.stage != .gone }
/-- Accesses of ejected lanes, or stores that they had stamped, are left of the operation. -/
def Op.leaves (x : Op) : Bool := x.accs.any fun a => a.stage == .left || !a.over
/-- R15: an operation whose every lane has completed or left it, or has been ejected from its warp, counts its flag down; it ends once every
lane has completed. -/
def State.settle (s : State) (o : Nat) : State :=
  match s.op? o with
  | none => s
  | some x =>
    if !x.accs.all fun a => a.over || (s.warp x.wid).park.getLsbD a.lane then s
    else
      let s := s.landRegs x.wid o x.lastWrites
      if x.leaves then s.leaveOp x else s.endOp o

/-! ## Device-physical memory -/

/-- The canonical form of memory: addresses strictly rise, and no listed byte is zero, as an unlisted one reads (log 2). -/
def Memory.wf (m : List Host.Cell) : Bool := rising 0 m
/-- R13, R374: where an access to a retired frame goes. -/
def State.home (s : State) (pa : Nat) : Nat :=
  match alist s.redirect (pa / 2 ^ 18) with
  | some f => f * 2 ^ 18 + pa % 2 ^ 18
  | none => pa
/-- The bytes at a device-physical address. -/
def State.peek (s : State) (pa n : Nat) : List (BitVec 8) := getBytes s.mem (s.home pa) n
/-- The bytes are written; nothing else. -/
def State.poke (s : State) (pa : Nat) (bs : List (BitVec 8)) : State := { s with mem := putBytes s.mem (s.home pa) bs }
/-- R429: the world of a paddock: its number and the draw of its keys. -/
def State.worldOf (s : State) (p : Nat) : Nat × Nat := (p, (s.pdk p).world)
/-- R429: new keys are drawn for a paddock's world. -/
def State.drawKeys (s : State) (p : Nat) : State :=
  { s with draws := s.draws + 1, pdks := s.pdks.map fun q => if q.no == p then { q with world := s.draws + 1 } else q }
/-- R431: a line of LPDDR-6 that was last written under another world's keys: its MAC fails (log 55). -/
def State.foreign (s : State) (p pa : Nat) : Bool :=
  match alist s.worlds (s.home pa / 64) with
  | some o => o != s.worldOf p && !inSramTier (s.home pa)
  | none => false
/-- R13, R431: how the line of an address stands for an access of a paddock. -/
def State.markOf (s : State) (p pa : Nat) : Option LineMark :=
  if s.foreign p pa then some .lasting else alist s.marks (s.home pa / 64)
/-- The lines of the bytes at an address. -/
def linesOf (pa n : Nat) : List Nat := (List.range ((pa + n - 1) / 64 + 1 - pa / 64)).map fun k => 64 * (pa / 64 + k)
/-- The parts of a range inside one line each. -/
def linePieces (va len : Nat) : List (Nat × Nat) :=
  if len = 0 then []
  else (List.range ((va + len - 1) / 64 - va / 64 + 1)).map fun k =>
    let lo := Nat.max va ((va / 64 + k) * 64)
    (lo, Nat.min (va + len) ((va / 64 + k + 1) * 64) - lo)
/-- R242: bytes that the copy of a poisoned word wrote. -/
def State.poisoned (s : State) (pa n : Nat) : Bool := (List.range n).any fun k => s.poison.contains (s.home (pa + k) / 4)
/-- R13: bytes that an access of a paddock cannot read, whatever it retries. -/
def State.unreadable (s : State) (p pa n : Nat) : Bool :=
  (linesOf pa n).any (fun l => (s.markOf p l).any (· != .transient)) || s.poisoned pa n
/-- R429: lines are written under the keys of a paddock's world. -/
def State.own (s : State) (p pa n : Nat) : State :=
  { s with worlds := (linesOf pa n).foldl (fun m l => aput m (s.home l / 64) (s.worldOf p)) s.worlds }

/-! ## The interface and the second stage -/

/-- R427: IFSTATE [1:0]. -/
def Pdk.ifstate (p : Pdk) : Nat := fld (p.reg 0x0DC).toNat 0 2
/-- R427: IFSTATE.HALT. -/
def Pdk.halted (p : Pdk) : Bool := bitAt (p.reg 0x0DC).toNat 2
/-- R352, R433: a halt that stops the warps too: under a skip or a tag failure of the ring the accepted commands run on (log 32). -/
def Pdk.stalled (p : Pdk) : Bool := p.halted && !(fld (p.reg 0x0DC).toNat 8 8 == 2 || fld (p.reg 0x0DC).toNat 8 8 == 3)
/-- R427: PDCFG.SEALED. -/
def Pdk.isSealed (q : Pdk) : Bool := bitAt (q.reg 0x0C0).toNat 1
/-- R435, R443: the warps of a paddock issue, and are saved. -/
def State.pdkRuns (s : State) (p : Nat) : Bool :=
  p = 0 || (s.hasPdk p && (s.pdk p).ifstate != 3 && !(s.pdk p).stalled && !(s.pdk p).stopping)
/-- R432: the share of a sealed paddock serves no other. -/
def State.serves (s : State) (p a : Nat) : Bool :=
  p == 0 || s.pdks.all fun q => !q.isSealed || q.no == p || !inShare (q.reg 0x0C8).toNat a
/-- R432: a sealed paddock's context area and fault queue lie in its own channels. -/
def State.ownChannels (s : State) (p a : Nat) : Bool :=
  !(s.pdk p).isSealed || (inShare ((s.pdk p).reg 0x0C8).toNat a && !inSramTier a)
/-- R435, R448: an interrupt message of a function is sent: 0 fault, 1 completion record, 2 ERROR. -/
def State.raise (s : State) (p vec : Nat) : State := { s with irqs := (p, vec) :: s.irqs }
/-- R433, R435: an event that leads to ERROR; in CONFIG_UNLOCKED it sets HALT instead. Every warp of the paddock stops issuing, but
for a halt of the ring (R352). -/
def State.ifError (s : State) (p cause : Nat) : State :=
  let q := s.pdk p
  if q.ifstate == 3 || q.stalled then s else
  let v := if q.ifstate == 0 then 4 else 3
  let s := s.updPdk p fun q => q.setReg 0x0DC (BitVec.ofNat 64 (cause * 256 + v))
  let s := if q.ifstate == 0 then s.updPdk p fun q => q.setReg 0x06C (q.reg 0x06C ||| 4) else s
  let s := if q.ifstate == 0 then s else s.raise p 2
  if q.ifstate == 0 && (cause == 2 || cause == 3) then s
  else { s with warps := s.warps.map fun w => if w.pdk == p then { w with stopped := true } else w }

/-- R1, R424: a device-physical address of the memory there is. -/
def inDevice (pa : Nat) : Option Nat := if pa < Config.frames * 2 ^ 18 then some pa else none
/-- R403: a valid second-stage entry at a device-physical address; none where its line does not read (R13; under the keys of the
paddock whose slices hold it, log 55). -/
def State.s2Entry (s : State) (at_ : Nat) : Option Nat :=
  if s.unreadable (s.ownerOf at_) at_ 8 then none else
  let e := ofLe (s.peek at_ 8)
  if bitAt e 63 then some e else none
/-- R403: the level-A entry of an address. -/
def State.s2A (s : State) (p pa : Nat) : Nat := fld ((s.pdk p).reg 0x0B0).toNat 12 34 * 2 ^ 12 + 8 * fld pa 33 13
/-- R403: the level-B entry of an address, by its level-A entry. -/
def s2B (a pa : Nat) : Nat := fld a 12 34 * 2 ^ 12 + 8 * fld pa 24 9
/-- R403: the second stage is on. -/
def State.s2On (s : State) (p : Nat) : Bool := bitAt ((s.pdk p).reg 0x0B0).toNat 0
/-- R403: the device-physical address of a paddock-physical one; none at an invalid entry, nor in the share of another paddock that is sealed
(R432, log 10). Without the second stage the two are the same (log 10). -/
def State.s2 (s : State) (p pa : Nat) : Option Nat :=
  (if s.s2On p then
    (s.s2Entry (s.s2A p pa)).bind fun a => (s.s2Entry (s2B a pa)).bind fun b => inDevice (fld b 24 22 * 2 ^ 24 + fld pa 0 24)
  else inDevice pa).filter (s.serves p)
/-- The device-physical addresses of the second-stage entries that an address is looked up in. -/
def State.s2Reads (s : State) (p pa : Nat) : List Nat :=
  if s.s2On p then s.s2A p pa :: (s.s2Entry (s.s2A p pa)).toList.map fun a => s2B a pa else []

/-- The device reads `n` bytes at a paddock-physical address, inside one 16 MiB frame: nothing where a line of them fails (R13, R431). -/
def State.devRead (s : State) (p pa n : Nat) : Option Nat :=
  (s.s2 p pa).bind fun a => if s.unreadable p a n then none else some (ofLe (s.peek a n))
/-- What an access meets whose table entry cannot be read: PROT where the second stage fails (R403), POISON where the line does (log 56). -/
def State.readFault (s : State) (p pa : Nat) : Nat := if (s.s2 p pa).isNone then 2 else 4

/-- R62: the frame of a paddock-physical address is in the executable-frame table. -/
def State.execFrame (s : State) (p pa : Nat) : Bool := (s.pdk p).exframes.contains (pa / 2 ^ 18)
/-- R62: a device-physical address lies in a frame of the table. -/
def State.execDev (s : State) (p pa : Nat) : Bool :=
  (s.pdk p).exframes.any fun f => (s.s2 p (f * 2 ^ 18)).map (s.home · / 2 ^ 18) == some (s.home pa / 2 ^ 18)

/-! ## Storage errors (R13, R374, R431) -/

/-- R13: the bytes of a 256 KiB frame copied to another. -/
def copyFrame (m : List Host.Cell) (src dst : Nat) : List Host.Cell :=
  let inF (f : Nat) (c : Host.Cell) : Bool := c.1 / 2 ^ 18 == f
  msetAll (m.filter fun c => !inF dst c) ((m.filter (inF src)).map fun c => (dst * 2 ^ 18 + c.1 % 2 ^ 18, c.2))

/-- A counter of the management page, saturating at 32 bits. -/
def State.mgmtCount (s : State) (off : Nat) : State :=
  { s with mgmt := mset s.mgmt off (BitVec.ofNat 64 (Nat.min 0xFFFFFFFF ((mget s.mgmt off).toNat + 1))) }

/-- A paddock-physical frame's device-physical frame, after redirection. -/
def State.devFrame (s : State) (p f : Nat) : Option Nat := (s.s2 p (f * 2 ^ 18)).map fun a => s.home a / 2 ^ 18
/-- R62, R97: the first frame of a pool that the device reaches and that is not executable: its paddock-physical and device-physical numbers, and
the rest of the pool. -/
def State.spareFrame (s : State) (p : Nat) : List Nat → Option (Nat × Nat × List Nat)
  | [] => none
  | f :: r =>
    match s.devFrame p f with
    | some d => if s.execDev p (d * 2 ^ 18) then (s.spareFrame p r).map fun x => (x.1, x.2.1, f :: x.2.2) else some (f, d, r)
    | none => (s.spareFrame p r).map fun x => (x.1, x.2.1, f :: x.2.2)

/-- R13: the frame of a lasting failure moves to a pool frame, where the failing line is poisoned; none while the pool is empty. A line of
the pool frame that fails itself goes on failing. DESIGN
CHOICE (log 48): every other line of the old frame that no longer reads is poisoned there too and holds zeros, and a line that would
have read at its retry is copied without a mark. -/
def State.retire (s : State) (p pa : Nat) : Option State :=
  match s.spareFrame p (s.pdk p).pool with
  | none => none
  | some (_, new, r) =>
      let old := s.home pa / 2 ^ 18
      let failing := (s.marks.filter fun k => k.2 != .transient).map (·.1) ++ (s.worlds.filter fun k => s.foreign p (64 * k.1)).map (·.1)
      let bad := (failing.filter fun l => l / 4096 == old).eraseDups
      let moved (l : Nat) : Nat := new * 4096 + l % 4096
      let s := s.updPdk p fun q => { q with pool := r }
      let mem := mdrop (copyFrame s.mem old new) fun a => (bad.map moved).contains (a / 64)
      let marks := (s.marks.filter fun k => k.1 / 4096 != old) ++
        ((bad.map moved).filter fun l => (alist s.marks l).isNone).map fun l => (l, .poison)
      let worlds := (s.worlds.filter fun k => k.1 / 4096 != old && k.1 / 4096 != new) ++
        (s.worlds.filter fun k => k.1 / 4096 == old && !bad.contains k.1).map fun k => (moved k.1, k.2)
      let poison := (s.poison.filter fun w => w / 65536 != old && w / 65536 != new) ++
        (s.poison.filter fun w => w / 65536 == old).map fun w => new * 65536 + w % 65536
      let redirect := (old, new) :: s.redirect.map fun x => if x.2 == old then (x.1, new) else x
      some ({ s with mem, marks, worlds, poison, redirect }.mgmtCount 0x01C)

/-- R362: a core's access to the SRAM tier that is retried freezes it (log 57). -/
def State.retried (s : State) (core : Option Nat) (pa : Nat) : State :=
  match core with
  | some c => if inSramTier (s.home pa) then s.freeze c Config.retryCycles else s
  | none => s
/-- R13: an access to a line that stands as given: whether it succeeds after the retry. -/
def State.eccMark (s : State) (core : Option Nat) (p pa : Nat) (spec : Bool) : Option LineMark → Bool × State
  | none => (true, s)
  | some .transient =>
    (true, ({ s with marks := s.marks.filter fun k => k.1 != s.home pa / 64 }.mgmtCount 0x018).retried core pa)
  | some .poison => (false, s)
  | some .lasting => let s := s.retried core pa; if spec then (false, s) else (false, (s.retire p pa).getD s)
/-- R13, R242, R374: an access of a core, or of the device, to `n` bytes of one line: whether it succeeds after the retry. -/
def State.ecc (s : State) (core : Option Nat) (p pa n : Nat) (spec : Bool) : Bool × State :=
  if s.poisoned pa n then (false, s) else s.eccMark core p pa spec (s.markOf p pa)
/-- R13, R431: a write of `n` bytes of one line: a whole line is written without being read, so its MAC is not checked. -/
def State.eccWrite (s : State) (core : Option Nat) (p pa n : Nat) (spec : Bool) : Bool × State :=
  if n == 64 && pa % 64 == 0 && !s.poisoned pa n then s.eccMark core p pa spec (alist s.marks (s.home pa / 64))
  else s.ecc core p pa n spec
/-- R371: a device-physical address lies in a speculative frame of a paddock. -/
def State.specDev (s : State) (p pa : Nat) : Bool :=
  (s.pdk p).spec.any fun x => (s.s2 p (x.1 * 2 ^ 18)).map (s.home · / 2 ^ 18) == some (s.home pa / 2 ^ 18)
/-- R13: lookups in the second stage: failures of its tables are logged, and frames retired. -/
def State.noteS2 (s : State) (p pa : Nat) : State :=
  (s.s2Reads p pa).foldl (fun (t : State) at_ => (t.ecc none (t.ownerOf at_) at_ 8 false).2) s
/-- R13, R374: the device's own reads of some paddock-physical bytes: failures are logged, and frames retired. -/
def State.noteReads (s : State) (p : Nat) (reads : List (Nat × Nat)) : State :=
  reads.foldl (fun (t : State) r =>
    let t := t.noteS2 p r.1
    match t.s2 p r.1 with
    | some a => (linesOf a r.2).foldl (fun t l => (t.ecc none p l 64 (t.specDev p l)).2) t
    | none => t) s

/-! ## The first stage (R95 to R98) -/

/-- R98, R105: what a walk ends in. -/
inductive Walk where
  | leaf (e : TlbEntry)
  | fault (code : Nat) (ft : Bool)
  deriving DecidableEq, Repr, Inhabited

/-- R96: the index of a virtual address at a level. -/
def walkIndex (va lev : Nat) : Nat :=
  match lev with
  | 0 => fld va 48 9 | 1 => fld va 39 9 | 2 => fld va 30 9 | 3 => fld va 24 6 | _ => fld va 18 6

/-- The bits of a page offset at a leaf's level. -/
def pageBits (lev : Nat) : Nat := match lev with | 2 => 30 | 3 => 24 | _ => 18

/-- R90, R96: an address of a window, or one that is not canonical: its level-0 entry is never read. -/
def inWindows (va : Nat) : Bool := decide (0x1FE * 2 ^ 48 ≤ va)
/-- What ends a walk: an entry, by its paddock-physical address, level and value; or one that cannot be read. -/
inductive WalkEnd where
  | entry (at_ lev e : Nat)
  | unread (at_ : Nat)
  deriving DecidableEq, Repr, Inhabited
/-- R96 to R98: the entries from `tbl` on, up to the one that ends the walk. `n` counts the levels left. -/
def State.walkEnd (s : State) (p va tbl lev : Nat) : Nat → WalkEnd
  | 0 => .unread tbl
  | n + 1 =>
    let at_ := tbl + 8 * walkIndex va lev
    match s.devRead p at_ 8 with
    | none => .unread at_
    | some e =>
      if fld e 62 2 == 3 && !bitAt e 61 && fld e 46 11 == 0 && fld e 0 9 == 0 && decide (lev < 4) then
        s.walkEnd p va (fld e 9 37 * 2 ^ 9) (lev + 1) n
      else .entry at_ lev e
/-- The paddock-physical addresses of the entries that a walk from `tbl` on reads. -/
def State.walkPath (s : State) (p va tbl lev : Nat) : Nat → List Nat
  | 0 => []
  | n + 1 =>
    let at_ := tbl + 8 * walkIndex va lev
    at_ :: (match s.devRead p at_ 8 with
      | none => []
      | some e =>
        if fld e 62 2 == 3 && !bitAt e 61 && fld e 46 11 == 0 && fld e 0 9 == 0 && decide (lev < 4) then
          s.walkPath p va (fld e 9 37 * 2 ^ 9) (lev + 1) n
        else [])
/-- R95: the paddock-physical address of an ASID's entry in the ASID table. -/
def State.asidEntry (s : State) (p asid : Nat) : Nat := fld ((s.pdk p).reg 0x008).toNat 12 34 * 2 ^ 12 + 8 * asid

/-- R95: the paddock-physical level-0 table of an ASID. -/
def State.rootTable (s : State) (p asid : Nat) : Option Nat :=
  match s.devRead p (s.asidEntry p asid) 8 with
  | some e => if bitAt e 0 then some (fld e 12 34 * 2 ^ 12) else none
  | none => none
/-- The reads of a walk under an ASID, as paddock-physical addresses and lengths. -/
def State.walkReads (s : State) (p asid va : Nat) : List (Nat × Nat) :=
  (s.asidEntry p asid, 8) :: (match s.rootTable p asid with
    | some t => if inWindows va then [] else (s.walkPath p va t 0 5).map fun a => (a, 8)
    | none => [])

/-- R95 to R98: a walk under an ASID. An entry the second stage cannot reach gives PROT (R403). DESIGN CHOICE (log 53): an entry whose STATE
is not 0b11 gives the result of its STATE, whatever its reserved bits hold. -/
def State.walk (s : State) (p asid va : Nat) : Walk :=
  match s.devRead p (s.asidEntry p asid) 8 with
  | none => .fault (s.readFault p (s.asidEntry p asid)) false
  | some r =>
    if !bitAt r 0 then .fault 1 false else
    if inWindows va then .fault 2 false else
    match s.walkEnd p va (fld r 12 34 * 2 ^ 12) 0 5 with
    | .unread at_ => .fault (s.readFault p at_) false
    | .entry _ lev e =>
      match fld e 62 2 with
      | 0 | 2 => .fault 1 false
      | 1 => .fault 1 true
      | _ =>
        let pb := pageBits lev
        let pa := fld e 9 37 * 2 ^ 9
        if fld e 46 11 != 0 || fld e 0 9 != 0 || !bitAt e 61 || decide (lev < 2) || pa % 2 ^ pb != 0 || (bitAt e 59 && bitAt e 58) then .fault 2 false
        else .leaf { pdk := p, asid, page := va / 2 ^ pb * 2 ^ pb, size := 4 - lev, frame := pa, rd := bitAt e 60, wr := bitAt e 59,
                     ex := bitAt e 58, spec := bitAt e 57 }

/-! ## TLBs (R99 to R104) -/

/-- The bits of an entry's page offset. -/
def TlbEntry.bits (e : TlbEntry) : Nat := pageBits (4 - e.size)
/-- The paddock-physical address an entry gives. -/
def TlbEntry.addr (e : TlbEntry) (va : Nat) : Nat := e.frame + va % 2 ^ e.bits
/-- R403: the entry with the second stage composed into it. -/
def State.compose (s : State) (e : TlbEntry) : TlbEntry :=
  { e with dev := (List.range (Nat.max 1 (2 ^ e.bits / 2 ^ 24))).map fun k => s.s2 e.pdk ((e.frame / 2 ^ 24 + k) * 2 ^ 24) }
/-- R101, R403: the device-physical address an entry gives: as composed; a second-stage entry that was invalid is looked up again. -/
def State.deviceAt (s : State) (e : TlbEntry) (va : Nat) : Option Nat :=
  let pa := e.addr va
  match e.dev[pa / 2 ^ 24 - e.frame / 2 ^ 24]? with
  | some (some b) => (some (b + pa % 2 ^ 24)).filter (s.serves e.pdk)
  | _ => s.s2 e.pdk pa
/-- Whether an entry covers an address of an ASID of a paddock, at a moment of its own count. -/
def TlbEntry.hits (e : TlbEntry) (p asid va now : Nat) : Bool :=
  e.pdk == p && e.asid == asid && va / 2 ^ e.bits == e.page / 2 ^ e.bits && decide (now < e.ends)
/-- The same translation, by whom it belongs to. -/
def TlbEntry.same (a b : TlbEntry) : Bool := a.pdk == b.pdk && a.asid == b.asid && a.page == b.page && a.size == b.size
/-- R99: a lookup in the core TLB. -/
def State.tlbHit (s : State) (c p asid va : Nat) : Option TlbEntry :=
  (s.core c).tlb.find? fun e => e.hits p asid va (s.ucyc c)
/-- The oldest entries without a lock leave until at most `cap` are listed; the newest stands first. -/
def trimTlb (cap : Nat) (l : List TlbEntry) : List TlbEntry :=
  if l.length ≤ cap then l
  else
    let rec dropOldest : List TlbEntry → List TlbEntry
      | [] => []
      | e :: r => if e.locks.isEmpty then r else e :: dropOldest r
    (dropOldest l.reverse).reverse
/-- R100: an entry enters the core TLB with `life` cycles of lease left; a locked entry of the same page keeps its locks. -/
def State.fillCore (s : State) (c : Nat) (e : TlbEntry) (life : Nat) : State :=
  if life = 0 then s else
  s.updCore c fun k =>
    let old := k.tlb.find? fun x => x.same e
    let e' := { e with ends := s.ucyc c + life, locks := (old.map (·.locks)).getD [] }
    { k with tlb := trimTlb 256 (e' :: k.tlb.filter fun x => !x.same e) }
/-- R99, R100: translate under an ASID from a core: the core TLB, then the slice TLB, then a walk, whose present leaf enters
both. DESIGN CHOICE (log 53): an entry of the core TLB that the slice TLB fills has what is left of the slice entry's lease. -/
def State.translate (s : State) (c p asid va : Nat) : Walk × State :=
  match s.tlbHit c p asid va with
  | some e => (.leaf e, s)
  | none =>
    let sl := sliceOfCore c
    match s.stlb.find? fun x => x.1 == sl && x.2.hits p asid va s.wall with
    | some (_, e) => (.leaf e, s.fillCore c e (e.ends - s.wall))
    | none =>
      let s := s.noteReads p (s.walkReads p asid va)
      match s.walk p asid va with
      | .fault code ft => (.fault code ft, s)
      | .leaf e =>
        let lease := fld ((s.pdk p).reg 0x000).toNat 0 16
        let s := s.noteS2 p (e.addr va)
        let e := { s.compose e with lease }
        let s := s.fillCore c e (lease * 64)
        let s := if lease = 0 then s else
          let mine := (s.stlb.filter fun x => x.1 == sl && !x.2.same e).take 8191
          { s with stlb := (sl, { e with ends := s.wall + lease * 64 }) :: mine ++ s.stlb.filter fun x => x.1 != sl }
        (.leaf e, s)

/-- R101, R102: the largest LEASE of any entry of the paddock that may still be unexpired. -/
def State.xlmaxl (s : State) (p : Nat) : Nat :=
  let ofCores := s.cores.flatMap fun k =>
    (k.tlb.filter fun e => e.pdk == p && decide (s.ucyc k.id < e.ends)).map (·.lease)
  let ofSlices := (s.stlb.filter fun x => x.2.pdk == p && decide (s.wall < x.2.ends)).map (·.2.lease)
  (ofCores ++ ofSlices).foldl Nat.max 0

/-- The device reads `n` bytes at a virtual address under an ASID, by a walk of its own; the access lies in one page. -/
def State.vread (s : State) (p asid va n : Nat) : Option Nat :=
  match s.walk p asid va with
  | .leaf e => if e.rd then s.devRead p (e.addr va) n else none
  | .fault .. => none

/-- The device-physical address of a virtual one, if its leaf admits the access. -/
def State.vaddr (s : State) (p asid va : Nat) (wr : Bool) : Option Nat :=
  match s.walk p asid va with
  | .leaf e => if (if wr then e.wr && !s.execFrame p (e.addr va) else e.rd) then s.s2 p (e.addr va) else none
  | .fault .. => none

/-- R81: the device-physical address of bytes that the device writes in a process, if their leaf has RD = 1 and WR = 1. DEDUCED (log 52): nor may
their frame stand in the executable-frame table, which no path writes (R62): at a launch such an object is one that R81 refuses, later the
write is one that faults. -/
def State.vaddrRW (s : State) (p asid va : Nat) : Option Nat :=
  match s.walk p asid va with
  | .leaf e => if e.rd && e.wr && !s.execFrame p (e.addr va) then s.s2 p (e.addr va) else none
  | .fault .. => none

/-! ## Order of one warp's accesses (R112 to R114, R254) -/

/-- The bytes an operation's lane covers. -/
def overlap (a n b m : Nat) : Bool := decide (a < b + m) && decide (b < a + n)

/-- A memory operation whose accesses stand in byte queues. -/
def OpKind.queued : OpKind → Bool
  | .load ro => !ro
  | .store | .atomic .. | .cas => true
  | _ => false
/-- The waits on memory words (R279, R280). -/
def OpKind.waits : OpKind → Bool
  | .bitwait _ | .cwt => true
  | _ => false

/-- An operation that looks at its bytes, or changes them, at their home alone: a wait (R279, R280), a timed store (R117). -/
def Op.atHome (x : Op) : Bool := x.kind.waits || (x.kind.stores && x.due.isSome)
/-- R112, R113: an earlier access still stands before one in its byte's queue. Of an earlier access that has found no translation
yet, only the page offset is known. A stamped store keeps its place before later ones (R251), and loads find it in the outbound table. -/
def accBefore (y : Op) (b : Acc) (x : Op) (a : Acc) : Bool :=
  if b.pad then false else
  match b.stage with
  | .done | .gone => false
  | .ready => overlap b.pa y.bytes a.pa x.bytes
  | .stamped | .left => overlap b.pa y.bytes a.pa x.bytes && (x.atHome || (!y.kind.stores && (match x.kind with | .load _ => true | _ => false)))
  | .walk | .touch => overlap (b.va % 2 ^ 18) y.bytes (a.pa % 2 ^ 18) x.bytes

/-- R254: a FENCE that orders accesses. Later accesses of the warp also wait for the memory of a root-world instruction (log 25). -/
def OpKind.fences : OpKind → Bool
  | .fence _ | .root _ => true
  | _ => false

/-- R203, R465: the region that a warp's next word belongs to, by the wall cycle of its HOLD; a region that is left at a resume point
opens again with the word that issues at `wall`. -/
def Warp.regionAt (w : Warp) (wall : Nat) : Option Nat := if w.reopen = 0 then w.region.map (·.opened) else some wall
/-- R465: a lane of a region's word acts only once the earlier words of the region have found no fault of its ASID. -/
def Op.regionBefore (y x : Op) (a : Acc) : Bool :=
  (x.before.regionAt x.wall).isSome && y.before.regionAt y.wall == x.before.regionAt x.wall && y.accs.any fun b => b.stage == .walk && b.asid == a.asid

/-- R112, R113, R254, R465: an access may not be served yet. -/
def State.blocked (s : State) (x : Op) (a : Acc) : Bool :=
  match x.kind with
  | .load true => false
  | _ => s.ops.any fun y => y.wid == x.wid &&
      ((decide (y.id < x.id) && (y.regionBefore x a || y.kind.fences || (y.kind.queued && y.accs.any fun b => accBefore y b x a))) ||
       (y.id == x.id && !x.kind.waits && (match x.kind with | .load _ => false | _ => true) &&
         x.accs.any fun b => decide (b.lane < a.lane) && b.stage != .stamped && b.stage != .left && accBefore x b x a))

/-! ## Waits on memory words (R279, R280) -/

/-- A word of the scratchpad that an access covers is poisoned, or its storage fails for good (R13, R235, R242). -/
def Core.padBad (k : Core) (a n : Nat) : Bool :=
  (List.range n).any fun j => k.padPoison.contains ((a + j) / 4) || k.weak.contains (.word ((a + j) / 4), true)

/-- Whether the word a wait's lane names satisfies it: BITWAIT's bit, or CWT's target. A word that fails satisfies none (R105); on a
speculative page it reads as all ones (R374). -/
def State.waitHolds (s : State) (x : Op) (a : Acc) : Bool :=
  let bad := if a.pad then (s.core x.before.core).padBad a.pa x.bytes else s.unreadable x.before.pdk a.pa x.bytes
  let v := if a.pad then ofLe (getBytes (s.core x.before.core).pad a.pa x.bytes) else ofLe (s.peek a.pa x.bytes)
  let v := if bad then 2 ^ 64 - 1 else v
  (!bad || a.spec) &&
    match x.kind with
    | .bitwait _ => bitAt v (a.data.toNat % 8)
    | _ => decide (a.cmp.toNat ≤ v % 2 ^ (8 * x.bytes))

/-- R279, R280: the clock merge of a wait's completion is that of a load of its word (R252). -/
def State.mergeClock (s : State) (die : Nat) (stamp : SMap 48) : State :=
  { s with clocks := stamp.foldl (fun m kv =>
      if mget m (8 * die + kv.1) < kv.2 then mset m (8 * die + kv.1) kv.2 else m) s.clocks }

/-- The stamp of the last write applied to any of some bytes (R252). -/
def State.lastStamp (s : State) (bytes : List Nat) : SMap 48 := ((s.wstamps.find? fun k => bytes.contains k.1).map (·.2)).getD []
/-- The stamp of the last write applied to the bytes at an address (R252). -/
def State.stampOf (s : State) (pa n : Nat) : SMap 48 := s.lastStamp ((List.range n).map (s.home pa + ·))

/-- R279, R280: a wait is evaluated at the home: each lane whose condition holds, and that nothing before it holds back (R112, R254), is
done. The flag counts down when all are, on a frozen core once the freeze is over (R362). -/
def State.evalWait (s : State) (o : Nat) : State :=
  match s.op? o with
  | none => s
  | some x =>
    if !x.kind.waits then s else
    let hit (a : Acc) : Bool := a.stage == .ready && !s.blocked x a && s.waitHolds x a
    let ok := match x.kind with
      | .bitwait _ => x.accs.all fun a => a.over || hit a || (s.warp x.wid).park.getLsbD a.lane
      | _ => true
    if !ok then s else
    let s' := (x.accs.filter hit).foldl (fun t a =>
      if a.pad then t else t.mergeClock (dieOfCore x.before.core) (s.stampOf a.pa x.bytes)) s
    let s' := s'.updOp o fun x => x.mapAccs fun a => if hit a then { a with stage := .done } else a
    if s.frozen x.before.core then s' else s'.settle o

/-- R279, R280: the home re-evaluates every wait on a line at each write applied to it. -/
def State.wake (s : State) (pa : Nat) : State :=
  let line := s.home pa / 64
  (s.ops.filter fun x => x.kind.waits &&
      x.accs.any fun a => !a.pad && a.stage == .ready && s.home a.pa / 64 == line).foldl (fun t x => t.evalWait x.id) s

/-- A write of a paddock applied at its home: the bytes change, their stamp is the write's, waits are re-evaluated. A line the
device marked poisoned is written over only by what clears the mark (R13). -/
def State.applyWrite (s : State) (p pa : Nat) (bs : List (BitVec 8)) (stamp : SMap 48) : State :=
  let s := (s.poke pa bs).own p pa bs.length
  let h := s.home pa
  let s := { s with wstamps := if stamp.isEmpty then s.wstamps
                               else (List.range bs.length).foldl (fun m k => aput m (h + k) stamp) s.wstamps }
  s.wake pa

/-- The stamp of a store that a die's port makes now (R252). -/
def State.stampAt (s : State) (die : Nat) : SMap 48 × State :=
  let s := { s with clocks := mset s.clocks (8 * die + die) (mget s.clocks (8 * die + die) + 1) }
  ((List.range 8).foldl (fun m e => mset m e (mget s.clocks (8 * die + e))) [], s)

/-- A write by the device itself for a paddock: stamped at a die and applied at once at its home; none into an executable frame (R62), nor into a
line whose storage fails (R13). -/
def State.devStore (s : State) (p die pa : Nat) (bs : List (BitVec 8)) : State :=
  if s.execDev p pa then s else
  let (st, s) := s.stampAt die
  (linePieces pa bs.length).foldl (fun (t : State) x =>
    let (ok, t) := t.eccWrite none p x.1 x.2 (t.specDev p x.1)
    if ok then t.applyWrite p x.1 ((bs.drop (x.1 - pa)).take x.2) st else t) s

/-- The device writes bytes at a paddock-physical address of one 16 MiB frame (R403: a failure is an interface error). -/
def State.devWrite (s : State) (p pa : Nat) (bs : List (BitVec 8)) : State :=
  let s := s.noteS2 p pa
  match s.s2 p pa with
  | some a => s.devStore p (homeOf a) a bs
  | none => s.ifError p 4

/-! ## Fault records (R108 to R111) -/

/-- R108: the bits of a fault record in STATE 0b01. -/
def faultBits (bitmap block pc : Nat) (tsc : DWord) (lid : Word) (events asid code : Nat) (write : Bool) (idx : Nat) : Nat :=
  bitmap * 2 ^ 448 + block * 2 ^ 384 + pc * 2 ^ 320 + tsc.toNat * 2 ^ 256 + lid.toNat * 2 ^ 224 + events * 2 ^ 192
    + asid * 2 ^ 176 + code * 2 ^ 168 + (if write then 2 ^ 167 else 0) + idx * 2 ^ 155 + 1

/-- R109 to R111: a fault merges into the posted record of its ASID, block and cause, or is posted at FQPROD, or is lost with
OVERFLOW. Nothing is posted without FQBASE.ENABLE; a queue that a sealed paddock may not have there is out of the device's reach (R432). A record whose line does not read merges with nothing, and the queue is full at it (log 56). -/
def State.postFault (s : State) (p asid code block bitmap events : Nat) (write : Bool) (pc : Nat) (lid : Word) (idx : Nat) : State :=
  let q := s.pdk p
  let base := (q.reg 0x010).toNat
  if !bitAt base 0 then s else
  match (s.s2 p (fld base 18 28 * 2 ^ 18)).filter (s.ownChannels p) with
  | none => s.ifError p 4
  | some a =>
    let h := s.home a
    let slots := (s.mem.filter fun c => decide (h ≤ c.1) && decide (c.1 < h + 2 ^ 18) && (c.1 - h) % 64 == 0 &&
        c.2.toNat % 4 == 1).map fun c => (c.1 - h) / 64
    let recAt (k : Nat) : Nat := ofLe (s.peek (a + 64 * k) 64)
    let posted (t : State) : State :=
      (t.updPdk p fun q => q.setReg 0x018 (q.reg 0x018 ||| 2)).raise p 0
    let reads (k : Nat) : Bool := !s.unreadable p (a + 64 * k) 64
    let slot (k : Nat) : Nat × Nat := (fld base 18 28 * 2 ^ 18 + 64 * k, 64)
    match slots.find? fun k => reads k && fld (recAt k) 176 16 == asid && fld (recAt k) 384 64 == block && fld (recAt k) 168 8 == code with
    | some k =>
      let r := recAt k
      let s := s.noteReads p [slot k]
      let r := setFld r 448 64 (fld r 448 64 ||| bitmap)
      let r := setFld r 192 32 (Nat.min 0xFFFFFFFF (fld r 192 32 + events))
      let r := setFld r 167 1 (if write then 1 else fld r 167 1)
      posted (s.devStore p (homeOf a) (a + 64 * k) (leBytes r 64))
    | none =>
      let k := fld (q.reg 0x01C).toNat 0 12
      let s := s.noteReads p [slot k]
      if !reads k || recAt k % 4 != 0 then s.updPdk p fun q => q.setReg 0x018 (q.reg 0x018 ||| 1)
      else
        let r := faultBits bitmap block pc (s.tsc p) lid (Nat.min 0xFFFFFFFF events) asid code write idx
        let s := s.devStore p (homeOf a) (a + 64 * k) (leBytes r 64)
        posted (s.updPdk p fun q => q.setReg 0x01C (BitVec.ofNat 64 ((k + 1) % 4096)))

/-- R108: the block of an address. -/
def blockOf (va : Nat) : Nat := va / 2 ^ 24 * 2 ^ 24
/-- R108: the page's bit of BITMAP; none for a pointer that is not canonical. -/
def bitmapOf (va : Nat) : Nat := if va < 2 ^ 57 then 2 ^ fld va 18 6 else 0
/-- The launch identifier a record shows for a warp (R87, R108). -/
def State.lidOf (s : State) (w : Warp) : Word := if w.yard.isSome || w.kind == .handler then 0 else s.exposeLid w.pdk w.lid

/-- A fault of one lane's access is posted or merged (R108). -/
def State.postLane (s : State) (w : Warp) (asid : Nat) (f : LaneFault) (pc : DWord) (idx : Nat) : State :=
  s.postFault w.pdk asid f.code (blockOf f.va.toNat) (bitmapOf f.va.toNat) 1 f.write pc.toNat (s.lidOf w) idx

/-- A saturating 32-bit counter register of a paddock counts up by `n`. -/
def State.countReg (s : State) (p off n : Nat) : State :=
  s.updPdk p fun q => q.setReg off (BitVec.ofNat 64 (Nat.min 0xFFFFFFFF ((q.reg off).toNat + n)))

/-! ## Ejection, warp traps and lane faults (R106, R107, R380, R388, R465): taking an exception -/

/-- The lanes leave the warp's operations from `o` on: they take no further part, and no flag waits for them (R15). A divide that still waits for
its unit and has no lane left does not occupy it (DEDUCED, log 47). -/
def State.dropLanes (s : State) (wid o : Nat) (m : Lanes) : State :=
  let mine (x : Op) : Bool := x.wid == wid && decide (o ≤ x.id)
  let s' := s.mapOps fun x => if mine x then { x.dropAccs m.getLsbD with mask := x.mask &&& ~~~m } else x
  ((s.ops.filter fun x => mine x && !x.accs.isEmpty).map (·.id)).foldl State.settle s'

/-- R15, R107: no flag of an older operation waits for lanes that have been ejected, though their record does. -/
def State.unwait (s : State) (wid o : Nat) (m : Lanes) : State :=
  let older (x : Op) : Bool := x.wid == wid && decide (x.id < o)
  let s' := s.mapOps fun x => match x.kind with
    | .fence _ => if older x then { x with mask := x.mask &&& ~~~m } else x
    | _ => x
  ((s.ops.filter fun x => older x && !x.accs.isEmpty).map (·.id)).foldl State.settle s'

/-- The oldest operation before `o` in which one of some lanes still waits for the handler (R106). -/
def State.waitingOp (s : State) (wid o : Nat) (m : Lanes) : Option Op :=
  s.ops.find? fun y => y.wid == wid && decide (y.id < o) && y.accs.any fun a => a.stage == .touch && m.getLsbD a.lane
/-- R465: the words of a region from a warp's next word on. -/
def Warp.leftAt (w : Warp) : Nat := match w.region with | some r => r.left | none => w.reopen
/-- R465: a warp's next word is one of a region. -/
def Warp.inHold (w : Warp) : Bool := w.region.isSome || w.reopen != 0

/-- R106, R389: every LIVE and not PARK lane of an ASID, and its HELD lanes, leave the warp for a parked record, which resumes
at `resume` with the registers of `before`. The record is written once the operations older than `o` have completed (R107). A lane that
still waits for the handler at an older instruction resumes there (R16, log 34). Lanes that leave HELD take a PARK bit as well (log 34). -/
def State.ejectAsid (s : State) (wid asid : Nat) (resume : DWord) (before : Warp) (o : Nat) (faults : List LaneFault)
    (reopen : Nat) : Nat × State :=
  let w := s.warp wid
  let am := w.asidMask asid
  let e := w.alive &&& am
  let h := w.held &&& am
  if e ||| h == 0 then (0xFFF, s) else
  let (resume, before, o, reopen) := match s.waitingOp wid o e with
    | some y => (y.pc, y.before, y.id, y.before.leftAt)
    | none => (resume, before, o, reopen)
  let act := before.active &&& e
  let room := match alist w.rooms asid with | some r => some r | none => alist w.rooms 0
  let (i, s) := s.takeId
  let r : Parked := { id := i, room, pdk := w.pdk, wid, pc := resume, asid, lanes := act, held := (e &&& ~~~act) ||| h,
                      faults := faults.filter fun f => e.getLsbD f.lane, upto := o, reopen, before := before.landAll }
  let s := { s with parked := s.parked ++ [r] }
  let s := s.updWarp wid fun w => { w with park := w.park ||| e ||| h, held := w.held &&& ~~~h }
  (room.getD 0xFFF, (s.dropLanes wid o e).unwait wid o e)

/-- The distinct ASIDs of the lanes of a mask. -/
def Warp.asids (w : Warp) (m : Lanes) : List Nat := ((lanesOf m).map w.asidOf).eraseDups

/-- The number of lanes of a mask. -/
def popcount (m : Lanes) : Nat := (lanesOf m).length

/-- R387: a handler warp that takes a fault or a trap of its own does no more; nothing of it is parked. -/
def State.handlerDies (s : State) (wid o : Nat) : State :=
  let s := s.updWarp wid fun w => { w with live := 0, held := 0, region := none, ended := true }
  s.dropLanes wid o (BitVec.allOnes 32)

/-- R380: a warp trap outside a HOLD region: each ASID's lanes go into a parked record and a fault record; the warp ends. -/
def State.trapNow (s : State) (wid code : Nat) (pc resume : DWord) (before : Warp) (o reopen : Nat) : State :=
  let w := s.warp wid
  if w.kind == .handler then s.handlerDies wid o else
  let all := w.alive ||| w.held
  let lid := s.lidOf w
  let s := (w.asids all).foldl (fun (t : State) a =>
    let m := all &&& w.asidMask a
    let fs := (lanesOf m).map fun i => { lane := i, code, va := pc }
    let (idx, t) := t.ejectAsid wid a resume before o fs reopen
    t.postFault w.pdk a code (blockOf pc.toNat) 0 (popcount m) false pc.toNat lid idx) s
  let gone (x : Op) : Bool := x.wid == wid && decide (o ≤ x.id)
  let s := s.mapOps fun x => if gone x then x.dropAccs fun _ => true else x
  let s := { s with ops := s.ops.filter fun x => !gone x || (match x.kind with | .arrive .. | .join _ | .leave _ => true | _ => false) ||
                      x.leaves }
  let waits (x : Op) : Bool := x.wid == wid && (match x.kind with | .await .. | .bitwait _ | .cwt => true | _ => false)
  let s := { s with ops := s.ops.filter fun x => !waits x }
  s.updWarp wid fun w => { w with ended := true, region := none, held := 0 }

/-- R380, R465: a warp trap. Inside an open region it waits for the region's last word, and no later word acts. -/
def State.takeTrap (s : State) (wid code : Nat) (pc : DWord) (before : Warp) (o : Nat) : State :=
  let w := s.warp wid
  match w.region with
  | some r =>
    let d : Deferred := { wid, pc, left := before.leftAt, trap := some code, upto := o, before }
    let s := { s with deferred := s.deferred ++ [d] }
    (s.updWarp wid fun w => { w with region := some { r with doomed := BitVec.allOnes 32 } }).dropLanes wid o (BitVec.allOnes 32)
  | none => s.trapNow wid code pc pc before o before.leftAt

/-- R422: a TIMING trap of a timed task is a timing fault of the cause given. -/
def State.warpTrap (s : State) (wid code : Nat) (pc : DWord) (before : Warp) (o : Nat) (timing : Nat := 5) : State :=
  let w := s.warp wid
  let s := s.takeTrap wid code pc before o
  if code == 0x19 && w.timed then { s with agenda := .timingFault timing w.tstart.toNat :: s.agenda } else s

/-- R386: the lanes of an ASID exit as by an unpredicated EXIT. -/
def State.exitAsid (s : State) (wid a : Nat) : State :=
  s.updWarp wid fun w => { w with live := w.live &&& ~~~(w.alive &&& w.asidMask a), held := w.held &&& ~~~w.asidMask a }

/-- R386, R387: the faults of lanes that a handler does not repair: the ASIDs are ejected and resume at `resume`; those of an
unpredicated TRAP exit instead, with PARKIDX 0xFFF. The record of a TRAPI has the form of R380 (log 14). -/
def State.ejectServed (s : State) (wid o : Nat) (pc resume : DWord) (before : Warp) (trapEnd : Bool) (faults : List LaneFault) : State :=
  let w := s.warp wid
  let fs := faults.filter fun f => w.alive.getLsbD f.lane
  ((fs.map fun f => w.asidOf f.lane).eraseDups).foldl (fun (t : State) a =>
    let mine := fs.filter fun f => w.asidOf f.lane == a
    let (idx, t) := if trapEnd then (0xFFF, t.exitAsid wid a) else t.ejectAsid wid a resume before o mine 0
    let (trapi, lane) := mine.partition (·.code == 5)
    let t := if trapi.isEmpty then t
      else t.postFault w.pdk a 5 (blockOf pc.toNat) 0 (popcount ((w.alive ||| w.held) &&& w.asidMask a)) false pc.toNat (s.lidOf w) idx
    lane.foldl (fun t f => t.postLane w a { f with ft := false } pc idx) t) s

/-- R107, R388: the faults of lanes that have exited cancel their accesses. -/
def State.cancelExited (s : State) (w : Warp) (o : Nat) (fs : List LaneFault) (pc : DWord) : State :=
  fs.foldl (fun (t : State) f =>
    let t := (t.countReg w.pdk 0x08C 1).postLane w (w.asidOf f.lane) f pc 0xFFF
    (t.updOp o fun x => x.dropAccs (· == f.lane)).settle o) s

/-- R106: the lanes' faults outside a HOLD region. Without a handler, and for what R465 defers, a first touch is ejected like any
other fault (R380). First-touch lanes left over wait for the handler. -/
def State.resolveNow (s : State) (wid o : Nat) (pc : DWord) (before : Warp) (faults : List LaneFault) (inPlace : Bool)
    (reopen : Nat) : State :=
  let w := s.warp wid
  let hnd := inPlace && (s.pdk w.pdk).reg 0x080 != 0
  let hard := if hnd then faults.filter (!·.ft) else faults
  let asids := (hard.map fun f => w.asidOf f.lane).eraseDups
  let s := asids.foldl (fun (t : State) a =>
    let mine := hard.filter fun f => w.asidOf f.lane == a
    let (idx, t) := t.ejectAsid wid a pc before o mine reopen
    mine.foldl (fun t f => t.postLane w a { f with ft := false } pc idx) t) s
  let left := faults.filter fun f => !asids.contains (w.asidOf f.lane)
  let touched (a : Acc) : Option LaneFault :=
    if a.stage != .done && a.stage != .gone then left.find? (·.lane == a.lane) else none
  (s.updOp o fun x => x.mapAccs fun a =>
    match touched a with | some f => { a with stage := .touch, fault := some f } | none => a).settle o

/-- R16, R106: an older instruction of lanes that a younger one has ejected faults before their record is written: the ASID's record resumes at
the older one, and none of the later instructions keeps its lanes. A first touch is found again there (log 34). -/
def State.retarget (s : State) (w : Warp) (asid o : Nat) (pc : DWord) (before : Warp) (faults : List LaneFault) : State :=
  match s.parked.find? fun r => r.wid == w.id && r.asid == asid && decide (o < r.upto) with
  | none => s.dropLanes w.id o (maskOf fun i => faults.any (·.lane == i))
  | some r =>
    let all := r.lanes ||| r.held
    let act := before.active &&& all
    let others := r.faults.filter fun f => !faults.any (·.lane == f.lane)
    let r' : Parked := { r with pc, lanes := act, held := all &&& ~~~act, faults := faults ++ others, upto := o, reopen := before.leftAt
                                before := before.landAll }
    let s := { s with parked := s.parked.map fun (x : Parked) => if x.id == r.id then r' else x }
    let s := (faults.filter (!·.ft)).foldl (fun (t : State) f => t.postLane w asid f pc (r.room.getD 0xFFF)) s
    s.dropLanes w.id o all

/-- R106, R107, R465: the faults that lanes of one instruction found. A fault of a region's word counts as one of the region whenever it
is found. `o` is the operation in flight, or the next identifier for
an instruction that leaves none. -/
def State.laneFaults (s : State) (wid o : Nat) (pc : DWord) (before : Warp) (faults : List LaneFault) : State :=
  let w := s.warp wid
  let exited := faults.filter fun f => !w.live.getLsbD f.lane && !w.park.getLsbD f.lane
  let parked := faults.filter fun f => w.park.getLsbD f.lane
  let now := faults.filter fun f => w.alive.getLsbD f.lane
  let s := s.cancelExited w o exited pc
  let s := ((parked.map fun f => w.asidOf f.lane).eraseDups).foldl (fun t a =>
    t.retarget w a o pc before (parked.filter fun f => w.asidOf f.lane == a)) s
  if now.isEmpty then s else
  if w.kind == .handler then s.handlerDies wid o else
  match w.region with
  | some r =>
    let m := (now.map fun f => w.asidMask (w.asidOf f.lane)).foldl (· ||| ·) 0
    let d : Deferred := { wid, pc, left := before.leftAt, faults := now, upto := o, before }
    let s := { s with deferred := s.deferred ++ [d] }
    (s.updWarp wid fun w => { w with region := some { r with doomed := r.doomed ||| m } }).dropLanes wid o m
  | none => s.resolveNow wid o pc before now (!before.inHold) before.leftAt

end Sys2Proof.Machine
end

