-- ==== Sys2Proof/Machine/Operands.lean ====
section
/-! DEFINITION. Operands: lane patterns and self-fill (R45 to R48, R210), modifiers, elements of packed types (R125), the
immediate (R49, R144), executing lanes (R43), and 64-bit operands (R44, R46). -/
namespace Sys2Proof

/-- Source a. -/
def Fields.a (f : Fields) : Src := match f.args with | .regs a _ _ => a | .imm a _ => a
/-- Source b; zero in the immediate form. -/
def Fields.b (f : Fields) : Src := match f.args with | .regs _ b _ => b | .imm .. => default
/-- Source c; zero in the immediate form. -/
def Fields.c (f : Fields) : Src := match f.args with | .regs _ _ c => c | .imm .. => default
/-- R51: whether any source field carries a pattern. -/
def Fields.patterned (f : Fields) : Bool :=
  match f.args with
  | .regs a b c => a.pat != .id || b.pat != .id || c.pat != .id
  | .imm a _ => a.pat != .id
/-- R42: the flag that SETF names. -/
def Fields.flag (f : Fields) : Option Nat := if f.sched.setf.toNat < 12 then some f.sched.setf.toNat else none

end Sys2Proof

namespace Sys2Proof.Machine
open Sys2Proof

/-- R47: the source lane a pattern names for lane i; none out of range. -/
def patLane (p : Pat) (k i : Nat) : Option Nat :=
  match p with
  | .id => some i
  | .bc => some k
  | .rot => some ((i + k) % 32)
  | .x => some (i ^^^ k)
  | .m => some (i ^^^ (2 ^ k - 1))
  | .up => if k ≤ i then some (i - k) else none
  | .dn => if i + k < 32 then some (i + k) else none
  | .sg => some (i / 2 ^ k * 2 ^ k)

/-- R68 with LIVE and PARK of the previous cycle's end, as the SHARE register reads (R89). -/
def Warp.sharesP (w : Warp) (i j : Nat) : Bool :=
  (w.plive &&& ~~~w.ppark).getLsbD j && (i == j || w.asidOf i == w.asidOf j || (mget w.share i).getLsbD j)

/-- R47, R122, R210: lane j supplies lane i: it is active and shares with i. DEDUCED (log 58): the active lanes are those of R63 as the
instruction issues, which the predicate does not touch; the instructions of R212 pass the masks of the previous cycle's end (`Warp.prev`). -/
def Warp.supplies (w : Warp) (i j : Nat) : Bool := decide (j < 32) && w.active.getLsbD j && w.shares i j

/-- R47: the lane a source is read from, the reader itself where the source lane supplies nothing. -/
def Warp.srcLane (w : Warp) (x : Src) (i : Nat) : Nat :=
  match patLane x.pat x.k.toNat i with
  | some j => if w.supplies i j then j else i
  | none => i

/-- The register of a source as its lane supplies it, before any modifier. -/
def Warp.src (w : Warp) (x : Src) (i : Nat) : Word := w.reg x.reg.toNat (w.srcLane x i)
/-- A pair as its lane supplies it (R46). -/
def Warp.src64 (w : Warp) (x : Src) (i : Nat) : DWord := w.reg64 x.reg.toNat (w.srcLane x i)

/-- R125: the bits of an element of a type. -/
def elemBits (t : Ty) : Nat :=
  match t with
  | .i32 | .n32 | .f32 => 32
  | .i64 | .n64 | .f64 => 64
  | .i16x2 | .n16x2 | .f16x2 | .bf16x2 => 16
  | .i8x4 | .n8x4 | .q8ax4 | .q8bx4 => 8
  | .i4x8 | .q4x8 => 4

/-- R125: the elements of a register or a pair. -/
def elemCount (t : Ty) : Nat := (if t.is64 then 64 else 32) / elemBits t

/-- The elements of a value, the lowest first. -/
def elems (bits n v : Nat) : List Nat := (List.range n).map fun j => fld v (bits * j) bits

/-- The value of elements, the lowest first. -/
def unelems (bits : Nat) : List Nat → Nat
  | [] => 0
  | e :: r => e % 2 ^ bits + 2 ^ bits * unelems bits r

/-- An operation on each element of a value of a type. -/
def mapElems (t : Ty) (f : Nat → Nat) (a : Nat) : Nat :=
  unelems (elemBits t) ((elems (elemBits t) (elemCount t) a).map f)

/-- An operation on the elements of two values. -/
def zipElems (t : Ty) (f : Nat → Nat → Nat) (a b : Nat) : Nat :=
  let w := elemBits t
  unelems w (List.zipWith f (elems w (elemCount t) a) (elems w (elemCount t) b))

/-- An operation on the elements of three values. -/
def zipElems3 (t : Ty) (f : Nat → Nat → Nat → Nat) (a b c : Nat) : Nat :=
  let w := elemBits t
  let n := elemCount t
  unelems w ((List.range n).map fun j => f (fld a (w * j) w) (fld b (w * j) w) (fld c (w * j) w))

/-- R48: HALF, then ABS, then NEG on a value of a type. -/
def applyMods (t : Ty) (x : Src) (v : Nat) : Nat :=
  let v := match x.half with
    | .none => v
    | .lo => fld v 0 16 * 0x10001
    | .hi => fld v 16 16 * 0x10001
  let w := elemBits t
  let abs (e : Nat) : Nat := if t.isFloat then e % 2 ^ (w - 1) else tc w (sx w e).natAbs
  let neg (e : Nat) : Nat := if t.isFloat then (e + 2 ^ (w - 1)) % 2 ^ w else tc w (- sx w e)
  let v := if x.abs then mapElems t abs v else v
  if x.neg then mapElems t neg v else v

/-- A source operand of a type, with its modifiers: a register or, in a 64-bit type, a pair. -/
def Warp.opnd (w : Warp) (t : Ty) (x : Src) (i : Nat) : Nat :=
  applyMods t x (if t.is64 then (w.src64 x i).toNat else (w.src x i).toNat)

/-- R49, R144: the immediate as an operand of a type. -/
def immOpnd (t : Ty) (imm : Word) : Nat :=
  if t == .i64 then tc 64 (sx 32 imm.toNat) else imm.toNat

/-- Operand a of a type. -/
def Warp.opA (w : Warp) (t : Ty) (f : Fields) (i : Nat) : Nat := w.opnd t (f.a) i
/-- Operand b of a type: source b or the immediate. -/
def Warp.opB (w : Warp) (t : Ty) (f : Fields) (i : Nat) : Nat :=
  match f.args with | .regs _ b _ => w.opnd t b i | .imm _ imm => immOpnd t imm
/-- Operand c of a type. -/
def Warp.opC (w : Warp) (t : Ty) (f : Fields) (i : Nat) : Nat := w.opnd t (f.c) i
/-- Operand b as a single register or the immediate as it stands. -/
def Warp.wordB (w : Warp) (f : Fields) (i : Nat) : Word :=
  match f.args with | .regs _ b _ => w.src b i | .imm _ imm => imm

/-- R43: the lanes whose predicate holds. -/
def Warp.predMask (w : Warp) (f : Fields) : Lanes :=
  if f.sched.pen then maskOf fun i => (w.reg f.sched.preg.toNat i).getLsbD f.sched.pbit.toNat != f.sched.psense
  else BitVec.allOnes 32

/-- The lanes that no earlier fault of an open region keeps from acting (R465). -/
def Warp.undoomed (w : Warp) : Lanes := match w.region with | some r => ~~~r.doomed | none => BitVec.allOnes 32

/-- R43, R465: the lanes that execute an instruction. -/
def Warp.exec (w : Warp) (f : Fields) : Lanes := w.active &&& w.predMask f &&& w.undoomed

/-- The value that every lane of a mask supplies, none when two differ (R65, R194). An empty mask supplies nothing. -/
def uniform {α : Type} [BEq α] (m : Lanes) (g : Nat → α) : Option α :=
  match lanesOf m with
  | [] => none
  | i :: r => if r.all fun j => g j == g i then some (g i) else none

end Sys2Proof.Machine
end

