-- ==== Sys2Proof/Machine/Flags.lean ====
section
/-! DEFINITION. Issue and completion flags (R40 to R42, R51): what the issue of a word does beside its effect, results of the
fixed classes on their way, and operations of class V. -/
namespace Sys2Proof.Machine
open Sys2Proof

/-- The outcome of a step. -/
abbrev Out := Host.Outcome State Fault Refusal

/-- R203, R204, R465: a word of an open region counts; a closed region is forgotten. -/
def Region.word (r : Region) (wall : Nat) : Option Region :=
  if r.left = 0 then none else some { r with left := r.left - 1, last := wall }

/-- What every issue does to its warp: the flag counts up (R41), the pc moves to the next word (R37), the issue cycle is noted (R40),
WAITCNT returns to 0 (R359), the first issue after a resumption counts as every target's preparation (R195), an open region counts
the word (R203) or opens again at a resume point (R465), from whose first word the span of HOLDOVR then counts (R204; DEDUCED, log 31). -/
def State.issuedWarp (s : State) (f : Fields) (w : Warp) : Warp :=
  { (match f.flag with | some n => w.addFlag n 1 | none => w) with
    pc := w.pc + 16, last := some (s.now w), waitcnt := 0, target := false, atc := none
    bregs := if w.last.isSome then w.bregs else w.bregs.map fun b => if b.valid then { b with prep := s.now w } else b
    region := if w.reopen = 0 then w.region.bind fun r => r.word s.wall
              else some { left := w.reopen - 1, opened := s.wall, last := s.wall }
    reopen := 0 }

/-- What every issue does: to the warp, and the slot has issued in this cycle. -/
def State.noteIssue (s : State) (wid : Nat) (f : Fields) : State :=
  let w := s.warp wid
  let s := s.updWarp wid (s.issuedWarp f)
  { (s.updCore w.core fun k => { k with issued := aput k.issued w.slot (s.wall + 1) }) with issuing := none }

/-- A word issues in the warp that the slot chose: `k` gets the warp as it stood before, and the state after what every issue
does. With no warp chosen nothing happens (log 6). -/
def State.issue (s : State) (f : Fields) (k : Nat → Warp → State → State) : Out :=
  match s.issuing with
  | none => .next s
  | some wid => .next (k wid (s.warp wid) (s.noteIssue wid f))

/-- A fixed-class result is on its way (R51): it lands `cycles` unfrozen cycles after the issue. -/
def State.landIn (s : State) (wid cycles : Nat) (l : Landing) : State :=
  let t := s.now (s.warp wid)
  s.updWarp wid fun w => { w with pend := w.pend ++ [{ l with due := t + cycles }] }

/-- R51: the landing distance of a word of a fixed class. -/
def lambda (f : Fields) (c : Cls) : Nat := c.cycles + (if f.patterned then 2 else 0)

/-- A word of a fixed class whose every executing lane writes `n` registers from DST on: `g` gives the value by the lane. -/
def State.fixed (s : State) (wid : Nat) (w : Warp) (f : Fields) (c : Cls) (n : Nat) (g : Nat → Nat) : State :=
  s.landIn wid (lambda f c)
    { writes := (lanesOf (w.exec f)).flatMap fun i => regWrites f.dst.toNat i n (g i), flag := f.flag }

/-- The registers a result of a type takes. -/
def tyRegs (t : Ty) : Nat := if t.is64 then 2 else 1

/-- A lane instruction of a fixed class whose result has the type's width. -/
def laneOp (s : State) (f : Fields) (c : Cls) (g : Warp → Nat → Nat) : Out :=
  s.issue f fun wid w s => s.fixed wid w f c (tyRegs f.ty) (g w)

/-- An operation of class V enters the list of those in flight. -/
def State.addOp (s : State) (x : Op) : Nat × State :=
  let (i, s) := s.takeId
  let w := s.warp x.wid
  (i, { s with ops := s.ops ++ [{ x with id := i, issued := s.now w, wall := s.wall }] })

/-- The operation of a word of class V, before its own parts are filled in. -/
def opOf (wid : Nat) (w : Warp) (f : Fields) (k : OpKind) : Op :=
  { wid, kind := k, ty := f.ty, var := f.var.toNat, dst := f.dst.toNat, flag := f.flag, pc := w.pc, mask := w.exec f, before := w }

/-- R41: a class V word with nothing left to do counts its flag down `n` cycles after its issue. -/
def State.simpleOp (s : State) (wid : Nat) (w : Warp) (f : Fields) (n : Nat) : State :=
  (s.addOp { opOf wid w f .simple with due := some (s.now w + n) }).2

/-- A warp trap at the word being issued: `w` is the warp before it (R378). -/
def State.trapAt (s : State) (wid : Nat) (w : Warp) (code : Nat) (timing : Nat := 5) : State :=
  s.warpTrap wid code w.pc w s.nextId timing

/-- R51, R52: every result of a warp that is due lands, of the fixed classes or of class V, in the order of landing, and its flag counts down. -/
def Warp.landDue (w : Warp) (now : Nat) (late : Bool) : Warp :=
  let due (l : Landing) : Bool := decide (l.due ≤ now) && l.late == late
  (sortBy Landing.due (w.pend.filter due)).foldl Warp.landOne { w with pend := w.pend.filter fun l => !due l }

end Sys2Proof.Machine
end

