-- ==== Sys2Proof/Machine/Control.lean ====
section
/-! DEFINITION. Prepared control transfer (R191 to R209, R465): targets, transfers, divergence, HOLD regions, pauses, endings and
software traps, and the events that end regions and warps. -/
namespace Sys2Proof.Machine
open Sys2Proof

/-- R61: the virtual address of a warp's image. -/
def State.imageVa (s : State) (w : Warp) : DWord :=
  BitVec.ofNat 64 ((((s.pdk w.pdk).image w.image).map (·.va)).getD 0)

/-- R195: the warp continues at a byte offset of its image: no earlier than 20 cycles after the transfer and 32 after the
preparation. -/
def State.goto (s : State) (wid : Nat) (off : BitVec 32) (prep : Option Nat) : State :=
  let base := s.imageVa (s.warp wid)
  s.updWarp wid fun w =>
    let t := s.now w
    { w with pc := base + off.setWidth 64, ready := Nat.max (t + 20) ((prep.map (· + 32)).getD 0), target := true }

/-- R196: the register as it stood at the end of the previous cycle. -/
def Warp.bregP (w : Warp) (b : Nat) : BReg := (w.pbregs[b]?).getD {}
/-- R196: the check of a taken transfer: the cause of its trap. -/
def Warp.checkTarget (w : Warp) (b : Nat) : Option Nat :=
  if !(w.bregP b).valid then some 0x10 else if (w.bregP b).stale then some 0x11 else none
/-- R195: the cycle of the register's last preparation; the first issue after a resumption counts as that. -/
def State.prepOf (s : State) (w : Warp) (b : Nat) : Nat := if w.last.isNone then s.now w else (w.bregP b).prep

/-- R196: a taken transfer through a register: a trap, or `k` with its target and preparation. -/
def State.through (s : State) (wid : Nat) (w : Warp) (b : Nat) (k : State → State) : State :=
  match w.checkTarget b with
  | some code => s.trapAt wid w code
  | none => (k s).goto wid (w.bregP b).target (some (s.prepOf w b))

/-- A branch-target register is prepared now (R193, R194, R198). -/
def State.prepare (s : State) (wid b : Nat) (target : BitVec 32) (count : BitVec 16) : State :=
  s.updWarp wid fun w => w.setBreg b { valid := true, stale := false, count, target, prep := s.now w }

/-- R206: NOP. -/
def execNop (f : Fields) (s : State) : Out := s.issue f fun _ _ s => s

/-- R193: PREP. -/
def execPrep (f : Fields) (s : State) : Out := s.issue f fun wid _ s => s.prepare wid f.dst.toNat f.immVal 0

/-- R194: a target that PREPV admits. -/
def State.admitsTarget (s : State) (w : Warp) (v : Nat) : Bool :=
  match (s.pdk w.pdk).image w.image with
  | some im => v % 16 == 0 && decide (v < im.len) && !im.holds.contains v
  | none => false
/-- R194: PREPV. A target that is not admitted leaves the register without VALID. -/
def execPrepv (f : Fields) (s : State) : Out :=
  s.issue f fun wid w s =>
    let m := w.exec f
    if m == 0 then s
    else match uniform m (w.src f.a), uniform m fun i => (w.wordB f i).truncate 16 with
      | some v, some n =>
        if s.admitsTarget w v.toNat then s.prepare wid f.dst.toNat v n
        else s.updWarp wid fun w => w.setBreg f.dst.toNat { w.breg f.dst.toNat with valid := false }
      | _, _ => s.trapAt wid w 0x15

/-- R197: XFER. -/
def execXfer (f : Fields) (s : State) : Out :=
  s.issue f fun wid w s =>
    let all := w.active
    let some_ := all &&& w.predMask f
    let taken := if f.sched.pen then (if f.var == 1 then some_ != 0 else some_ == all && all != 0) else true
    if taken then s.through wid w f.a.reg.toNat id
    else if f.var == 0 && some_ != 0 then s.trapAt wid w 0x15
    else s

/-- R198: the byte offset of the word after the one at `pc`. -/
def State.nextOff (s : State) (w : Warp) : BitVec 32 := (w.pc + 16 - s.imageVa w).truncate 32

/-- R198: CALL. -/
def execCall (f : Fields) (s : State) : Out :=
  s.issue f fun wid w s =>
    s.through wid w f.a.reg.toNat fun s => s.prepare wid f.dst.toNat (s.nextOff w) 0
/-- R198: RET. -/
def execRet (f : Fields) (s : State) : Out := s.issue f fun wid w s => s.through wid w f.a.reg.toNat id

/-- R199: LOOP. -/
def execLoop (f : Fields) (s : State) : Out :=
  s.issue f fun wid w s =>
    let b := f.a.reg.toNat
    let count (n : BitVec 16) (s : State) : State := s.updWarp wid fun w => w.setBreg b { w.breg b with count := n }
    let n := (w.breg b).count
    if n.toNat < 2 then count 0 s else s.through wid w b (count (n - 1))

/-! ## Divergence (R200, R201) -/

/-- R200: bits [31:4] of a byte offset. -/
def offBits (x : BitVec 32) : BitVec 28 := (x >>> 4).truncate 28
/-- R200: the byte offset of those bits. -/
def offOf (x : BitVec 28) : BitVec 32 := x.setWidth 32 <<< 4

/-- R201: XFERS. -/
def execXfers (f : Fields) (s : State) : Out :=
  s.issue f fun wid w s =>
    if w.stack.length = 16 then s.trapAt wid w 0x17
    else
      let taken := w.active &&& w.predMask f
      let rest := w.active &&& ~~~taken
      let e (phase : Bool) : StackEntry :=
        { saved := w.exm, pend := rest, joinoff := offBits f.immVal, resume := offBits (s.nextOff w), phase }
      let push (phase : Bool) (s : State) : State := s.updWarp wid fun w => { w with stack := e phase :: w.stack }
      if f.sched.pen && taken == 0 then push false s
      else s.through wid w f.a.reg.toNat fun s => (push true s).updWarp wid fun w => w.setExm (w.exm &&& ~~~rest)

/-- R201: JOIN: the pending path runs, or the entry is popped. -/
def execJoin (f : Fields) (s : State) : Out :=
  s.issue f fun wid w s =>
    match w.stack with
    | [] => s.trapAt wid w 0x17
    | e :: r =>
      if e.phase && e.pend != 0 then
        (s.updWarp wid fun w => ({ w with stack := { e with phase := false } :: r }).setExm e.pend).goto wid (offOf e.resume) none
      else (s.updWarp wid fun w => ({ w with stack := r }).setExm e.saved).goto wid (offOf e.joinoff) none

/-! ## Regions, stale code, pauses (R202 to R206) -/

/-- R202, R203: HOLD. -/
def execHold (f : Fields) (s : State) : Out :=
  s.issue f fun wid _ s =>
    s.updWarp wid fun w => { w with region := some { left := f.immVal.toNat % 64, opened := s.wall, last := s.wall } }

/-- R205: STALE in the VALID registers whose target, of an image at `base`, lies in a page that `p` holds of, by address. -/
def Warp.stale (w : Warp) (base : Nat) (p : Nat → Bool) : Warp :=
  { w with bregs := w.bregs.map fun b => if b.valid && p ((base + b.target.toNat) / 2 ^ 18) then { b with stale := true } else b }
/-- R205: the same in a warp on a core. -/
def State.staleWarp (s : State) (wid : Nat) (p : Nat → Bool) : State :=
  let base := (s.imageVa (s.warp wid)).toNat
  s.updWarp wid fun w => w.stale base p

/-- R205: ICINV. The words a core has fetched are no state of this model: every issue fetches. -/
def execIcinv (f : Fields) (s : State) : Out :=
  s.issue f fun wid w s =>
    let page := ((s.imageVa w).toNat + f.immVal.toNat) / 2 ^ 18
    s.staleWarp wid fun q => f.immVal == 0xFFFFFFFF || q == page

/-- R206: SLEEP. -/
def execSleep (f : Fields) (s : State) : Out :=
  s.issue f fun wid _ s =>
    s.updWarp wid fun w => { w with ready := s.now w + Nat.max f.immVal.toNat 1, target := true }

/-! ## Endings and software traps (R207, R208) -/

/-- R207: an unpredicated EXIT. -/
def Warp.exitAll (w : Warp) : Warp := { w with live := w.live &&& w.park, held := 0, ended := true }

/-- R207: EXIT. -/
def execExit (f : Fields) (s : State) : Out :=
  s.issue f fun wid w s =>
    let m := w.exec f
    s.updWarp wid fun w => if f.sched.pen then { w with live := w.live &&& ~~~m } else w.exitAll

/-- R208, R380, R386: TRAP. Its lanes wait for the supervisor's handler; without one they are ejected. Inside a handler it makes
the handler fail (R387). -/
def execTrap (f : Fields) (s : State) : Out :=
  s.issue f fun wid w s =>
    let m := w.exec f
    let fs := (lanesOf m).map fun i => { lane := i, code := 5, va := (f.immVal.truncate 16).setWidth 64 : LaneFault }
    if m == 0 then (if f.sched.pen then s else s.updWarp wid Warp.exitAll)
    else if w.kind == .handler && w.holds.isSome then s.updWarp wid Warp.exitAll
    else if (s.pdk w.pdk).reg 0x080 == 0 then
      let s := s.ejectServed wid s.nextId w.pc (w.pc + 16) (s.warp wid) (!f.sched.pen) fs
      if f.sched.pen then s else s.updWarp wid Warp.exitAll
    else
      { s with pending := s.pending ++ [{ wid, pc := w.pc, faults := fs, found := s.now w, trapEnd := !f.sched.pen }] }

/-- `TARGET_FETCH_READY` (R195): the fetch of a prepared target ends 32 cycles after its preparation. Eligibility counts those
cycles itself, so no state changes here. -/
def execTargetFetchReady (s : State) : Out := .next s

/-! ## The end of a region (R204, R465) and of a warp (R64) -/

/-- A warp whose region's last word has issued. -/
def State.regionDone (s : State) : Option Warp :=
  s.warps.find? fun w => match w.region with | some r => r.left == 0 | none => false

/-- `HOLD_DEFERRED_TRAP` (R465): the faults and traps found inside the region are taken, those of the earlier word first (R16); lanes that
have left with one take part in no later one. -/
def execHoldDeferredTrap (s : State) : Out :=
  .next (match s.warps.find? fun w => (match w.region with | some r => r.left == 0 | none => false) &&
      s.deferred.any (·.wid == w.id) with
    | none => s
    | some w =>
      let ds := s.deferred.filter (·.wid == w.id)
      let s := { s with deferred := s.deferred.filter (·.wid != w.id) }
      let s := s.updWarp w.id fun w => { w with region := none }
      let take (t : State) (d : Deferred) : State :=
        let fs := d.faults.filter fun f => (t.warp w.id).alive.getLsbD f.lane
        if (t.warp w.id).ended then t
        else match d.trap with
          | some code => t.trapNow w.id code d.pc d.pc d.before d.upto d.left
          | none => if fs.isEmpty then t else t.resolveNow w.id d.upto d.pc d.before fs false d.left
      let s := (sortBy Deferred.upto ds).foldl take s
      -- the region's span still decides HOLDOVR (R204)
      s.updWarp w.id fun v => if v.ended then v else { v with region := w.region })

/-- `HOLD_OVERRUN` (R204): a region whose last word has issued closes; a span above 512 wall cycles raises HOLDOVR at the word
after it. -/
def execHoldOverrun (s : State) : Out :=
  .next (match s.regionDone with
    | none => s
    | some w =>
      if s.deferred.any (·.wid == w.id) then s else
      let s := s.updWarp w.id fun w => { w with region := none }
      match w.region with
      | some r => if 512 < r.last - r.opened then s.warpTrap w.id 0x16 w.pc (s.warp w.id) s.nextId else s
      | none => s)

end Sys2Proof.Machine
end

