-- ==== Sys2Proof/Machine/Integer.lean ====
section
/-! DEFINITION. Integer, logic, bit-field and move instructions (R144 to R166). -/
namespace Sys2Proof.Machine
open Sys2Proof

/-! ## Element functions -/

/-- R144: an element as the integer its type reads. -/
def intVal (t : Ty) (x : Nat) : Int := if t.isSigned then sx (elemBits t) x else (x : Int)

/-- R133, R149: an integer clamped to the range of an element of a type. -/
def satInt (t : Ty) (r : Int) : Int :=
  let w := elemBits t
  if t.isSigned then max (-(2 ^ (w - 1) : Nat)) (min r ((2 ^ (w - 1) : Nat) - 1)) else max 0 (min r ((2 ^ w : Nat) - 1))

/-- R149: the result of an element: saturated by variant 1, else modulo 2^w. -/
def intOut (t : Ty) (sat : Bool) (r : Int) : Nat := tc (elemBits t) (if sat then satInt t r else r)

/-- R149: an element function of two operands on a whole value. -/
def int2 (t : Ty) (sat : Bool) (g : Int → Int → Int) (a b : Nat) : Nat :=
  zipElems t (fun x y => intOut t sat (g (intVal t x) (intVal t y))) a b

/-- R152: the conditions of ICMP and ISET. -/
def intCond (cc : Nat) (x y : Int) : Bool :=
  match cc with
  | 0 => x == y | 1 => x != y | 2 => decide (x < y) | 3 => decide (x ≤ y) | 4 => decide (x > y) | _ => decide (x ≥ y)

/-- A comparison's bits, one for each element (R152, R180). -/
def cmpBits (t : Ty) (c : Nat → Nat → Bool) (a b : Nat) : Nat :=
  let w := elemBits t
  unelems 1 ((List.range (elemCount t)).map fun k => if c (fld a (w * k) w) (fld b (w * k) w) then 1 else 0)

/-- R154: the shifts and rotates of a value of width w. -/
def shl (w x s : Nat) : Nat := if s < w then x * 2 ^ s % 2 ^ w else 0
/-- R154. -/
def shr (w x s : Nat) : Nat := if s < w then x / 2 ^ s else 0
/-- R154. -/
def sar (w x s : Nat) : Nat := tc w (sx w x / (2 ^ (min s (w - 1)) : Nat))
/-- R154. -/
def rotl (w x s : Nat) : Nat := x * 2 ^ (s % w) % 2 ^ w + x / 2 ^ (w - s % w)

/-- R156: the result of a truth table, bit by bit. -/
def logt (tab a b c : Nat) : Nat :=
  unelems 1 ((List.range 32).map fun j => fld tab (fld a j 1 + 2 * fld b j 1 + 4 * fld c j 1) 1)

/-- The number of set bits among the low w. -/
def ones (w x : Nat) : Nat := ((List.range w).filter fun j => bitAt x j).length

/-- R157: the number of leading zero bits. -/
def clz (w x : Nat) : Nat := (((List.range w).reverse.takeWhile fun j => !bitAt x j)).length

/-- R157: bit j goes to bit w - 1 - j. -/
def brev (w x : Nat) : Nat := unelems 1 ((List.range w).reverse.map fun j => fld x j 1)

/-- R158: the position of set bit number n, counted from either end. -/
def fnsb (w : Nat) (rev : Bool) (x n : Nat) : Nat :=
  let order := if rev then (List.range w).reverse else List.range w
  ((order.filter fun j => bitAt x j)[n]?).getD 0xFFFFFFFF

/-- R159: the field a control names: its position and length, 0 when it is empty. -/
def fieldOf (w ctl : Nat) : Nat × Nat :=
  let pos := fld ctl 0 8
  if w ≤ pos then (0, 0) else (pos, min (fld ctl 8 8) (w - pos))

/-- R159: BFX. -/
def bfx (t : Ty) (x ctl : Nat) : Nat :=
  let (pos, len) := fieldOf (elemBits t) ctl
  let v := fld x pos len
  if t.isSigned && decide (0 < len) then tc (elemBits t) (sx len v) else v

/-- R159: BFI. -/
def bfi (w x ctl c : Nat) : Nat :=
  let (pos, len) := fieldOf w ctl
  if len = 0 then c else setFld c pos len x

/-- R160: BPERM. -/
def bperm (wide : Bool) (a b c : Nat) : Nat :=
  if wide then unelems 8 ((List.range 8).map fun k => fld (a + b * 2 ^ 64) (8 * fld c (4 * k) 4) 8)
  else unelems 8 ((List.range 4).map fun k => if bitAt c (4 * k + 3) then 0 else fld (a + b * 2 ^ 32) (8 * fld c (4 * k) 3) 8)

/-! ## Arithmetic (R149 to R153) -/

/-- The saturating variant (R149). -/
def satVar (f : Fields) : Bool := f.var == 1

/-- R149: IADD. -/
def execIadd (f : Fields) (s : State) : Out :=
  laneOp s f .a fun w i => int2 f.ty (satVar f) (· + ·) (w.opA f.ty f i) (w.opB f.ty f i)
/-- R149: ISUB. -/
def execIsub (f : Fields) (s : State) : Out :=
  laneOp s f .a fun w i => int2 f.ty (satVar f) (· - ·) (w.opA f.ty f i) (w.opB f.ty f i)
/-- R150: IADDC. -/
def execIaddc (f : Fields) (s : State) : Out :=
  s.issue f fun wid w s => s.fixed wid w f .a 2 fun i =>
    w.opA .n32 f i + w.opB .n32 f i + w.opC .n32 f i % 2
/-- R150: ISUBB. -/
def execIsubb (f : Fields) (s : State) : Out :=
  s.issue f fun wid w s => s.fixed wid w f .a 2 fun i =>
    let r : Int := (w.opA .n32 f i : Int) - w.opB .n32 f i - (w.opC .n32 f i % 2 : Nat)
    tc 32 r + (if r < 0 then 2 ^ 32 else 0)
/-- R149: IMUL. -/
def execImul (f : Fields) (s : State) : Out :=
  laneOp s f .m fun w i => int2 f.ty (satVar f) (· * ·) (w.opA f.ty f i) (w.opB f.ty f i)
/-- R149: IMULH. -/
def execImulh (f : Fields) (s : State) : Out :=
  laneOp s f .m fun w i => int2 f.ty false (fun x y => x * y / (2 ^ elemBits f.ty : Nat)) (w.opA f.ty f i) (w.opB f.ty f i)
/-- R149: IMAD. -/
def execImad (f : Fields) (s : State) : Out :=
  laneOp s f .m fun w i =>
    zipElems3 f.ty (fun x y z => intOut f.ty (satVar f) (intVal f.ty x * intVal f.ty y + intVal f.ty z))
      (w.opA f.ty f i) (w.opB f.ty f i) (w.opC f.ty f i)
/-- R151: IMADW. -/
def execImadw (f : Fields) (s : State) : Out :=
  s.issue f fun wid w s => s.fixed wid w f .m 2 fun i =>
    let z := (w.src64 f.c i).toNat
    tc 64 (intVal f.ty (w.opA f.ty f i) * intVal f.ty (w.opB f.ty f i) + (if f.ty.isSigned then sx 64 z else z))
/-- R149: INEG. -/
def execIneg (f : Fields) (s : State) : Out :=
  laneOp s f .a fun w i => mapElems f.ty (fun x => intOut f.ty (satVar f) (- intVal f.ty x)) (w.opA f.ty f i)
/-- R149: IABS. -/
def execIabs (f : Fields) (s : State) : Out :=
  laneOp s f .a fun w i => mapElems f.ty (fun x => intOut f.ty (satVar f) (intVal f.ty x).natAbs) (w.opA f.ty f i)
/-- R149: IMIN. -/
def execImin (f : Fields) (s : State) : Out :=
  laneOp s f .a fun w i => int2 f.ty false min (w.opA f.ty f i) (w.opB f.ty f i)
/-- R149: IMAX. -/
def execImax (f : Fields) (s : State) : Out :=
  laneOp s f .a fun w i => int2 f.ty false max (w.opA f.ty f i) (w.opB f.ty f i)
/-- R149: ICLAMP. -/
def execIclamp (f : Fields) (s : State) : Out :=
  laneOp s f .a fun w i =>
    zipElems3 f.ty (fun x y z => intOut f.ty false (min (max (intVal f.ty x) (intVal f.ty y)) (intVal f.ty z)))
      (w.opA f.ty f i) (w.opB f.ty f i) (w.opC f.ty f i)
/-- R152: ICMP: one bit for each element in one register. -/
def execIcmp (f : Fields) (s : State) : Out :=
  s.issue f fun wid w s => s.fixed wid w f .a 1 fun i =>
    cmpBits f.ty (fun x y => intCond f.var.toNat (intVal f.ty x) (intVal f.ty y)) (w.opA f.ty f i) (w.opB f.ty f i)
/-- R152: ISET: all ones or zero in each element. -/
def execIset (f : Fields) (s : State) : Out :=
  laneOp s f .a fun w i =>
    zipElems f.ty (fun x y => if intCond f.var.toNat (intVal f.ty x) (intVal f.ty y) then 2 ^ elemBits f.ty - 1 else 0)
      (w.opA f.ty f i) (w.opB f.ty f i)
/-- R153: SEL. -/
def execSel (f : Fields) (s : State) : Out :=
  laneOp s f .a fun w i =>
    let c := w.opC f.ty f i
    (w.opA f.ty f i &&& c) ||| (w.opB f.ty f i &&& (c ^^^ (2 ^ elemBits f.ty - 1)))

/-! ## Shifts and logic (R154 to R156) -/

/-- A shift amount: one register or the immediate (R144, R154). -/
def shiftBy (w : Warp) (f : Fields) (i : Nat) : Nat := (w.wordB f i).toNat

/-- R154: SHL. -/
def execShl (f : Fields) (s : State) : Out :=
  laneOp s f .a fun w i => shl (elemBits f.ty) (w.opA f.ty f i) (shiftBy w f i)
/-- R154: SHR. -/
def execShr (f : Fields) (s : State) : Out :=
  laneOp s f .a fun w i => shr (elemBits f.ty) (w.opA f.ty f i) (shiftBy w f i)
/-- R154: SAR. -/
def execSar (f : Fields) (s : State) : Out :=
  laneOp s f .a fun w i => sar (elemBits f.ty) (w.opA f.ty f i) (shiftBy w f i)
/-- R154: ROTL. -/
def execRotl (f : Fields) (s : State) : Out :=
  laneOp s f .a fun w i => rotl (elemBits f.ty) (w.opA f.ty f i) (shiftBy w f i)
/-- R154: ROTR, a rotation left by what is missing to the width. -/
def execRotr (f : Fields) (s : State) : Out :=
  laneOp s f .a fun w i =>
    rotl (elemBits f.ty) (w.opA f.ty f i) (elemBits f.ty - shiftBy w f i % elemBits f.ty)
/-- R155: AND. -/
def execAndOp (f : Fields) (s : State) : Out :=
  laneOp s f .a fun w i => w.opA f.ty f i &&& w.opB f.ty f i
/-- R155: OR. -/
def execOrOp (f : Fields) (s : State) : Out :=
  laneOp s f .a fun w i => w.opA f.ty f i ||| w.opB f.ty f i
/-- R155: XOR. -/
def execXorOp (f : Fields) (s : State) : Out :=
  laneOp s f .a fun w i => w.opA f.ty f i ^^^ w.opB f.ty f i
/-- R155: ANDN. -/
def execAndn (f : Fields) (s : State) : Out :=
  laneOp s f .a fun w i => w.opA f.ty f i &&& (w.opB f.ty f i ^^^ (2 ^ elemBits f.ty - 1))
/-- R156: LOGT: MOD is the truth table, the width is 32 bits. -/
def execLogt (f : Fields) (s : State) : Out :=
  s.issue f fun wid w s => s.fixed wid w f .a 1 fun i =>
    logt (f.ty.code.toNat * 16 + f.var.toNat) (w.opA .n32 f i) (w.opB .n32 f i) (w.opC .n32 f i)

/-! ## Bit fields (R157 to R160) -/

/-- R157: POPC. -/
def execPopc (f : Fields) (s : State) : Out :=
  s.issue f fun wid w s => s.fixed wid w f .a 1 fun i => ones (elemBits f.ty) (w.opA f.ty f i)
/-- R157: CLZ. -/
def execClz (f : Fields) (s : State) : Out :=
  s.issue f fun wid w s => s.fixed wid w f .a 1 fun i => clz (elemBits f.ty) (w.opA f.ty f i)
/-- R158: FNSB. -/
def execFnsb (f : Fields) (s : State) : Out :=
  s.issue f fun wid w s => s.fixed wid w f .a 1 fun i =>
    fnsb (elemBits f.ty) (f.var == 1) (w.opA f.ty f i) (w.wordB f i).toNat
/-- R157: BREV. -/
def execBrev (f : Fields) (s : State) : Out :=
  laneOp s f .a fun w i => brev (elemBits f.ty) (w.opA f.ty f i)
/-- R159: BFX. -/
def execBfx (f : Fields) (s : State) : Out :=
  laneOp s f .a fun w i => bfx f.ty (w.opA f.ty f i) (w.wordB f i).toNat
/-- R159: BFI. -/
def execBfi (f : Fields) (s : State) : Out :=
  laneOp s f .a fun w i => bfi (elemBits f.ty) (w.opA f.ty f i) (w.wordB f i).toNat (w.opC f.ty f i)
/-- R160: BPERM: the selector is one register. -/
def execBperm (f : Fields) (s : State) : Out :=
  laneOp s f .a fun w i => bperm f.ty.is64 (w.opA f.ty f i) (w.opB f.ty f i) (w.src f.c i).toNat

/-! ## Moves (R161 to R166) -/

/-- R161: MOV. -/
def execMov (f : Fields) (s : State) : Out :=
  laneOp s f .a fun w i => w.opA f.ty f i
/-- R161: MOVI. -/
def execMovi (f : Fields) (s : State) : Out :=
  laneOp s f .a fun _ _ => immOpnd f.ty f.immVal

/-- R162: MOVX and MOVXW: the register a lane's index names; REGRANGE when one lies outside. -/
def moveIndexed (f : Fields) (s : State) (wide : Bool) : Out :=
  s.issue f fun wid w s =>
    let e (i : Nat) : Nat := f.a.reg.toNat + (w.wordB f i).toNat
    let bad (i : Nat) : Bool := decide (w.n ≤ e i) || (wide && (e i % 2 == 1 || decide (w.n ≤ e i + 1)))
    if (lanesOf (w.exec f)).any bad then s.trapAt wid w 0x12
    else s.fixed wid w f .a (if wide then 2 else 1) fun i => if wide then (w.reg64 (e i) i).toNat else (w.reg (e i) i).toNat
/-- R162: MOVX. -/
def execMovx (f : Fields) (s : State) : Out := moveIndexed f s false
/-- R162: MOVXW. -/
def execMovxw (f : Fields) (s : State) : Out := moveIndexed f s true

/-- R87: CFLAGS, as the flags stood at the end of the previous cycle (R89). -/
def Warp.cflags (w : Warp) : Nat := unelems 1 ((List.range 12).map fun n => if mget w.pflags n = 0 then 0 else 1)

/-- R87, R89: a 32-bit special register as a lane reads it. -/
def State.sreg (s : State) (w : Warp) (k i : Nat) : Nat :=
  let hnd := w.kind == .handler
  match k with
  | 0x00 => i
  | 0x01 => w.index
  | 0x02 => w.slot
  | 0x03 => w.clid.toNat
  | 0x04 => w.clshape.toNat
  | 0x05 => (s.lidOf w).toNat
  | 0x06 => w.exm.toNat
  | 0x07 => w.plive.toNat
  | 0x08 => w.ppark.toNat
  | 0x09 => w.asidOf i
  | 0x0A => (maskOf fun j => w.sharesP i j).toNat
  | 0x0B => w.stack.length
  | 0x0C => w.cflags
  | 0x10 => s.rink.pdrift.toNat
  | 0x11 => w.pqsstat.toNat
  | 0x12 => if hnd then (mget w.tcause i).toNat else 0
  | 0x14 => if hnd then w.tmask.toNat else 0
  | _ => 0

/-- R89, R409: RINKC as it reads in the present cycle; none outside a rink. -/
def Rink.reads (r : Rink) : Option DWord := r.was.getD (if r.formed then some r.rinkc else none)
/-- R87, R361, R409: TASKC, 0 outside timed mode and outside a rink. -/
def State.taskc (s : State) (w : Warp) : DWord :=
  if w.timed then (match s.rink.reads with | some c => c - w.tstart | none => 0) else 0

/-- R87, R88: a 64-bit special register as a lane reads it. -/
def State.sreg64 (s : State) (w : Warp) (k i : Nat) : Nat :=
  let hnd := w.kind == .handler
  match k with
  | 0x0D => (s.taskc w).toNat
  | 0x0E => (s.rink.reads.getD 0).toNat
  | 0x0F => (s.tsc w.pdk).toNat
  | 0x13 => if hnd then (mget w.tva i).toNat else 0
  | 0x15 => if hnd then (mget w.epc i).toNat else 0
  | _ => 0

/-- R147: the special registers whose value depends on timing or placement. -/
def timingReg (k : Nat) : Bool := k == 0x0C || k == 0x0F || k == 0x0E || k == 0x10 || k == 0x01 || k == 0x02

/-- R163, R65, R164: MOVS. A `.put` writes EXM, with one value from every lane that executes it; without any, EXM stays. -/
def execMovs (f : Fields) (s : State) : Out :=
  s.issue f fun wid w s =>
    if f.var == 0 then
      let k := f.a.reg.toNat
      if w.det && timingReg k then s.trapAt wid w 0x1B
      else s.fixed wid w f .a 1 fun i => s.sreg w k i
    else
      let m := w.exec f
      let val (i : Nat) : Word := match f.args with | .imm _ imm => imm | .regs a _ _ => w.src a i
      if m == 0 then s.landIn wid (lambda f .a) { flag := f.flag }
      else match uniform m val with
      | none => s.trapAt wid w 0x15
      | some v => s.landIn wid (lambda f .a) { exm := some v, flag := f.flag }
/-- R166: MOVSW. -/
def execMovsw (f : Fields) (s : State) : Out :=
  s.issue f fun wid w s =>
    let k := f.a.reg.toNat
    if w.det && timingReg k then s.trapAt wid w 0x1B
    else s.fixed wid w f .a 2 fun i => s.sreg64 w k i

end Sys2Proof.Machine
end

