-- ==== Sys2Proof/Machine/Float.lean ====
section
/-! DEFINITION. Floating formats (R126 to R130), exact values, rounding (R132 to R135) and NaN (R136, R137). -/
namespace Sys2Proof.Machine
open Sys2Proof

/-- R126: a floating format. `kind`: 0 with infinities and NaNs, 1 q8a, 2 q4. -/
structure Fmt where
  bits : Nat
  p    : Nat
  bias : Nat
  kind : Nat
  deriving DecidableEq, Repr, Inhabited

/-- R126: the element format of a floating type; other types read as f32. -/
def fmtOf (t : Ty) : Fmt :=
  match t with
  | .f64 => ⟨64, 53, 1023, 0⟩
  | .f16x2 => ⟨16, 11, 15, 0⟩
  | .bf16x2 => ⟨16, 8, 127, 0⟩
  | .q8bx4 => ⟨8, 3, 15, 0⟩
  | .q8ax4 => ⟨8, 4, 7, 1⟩
  | .q4x8 => ⟨4, 2, 1, 2⟩
  | _ => ⟨32, 24, 127, 0⟩

/-- The sign bit's weight. -/
def Fmt.top (F : Fmt) : Nat := 2 ^ (F.bits - 1)
/-- R126: emin. -/
def Fmt.emin (F : Fmt) : Int := 1 - (F.bias : Int)
/-- The code of the largest finite magnitude. -/
def Fmt.maxCode (F : Fmt) : Nat :=
  match F.kind with | 0 => F.top - 2 ^ (F.p - 1) - 1 | 1 => 0x7E | _ => 7
/-- The code of +infinity, in a format that has one. -/
def Fmt.infCode (F : Fmt) : Nat := F.top - 2 ^ (F.p - 1)
/-- R137: the canonical NaN; q4 has none and gives 0. -/
def Fmt.cnan (F : Fmt) : Nat := match F.kind with | 0 => F.infCode + 2 ^ (F.p - 2) | 1 => 0x7F | _ => 0

/-- R127 to R129: what a code stands for: a NaN, an infinity, or ± m · 2^e exactly. -/
inductive FVal where
  | nan
  | inf (neg : Bool)
  | fin (neg : Bool) (m : Nat) (e : Int)
  deriving DecidableEq, Repr, Inhabited

/-- The sign of a code. -/
def Fmt.neg (F : Fmt) (x : Nat) : Bool := decide (F.top ≤ x % 2 ^ F.bits)
/-- The code without its sign. -/
def Fmt.mag (F : Fmt) (x : Nat) : Nat := x % F.top
/-- R127: a NaN. -/
def Fmt.isNan (F : Fmt) (x : Nat) : Bool := match F.kind with | 0 => decide (F.infCode < F.mag x) | 1 => F.mag x == 0x7F | _ => false
/-- R127 to R129: the value of a code. -/
def Fmt.val (F : Fmt) (x : Nat) : FVal :=
  let a := F.mag x
  if F.isNan x then .nan
  else if F.kind == 0 && a == F.infCode then .inf (F.neg x)
  else
    let E := a / 2 ^ (F.p - 1)
    let M := a % 2 ^ (F.p - 1)
    if E = 0 then .fin (F.neg x) M (F.emin - (F.p - 1 : Nat))
    else .fin (F.neg x) (M + 2 ^ (F.p - 1)) ((E : Int) - F.bias - (F.p - 1 : Nat))

/-- The number of bits of a number. -/
def bitLen (m : Nat) : Nat := if m = 0 then 0 else Nat.log2 m + 1

/-- The code with a sign; q4 has no -0. -/
def Fmt.signed (F : Fmt) (neg : Bool) (a : Nat) : Nat :=
  if neg && !(F.kind == 2 && a == 0) then a + F.top else a

/-- R133: ± m · 2^e, and a little more in magnitude when `sticky`, rounded to a format in a mode: 0 RNE, 1 RTZ, 2 RUP, 3 RDN. A
sticky value is given with more bits than the format holds. -/
def Fmt.round (F : Fmt) (mode : Nat) (neg : Bool) (m : Nat) (e : Int) (sticky : Bool) : Nat :=
  if m = 0 then F.signed neg 0 else
  let L : Int := (bitLen m : Int)
  let ex := max (e + L - 1) F.emin
  let sh := ex - (F.p - 1 : Nat) - e
  let far := decide (L + 2 < sh)
  let q := if far then 0 else if sh ≤ 0 then m * 2 ^ (-sh).toNat else m / 2 ^ sh.toNat
  let r := if far then 1 else if sh ≤ 0 then 0 else m % 2 ^ sh.toNat
  let half := if far then 4 else if sh ≤ 0 then 1 else 2 ^ (sh.toNat - 1)
  let inexact := r != 0 || sticky
  let up := match mode with
    | 0 => decide (half < r) || (r == half && (sticky || q % 2 == 1))
    | 1 => false
    | 2 => inexact && !neg
    | _ => inexact && neg
  let q := if up then q + 1 else q
  let code := if q < 2 ^ (F.p - 1) then q else (ex + F.bias).toNat * 2 ^ (F.p - 1) + (q - 2 ^ (F.p - 1))
  if code ≤ F.maxCode then F.signed neg code
  else if F.kind == 0 && (mode == 0 || (mode == 2 && !neg) || (mode == 3 && neg)) then F.signed neg F.infCode
  else F.signed neg F.maxCode

/-- A signed exact value v · 2^e rounded; an exact zero takes `zneg` as its sign (R135). -/
def Fmt.roundInt (F : Fmt) (mode : Nat) (zneg : Bool) (v e : Int) : Nat :=
  if v = 0 then F.signed zneg 0 else F.round mode (decide (v < 0)) v.natAbs e false

/-- R136: the NaN `x` of format S in format T, quietened. -/
def nanTo (S T : Fmt) (x : Nat) : Nat :=
  match T.kind with
  | 2 => 0
  | 1 => T.signed (S.neg x) 0x7F
  | _ =>
    let M := S.mag x % 2 ^ (S.p - 1)
    let M := if S.p ≤ T.p then M * 2 ^ (T.p - S.p) else M / 2 ^ (S.p - T.p)
    let M := if M < 2 ^ (T.p - 2) then M + 2 ^ (T.p - 2) else M
    T.signed (S.neg x) (T.infCode + M)

/-- A NaN of a format, quietened in it. -/
def Fmt.quiet (F : Fmt) (x : Nat) : Nat := nanTo F F x

/-- The first NaN of a list of codes, quietened. -/
def Fmt.firstNan (F : Fmt) (xs : List Nat) : Option Nat := (xs.find? F.isNan).map F.quiet

/-- A signed integer m with the sign. -/
def signInt (neg : Bool) (m : Nat) : Int := if neg then - (m : Int) else m

/-- The exact sum of a list of finite values, on the grid of the smallest exponent. -/
def exactSum (xs : List (Bool × Nat × Int)) : Int × Int :=
  let e := xs.foldl (fun e x => min e x.2.2) (match xs with | x :: _ => x.2.2 | [] => 0)
  (xs.foldl (fun v x => v + signInt x.1 x.2.1 * (2 ^ (x.2.2 - e).toNat : Nat)) 0, e)

/-- R135 to R137, R140: a sum of values without NaN, rounded once: infinities of both signs are invalid; an exact zero is +0, and
-0 in RDN or when every addend is -0. -/
def Fmt.sum (F : Fmt) (mode : Nat) (xs : List FVal) : Nat :=
  let infs := xs.filterMap fun x => match x with | .inf n => some n | _ => none
  if infs.contains true && infs.contains false then F.cnan
  else match infs with
  | n :: _ => F.signed n F.infCode
  | [] =>
    let fs := xs.filterMap fun x => match x with | .fin n m e => some (n, m, e) | _ => none
    let (v, e) := exactSum fs
    let zneg := mode == 3 || (fs.all fun x => x.1 && x.2.1 == 0)
    F.roundInt mode zneg v e

/-- The product of two values without NaN; none when it is invalid (R137). -/
def mulVal : FVal → FVal → Option FVal
  | .fin n m e, .fin n' m' e' => some (.fin (n != n') (m * m') (e + e'))
  | .inf n, .fin n' m' _ => if m' = 0 then none else some (.inf (n != n'))
  | .fin n m _, .inf n' => if m = 0 then none else some (.inf (n != n'))
  | .inf n, .inf n' => some (.inf (n != n'))
  | _, _ => none

/-- The value with its sign inverted. -/
def negVal : FVal → FVal
  | .fin n m e => .fin (!n) m e
  | .inf n => .inf (!n)
  | .nan => .nan

/-- R177: x + y. -/
def Fmt.add (F : Fmt) (mode x y : Nat) : Nat :=
  (F.firstNan [x, y]).getD (F.sum mode [F.val x, F.val y])
/-- R177: x - y; a NaN keeps its sign. -/
def Fmt.sub (F : Fmt) (mode x y : Nat) : Nat :=
  (F.firstNan [x, y]).getD (F.sum mode [F.val x, negVal (F.val y)])
/-- A value without NaN as a code, rounded. -/
def Fmt.ofVal (F : Fmt) (mode : Nat) : FVal → Nat
  | .fin n m e => F.round mode n m e false
  | .inf n => if F.kind == 0 then F.signed n F.infCode else F.signed n F.maxCode
  | .nan => F.cnan
/-- R177: x · y. -/
def Fmt.mul (F : Fmt) (mode x y : Nat) : Nat :=
  (F.firstNan [x, y]).getD (match mulVal (F.val x) (F.val y) with | none => F.cnan | some v => F.ofVal mode v)
/-- R177: x · y + z, rounded once. -/
def Fmt.fma (F : Fmt) (mode x y z : Nat) : Nat :=
  (F.firstNan [x, y, z]).getD (match mulVal (F.val x) (F.val y) with | none => F.cnan | some v => F.sum mode [v, F.val z])

/-- The bits a quotient or a root is computed to, beyond which a sticky bit tells the rest. -/
def Fmt.work (F : Fmt) : Nat := F.p + 3

/-- The exact quotient m · 2^e / (m' · 2^e'), truncated to enough bits, with its exponent and whether it is inexact. -/
def quot (bits m : Nat) (e : Int) (m' : Nat) (e' : Int) : Nat × Int × Bool :=
  let k := bits + bitLen m'
  (m * 2 ^ k / m', e - e' - k, m * 2 ^ k % m' != 0)

/-- R178: x / y. -/
def Fmt.div (F : Fmt) (mode x y : Nat) : Nat :=
  (F.firstNan [x, y]).getD (match F.val x, F.val y with
    | .inf _, .inf _ => F.cnan
    | .inf n, .fin n' _ _ => F.signed (n != n') F.infCode
    | .fin n _ _, .inf n' => F.signed (n != n') 0
    | .fin n m e, .fin n' m' e' =>
      if m' = 0 then (if m = 0 then F.cnan else F.signed (n != n') F.infCode)
      else if m = 0 then F.signed (n != n') 0
      else
        let (q, k, st) := quot F.work m e m' e'
        F.round mode (n != n') q k st
    | _, _ => F.cnan)

/-- The integer square root of n, one bit at a time from 2^k down. -/
def isqrtFrom (n : Nat) : Nat → Nat → Nat
  | 0, r => r
  | k + 1, r => if (r + 2 ^ k) * (r + 2 ^ k) ≤ n then isqrtFrom n k (r + 2 ^ k) else isqrtFrom n k r
/-- ⌊√n⌋. -/
def isqrt (n : Nat) : Nat := isqrtFrom n (bitLen n / 2 + 1) 0

/-- The square root of m · 2^e, truncated to enough bits. -/
def rootOf (bits m : Nat) (e : Int) : Nat × Int × Bool :=
  let k := 2 * bits + (if (e - (2 * bits : Nat)) % 2 = 0 then 0 else 1)
  let n := m * 2 ^ k
  let r := isqrt n
  (r, (e - k) / 2, r * r != n)

/-- R178: √x. -/
def Fmt.sqrt (F : Fmt) (mode x : Nat) : Nat :=
  (F.firstNan [x]).getD (match F.val x with
    | .inf false => F.infCode
    | .fin n m e =>
      if m = 0 then F.signed n 0
      else if n then F.cnan
      else
        let (r, k, st) := rootOf F.work m e
        F.round mode false r k st
    | _ => F.cnan)

/-- R138: the monotone image of a code of a floating format. -/
def Fmt.image (F : Fmt) (x : Nat) : Nat := if F.neg x then 2 ^ F.bits - 1 - x % 2 ^ F.bits else x + F.top

/-- R138: the image of an element of a type. -/
def imageOf (t : Ty) (x : Nat) : Nat :=
  let w := elemBits t
  if t.isFloat then (fmtOf t).image x else if t.isSigned then (x + 2 ^ (w - 1)) % 2 ^ w else x

/-- R138: the inverse of the image. -/
def unimageOf (t : Ty) (y : Nat) : Nat :=
  let w := elemBits t
  if t.isFloat then (if y < 2 ^ (w - 1) then 2 ^ w - 1 - y else y - 2 ^ (w - 1))
  else if t.isSigned then (y + 2 ^ (w - 1)) % 2 ^ w else y

/-- R179: FMIN, FMAX; `prop` is FMINP, FMAXP. -/
def Fmt.minmax (F : Fmt) (maxi prop : Bool) (x y : Nat) : Nat :=
  match F.isNan x, F.isNan y with
  | true, true => F.quiet x
  | true, false => if prop then F.quiet x else y
  | false, true => if prop then F.quiet y else x
  | false, false => if decide (F.image x ≤ F.image y) != maxi then x else y

/-- R180: the conditions of FCMP. -/
def Fmt.cond (F : Fmt) (cc x y : Nat) : Bool :=
  if F.isNan x || F.isNan y then cc == 1 || cc == 6
  else
    let z (v : Nat) : Nat := if F.mag v = 0 then F.image 0 else F.image v
    match cc with
    | 0 => z x == z y | 1 => z x != z y | 2 => decide (z x < z y) | 3 => decide (z x ≤ z y)
    | 4 => decide (z y < z x) | 5 => decide (z y ≤ z x) | 6 => false | _ => true

/-- R181: the class of a code, as a mask bit. -/
def Fmt.cls (F : Fmt) (x : Nat) : Nat :=
  match F.val x with
  | .nan => if F.mag x % 2 ^ (F.p - 1) < 2 ^ (F.p - 2) then 8 else 9
  | .inf n => if n then 0 else 7
  | .fin n m _ =>
    if m = 0 then (if n then 3 else 4)
    else if F.mag x < 2 ^ (F.p - 1) then (if n then 2 else 5)
    else (if n then 1 else 6)

/-- An exact magnitude m · 2^e rounded to an integer in a mode. -/
def roundNat (mode : Nat) (neg : Bool) (m : Nat) (e : Int) : Nat :=
  if 0 ≤ e then m * 2 ^ e.toNat else
  let s := (-e).toNat
  if bitLen m + 2 < s then (if m = 0 then 0 else if (mode == 2 && !neg) || (mode == 3 && neg) then 1 else 0) else
  let q := m / 2 ^ s
  let r := m % 2 ^ s
  let up := match mode with
    | 0 => decide (2 ^ s < 2 * r) || (2 * r == 2 ^ s && q % 2 == 1)
    | 1 => false
    | 2 => r != 0 && !neg
    | _ => r != 0 && neg
  if up then q + 1 else q

/-- R182: FRND. -/
def Fmt.rnd (F : Fmt) (mode x : Nat) : Nat :=
  match F.val x with
  | .nan => F.quiet x
  | .inf _ => x
  | .fin n m e => if 0 ≤ e then x else F.round 0 n (roundNat mode n m e) 0 false

/-- R183: FSCALE. -/
def Fmt.scale (F : Fmt) (mode x : Nat) (b : Int) : Nat :=
  match F.val x with
  | .nan => F.quiet x
  | .inf _ => x
  | .fin n m e => if m = 0 then x else F.round mode n m (e + b) false

/-- R184: FEXP .exp, an integer of `w` bits. -/
def Fmt.expPart (F : Fmt) (w x : Nat) : Nat :=
  match F.val x with
  | .fin _ m e => if m = 0 then 2 ^ (w - 1) else tc w (e + bitLen m - 1)
  | _ => 2 ^ (w - 1) - 1
/-- R184: FEXP .man. -/
def Fmt.manPart (F : Fmt) (x : Nat) : Nat :=
  match F.val x with
  | .nan => F.quiet x
  | .inf _ => x
  | .fin n m _ => if m = 0 then x else F.round 0 n m (1 - bitLen m) false

/-! ## Conversions (R167 to R170) -/

/-- R133: ± the largest finite value where a result lies beyond it or is infinite; a NaN stays. -/
def Fmt.sat (F : Fmt) (x : Nat) : Nat :=
  if F.isNan x || F.mag x ≤ F.maxCode then x else F.signed (F.neg x) F.maxCode

/-- R170: one element of type S converted to type T under a variant: bits [1:0] the mode, bit [2] SAT. -/
def convert (S T : Ty) (var x : Nat) : Nat :=
  let mode := var % 4
  let sat := bitAt var 2
  match S.isFloat, T.isFloat with
  | false, false => intOut T sat (intVal S x)
  | false, true =>
    let F := fmtOf T
    let y := F.roundInt mode false (intVal S x) 0
    if sat then F.sat y else y
  | true, false =>
    (match (fmtOf S).val x with
     | .nan => 0
     | .inf n => intOut T true (if n then -(2 ^ 80 : Nat) else (2 ^ 80 : Nat))
     | .fin n m e =>
       if decide (80 < e) && m != 0 then intOut T true (signInt n (2 ^ 80))
       else intOut T true (signInt n (roundNat mode n m e)))
  | true, true =>
    let F := fmtOf S
    let G := fmtOf T
    if F.isNan x then nanTo F G x
    else
      let y := match F.val x with
        | .inf n => if G.kind == 0 then G.signed n G.infCode else G.signed n G.maxCode
        | v => G.ofVal mode v
      if sat then G.sat y else y

end Sys2Proof.Machine
end

