-- ==== Sys2Proof/Machine/Access.lean ====
section
/-! DEFINITION. What every memory instruction shares: where a pointer points (R90 to R94), the checks of a lane (R105), storage
errors (R13, R374), one queue per byte (R112), the check of deterministic mode (R262, R263), and atomic operations (R267). -/
namespace Sys2Proof.Machine
open Sys2Proof

/-! ## Where a pointer points -/

/-- What a pointer denotes: a fault of step 1 or 2 of R105 with its code and address, a scratchpad byte, or a virtual address. -/
inductive Spot where
  | fault (code va : Nat)
  | pad (byte : Nat)
  | glob (va : Nat)
  deriving DecidableEq, Repr, Inhabited

/-- R228: the window of an ASID of a warp's launch on a core. -/
def State.window? (s : State) (c : Nat) (w : Warp) (asid : Nat) : Option Window :=
  (s.core c).windows.find? fun x => x.pdk == w.pdk && x.launch == w.launch && x.asid == asid

/-- R93: the private-arena entry of an ASID, as a number. -/
def State.arenaEntry (s : State) (p asid : Nat) : Nat :=
  (s.devRead p (fld ((s.pdk p).reg 0x020).toNat 12 34 * 2 ^ 12 + 32 * asid) 32).getD 0
/-- R92, R93: the virtual address of a lane's private offset 0. DESIGN CHOICE (log 54): a lane without a slot has the entry's BASE, which a
fault of it names. -/
def State.arena (s : State) (w : Warp) (lane : Nat) : Nat :=
  let e := s.arenaEntry w.pdk (w.asidOf lane)
  fld e 192 64 + ((mget w.priv lane).toNat - 1) * fld e 160 32 * 1024

/-- R91, R105: an offset in a window: PROT, MISALIGN or a scratchpad byte. `va` is what a fault names. -/
def padSpot (win : Option Window) (o : Int) (n al va : Nat) : Spot :=
  match win with
  | none => .fault 2 va
  | some x =>
    if o < 0 || (x.slots * 2048 : Nat) < o + n then .fault 2 va
    else if o.toNat % al != 0 then .fault 3 va
    else .pad (2048 * x.base + o.toNat)

/-- R90 to R92, R105: steps 1 and 2 for an access of `n` bytes, aligned to `al`. -/
def State.spot (s : State) (w : Warp) (lane n al : Nat) (pads privs : Bool) (ea : DWord) : Spot :=
  let x := ea.toNat
  let o := fld x 0 48
  if 2 ^ 57 ≤ x then .fault 2 x
  else match fld x 48 9 with
  | 0x1FE => if pads then padSpot (s.window? w.core w (w.asidOf lane)) (o : Int) n al x else .fault 2 x
  | 0x1FF =>
    let a := s.arena w lane + o
    if !privs || decide (w.privKB * 1024 < o + n) then .fault 2 a
    else if x % al != 0 then .fault 3 a else .glob a
  | _ => if x % al != 0 then .fault 3 x else .glob x

/-- What a translation gives (R105, steps 3 and 4). -/
inductive Found where
  | hit (pa : Nat) (spec : Bool)
  | miss
  | fault (code : Nat) (ft : Bool)
  deriving DecidableEq, Repr, Inhabited

/-- R105 step 4, R62, R403: what a leaf gives an access that needs RD or WR. Whether a page is speculative stands in the device's
frame table (R371). -/
def State.leafFound (s : State) (p : Nat) (e : TlbEntry) (va : Nat) (rd wr : Bool) : Found :=
  let pa := e.addr va
  if (rd && !e.rd) || (wr && (!e.wr || s.execFrame p pa)) then .fault 2 false
  else match s.deviceAt e va with
  | some a => .hit a ((s.pdk p).spec.any (·.1 == pa / 2 ^ 18))
  | none => .fault 2 false

/-- R99: the core TLB's answer. -/
def State.lookup (s : State) (c p asid va : Nat) (rd wr : Bool) : Found :=
  match s.tlbHit c p asid va with
  | none => .miss
  | some e => s.leafFound p e va rd wr
/-- R98 to R100: a translation that walks where it misses. -/
def State.search (s : State) (c p asid va : Nat) (rd wr : Bool) : Found × State :=
  match s.translate c p asid va with
  | (.fault code ft, s) => (.fault code ft, s)
  | (.leaf e, s) => (s.leafFound p e va rd wr, s)

/-- A lane's access as its issue finds it, and its fault. `write` is what the fault says of the access (R379). -/
def State.probe (s : State) (w : Warp) (a : Acc) (rd wr write : Bool) : Spot → Acc × Option LaneFault
  | .fault code va => ({ a with va }, some { lane := a.lane, code, va := BitVec.ofNat 64 va, write })
  | .pad b => ({ a with stage := .ready, pad := true, pa := b }, none)
  | .glob va =>
    let a := { a with va }
    match s.lookup w.core w.pdk (w.asidOf a.lane) va rd wr with
    | .miss => (a, none)
    | .hit pa spec => ({ a with stage := .ready, pa, spec }, none)
    | .fault code ft => (a, some { lane := a.lane, code, va := BitVec.ofNat 64 va, write, ft })

/-! ## Deterministic mode (R261 to R264) -/

/-- R263: the kinds of access the check knows. -/
inductive DetKind where
  | read | write
  | atomic (op : Nat)
  deriving DecidableEq, Repr, Inhabited

/-- R263: the check of one access to a line's record; none is a conflict. -/
def DetRec.check (r : DetRec) (launch : Word) (w : BitVec 16) (p : Word) (k : DetKind) : Option DetRec :=
  let r := if r.launch == launch then r else { line := r.line, launch }
  let none_ : BitVec 16 := 0xFFFF
  let wOk := r.writer == none_ || r.writer == w || decide (r.wphase.toNat < p.toNat)
  let rOk := r.reader == none_ || r.reader == w || decide (r.rphase.toNat < p.toNat)
  let aOk := r.aop == 0 || r.awarp == w || decide (r.aphase.toNat < p.toNat)
  let mark (x : BitVec 16) : BitVec 16 := if x == none_ || x == w then w else 0xFFFE
  let later (x : Word) : Word := if x.toNat < p.toNat then p else x
  match k with
  | .read => if wOk && aOk then some { r with reader := mark r.reader, rphase := later r.rphase } else none
  | .write =>
    if wOk && rOk && aOk then
      some { r with writer := w, wphase := p, reader := none_, aop := 0, awarp := none_ }
    else none
  | .atomic op =>
    if wOk && rOk && (aOk || r.aop == op) then
      let r := if r.aop != op || (aOk && r.awarp != w) then { r with awarp := none_ } else r
      some { r with aop := op, awarp := mark r.awarp, aphase := later r.aphase }
    else none

/-- R82: a warp's ordinal in its launch. -/
def State.ordinalOf (s : State) (w : Warp) : BitVec 16 := BitVec.ofNat 16 (w.ordinal (s.launchRec w.launch).desc.gridx)

/-- R263: accesses in order; none when one conflicts, and then no record changes. -/
def State.detCheck (s : State) (w : Warp) : List (Nat × DetKind) → Option State
  | [] => some s
  | (line, k) :: rest =>
    let r := (s.det.find? (·.line == line)).getD { line, launch := w.lid }
    match r.check w.lid (s.ordinalOf w) w.phase k with
    | none => none
    | some r => State.detCheck { s with det := r :: s.det.filter (·.line != line) } w rest

/-- The record key of a global line. -/
def State.lineKey (s : State) (pa : Nat) : Nat := s.home pa / 64
/-- The record key of a scratchpad line. -/
def padKey (core byte : Nat) : Nat := 2 ^ 48 + core * 2 ^ 16 + byte / 64
/-- The record key of a tag entry (R246). -/
def tagKey (core slot : Nat) : Nat := 2 ^ 49 + core * 2 ^ 16 + slot
/-- The record key of a lane's access. -/
def State.accKey (s : State) (core : Nat) (a : Acc) : Nat := if a.pad then padKey core a.pa else s.lineKey a.pa

/-- R263: the code of an integer atomic operation; 0 for one that is checked as a read and a write. -/
def aopCode (op : AtomOp) (t : Ty) : Nat :=
  if t.isFloat then 0 else
  match op with
  | .add => 1 | .and => 2 | .or => 3 | .xor => 4
  | .min => if t.isSigned then 5 else 7
  | .max => if t.isSigned then 6 else 8
  | .xchg => 0

/-- R263: the accesses that one lane of an operation counts as. -/
def detKinds (k : OpKind) (t : Ty) : List DetKind :=
  match k with
  | .load _ => [.read]
  | .store => [.write]
  | .atomic op _ => if aopCode op t = 0 then [.read, .write] else [.atomic (aopCode op t)]
  | .cas => [.read, .write]
  | .bitset _ => [.atomic 3]
  | _ => []

/-- R118: an LDRO of a line whose last writer belongs to the launch conflicts. -/
def State.roConflict (s : State) (w : Warp) (line : Nat) : Bool :=
  s.det.any fun r => r.line == line && r.launch == w.lid && r.writer != 0xFFFF

/-- R118, R263: the check of an operation's lanes, made once when each has found its place. -/
def State.detOp (s : State) (w : Warp) (x : Op) : Option State :=
  let live := x.accs.filter fun a => a.stage != .gone
  if x.kind == .load true && live.any fun a => s.roConflict w (s.accKey w.core a) then none
  else s.detCheck w (live.flatMap fun a => (detKinds x.kind x.ty).map fun k => (s.accKey w.core a, k))

/-! ## Atomic operations (R267) -/

/-- R267: OPR(old, x) on a whole value of a type. -/
def atomOp (op : AtomOp) (t : Ty) (old x : Nat) : Nat :=
  match op with
  | .add => if t.isFloat then zipElems t ((fmtOf t).add 0) old x else tc (elemBits t) (intVal t old + intVal t x)
  | .and => old &&& x
  | .or => old ||| x
  | .xor => old ^^^ x
  | .min => if t.isFloat then zipElems t ((fmtOf t).minmax false false) old x else tc (elemBits t) (min (intVal t old) (intVal t x))
  | .max => if t.isFloat then zipElems t ((fmtOf t).minmax true false) old x else tc (elemBits t) (max (intVal t old) (intVal t x))
  | .xchg => x

/-- R265: the operation of a variant code. -/
def atomOfVar (v : Nat) : AtomOp :=
  match v with | 0 => .add | 1 => .and | 2 => .or | 3 => .xor | 4 => .min | 5 => .max | _ => .xchg

/-- R263, R282: what an atomic of deterministic mode returns instead of the old value. -/
def atomResult (det : Bool) (k : OpKind) (t : Ty) (old : Nat) : Nat :=
  match k with
  | .atomic op _ => if det && aopCode op t != 0 then 0 else old
  | _ => old

/-- R267: the value an atomic or a compare-and-swap writes, if any. -/
def atomWrite (k : OpKind) (t : Ty) (old data cmp : Nat) : Option Nat :=
  match k with
  | .atomic op _ => some (atomOp op t old data)
  | _ => if old == cmp then some data else none

/-! ## Widths (R115) -/

/-- R115: bytes and registers of an LD, ST, LDS or STS by its variant. -/
def accessShape (t : Ty) (var : Nat) : Nat × Nat :=
  match var % 8 with
  | 1 => (1, 1)
  | 2 => (2, 1)
  | 3 => if t.is64 then (16, 4) else (8, 2)
  | 4 => (16, 4)
  | _ => if t.is64 then (8, 2) else (4, 1)

/-- R116: the value that lands: narrow ones are extended by the type. -/
def loadValue (t : Ty) (var raw : Nat) : Nat :=
  match var % 8 with
  | 1 => if t == .i32 then tc 32 (sx 8 raw) else fld raw 0 8
  | 2 => if t == .i32 then tc 32 (sx 16 raw) else fld raw 0 16
  | _ => raw

/-- The bits of `n` registers of a lane from `r` on. -/
def Warp.regsVal (w : Warp) (r lane n : Nat) : Nat :=
  (List.range n).foldl (fun v k => v + (w.reg (r + k) lane).toNat * 2 ^ (32 * k)) 0

/-- R116: the address of a lane: the pair a and a signed offset. -/
def Warp.effAddr (w : Warp) (f : Fields) (i : Nat) : DWord :=
  w.src64 f.a i + BitVec.ofInt 64 (sx 32 (w.wordB f i).toNat)

/-- An operation with its lanes enters: one without lanes counts down in the next cycle (R41); faults found at once are
resolved; one whose lanes have all finished ends. -/
def State.enterOp (s : State) (wid : Nat) (w : Warp) (f : Fields) (x : Op) (ps : List (Acc × Option LaneFault)) : Nat × State :=
  if ps.isEmpty then (0, s.simpleOp wid w f 1)
  else
    let (o, s) := s.addOp { x with accs := ps.map (·.1) }
    let fs := ps.filterMap (·.2)
    (o, if fs.isEmpty then s else s.laneFaults wid o w.pc w fs)

/-- R229: the scratchpad accesses of an operation's lanes enter the core's pipeline, 8 cycles before their access cycle. `len` becomes the
cycle in which they land. -/
def State.queuePads (s : State) (o : Nat) (k : PadKind) (land : Nat) : State :=
  match s.op? o with
  | none => s
  | some x =>
    let accs := x.accs.filter fun a => a.pad && a.stage == .ready
    if accs.isEmpty then s else
    let w := x.before
    let now := s.now w
    let s := s.updOp o fun x => x.mapAccs fun a => if a.pad && a.stage == .ready then { a with len := now + land } else a
    let p : PadAccess := { wid := x.wid, slot := w.slot, kind := k, due := now + 8, land := now + land, bytes := x.bytes, ty := x.ty,
                           var := x.var, dst := x.dst, nregs := x.nregs, op := some o, pc := x.pc, accs, before := w }
    s.updCore w.core fun c => { c with padq := c.padq ++ [p] }

/-- R118, R263: the scratchpad lanes of a load or store that has other lanes too are held back until the check of all of them is made: their
`len` is the time from access to landing that they then take. -/
def State.startPads (s : State) (o : Nat) : State :=
  match s.op? o with
  | none => s
  | some x =>
    match x.accs.find? (·.pad), x.kind with
    | some a, .load _ => s.queuePads o .read a.len
    | some a, .store => s.queuePads o .write a.len
    | _, _ => s

/-- Scratchpad lanes that wait for the deterministic check of their operation (R263). -/
def Op.padsHeld (x : Op) : Bool := x.before.det && !x.checked && x.accs.any fun a => a.pad && a.stage == .ready
/-- R112: a warp's scratchpad lanes wait so: no later word that accesses memory issues, but for one of a region, until they act (log 37). -/
def State.padsHeld (s : State) (w : Warp) : Bool := w.det && s.ops.any fun x => x.wid == w.id && x.padsHeld

/-- R263: the deterministic check of an operation stands before its first effect: `k` runs once it is made; a conflict traps
DETCONF at the instruction, and lanes that have found no place yet hold it back. -/
def State.detGate (s : State) (o : Nat) (k : State → State) : State :=
  match s.op? o with
  | none => s
  | some x =>
    if !x.before.det || x.checked then k s
    else if x.accs.any fun a => a.stage == .walk || a.stage == .touch then s
    else match s.detOp (s.warp x.wid) x with
      | some s => k ((s.updOp o fun x => { x with checked := true }).startPads o)
      | none => s.warpTrap x.wid 0x18 x.pc x.before o

/-! ## Stamps (R251, R252) -/

/-- R252: a home may apply an access of a die with a stamp. -/
def State.applicable (s : State) (o : Nat) (v : SMap 48) : Bool :=
  (List.range 8).all fun e =>
    let f := (mget s.frontier e).toNat
    if e == o then decide ((mget v e).toNat ≤ f + 1) else decide ((mget v e).toNat ≤ f)

/-- R252: all that a die has stamped or observed is known to be applied, so a write it makes now is applicable at once. -/
def State.quiet (s : State) (d : Nat) : Bool :=
  (List.range 8).all fun e => decide ((mget s.clocks (8 * d + e)).toNat ≤ (mget s.frontier e).toNat)

/-- A lane of an operation. -/
def Op.acc? (x : Op) (lane : Nat) : Option Acc := x.accs.find? (·.lane == lane)
/-- The state with one lane of an operation changed. -/
def State.updAcc (s : State) (o lane : Nat) (f : Acc → Acc) : State :=
  s.updOp o fun x => x.mapAccs fun a => if a.lane == lane then f a else a

/-- R251: the newest outbound entry of a die for a byte that its home has not applied yet (R255). -/
def State.outByte (s : State) (die pa : Nat) : Option (BitVec 8) :=
  let waits (e : Outbound) : Bool := e.die == die && decide (e.pa ≤ pa) && decide (pa < e.pa + e.bytes.length) &&
    (match s.op? e.op with
     | some x => x.accs.any fun a => a.lane == e.lane && (a.stage == .stamped || a.stage == .left) && decide (e.pa + a.put ≤ pa)
     | none => false)
  match s.outbound.reverse.find? waits with
  | some e => e.bytes[pa - e.pa]?
  | none => none

/-- R251, R252: the bytes a load from a die receives, and the clocks after the merge for what the home served. -/
def State.loadBytes (s : State) (die pa n : Nat) : List (BitVec 8) × State :=
  let one (k : Nat) : BitVec 8 := (s.outByte die (pa + k)).getD (mget s.mem (s.home (pa + k)))
  let homes := ((List.range n).filter fun k => (s.outByte die (pa + k)).isNone).map fun k => s.home (pa + k)
  ((List.range n).map one, s.mergeClock die (s.lastStamp homes))

end Sys2Proof.Machine
end

