-- ==== Sys2Proof/Machine/LoadStore.lean ====
section
/-! DEFINITION. Loads, stores, prefetch and locked translations (R103 to R121, R464), and how their accesses travel: walks, stamps,
homes, landings, frontiers and leases (R98 to R101, R251 to R253). -/
namespace Sys2Proof.Machine
open Sys2Proof

/-! ## Issue -/

/-- R117: the cycles of a timed access: 40 when every lane's page lies in the SRAM tier over the core's die, else 72. -/
def timedCycles (die : Nat) (accs : List Acc) : Nat :=
  if accs.all fun a => a.pad || homeOf a.pa == die then 40 else 72

/-- R464: the device-physical address of a lane that takes part in translation, where the core TLB has it, whatever its leaf admits. -/
def State.seen (s : State) (w : Warp) (lane : Nat) : Spot → Option Nat
  | .glob va => (s.tlbHit w.core w.pdk (w.asidOf lane) va).bind fun e => s.deviceAt e va
  | _ => none

/-- R105, R117, R118, R229, R464: a memory instruction's accesses at issue. `x` is the operation, `mk` a lane's access before its place
is known. Scratchpad lanes land 16 or 18 cycles after issue, those of a timed variant too. In deterministic mode they act only once every lane
of the instruction has been checked (R263). -/
def State.memIssue (s : State) (wid : Nat) (w : Warp) (f : Fields) (x : Op) (mk : Nat → Acc) (spot : Nat → Spot) (rd wr timed : Bool)
    (pad : Option PadKind) : State :=
  let lanes := lanesOf (w.exec f)
  let ps := lanes.map fun i => s.probe w (mk i) rd wr x.write (spot i)
  let good := ps.filter (·.2.isNone)
  let miss := good.any fun p => p.1.stage == .walk
  if (w.lockOpen && miss) || (timed && (!w.lockOpen || miss)) then s.trapAt wid w 0x1A
  else if timed && (lanes.filterMap fun i => s.seen w i (spot i)).any fun pa => !inSramTier pa then s.trapAt wid w 0x19
  else
    let padLand := 16 + (if f.patterned then 2 else 0)
    let land := timedCycles (dieOfCore w.core) (good.map (·.1))
    let pads := (good.map (·.1)).filter (·.pad)
    let mixed := w.det && pad.isSome && ps.any fun p => !p.1.pad && (p.2.isNone || p.2.any (·.ft))
    let place (p : Acc × Option LaneFault) : Acc × Option LaneFault := if p.1.pad then ({ p.1 with len := padLand }, p.2) else p
    let keys := pads.flatMap fun a => (detKinds x.kind x.ty).map fun k => (padKey w.core a.pa, k)
    match if w.det && !mixed then s.detCheck w keys else some s with
    | none => s.trapAt wid w 0x18
    | some s =>
      let all := w.det && !pads.isEmpty && !mixed
      let (o, s) := s.enterOp wid w f { x with due := if timed then some (s.now w + land) else none, checked := all } (ps.map place)
      match pad with | some k => if mixed then s else s.queuePads o k padLand | none => s

/-- LD, ST and LDRO (R115 to R118). -/
def memOp (f : Fields) (s : State) (k : OpKind) : Out :=
  s.issue f fun wid w s =>
    let (n, r) := accessShape f.ty f.var.toNat
    let store := k.stores
    let timed := decide (8 ≤ f.var.toNat) && w.timed
    let mk (i : Nat) : Acc :=
      { lane := i, asid := w.asidOf i, addr := w.effAddr f i,
        data := if store then BitVec.ofNat 128 (w.regsVal f.dst.toNat i r) else 0 }
    let spot (i : Nat) : Spot := s.spot w i n n (k != .load true) (k != .load true) (w.effAddr f i)
    let x := { opOf wid w f k with bytes := n, nregs := if store then 0 else r, write := store }
    s.memIssue wid w f x mk spot (!store) store timed (some (if store then .write else .read))

/-- R116: LD. -/
def execLd (f : Fields) (s : State) : Out := memOp f s (.load false)
/-- R116: ST. -/
def execSt (f : Fields) (s : State) : Out := memOp f s .store
/-- R116: LDRO, read at its home at completion: one of the values the bytes hold in the interval R116 names (log 15). -/
def execLdro (f : Fields) (s : State) : Out := memOp f s (.load true)

/-- A 64-byte line enters a core's read-only cache (R119), whose oldest line leaves when it is full (R1, log 35). -/
def State.fillRo (s : State) (c pa : Nat) : State :=
  s.updCore c fun k => { k with ro := ((pa / 64) :: k.ro.filter (· != pa / 64)).take Config.roLines }

/-- R119: PREF: lanes that fail their checks, and misses of a locked region, do nothing. DESIGN CHOICE (log 54): its checks take an access of
one byte, so no lane fails by its alignment. -/
def execPref (f : Fields) (s : State) : Out :=
  s.issue f fun wid w s =>
    let ro := f.var == 1
    let ps := (lanesOf (w.exec f)).map fun i =>
      s.probe w { lane := i, asid := w.asidOf i, addr := w.effAddr f i } true false false (s.spot w i 1 1 true true (w.effAddr f i))
    let fix (p : Acc × Option LaneFault) : Acc × Option LaneFault :=
      let a := p.1
      if p.2.isSome || (w.lockOpen && a.stage == .walk) then ({ a with stage := .gone }, none)
      else if a.stage == .walk then (a, none) else ({ a with stage := .done }, none)
    let hits := (ps.filter fun p => p.2.isNone && p.1.stage == .ready && !p.1.pad).map (·.1)
    let s := if ro then hits.foldl (fun t a => t.fillRo w.core a.pa) s else s
    let ps := ps.map fix
    if ps.all fun p => p.1.stage != .walk then s.simpleOp wid w f 1
    else (s.enterOp wid w f { opOf wid w f (.pref ro) with bytes := 1 } ps).2

/-! ## Locked translations (R103, R104, R120, R121) -/

/-- R104: the translations locked in a slot of a core. -/
def State.lockedIn (s : State) (c slot : Nat) : List (Nat × LockKey) :=
  ((s.warps.filter fun w => w.core == c && w.slot == slot).flatMap fun w => w.locks.map fun k => (w.pdk, k)).eraseDups

/-- The key of a leaf found for an address. -/
def lockKeyOf (e : TlbEntry) : LockKey := { asid := e.asid, page := e.page / 2 ^ 18, size := e.size }

/-- R120: a warp locks an entry of its core's TLB. -/
def State.lockEntry (s : State) (w : Warp) (k : LockKey) : State :=
  let mine (e : TlbEntry) : Bool := e.pdk == w.pdk && lockKeyOf e == k
  let s := s.updCore w.core fun c =>
    { c with tlb := c.tlb.map fun e => if mine e then { e with locks := ((w.slot, w.id) :: e.locks).eraseDups } else e }
  s.updWarp w.id fun v => { v with locks := (v.locks ++ [k]).eraseDups }

/-- R120: once every lane of a TLOCK has its translation, all its entries are locked, or LOCKMISS traps. -/
def State.tryLock (s : State) (o : Nat) : State :=
  match s.op? o with
  | none => s
  | some x =>
    if x.accs.any fun a => a.stage == .walk || a.stage == .touch then s
    else
      let w := s.warp x.wid
      let live := x.accs.filter fun a => a.stage == .ready && !a.pad
      let (keys, s) := live.foldl (fun (r : List LockKey × State) a =>
        match r.2.translate w.core w.pdk a.asid a.va with
        | (.leaf e, t) => ((r.1 ++ [lockKeyOf e]).eraseDups, t)
        | (_, t) => (r.1, t)) ([], s)
      let held := s.lockedIn w.core w.slot
      let new := keys.filter fun k => !held.contains (w.pdk, k)
      if 16 < held.length + new.length then s.warpTrap x.wid 0x1A x.pc x.before o
      else
        let s := keys.foldl (fun t k => t.lockEntry w k) s
        (s.updOp o fun x => x.mapAccs fun a => if a.stage == .ready then { a with stage := .done } else a).settle o

/-- R120: TLOCK. DESIGN CHOICE (log 54): its checks take an access of one byte, so no lane fails by its alignment. -/
def execTlock (f : Fields) (s : State) : Out :=
  s.issue f fun wid w s =>
    let s := s.updWarp wid fun w => { w with lockOpen := true }
    let ps := (lanesOf (w.exec f)).map fun i =>
      s.probe w { lane := i, asid := w.asidOf i, addr := w.effAddr f i } true false false (s.spot w i 1 1 true true (w.effAddr f i))
    let (o, s) := s.enterOp wid w f { opOf wid w f .tlock with bytes := 1 } ps
    s.tryLock o

/-- R121: a warp releases its entries and closes its region. -/
def State.freeLocks (s : State) (wid : Nat) : State :=
  let w := s.warp wid
  let s := s.updCore w.core fun c => { c with tlb := c.tlb.map fun e => { e with locks := e.locks.filter (·.2 != wid) } }
  s.updWarp wid fun w => { w with locks := [], lockOpen := false }
/-- R121: TFREE. -/
def execTfree (f : Fields) (s : State) : Out :=
  s.issue f fun wid w s => (s.freeLocks wid).simpleOp wid w f 1

/-! ## Walks -/

/-- What RD and WR a kind of operation needs (R105, R268, R280). -/
def OpKind.needs : OpKind → Bool × Bool
  | .store => (false, true)
  | .atomic .. | .cas | .bitset _ | .bitwait _ => (true, true)
  | _ => (true, false)

/-- One lane's walk ends: its access with its place, or its fault (R98, R105). -/
def State.walkLane (s : State) (x : Op) (a : Acc) : (Acc × Option LaneFault) × State :=
  let w := x.before
  let (rd, wr) := x.kind.needs
  match s.search w.core w.pdk a.asid a.va rd wr with
  | (.hit pa spec, s) => (({ a with stage := .ready, pa, spec }, none), s)
  | (.miss, s) => ((a, none), s)
  | (.fault code ft, s) =>
    ((a, some { lane := a.lane, code, va := BitVec.ofNat 64 a.va, write := x.write, ft }), s)

/-- The lanes of a mask whose walk ends now. -/
def State.walkLanes (s : State) (x : Op) (m : Lanes) : List LaneFault × State :=
  (x.accs.filter fun a => a.stage == .walk && m.getLsbD a.lane).foldl (fun (r : List LaneFault × State) a =>
    let ((a', fault), t) := r.2.walkLane x a
    let t := t.updAcc x.id a.lane fun _ => a'
    match fault with | some f => (r.1 ++ [f], t) | none => (r.1, t)) ([], s)

/-- What follows a walk for PREF (R119), and for TLOCK (R120). -/
def State.afterWalk (s : State) (x : Op) (fs : List LaneFault) : State :=
  match x.kind with
  | .pref ro =>
    let bad (l : Nat) : Bool := fs.any (·.lane == l)
    let s := if ro then (((s.op? x.id).map (·.accs)).getD []).foldl (fun t a =>
        if a.stage == .ready && !a.pad then t.fillRo x.before.core a.pa else t) s else s
    (s.updOp x.id fun x => x.mapAccs fun a =>
      if bad a.lane then { a with stage := .gone } else if a.stage == .ready then { a with stage := .done } else a).settle x.id
  | .tlock => (if fs.isEmpty then s else s.laneFaults x.wid x.id x.pc x.before fs).tryLock x.id
  | _ => if fs.isEmpty then s else s.laneFaults x.wid x.id x.pc x.before fs

/-- Operations whose walks this event ends. A copy's lanes are checked whole (R239). -/
def OpKind.walks : OpKind → Bool
  | .copy _ | .divide _ | .matrix _ | .select | .page _ | .root _ => false
  | _ => true

/-- R98, R281: the walks of some lanes of an operation end; a restored wait's before its core runs again. -/
def State.walkWait (s : State) (x : Op) (m : Lanes) : State :=
  -- R103: a wait of a locked region whose translation an unmap has taken
  if x.kind.waits && x.before.lockOpen && x.accs.any fun a => a.stage == .walk && (s.tlbHit x.before.core x.before.pdk a.asid a.va).isNone then
    s.warpTrap x.wid 0x1A x.pc x.before x.id
  else
  let (fs, s) := s.walkLanes x m
  s.afterWalk x fs
/-- `PAGE_WALK_COMPLETE` (R98, R106): the walks of some lanes of an operation end. -/
def State.pageWalk (s : State) (o : Nat) (m : Lanes) : State :=
  match s.op? o with
  | none => s
  | some x => if s.frozen x.before.core || !x.kind.walks then s else s.walkWait x m

/-! ## Stamps and homes -/

/-- R105: a lane's access meets an error at its home: it takes no further part, and the lane faults; a store of an ejected lane is dropped. -/
def State.homeFault (s : State) (x : Op) (a : Acc) (code : Nat) : State :=
  let s := s.updAcc x.id a.lane fun a => { a with stage := .gone }
  let s := { s with outbound := s.outbound.filter fun e => !(e.op == x.id && e.lane == a.lane) }
  if a.stage == .left then s.settle x.id
  else s.laneFaults x.wid x.id x.pc x.before [{ lane := a.lane, code, va := BitVec.ofNat 64 a.va, write := x.write }]

/-- R255: the bytes of a store that its home applies together: a word of a vector, else all. -/
def Op.piece (x : Op) : Nat := if x.var % 8 == 3 || x.var % 8 == 4 then 4 else x.bytes
/-- The next `n` bytes of a store lane are written at their home (R13, R62, R374). -/
def State.storeAt (s : State) (x : Op) (a : Acc) (stamp : SMap 48) (n : Nat) : State :=
  let p := x.before.pdk
  let pa := a.pa + a.put
  if s.execDev p pa then s.homeFault x a 2
  else
    let (ok, s) := s.eccWrite (some x.before.core) p pa n a.spec
    if !ok && !a.spec then s.homeFault x a 4
    else
      let s := if ok then s.applyWrite p pa (((leBytes a.data.toNat x.bytes).drop a.put).take n) stamp else s
      if a.put + n < x.bytes then s.updAcc x.id a.lane fun b => { b with put := a.put + n }
      else
        let s := { s with outbound := s.outbound.filter fun e => !(e.op == x.id && e.lane == a.lane) }
        (s.updAcc x.id a.lane fun a => { a with stage := .done }).settle x.id

/-- R252: an access that its home may apply, and has not. -/
def Acc.atPort (a : Acc) : Bool := !a.pad && (a.stage == .stamped || a.stage == .left)
/-- R252: the accesses that have become applicable are marked with the cycle. -/
def State.noteSince (s : State) : State :=
  s.mapOps fun x => x.mapAccs fun a =>
    if a.atPort && a.since.isNone && s.applicable (dieOfCore x.before.core) a.stamp then { a with since := some s.wall } else a
/-- R252: no other access that reaches some of these bytes stands before one that became applicable at `since` from a die: of one cycle the
lower die first, and of one die the earlier stamp. -/
def State.firstAt (s : State) (pa n since die stamp : Nat) : Bool :=
  s.ops.all fun y => y.accs.all fun b =>
    !b.atPort || !overlap (b.pa + b.put) (y.bytes - b.put) pa n ||
      (match b.since with
       | none => true
       | some t =>
         let d := dieOfCore y.before.core
         decide (since < t) || (t == since && (decide (die < d) || (d == die && decide (stamp ≤ (mget b.stamp d).toNat)))))

/-- R252: a write of `n` bytes that the device makes now, stamped at a die, stands behind the accesses to them that became applicable before. -/
def State.homeFree (s : State) (die pa n : Nat) : Bool := s.firstAt pa n s.wall die (2 ^ 48)

/-- R117, R251: one lane is stamped. A timed store is placed in its landing cycle: stamped, and applied at once where R252 admits it. -/
def State.stampLane (s : State) (o lane : Nat) : State :=
  match s.op? o with
  | none => s
  | some x =>
    match x.acc? lane with
    | none => s
    | some a =>
      let early := match x.due with | some d => decide (s.ucyc x.before.core < d) | none => false
      let die := dieOfCore x.before.core
      if a.stage != .ready || a.pad || early || s.blocked x a then s
      else
        let (st, s) := s.stampAt die
        let s := s.updAcc o lane fun a => { a with stage := .stamped, stamp := st }
        let e : Outbound := { die, op := o, lane, pa := a.pa, bytes := leBytes a.data.toNat x.bytes }
        let s := if x.kind.stores then { s with outbound := s.outbound ++ [e] } else s
        if x.due.isSome && s.applicable die st && s.firstAt a.pa x.bytes s.wall die (mget st die).toNat then s.storeAt x a st x.bytes else s
/-- R117: the flag of a timed store counts down in its landing cycle, whenever its home applies what is stamped. -/
def State.timedFlag (s : State) (o : Nat) : State :=
  match s.op? o with
  | none => s
  | some x =>
    if x.kind.stores && x.due.isSome && x.accs.all fun a => a.over || a.stage == .stamped then
      (s.updWarp x.wid fun w => w.flagDown x.flag).updOp o fun x => { x with flag := none }
    else s

/-- R269: the order of stamping: the lanes that reach one location together, in lane order. -/
def stampOrder (x : Op) (m : Lanes) : List Nat :=
  let ready := x.accs.filter fun a => a.stage == .ready && !a.pad
  let atom := !x.kind.stores
  let named := ready.filter fun a => m.getLsbD a.lane
  let wanted := if atom then ready.filter fun a => named.any (·.pa == a.pa) else named
  let first (a : Acc) : Nat := (((ready.filter (·.pa == a.pa)).map (·.lane)).foldl Nat.min 32)
  (sortBy (fun a => if atom then 64 * first a + a.lane else a.lane) wanted).map (·.lane)

/-- `PORT_STAMP` (R251): lanes of a store or atomic reach their die's port. -/
def State.portStamp (s : State) (o : Nat) (m : Lanes) : State :=
  match s.op? o with
  | none => s
  | some x =>
    let kind := match x.kind with | .store | .atomic .. | .cas => true | _ => false
    let walks := x.accs.any fun a => a.stage == .walk
    if !kind || s.frozen x.before.core || (!x.kind.stores && walks) then s
    else s.detGate o fun s => (((stampOrder x m).foldl (fun t l => t.stampLane o l) s).timedFlag o).noteSince

/-- One lane of an atomic is applied at its home (R62, R267, R374). -/
def State.atomAt (s : State) (x : Op) (a : Acc) : State :=
  let p := x.before.pdk
  if s.execDev p a.pa then s.homeFault x a 2
  else
    let (ok, s) := s.ecc (some x.before.core) p a.pa x.bytes a.spec
    if ok then
      let old := ofLe (s.peek a.pa x.bytes)
      let s := match atomWrite x.kind x.ty old a.data.toNat a.cmp.toNat with
        | some v => s.applyWrite p a.pa (leBytes v x.bytes) a.stamp
        | none => s
      s.updAcc x.id a.lane fun a =>
        { a with stage := .done, old := BitVec.ofNat 128 (atomResult x.before.det x.kind x.ty old) }
    else if a.spec then s.updAcc x.id a.lane fun a => { a with stage := .done, old := BitVec.allOnes 128 }
    else s.homeFault x a 4

/-- `HOME_APPLY` (R252, R253, R255, R269): a home applies a stamped access once it is applicable and none stands before it; the lanes of one
atomic instruction that reach one location are applied together, the words of a vector store one by one. -/
def State.homeApply (s : State) (o lane : Nat) : State :=
  match s.op? o with
  | none => s
  | some x =>
    match x.acc? lane with
    | none => s
    | some a =>
      let die := dieOfCore x.before.core
      let first (b : Acc) (n : Nat) : Bool :=
        s.applicable die b.stamp && s.firstAt (b.pa + b.put) n (b.since.getD s.wall) die (mget b.stamp die).toNat
      if !a.atPort || s.frozen x.before.core then s
      else if x.kind.stores then
        let n := Nat.min x.piece (x.bytes - a.put)
        if first a n then s.storeAt x a a.stamp n else s
      else
        let group := sortBy Acc.lane (x.accs.filter fun b => b.stage == .stamped && !b.pad && b.pa == a.pa)
        if first ((group.head?).getD a) x.bytes then (group.foldl (fun t b => t.atomAt x b) s).settle o else s

/-- R252: the frontier of a die: all its stamped accesses up to the first one not applied. -/
def State.frontierOf (s : State) (d : Nat) : BitVec 48 :=
  let waiting := s.ops.flatMap fun x =>
    if dieOfCore x.before.core == d then (x.accs.filter Acc.atPort).map fun a => (mget a.stamp d).toNat else []
  BitVec.ofNat 48 (waiting.foldl (fun f v => Nat.min f (v - 1)) (mget s.clocks (8 * d + d)).toNat)

/-! ## Landings -/

/-- R51, R116, R253: a lane's value lands. -/
def State.landLane (s : State) (x : Op) (a : Acc) (raw : Nat) : State :=
  let s := s.landRegs x.wid x.id (regWrites x.dst a.lane x.nregs (loadValue x.ty x.var raw))
  (s.updAcc x.id a.lane fun a => { a with stage := .done }).settle x.id

/-- R253: one lane of a load is served and lands. A scratchpad lane lands what its access cycle read. -/
def State.loadLane (s : State) (o lane : Nat) : State :=
  match s.op? o with
  | none => s
  | some x =>
    match x.acc? lane with
    | none => s
    | some a =>
      let now := s.ucyc x.before.core
      if a.pad then
        if a.stage == .stamped && decide (a.len ≤ now) then
          (match x.kind with
           | .load _ => s.landLane x a a.old.toNat
           | _ => (s.updAcc o lane fun a => { a with stage := .done }).settle o)
        else s
      else
        let load := match x.kind with | .load _ => true | _ => false
        let early := match x.due with | some d => decide (now < d) | none => false
        if !load || a.stage != .ready || early || s.blocked x a then s
        else
          let (ok, s) := s.ecc (some x.before.core) x.before.pdk a.pa x.bytes a.spec
          if ok then
            if x.kind == .load true then s.landLane x a (ofLe (s.peek a.pa x.bytes))
            else
              let (bs, s) := s.loadBytes (dieOfCore x.before.core) a.pa x.bytes
              s.landLane x a (ofLe bs)
          else if a.spec then
            let s := s.landRegs x.wid o (regWrites x.dst a.lane x.nregs (2 ^ 128 - 1))
            (s.updAcc o lane fun a => { a with stage := .done }).settle o
          else s.laneFaults x.wid o x.pc x.before [{ lane, code := 4, va := BitVec.ofNat 64 a.va }]

/-- `LOAD_COMPLETE` (R253): some lanes of an operation land. -/
def State.loadComplete (s : State) (o : Nat) (m : Lanes) : State :=
  match s.op? o with
  | none => s
  | some x =>
    let mem := match x.kind with | .load _ | .store | .atomic .. | .cas => true | _ => false
    if !mem || s.frozen x.before.core then s
    else
      let go (s : State) : State := (lanesOf m).foldl (fun t l => t.loadLane o l) s
      match x.kind with
      | .load _ => s.detGate o go
      | _ => go s

/-- `PORT_STAMP`: R251. -/
def execPortStamp (op : Nat) (lanes : Lanes) (s : State) : Out := .next (s.portStamp op lanes)
/-- `FRONTIER_BROADCAST`: R252. -/
def execFrontierBroadcast (die : Nat) (s : State) : Out :=
  .next (if die < 8 then { s with frontier := mset s.frontier die (s.frontierOf die) }.noteSince else s)
/-- `LOAD_COMPLETE`: R253. -/
def execLoadComplete (op : Nat) (lanes : Lanes) (s : State) : Out := .next (s.loadComplete op lanes)

/-- R100: the entries whose lease has run out leave; no lookup uses them before that either. -/
def State.dropExpired (s : State) : State :=
  { s with
    cores := s.cores.map fun k => { k with tlb := k.tlb.filter fun e => decide (s.ucyc k.id < e.ends) }
    stlb := s.stlb.filter fun x => decide (s.wall < x.2.ends) }
/-- `TLB_LEASE_EXPIRE`: R100. -/
def execTlbLeaseExpire (s : State) : Out := .next s.dropExpired

/-! ## Completions bound to a cycle -/

/-- R51, R229: lanes of operations on the scratchpad, of class L or of class V, whose landing cycle has come. -/
def State.padsDue (s : State) (classL : Bool) : List (Nat × Nat) :=
  s.ops.flatMap fun x => if s.frozen x.before.core || x.classL != classL then [] else
    (x.accs.filter fun a => a.pad && a.stage == .stamped && decide (a.len ≤ s.ucyc x.before.core)).map fun a => (x.id, a.lane)

/-- R51, R229: the results of the fixed classes, or those of class V, that are due on unfrozen cores land. -/
def State.landResults (s : State) (classV : Bool) : State :=
  let s' : State := { s with warps := s.warps.map fun (w : Warp) => if s.frozen w.core then w else w.landDue (s.now w) classV }
  (s'.padsDue !classV).foldl (fun t x => t.loadLane x.1 x.2) s'
/-- `FIXED_RESULT_LAND` (R41, R51, R52, R229): every result that is due on an unfrozen core lands, those of class V after the fixed ones. -/
def execFixedResultLand (s : State) : Out := .next ((s.landResults false).landResults true)

/-- R257, R346: a matrix command whose reads are loads of the issuing lanes: MLDB, MLDA and MSTAT. -/
def OpKind.matLoads : OpKind → Bool
  | .matrix 2 | .matrix 3 | .matrix 9 => true
  | _ => false
/-- R254: what a FENCE of a scope waits for in one earlier operation of its warp: loads, the waits on memory words and the reads of the matrix
unit among them, stores and atomics, BITSET among them. -/
def fenceHolds (x y : Op) (scope : Scope) : Bool :=
  let orders := y.kind.queued || y.kind.waits || (match y.kind with | .root _ | .bitset _ => true | _ => false)
  y.wid != x.wid || decide (x.id ≤ y.id) || if y.kind.matLoads then x.mask &&& y.mask == 0 else !orders || y.accs.all fun b =>
    !x.mask.getLsbD b.lane || b.over ||
      (b.stage == .stamped && !b.pad && y.kind.stores && (scope == .cluster || scope == .die))

/-- R41, R254, R270: an operation whose flag counts down now: its cycle has come, or all that a FENCE orders is performed. -/
def State.flagDue (s : State) (x : Op) : Bool :=
  !s.frozen x.before.core &&
    (match x.kind with
     | .simple => (match x.due with | some d => decide (d ≤ s.ucyc x.before.core) | none => true)
     | .fence scope => decide (x.issued < s.ucyc x.before.core) && s.ops.all fun y => fenceHolds x y scope
     | _ => false)
/-- `WAIT_FLAG_COUNT_DOWN` (R41): those operations end. -/
def execWaitFlagCountDown (s : State) : Out :=
  .next ((s.ops.filter s.flagDue).foldl (fun t x => (t.landRegs x.wid x.id x.lastWrites).endOp x.id) s)

end Sys2Proof.Machine
end

