-- ==== Sys2Proof/Machine/Scratch.lean ====
section
/-! DEFINITION. The scratchpad and its tag table (R227 to R238): LDS, STS, the tag instructions, access cycles, passes and freezes. -/
namespace Sys2Proof.Machine
open Sys2Proof

/-- The pointer form of a window offset, by which a lane fault names it (log 16). -/
def padPtr (o : Int) : Nat := tc 64 (0x01FE000000000000 + o)

/-- R235: a lane's window offset: unsigned source a plus a signed offset, never wrapped. -/
def Warp.padOff (w : Warp) (f : Fields) (i : Nat) : Int := (w.src f.a i).toNat + sx 32 (w.wordB f i).toNat

/-- R229, R235: an instruction whose lanes all act on the scratchpad. Its result lands 16 cycles after issue, or 18. -/
def State.padIssue (s : State) (wid : Nat) (w : Warp) (f : Fields) (x : Op) (mk : Nat → Acc) (off : Nat → Int) (wr classV : Bool) (pad : PadKind) :
    State :=
  if w.exec f == 0 then
    if classV then s.simpleOp wid w f 1 else s.landIn wid (16 + (if f.patterned then 2 else 0)) { flag := f.flag }
  else
    let spot (i : Nat) : Spot := padSpot (s.window? w.core w (w.asidOf i)) (off i) x.bytes x.bytes (padPtr (off i))
    s.memIssue wid w f x mk spot true wr false (some pad)

/-- R235: LDS and STS. -/
def padOp (f : Fields) (s : State) (store : Bool) : Out :=
  s.issue f fun wid w s =>
    let (n, r) := accessShape f.ty f.var.toNat
    let mk (i : Nat) : Acc :=
      { lane := i, asid := w.asidOf i, addr := BitVec.ofNat 64 (padPtr (w.padOff f i)),
        data := if store then BitVec.ofNat 128 (w.regsVal f.dst.toNat i r) else 0 }
    let x := { opOf wid w f (if store then .store else .load false) with bytes := n, nregs := if store then 0 else r, write := store, classL := true }
    s.padIssue wid w f x mk (w.padOff f) store false (if store then .write else .read)

/-- R235: LDS. -/
def execLds (f : Fields) (s : State) : Out := padOp f s false
/-- R235: STS. -/
def execSts (f : Fields) (s : State) : Out := padOp f s true

/-! ## The tag table (R231, R232, R236 to R238) -/

/-- The tag entries with one slot set, or cleared where VALID is 0. -/
def setTag (tags : List (Nat × Tag)) (k : Nat) (t : Tag) : List (Nat × Tag) :=
  let rest := tags.filter (·.1 != k)
  if t.valid then insertBy Prod.fst (k, t) rest else rest

/-- R237, R238: one update, entry by entry: an entry set clears every other one of the window with its ASID and TAG. -/
def TagUpdate.apply (u : TagUpdate) (tags : List (Nat × Tag)) : List (Nat × Tag) :=
  u.sets.foldl (fun tags x =>
    let inWin (k : Nat) : Bool := decide (u.base ≤ k) && decide (k < u.base + u.slots)
    let tags := if x.2.valid then tags.filter fun y => !(inWin y.1 && y.2.asid == x.2.asid && y.2.tag == x.2.tag) else tags
    setTag tags x.1 x.2) tags

/-- R232: the tag table with every update due by a cycle applied, in the order of cycles and slots. -/
def Core.tagsAt (k : Core) (now : Nat) : List (Nat × Tag) :=
  (sortBy (fun u => 4 * u.due + u.slot) (k.tagq.filter fun u => decide (u.due ≤ now))).foldl (fun t u => u.apply t) k.tags

/-- R231: the TAG of a key. -/
def keyTag (key : DWord) : BitVec 46 := (key >>> 11).truncate 46

/-- R246: a tag instruction's check in deterministic mode: `k` runs unless it conflicts. -/
def State.detTags (s : State) (wid : Nat) (w : Warp) (ks : List (Nat × DetKind)) (k : State → State) : State :=
  if !w.det then k s
  else match s.detCheck w (ks.map fun x => (tagKey w.core x.1, x.2)) with
    | some s => k s
    | none => s.trapAt wid w 0x18

/-- The slots of a window. -/
def Window.list (x : Window) : List Nat := (List.range x.slots).map (x.base + ·)

/-- R236: SPTAG. -/
def execSptag (f : Fields) (s : State) : Out :=
  s.issue f fun wid w s =>
    let tags := (s.core w.core).tagsAt (s.now w)
    let wins := (w.asids (w.exec f)).filterMap (s.window? w.core w)
    s.detTags wid w ((wins.flatMap Window.list).map fun k => (k, .read)) fun s =>
      s.fixed wid w f .l 1 fun i =>
        match s.window? w.core w (w.asidOf i) with
        | none => 0xFFFFFFFF
        | some x =>
          match tags.find? fun t => x.list.contains t.1 && t.2.valid && t.2.asid.toNat == w.asidOf i && t.2.tag == keyTag (w.src64 f.a i) with
          | some t => (t.1 - x.base) % 256 + (if t.2.dirty then 256 else 0)
          | none => 0xFFFFFFFF

/-- R237, R238: lanes that name a slot of their windows: updates for those within, PROT for the others. -/
def State.tagLanes (s : State) (wid : Nat) (w : Warp) (f : Fields) (slot : Nat → Nat) (tag : Nat → Tag) : State :=
  let at_ (i : Nat) : Option (Window × Nat) :=
    (s.window? w.core w (w.asidOf i)).bind fun x => if slot i < x.slots then some (x, x.base + slot i) else none
  let lanes := lanesOf (w.exec f)
  let good := lanes.filterMap fun i => (at_ i).map fun x => (x.1, x.2, tag i)
  let bad := (lanes.filter fun i => (at_ i).isNone).map fun i =>
    { lane := i, code := 2, va := BitVec.ofNat 64 (padPtr (2048 * slot i)), write := true : LaneFault }
  -- R237: an entry that a set clears is written too
  let table := (s.core w.core).tagsAt (s.now w + 16)
  let cleared (g : Window × Nat × Tag) : List Nat :=
    if g.2.2.valid then ((table.filter fun y => g.1.list.contains y.1 && y.1 != g.2.1 && y.2.asid == g.2.2.asid && y.2.tag == g.2.2.tag).map (·.1)) else []
  s.detTags wid w (good.flatMap fun g => (g.2.1 :: cleared g).map fun k => (k, .write)) fun s =>
    let us := good.map fun g =>
      { due := s.now w + 16, slot := w.slot, base := g.1.base, slots := g.1.slots, sets := [(g.2.1, g.2.2)] : TagUpdate }
    let s := s.updCore w.core fun k => { k with tagq := k.tagq ++ us }
    let s := s.landIn wid (lambda f .l) { flag := f.flag }
    if bad.isEmpty then s else s.laneFaults wid s.nextId w.pc w bad

/-- R237: SPSET. -/
def execSpset (f : Fields) (s : State) : Out :=
  s.issue f fun wid w s =>
    s.tagLanes wid w f (fun i => (w.wordB f i).toNat) fun i =>
      { valid := true, dirty := f.var == 1, asid := BitVec.ofNat 16 (w.asidOf i), tag := keyTag (w.src64 f.a i) }
/-- R238: SPCLR. -/
def execSpclr (f : Fields) (s : State) : Out :=
  s.issue f fun wid w s =>
    if f.var == 0 then s.tagLanes wid w f (fun i => (w.wordB f i).toNat) fun _ => {}
    else
      let wins := (w.asids (w.exec f)).filterMap (s.window? w.core w)
      s.detTags wid w ((wins.flatMap Window.list).map fun k => (k, .write)) fun s =>
        let us := wins.map fun x =>
          { due := s.now w + 16, slot := w.slot, base := x.base, slots := x.slots, sets := x.list.map fun k => (k, {}) : TagUpdate }
        let s := s.updCore w.core fun k => { k with tagq := k.tagq ++ us }
        s.landIn wid (lambda f .l) { flag := f.flag }

/-! ## Access cycles (R229, R230) -/

/-- The lanes of an access that are still its operation's. -/
def State.padLive (s : State) (p : PadAccess) : List Acc :=
  match p.op.bind s.op? with
  | none => []
  | some x => x.accs.filter fun a => a.pad && a.stage == .ready && p.accs.any (·.lane == a.lane)

/-- R13: an element of a core that fails is retried: the failure is gone, and logged, or the element stays poisoned. Whether one of some
elements was retried. -/
def State.retryElements (s : State) (c : Nat) (es : List Element) : Bool × State :=
  let k := s.core c
  let bad := k.weak.filter fun x => es.contains x.1
  let s := (bad.filter (!·.2)).foldl (fun t _ => t.mgmtCount 0x018) s
  let words := bad.filterMap fun x => match x.1 with | .word w => if x.2 then some w else none | _ => none
  if bad.isEmpty then (false, s)
  else (true, s.updCore c fun k =>
    { k with weak := k.weak.filter fun x => x.2 || !es.contains x.1, padPoison := (words ++ k.padPoison).eraseDups })

/-- R105, R235: a lane meets a storage error. -/
def State.padFault (s : State) (x : Op) (a : Acc) (write : Bool) : State :=
  s.laneFaults x.wid x.id x.pc x.before [{ lane := a.lane, code := 4, va := a.addr, write }]

/-- One lane of an access takes effect; what it read waits for the landing cycle. -/
def State.padLane (s : State) (p : PadAccess) (lane : Nat) : State :=
  match p.op.bind s.op? with
  | none => s
  | some x =>
    match x.acc? lane with
    | none => s
    | some a =>
      if a.stage != .ready then s else
      let c := p.before.core
      let k := s.core c
      let write (bs : List (BitVec 8)) (s : State) : State := s.updCore c fun k => { k with pad := putBytes k.pad a.pa bs }
      let done (old : Nat) (s : State) : State :=
        s.updAcc x.id lane fun a => { a with stage := .stamped, old := BitVec.ofNat 128 old }
      if k.padBad a.pa p.bytes then s.padFault x a (p.kind != .read)
      else match p.kind with
      | .read => done (ofLe (getBytes k.pad a.pa p.bytes)) s
      | .write => done 0 (write (leBytes a.data.toNat p.bytes) s)
      | _ =>
        let old := ofLe (getBytes k.pad a.pa p.bytes)
        let s := match atomWrite x.kind x.ty old a.data.toNat a.cmp.toNat with
          | some v => write (leBytes v p.bytes) s
          | none => s
        done (atomResult x.before.det x.kind x.ty old) s

/-- R229, R303: the passes of an access cycle: the most distinct words of one bank; where lanes access a bank, each read of a unit
that covers it adds one. -/
def passes (xs : List (Nat × Nat)) (units : List (List Nat)) : Nat :=
  let words := (xs.flatMap fun x => (List.range (cdiv x.2 4)).map fun j => x.1 / 4 + j).eraseDups
  ((List.range 32).map fun b =>
    let n := (words.filter fun v => v % 32 == b).length
    if n = 0 then 0 else n + (units.filter fun u => u.any fun v => v % 32 == b).length).foldl Nat.max 0

/-- R230: the place of a kind of access in its cycle. -/
def PadKind.order : PadKind → Nat
  | .read => 0
  | .atomic .. | .cas => 1
  | .write => 2

/-- R280: the waits on words of a core's scratchpad are evaluated. -/
def State.wakePad (s : State) (c : Nat) : State :=
  ((s.ops.filter fun x => x.kind == .cwt && x.before.core == c && x.accs.any (·.pad)).map (·.id)).foldl State.evalWait s

/-- R229, R230, R235: the access cycle of a core; `units` are the words that each unit's read covers (R303). Passes beyond the first, and a
retry, freeze the core. -/
def State.accessCycle (s : State) (c : Nat) (units : List (List Nat)) : State :=
  let k := s.core c
  let now := s.ucyc c
  let due := sortBy (fun p => 4 * p.kind.order + p.slot) (k.padq.filter fun p => decide (p.due ≤ now))
  let live := due.map fun p => (p, s.padLive p)
  let places := live.flatMap fun x => x.2.map fun a => (a.pa, x.1.bytes)
  let n := passes places units
  let words := places.flatMap (fun x => (List.range (cdiv x.2 4)).map fun j => Element.word (x.1 / 4 + j)) ++ units.flatten.map .word
  let (again, s) := s.retryElements c words.eraseDups
  let s := s.updCore c fun k =>
    { k with padq := k.padq.filter fun p => !decide (p.due ≤ now)
             tags := k.tagsAt now
             tagq := k.tagq.filter fun u => !decide (u.due ≤ now) }
  let s := live.foldl (fun t x => (sortBy Acc.lane x.2).foldl (fun t a => t.padLane x.1 a.lane) t) s
  let s := if due.any fun p => p.kind != .read then s.wakePad c else s
  s.freeze c (Nat.max (n - 1) (if again then Config.retryCycles else 0))

/-- `CORE_FREEZE_END` (R362): freezes that are over are forgotten; what waited on them is due from then on. -/
def execCoreFreezeEnd (s : State) : Out :=
  let past (k : Core) : Bool := decide (k.until_ ≤ s.wall) && decide (k.from_ < k.until_)
  .next { s with cores := s.cores.map fun k => if past k then { k with from_ := 0, until_ := 0 } else k }

end Sys2Proof.Machine
end

