-- ==== Sys2Proof/Machine/Atomic.lean ====
section
/-! DEFINITION. Atomics, fences and counted waits (R265 to R270, R280, R282). -/
namespace Sys2Proof.Machine
open Sys2Proof

/-- The operand of a type in a source: a register, or a pair. -/
def Warp.whole (w : Warp) (t : Ty) (x : Src) (i : Nat) : Nat := if t.is64 then (w.src64 x i).toNat else (w.src x i).toNat

/-- R267: ATOM, RED and CAS: global and private addresses, RD and WR both required. -/
def atomGlobal (f : Fields) (s : State) (k : OpKind) (ea : Warp → Nat → DWord) (data cmp : Warp → Nat → Nat) (result : Bool) : Out :=
  s.issue f fun wid w s =>
    let n := 4 * tyRegs f.ty
    let mk (i : Nat) : Acc :=
      { lane := i, asid := w.asidOf i, addr := ea w i, data := BitVec.ofNat 128 (data w i), cmp := BitVec.ofNat 64 (cmp w i) }
    let x := { opOf wid w f k with bytes := n, nregs := if result then tyRegs f.ty else 0, write := true }
    s.memIssue wid w f x mk (fun i => s.spot w i n n false true (ea w i)) true true false none

/-- R267, R269: ATOMS and CASS: the lane's window, in the access cycle. -/
def atomPad (f : Fields) (s : State) (k : OpKind) (pk : PadKind) (data cmp : Warp → Nat → Nat) : Out :=
  s.issue f fun wid w s =>
    let off (i : Nat) : Int := ((w.src f.a i).toNat : Nat)
    let mk (i : Nat) : Acc :=
      { lane := i, asid := w.asidOf i, addr := BitVec.ofNat 64 (padPtr (off i)), data := BitVec.ofNat 128 (data w i),
        cmp := BitVec.ofNat 64 (cmp w i) }
    let x := { opOf wid w f k with bytes := 4 * tyRegs f.ty, nregs := tyRegs f.ty, write := true }
    s.padIssue wid w f x mk off true true pk

/-- The address of ATOM and RED: the pair a and the signed offset b. -/
def atomAddr (f : Fields) (w : Warp) (i : Nat) : DWord := w.effAddr f i

/-- R267: ATOM. -/
def execAtom (f : Fields) (s : State) : Out :=
  atomGlobal f s (.atomic (atomOfVar f.var.toNat) true) (atomAddr f) (fun w i => w.whole f.ty f.c i) (fun _ _ => 0) true
/-- R267: RED. -/
def execRed (f : Fields) (s : State) : Out :=
  atomGlobal f s (.atomic (atomOfVar f.var.toNat) false) (atomAddr f) (fun w i => w.whole f.ty f.c i) (fun _ _ => 0) false
/-- R267: CAS. -/
def execCas (f : Fields) (s : State) : Out :=
  atomGlobal f s .cas (fun w i => w.src64 f.a i) (fun w i => w.whole f.ty f.c i) (fun w i => w.whole f.ty f.b i) true
/-- R267: ATOMS. -/
def execAtoms (f : Fields) (s : State) : Out :=
  atomPad f s (.atomic (atomOfVar f.var.toNat) true) (.atomic (atomOfVar f.var.toNat) f.ty true) (fun w i => w.whole f.ty f.b i) fun _ _ => 0
/-- R267: CASS. -/
def execCass (f : Fields) (s : State) : Out :=
  atomPad f s .cas .cas (fun w i => w.whole f.ty f.c i) fun w i => w.whole f.ty f.b i

/-- R265: the scope of a variant. -/
def scopeOf (v : Nat) : Scope :=
  match v with | 0 => .lane | 1 => .warp | 2 => .cluster | 3 => .die | 4 => .device | _ => .system

/-- R254, R270: FENCE: below cluster scope, or without lanes, it counts down in the next cycle. -/
def execFence (f : Fields) (s : State) : Out :=
  s.issue f fun wid w s =>
    if w.exec f == 0 || decide (f.var.toNat < 2) then s.simpleOp wid w f 1
    else (s.addOp (opOf wid w f (.fence (scopeOf f.var.toNat)))).2

/-- R280: CWT: faults as LD does; the condition is first looked at once its lanes have found their words. -/
def execCwt (f : Fields) (s : State) : Out :=
  s.issue f fun wid w s =>
    let n := 4 * tyRegs f.ty
    let ea (i : Nat) : DWord := w.src64 f.a i
    let mk (i : Nat) : Acc := { lane := i, asid := w.asidOf i, addr := ea i, cmp := BitVec.ofNat 64 (w.whole f.ty f.b i) }
    s.memIssue wid w f { opOf wid w f .cwt with bytes := n } mk (fun i => s.spot w i n n true true (ea i)) true false false none

/-- R105, R280: a lane of a wait whose word fails takes POISON. -/
def State.waitLane (s : State) (o lane : Nat) : State :=
  match (s.op? o).bind fun x => (x.acc? lane).map fun a => (x, a) with
  | none => s
  | some (x, a) =>
    if !x.kind.waits || a.stage != .ready || s.frozen x.before.core || s.blocked x a then s
    else if a.pad then
      let (_, s) := s.retryElements x.before.core ((List.range (cdiv x.bytes 4)).map fun j => .word (a.pa / 4 + j))
      if (s.core x.before.core).padBad a.pa x.bytes then s.homeFault x a 4 else s
    else
      let (ok, s) := s.ecc (some x.before.core) x.before.pdk a.pa x.bytes a.spec
      if ok || a.spec then s else s.homeFault x a 4
/-- One wait is looked at: the failures of its words, then its condition. -/
def State.lookAt (s : State) (x : Op) : State := (x.accs.foldl (fun t a => t.waitLane x.id a.lane) s).evalWait x.id
/-- `CWT_PERIODIC_EVAL` (R279, R280): every wait is evaluated. -/
def execCwtPeriodicEval (s : State) : Out := .next ((s.ops.filter (·.kind.waits)).foldl State.lookAt s)

end Sys2Proof.Machine
end

