-- ==== Sys2Proof/Machine/Copy.lean ====
section
/-! DEFINITION. The copy engine and its batches (R239 to R246, R307, R392). -/
namespace Sys2Proof.Machine
open Sys2Proof

/-! ## Checks (R239) -/

/-- One range of a copy: global, or bytes of the lane's window with the pointer that names them (log 16), or a fault of step 1. -/
inductive Range where
  | glob (va : Nat)
  | pad (byte name : Nat)
  | bad (va : Nat)
  deriving DecidableEq, Repr, Inhabited

/-- R240: a range by a pointer: the global window, and where `pads` the lane's window. -/
def State.rangeOf (s : State) (w : Warp) (lane len : Nat) (pads : Bool) (ptr : DWord) : Range :=
  let x := ptr.toNat
  match fld x 48 9 with
  | 0x1FE => if x < 2 ^ 57 && pads then
      (match padSpot (s.window? w.core w (w.asidOf lane)) (fld x 0 48 : Nat) len 1 x with
       | .pad b => .pad b x
       | _ => .bad x) else .bad x
  | 0x1FF => .bad x
  | _ => if 2 ^ 57 ≤ x || 0x01FE000000000000 < x + len then .bad x else .glob x
/-- R240: a range by a window offset. -/
def State.rangeAt (s : State) (w : Warp) (lane len off : Nat) : Range :=
  match padSpot (s.window? w.core w (w.asidOf lane)) (off : Int) len 1 (padPtr off) with
  | .pad b => .pad b (padPtr off)
  | _ => .bad (padPtr off)

/-- The 256 KiB pages of a global range, each with its first address in the range. -/
def pagesOf (va len : Nat) : List (Nat × Nat) :=
  if len = 0 then []
  else (List.range ((va + len - 1) / 2 ^ 18 - va / 2 ^ 18 + 1)).map fun k =>
    let p := va / 2 ^ 18 + k
    (p, Nat.max va (p * 2 ^ 18))

/-- What the pages of a range give: their translations, a miss, or the first fault with its address. -/
inductive Pages where
  | ok (l : List (Nat × Nat × Bool))
  | miss
  | fault (code va : Nat) (ft : Bool)
  deriving DecidableEq, Repr, Inhabited

/-- R239 steps 3 and 4 on the pages of a range, walking where `walks`. -/
def State.findPages (s : State) (w : Warp) (asid : Nat) (rd wr walks : Bool) : List (Nat × Nat) → Pages × State
  | [] => (.ok [], s)
  | (p, va) :: r =>
    let (x, s) := if walks then s.search w.core w.pdk asid va rd wr else (s.lookup w.core w.pdk asid va rd wr, s)
    match x with
    | .miss => (.miss, s)
    | .fault code ft => (.fault code va ft, s)
    | .hit pa spec =>
      match State.findPages s w asid rd wr walks r with
      | (.ok l, s) => (.ok ((p, pa / 2 ^ 18 * 2 ^ 18, spec) :: l), s)
      | x => x

/-- R241: the cluster whose cores CPYM names, by its CLID. DESIGN CHOICE (log 63): for a warp resumed from a parked record it is the cluster that
it left; once that one has retired, it has no cores, and every core that a control word selects gives PROT. -/
def State.clusterOf (s : State) (w : Warp) : Option Cluster :=
  let l := s.launchRec w.launch
  l.clusters.find? fun c => c.no == fld w.clid.toNat 16 16 * l.desc.gridx + fld w.clid.toNat 0 16

/-- R241: the destination cores of a lane's copy. -/
def State.copyCores (s : State) (x : Op) (a : Acc) : List Nat :=
  match x.kind with
  | .copy 1 =>
    let cores := ((s.clusterOf x.before).map (·.cores)).getD []
    (List.range 4).filterMap fun k => if a.data.getLsbD k then cores[k]? else none
  | _ => [x.before.core]

/-- R239 to R241: steps 1 and 2 for one lane: its access, or its fault. -/
def copyLane (form : Nat) (a : Acc) (src dst : Range) (len al : Nat) (ctl : Bool) : Acc × Option LaneFault :=
  let prot (va : Nat) (wr : Bool) : Acc × Option LaneFault :=
    (a, some { lane := a.lane, code := 2, va := BitVec.ofNat 64 va, write := wr })
  let laps (x y : Nat) : Bool := overlap x len y len
  match dst, src with
  | .bad va, _ => prot va true
  | _, .bad va => prot va false
  | dst, src =>
    let same := match dst, src with
      | .glob x, .glob y => laps x y
      | .pad x _, .pad y _ => laps x y
      | _, _ => false
    let place (r : Range) : Nat := match r with | .glob x => x | .pad x _ => x | .bad x => x
    let name (r : Range) : Nat := match r with | .glob x => x | .pad _ y => y | .bad x => x
    let dva := place dst
    let sva := place src
    let dname := name dst
    if !ctl || (form == 0 && (same || decide (2 ^ 24 < len))) then prot dname true
    else if dva % al != 0 || sva % al != 0 || len % 4 != 0 then
      (a, some { lane := a.lane, code := 3, va := BitVec.ofNat 64 (if dva % al != 0 then dname else name src), write := dva % al != 0 })
    else
      let a := { a with len }
      let a := match dst with | .pad x _ => { a with pad := true, pa := x } | .glob x => { a with va := x } | .bad _ => a
      let a := match src with
        | .pad x _ => { a with pad2 := true, addr2 := x }
        | .glob x => { a with addr2 := x }
        | .bad _ => a
      (a, none)

/-- R239: steps 3 and 4 for one lane that passed the first two: translations are looked for, then permissions. -/
def State.copyPages (s : State) (w : Warp) (a : Acc) (walks : Bool) : (Acc × Option LaneFault × Bool) × State :=
  let sp := if a.pad2 then [] else pagesOf a.addr2 a.len
  let dp := if a.pad then [] else pagesOf a.va a.len
  let run (s : State) (perm : Bool) : (Option LaneFault × Bool × List (Nat × Nat × Bool) × List (Nat × Nat × Bool)) × State :=
    let fault (wr : Bool) (code va : Nat) (ft : Bool) : LaneFault :=
      { lane := a.lane, code, va := BitVec.ofNat 64 va, write := wr, ft }
    match s.findPages w a.asid perm false walks sp with
    | (.fault code va ft, s) => ((some (fault false code va ft), false, [], []), s)
    | (.miss, s) => ((none, true, [], []), s)
    | (.ok l, s) =>
      match s.findPages w a.asid false perm walks dp with
      | (.fault code va ft, s) => ((some (fault true code va ft), false, [], []), s)
      | (.miss, s) => ((none, true, [], []), s)
      | (.ok m, s) => ((none, false, l, m), s)
  match run s false with
  | ((some f, _, _, _), s) => ((a, some f, false), s)
  | ((none, true, _, _), s) => ((a, none, true), s)
  | ((none, false, _, _), s) =>
    match run s true with
    | ((some f, _, _, _), s) => ((a, some f, false), s)
    | ((none, miss, l, m), s) =>
      ((if miss then a else { a with stage := .ready, spages := l, dpages := m }, none, miss), s)

/-- The device-physical address of a byte of a range, by the translations found, and whether its page has SPEC = 1. -/
def pageAddr (l : List (Nat × Nat × Bool)) (va : Nat) : Nat × Bool :=
  match l.find? (·.1 == va / 2 ^ 18) with
  | some (_, base, spec) => (base + va % 2 ^ 18, spec)
  | none => (va, false)

/-- R246: the lines a copy's lanes read and write. -/
def State.copyKeys (s : State) (x : Op) : List (Nat × DetKind) :=
  x.accs.flatMap fun a =>
    if a.stage != .ready then [] else
    let words := (List.range (cdiv a.len 4)).map (4 * ·)
    let src := words.map fun o => if a.pad2 then padKey x.before.core (a.addr2 + o) else s.lineKey (pageAddr a.spages (a.addr2 + o)).1
    let dst := (s.copyCores x a).flatMap fun c => words.map fun o =>
      if a.pad then
        (let base := match x.kind with | .copy 1 => ((s.window? c x.before a.asid).map fun v => 2048 * v.base + a.addr.toNat).getD 0 | _ => a.pa
         padKey c (base + o))
      else s.lineKey (pageAddr a.dpages (a.va + o)).1
    src.eraseDups.map (·, .read) ++ dst.eraseDups.map (·, .write)

/-- R246: the check of a copy in deterministic mode, before any byte moves. -/
def State.copyGate (s : State) (o : Nat) : State :=
  match s.op? o with
  | none => s
  | some x =>
    if !x.before.det || x.checked || x.accs.any (fun a => a.stage == .walk || a.stage == .touch) then s
    else match s.detCheck (s.warp x.wid) (s.copyKeys x) with
      | some s => s.updOp o fun x => { x with checked := true }
      | none => s.warpTrap x.wid 0x18 x.pc x.before o

/-- R239: one lane of a copy at its issue: its access, its fault, and whether a translation is missing. `lane` gives the lane's ranges, its
length, its alignment and whether its control word is sound. -/
def State.copyProbe (s : State) (w : Warp) (form : Nat) (mk : Warp → Nat → Acc)
    (lane : State → Warp → Nat → Range × Range × Nat × Nat × Bool) (i : Nat) : Acc × Option LaneFault × Bool :=
  let (dst, src, len, al, ctl) := lane s w i
  let p := copyLane form { mk w i with lane := i, asid := w.asidOf i, batch := ((mget w.batch i).toNat + 1) % 2 ^ 32 } src dst len al ctl
  if p.2.isSome then (p.1, p.2, false) else (s.copyPages w p.1 false).1
/-- R239: a copy instruction. -/
def copyOp (f : Fields) (s : State) (form : Nat) (mk : Warp → Nat → Acc) (lane : State → Warp → Nat → Range × Range × Nat × Nat × Bool) : Out :=
  s.issue f fun wid w s =>
    let qs := (lanesOf (w.exec f)).map (s.copyProbe w form mk lane)
    if w.lockOpen && qs.any (·.2.2) then s.trapAt wid w 0x1A
    else
      let (o, s) := s.enterOp wid w f { opOf wid w f (.copy form) with write := true } (qs.map fun q => (q.1, q.2.1))
      s.copyGate o

/-- R240: CPY. -/
def execCpy (f : Fields) (s : State) : Out :=
  copyOp f s 0 (fun w i => { addr := w.src64 f.a i }) fun s w i =>
    let len := (w.src f.c i).toNat
    (s.rangeOf w i len true (w.src64 f.a i), s.rangeOf w i len true (w.src64 f.b i), len, 4, true)
/-- R241: CPYM. -/
def execCpym (f : Fields) (s : State) : Out :=
  copyOp f s 1 (fun w i => { addr := (w.src f.a i).setWidth 64, data := ((w.src f.c i) >>> 24 &&& 0xF).setWidth 128 }) fun s w i =>
    let c := (w.src f.c i).toNat
    let len := fld c 0 24
    let off := (w.src f.a i).toNat
    let cores := ((s.clusterOf w).map (·.cores)).getD []
    let inWin (k : Nat) : Bool := match cores[k]? with
      | some core => (match padSpot (s.window? core w (w.asidOf i)) (off : Int) len 1 0 with | .pad _ => true | _ => false)
      | none => false
    let ok := fld c 28 4 == 0 && (List.range 4).all fun k => !bitAt c (24 + k) || inWin k
    (.pad off (padPtr off), s.rangeOf w i len false (w.src64 f.b i), len, 4, ok)
/-- R233: the element size of CPYG and CSCAT. -/
def elemSize (f : Fields) : Nat := 4 * 2 ^ f.var.toNat
/-- R240: CPYG. -/
def execCpyg (f : Fields) (s : State) : Out :=
  copyOp f s 2 (fun w i => { addr := (w.src f.a i).setWidth 64 }) fun s w i =>
    let n := elemSize f
    (s.rangeAt w i n (w.src f.a i).toNat, s.rangeOf w i n false (w.src64 f.b i), n, n, true)
/-- R240: CSCAT. -/
def execCscat (f : Fields) (s : State) : Out :=
  copyOp f s 3 (fun w i => { addr := w.src64 f.a i }) fun s w i =>
    let n := elemSize f
    (s.rangeOf w i n false (w.src64 f.a i), s.rangeAt w i n (w.src f.b i).toNat, n, n, true)

/-- The walks of some lanes of a copy end (R239). -/
def State.copyWalk (s : State) (o : Nat) (m : Lanes) : State :=
  match s.op? o with
  | none => s
  | some x =>
    if s.frozen x.before.core then s else
    let (fs, s) := (x.accs.filter fun a => a.stage == .walk && m.getLsbD a.lane).foldl (fun (r : List LaneFault × State) a =>
      let ((a', fault, _), t) := r.2.copyPages x.before a true
      (r.1 ++ fault.toList, t.updAcc o a.lane fun _ => a')) ([], s)
    (if fs.isEmpty then s else s.laneFaults x.wid o x.pc x.before fs).copyGate o

/-! ## Moving bytes (R242, R243, R307) -/

/-- R242: one source word is read, once. -/
def State.copyRead (s : State) (o lane off : Nat) : State :=
  match (s.op? o).bind fun x => (x.acc? lane).map fun a => (x, a) with
  | none => s
  | some (x, a) =>
    if a.srcs.any (·.1 == off) then s
    else
      let (bad, v, s) :=
        if a.pad2 then
          let (_, s) := s.retryElements x.before.core [.word ((a.addr2 + off) / 4)]
          let k := s.core x.before.core
          (k.padBad (a.addr2 + off) 4, ofLe (getBytes k.pad (a.addr2 + off) 4), s)
        else
          let (pa, spec) := pageAddr a.spages (a.addr2 + off)
          let (ok, s) := s.ecc (some x.before.core) x.before.pdk pa 4 spec
          if ok then (let (bs, s) := s.loadBytes (dieOfCore x.before.core) pa 4; (false, ofLe bs, s))
          else if spec then (false, 0xFFFFFFFF, s) else (true, 0, s)
      s.updAcc o lane fun a => { a with srcs := a.srcs ++ [(off, BitVec.ofNat 33 (v + if bad then 2 ^ 32 else 0))] }

/-- The words of a lane's copy, by offset. -/
def Acc.words (a : Acc) : List Nat := (List.range (a.len / 4)).map (4 * ·)

/-- R227: a warp has a lane of an ASID, whether the lane still runs or not. -/
def Warp.holdsAsid (w : Warp) (asid : Nat) : Bool := w.asid.any fun x => x.2.toNat == asid
/-- R391: the core of a warp has sealed for its cluster. -/
def State.isSealedWarp (s : State) (w : Warp) : Bool :=
  (s.launchRec w.launch).clusters.any fun c => c.no == w.clno && c.sealed.any fun z => c.cores[z.k]? == some w.core
/-- An entry with a word in its range written over. -/
def Replay.over (r e : Replay) : Replay :=
  let k := e.off - r.off
  { r with bytes := r.bytes.take k ++ e.bytes ++ r.bytes.drop (k + e.bytes.length), bad := e.bad ++ r.bad.filter (· != e.off) }
/-- A word's place lies in an entry. -/
def Replay.covers (r e : Replay) : Bool :=
  r.core == e.core && r.asid == e.asid && decide (r.off ≤ e.off) && decide (e.off + e.bytes.length ≤ r.off + r.bytes.length)
/-- R392: the bytes that entries take: a header each, and their data padded. -/
def replayBytes (rs : List Replay) : Nat := (rs.map fun r => 16 + 16 * cdiv r.bytes.length 16).foldl (· + ·) 0
/-- A word continues the portion recorded last. -/
def Replay.continues (e r : Replay) : Bool :=
  r.core == e.core && r.op == e.op && r.lane == e.lane && r.asid == e.asid && r.off + r.bytes.length == e.off
/-- R307, R392: a portion of a copy, the consecutive words of a lane that reach a core one after another, is one entry, after those before it. DESIGN
CHOICE (log 19): once the entries of a core take 4 MiB, a word whose place an entry has already takes that place, so that the context keeps
to its room. -/
def addReplay (rs : List Replay) (e : Replay) : List Replay :=
  if decide (2 ^ 22 ≤ replayBytes (rs.filter (·.core == e.core))) && rs.any (·.covers e) then rs.map fun r => if r.covers e then r.over e else r
  else match rs.getLast? with
    | some r => if e.continues r then rs.dropLast ++ [{ r with bytes := r.bytes ++ e.bytes, bad := r.bad ++ e.bad }] else rs ++ [e]
    | none => [e]
/-- R307, R392: a portion that reaches a sealed core whose window no warp of another cluster uses is recorded for the restore. -/
def State.replayInto (s : State) (x : Op) (c asid : Nat) : Option Nat :=
  match s.clusterOf x.before with
  | none => none
  | some cl =>
    let used := s.warps.any fun v => v.core == c && v.launch == x.before.launch && v.clno != x.before.clno && v.holdsAsid asid && !s.isSealedWarp v
    if used then none
    else (cl.sealed.find? fun z => cl.cores[z.k]? == some c).map (·.k)

/-- R62, R242, R252, R374: one destination word is written on one core, once; at its home behind what became applicable before. A word whose line
fails takes POISON in its lane. -/
def State.copyWrite (s : State) (o lane off c : Nat) (stamp : SMap 48) : State :=
  match (s.op? o).bind fun x => (x.acc? lane).map fun a => (x, a) with
  | none => s
  | some (x, a) =>
    let waits := !a.pad && (let pa := (pageAddr a.dpages (a.va + off)).1; !s.homeFree (dieOfCore x.before.core) pa 4)
    if a.stage != .ready || a.moved.contains (c, off) || waits then s
    else
      let v := ((a.srcs.find? (·.1 == off)).map (·.2)).getD 0
      let bad := v.getLsbD 32
      let bs := leBytes (v.toNat % 2 ^ 32) 4
      let s := s.updAcc o lane fun a => { a with moved := a.moved ++ [(c, off)] }
      let put (at_ : Nat) (s : State) : State := s.updCore c fun k =>
        { k with pad := putBytes k.pad at_ bs,
                 padPoison := if bad then (at_ / 4) :: k.padPoison.filter (· != at_ / 4) else k.padPoison.filter (· != at_ / 4) }
      if !a.pad then
        let (pa, spec) := pageAddr a.dpages (a.va + off)
        let p := x.before.pdk
        let word := s.home pa / 4
        let fault (code : Nat) (s : State) : State :=
          s.laneFaults x.wid o x.pc x.before [{ lane, code, va := BitVec.ofNat 64 (a.va + off), write := true }]
        if s.execDev p pa then fault 2 s
        else
          -- R242: each destination byte is written once, over a poison mark too
          let s := { s with poison := s.poison.filter (· != word) }
          let (ok, s) := s.ecc (some x.before.core) p pa 4 spec
          if !ok then (if spec then s else fault 4 s)
          else
            let s := if bad then { s with poison := word :: s.poison } else s
            s.applyWrite p pa bs stamp
      else match x.kind with
      | .copy 1 =>
        (match s.replayInto x c a.asid with
         | some k =>
           let at_ := a.addr.toNat + off
           let e : Replay := { core := k, asid := a.asid, op := o, lane, off := at_, bytes := bs, bad := if bad then [at_] else [] }
           let mine (cl : Cluster) : Bool := some cl.no == (s.clusterOf x.before).map (·.no)
           let add (cl : Cluster) : Cluster := if mine cl then { cl with replays := addReplay cl.replays e } else cl
           s.updLaunch x.before.launch fun l => { l with clusters := l.clusters.map add }
         | none =>
           match s.window? c x.before a.asid with
           | some win => put (2048 * win.base + a.addr.toNat + off) s
           | none => s)
      | _ => put (a.pa + off) s

/-- R244: a lane whose every destination byte is written is done. -/
def State.copyDone (s : State) (o lane : Nat) : State :=
  match (s.op? o).bind fun x => (x.acc? lane).map fun a => (x, a) with
  | none => s
  | some (x, a) =>
    if a.stage == .ready && a.words.all (fun off => (s.copyCores x a).all fun c => a.moved.contains (c, off)) then
      (s.updAcc o lane fun a => { a with stage := .done }).settle o
    else s

/-- A copy that may move bytes: its lanes have passed their checks. -/
def copyRuns (x : Op) : Bool :=
  (match x.kind with | .copy _ => true | _ => false) && (!x.before.det || x.checked)

/-- `COPY_SOURCE_READ_DONE` (R243): every lane has read its source, and the flag counts down. -/
def execCopySourceReadDone (op : Nat) (s : State) : Out :=
  .next (match s.op? op with
    | none => s
    | some x =>
      if !copyRuns x || x.applied || s.frozen x.before.core || x.accs.any (fun a => a.stage == .walk || a.stage == .touch) then s
      else
        let s := x.accs.foldl (fun t a => if a.stage == .ready then a.words.foldl (fun t off => t.copyRead op a.lane off) t else t) s
        let s := s.updWarp x.wid fun w => w.flagDown x.flag
        let s := s.updOp op fun x => { x with flag := none, applied := true }
        x.accs.foldl (fun t a => t.copyDone op a.lane) s)

/-- `COPY_DEST_WRITE` (R242): words of a lane's copy are written, to every core it names. Writes to global memory are stamped by
the core's die, once all it has stamped is applied (R252). -/
def execCopyDestWrite (op lane off count : Nat) (s : State) : Out :=
  .next (match (s.op? op).bind fun x => (x.acc? lane).map fun a => (x, a) with
    | none => s
    | some (x, a) =>
      let die := dieOfCore x.before.core
      if !copyRuns x || a.stage != .ready || s.frozen x.before.core || (!a.pad && !s.quiet die) then s
      else
        let offs := a.words.filter fun o => decide (off ≤ o) && decide (o < off + 4 * count)
        let s := offs.foldl (fun t o => t.copyRead op lane o) s
        let (st, s) := if a.pad then ([], s) else s.stampAt die
        let s := offs.foldl (fun t o => (t.copyCores x a).foldl (fun t c => t.copyWrite op lane o c st) t) s
        s.copyDone op lane)

/-! ## Batches (R244, R245) -/

/-- R244: CSEAL. -/
def execCseal (f : Fields) (s : State) : Out :=
  s.issue f fun wid w s =>
    let m := w.exec f
    let n (i : Nat) : Word := mget w.batch i + 1
    let s := s.updWarp wid fun w => { w with batch := msetAll w.batch ((lanesOf m).map fun i => (i, n i)) }
    s.fixed wid w f .a 1 fun i => (n i).toNat

/-- R244: the batches of a lane's copies that have not completed. -/
def State.openBatches (s : State) (wid lane : Nat) : List Nat :=
  ((s.ops.filter fun x => x.wid == wid && (match x.kind with | .copy _ => true | _ => false)).flatMap fun x =>
    (x.accs.filter fun a => a.lane == lane && a.stage != .done && a.stage != .gone).map (·.batch)).eraseDups

/-- R244, R245: batch m has been sealed at a counter, and is at or before n. -/
def batchUpTo (n m : Nat) : Bool := decide ((n + 2 ^ 32 - m % 2 ^ 32) % 2 ^ 32 < 2 ^ 31)

/-- R245: CWAIT. -/
def execCwait (f : Fields) (s : State) : Out :=
  s.issue f fun wid w s =>
    let one (i : Nat) : Acc × Option LaneFault :=
      let c := (mget w.batch i).setWidth 64
      ({ lane := i, stage := .ready, cmp := if f.var == 0 then (w.src f.a i).setWidth 64 else c, addr := c }, none)
    (s.enterOp wid w f (opOf wid w f (.cwait (f.var == 1))) ((lanesOf (w.exec f)).map one)).2

/-- R245: every batch that a CWAIT's lane waits for has completed. -/
def State.cwaitHolds (s : State) (x : Op) : Bool :=
  x.accs.all fun a => a.stage != .ready ||
    (s.openBatches x.wid a.lane).all fun m => !(batchUpTo a.cmp.toNat m && batchUpTo a.addr.toNat m)
/-- A CWAIT that completes now. -/
def State.cwaitDue (s : State) (x : Op) : Bool :=
  (match x.kind with | .cwait _ => true | _ => false) && !s.frozen x.before.core && decide (x.issued < s.ucyc x.before.core) &&
    s.cwaitHolds x
/-- `BATCH_COMPLETE` (R244, R245): the CWAITs on completed batches count down. -/
def execBatchComplete (s : State) : Out :=
  .next (((s.ops.filter s.cwaitDue).map (·.id)).foldl State.endOp s)

end Sys2Proof.Machine
end

