-- ==== Sys2Proof/Machine/Barrier.lean ====
section
/-! DEFINITION. Groups at run time: barriers, named barriers, joins, leaves and completion bitmaps (R271 to R279). -/
namespace Sys2Proof.Machine
open Sys2Proof

/-! ## Reports (R350, R353) -/

/-- The ring of a paddock, or of the root world (R350). -/
def State.ringOf (s : State) (p : Nat) : Ring := if p = 0 then s.root else (s.pdk p).ring
/-- The state with a ring changed. -/
def State.updRing (s : State) (p : Nat) (f : Ring → Ring) : State :=
  if p = 0 then { s with root := f s.root } else s.updPdk p fun q => { q with ring := f q.ring }
/-- R12, R85: the wall cycle in which a command was accepted. -/
def State.acceptedAt (s : State) (p seq : Nat) : Nat := (((s.ringOf p).cmds.find? (·.seq == seq)).map (·.time)).getD s.wall
/-- A command has finished: its report waits for its turn (R353). The first report of a command stands. -/
def State.report (s : State) (p : Nat) (r : Report) : State :=
  let r := { r with tsc := s.tsc p }
  s.updRing p fun g => { g with cmds := g.cmds.map fun c => if c.seq == r.seq && c.report.isNone then { c with report := some r } else c }
/-- A command is reported done. -/
def State.reportDone (s : State) (p seq : Nat) : State := s.report p { seq }
/-- A command is reported failed with a reason of R354. -/
def State.reportFail (s : State) (p seq reason : Nat) : State := s.report p { seq, status := 1, reason }

/-! ## Barrier state (R271 to R273, R275) -/

/-- R273: the test after an update: whether the phase completes, and the state after it. -/
def Barrier.test (b : Barrier) : Barrier := if b.count ≤ b.arrived && 1 ≤ b.arrived then { b with phase := b.phase + 1, arrived := 0 } else b
/-- R272: an arrival. -/
def Barrier.arrive (b : Barrier) : Barrier := ({ b with arrived := b.arrived + 1 } : Barrier).test
/-- R276: a leave of a warp whose last arrival was made at a phase. -/
def Barrier.leave (b : Barrier) (last : Option Word) : Barrier :=
  ({ b with count := b.count - 1, arrived := if last == some b.phase then b.arrived - 1 else b.arrived } : Barrier).test
/-- R273: updates of one cycle come in a rising order of their turns. -/
def Barrier.inTurn (b : Barrier) (wall turn : Nat) : Bool := b.cycle != wall + 1 || decide (b.turn ≤ turn)
/-- R274: phase t has completed. -/
def Barrier.passed (b : Barrier) (t : Word) : Bool := let d := (b.phase - t).toNat; decide (1 ≤ d) && decide (d < 2 ^ 31)

/-- R81, R108: the device writes at a virtual address of a process; where the page does not admit it, nothing is written and a
fault record without a parked record is posted. DESIGN CHOICE (log 52): its FIRSTPC is 0 and its EVENTS is 1. -/
def State.devVWrite (s : State) (p asid va : Nat) (bs : List (BitVec 8)) (lid : Word) : State :=
  match s.vaddrRW p asid va with
  | some a => s.devStore p (homeOf a) a bs
  | none =>
    let code := match s.walk p asid va with | .fault c _ => c | .leaf _ => 2
    s.postFault p asid code (blockOf va) (bitmapOf va) 1 true 0 lid 0xFFF

/-- R271: the barrier object of a group. -/
def groupObject (g : Group) (lid : Word) : List (BitVec 8) :=
  leBytes (lid.toNat * 2 ^ 96 + g.bar.count % 2 ^ 16 * 2 ^ 64 + g.bar.arrived % 2 ^ 16 * 2 ^ 32 + g.bar.phase.toNat) 64
/-- R271: the object is written again. -/
def State.mirror (s : State) (p g : Nat) : State :=
  match (s.pdk p).group g with
  | none => s
  | some x =>
    let l := s.launchRec x.launch
    s.devVWrite p l.asid x.baraddr (groupObject x (s.exposeLid p l.lid)) (s.exposeLid p l.lid)

/-- The state of group `g`, or of named barrier `g` of a warp's cluster. -/
def State.barrier? (s : State) (w : Warp) (nb : Bool) (g : Nat) : Option Barrier :=
  if nb then (s.clusterOf w).bind fun c => (c.nbs.find? (·.1 == g)).map (·.2.2)
  else ((s.pdk w.pdk).group g).map (·.bar)
/-- R84: the group a named barrier of a warp's cluster is bound to. -/
def State.boundGroup (s : State) (w : Warp) (nb : Nat) : Option Nat :=
  (s.clusterOf w).bind fun c => (c.nbs.find? (·.1 == nb)).map (·.2.1)

/-- The state with the named barriers of some clusters of a launch changed. -/
def State.updNbs (s : State) (launch : Nat) (which : Cluster → Bool) (f : Nat × Nat × Barrier → Nat × Nat × Barrier) : State :=
  s.updLaunch launch fun l =>
    { l with clusters := l.clusters.map fun c => if which c then { c with nbs := c.nbs.map f } else c }
/-- Whether a cluster is a warp's. -/
def ofWarp (s : State) (w : Warp) (c : Cluster) : Bool := (s.clusterOf w).map (·.no) == some c.no

/-- R261: a deterministic launch that would pass 2^32 - 1 completions is reported failed, at that completion. -/
def State.phaseLimit (s : State) (p g : Nat) (b b' : Barrier) : State :=
  match (s.pdk p).group g with
  | none => s
  | some x =>
    let l := s.launchRec x.launch
    if l.desc.det && l.desc.phaseg == g && b.phase == 0xFFFFFFFF && b'.phase == 0 then
      let s := s.updLaunch x.launch fun l => { l with failed := some 0x0A }
      match l.seq with | some n => s.reportFail p n 0x0A | none => s
    else s

/-- R273: the place of a warp's update of a group in the order of one cycle: die, core and slot. -/
def Warp.turn (w : Warp) : Nat := 4 * w.core + w.slot
/-- R273, R275: the place of an operation's update; named barriers take the slot first. -/
def Op.turn (x : Op) : Nat := match x.kind with | .arrive true .. => 2 ^ 16 * x.before.slot + x.before.core | _ => x.before.turn
/-- A change of a group's barrier in its turn, its object and the limit of R261. -/
def State.changeGroup (s : State) (p g turn : Nat) (f : Barrier → Barrier) : State :=
  let b := (((s.pdk p).group g).map (·.bar)).getD {}
  let s := s.phaseLimit p g b (f b)
  (s.updPdk p fun q => q.updGroup g fun x => { x with bar := { f x.bar with cycle := s.wall + 1, turn } }).mirror p g

/-! ## Membership (R83, R272, R276) -/

/-- The leaves of the warp that have issued and are not yet applied, from the groups of which `p` holds. -/
def State.leaving (s : State) (w : Warp) (p : Nat → Bool) : Nat :=
  (s.ops.filter fun x => x.wid == w.id && (match x.kind with | .leave g => p g | _ => false)).length
/-- R83: the warp is a member of a group, by what it has issued. -/
def State.isMember (s : State) (w : Warp) (g : Nat) : Bool :=
  decide (s.leaving w (· == g) < (w.members.filter (·.group == g)).length)
/-- R276: joins to a group that have issued and are not yet applied. -/
def State.joining (s : State) (p g : Nat) : Nat := (s.ops.filter fun x => x.before.pdk == p && x.kind == .join g).length
/-- The first member slot of a group changed. -/
def updMember (g : Nat) (f : Member → Member) : List Member → List Member
  | [] => []
  | m :: r => if m.group == g then f m :: r else m :: updMember g f r
/-- The first member slot of a group taken away. -/
def dropMember (g : Nat) : List Member → List Member
  | [] => []
  | m :: r => if m.group == g then r else m :: dropMember g r

/-- R276, R275: a warp leaves a group and the named barriers bound to it. -/
def State.leaveGroup (s : State) (w : Warp) (g : Nat) : State :=
  let m := (w.members.find? (·.group == g)).getD {}
  let s := s.changeGroup w.pdk g w.turn fun b => b.leave m.lastarr
  let s := s.updWarp w.id fun w => { w with members := dropMember g w.members }
  let own (c : Cluster) : Bool := ofWarp s w c
  let s := s.updNbs w.launch own fun n =>
    if n.2.1 == g then (n.1, n.2.1, n.2.2.leave ((m.nbarr.find? (·.1 == n.1)).map (·.2))) else n
  s.updNbs w.launch (fun c => !own c) fun n => if n.2.1 == g then (n.1, n.2.1, n.2.2.leave none) else n

/-- R276, R275: a warp joins a group; its member slot was taken at issue. -/
def State.joinGroup (s : State) (w : Warp) (g : Nat) : State :=
  let s := s.changeGroup w.pdk g w.turn fun b => { b with count := b.count + 1 }
  s.updNbs w.launch (fun _ => true) fun n => if n.2.1 == g then (n.1, n.2.1, { n.2.2 with count := n.2.2.count + 1 }) else n

/-! ## The instructions (R272 to R276) -/

/-- An operation without lane accesses, its destination one register. -/
def State.groupOp (s : State) (wid : Nat) (w : Warp) (f : Fields) (k : OpKind) : State :=
  (s.addOp { opOf wid w f k with nregs := 1 }).2

/-- R272: an arrival at a group. -/
def arriveOp (f : Fields) (s : State) (waits : Bool) : Out :=
  s.issue f fun wid w s =>
    let g := f.immVal.toNat % 256
    if w.exec f == 0 then s.simpleOp wid w f 1
    else if !s.isMember w g then s.trapAt wid w 0x1B
    else s.groupOp wid w f (.arrive false g waits)
/-- R274: BAR. -/
def execBar (f : Fields) (s : State) : Out := arriveOp f s true
/-- R274: BARA. -/
def execBara (f : Fields) (s : State) : Out := arriveOp f s false
/-- R274: BARW. -/
def execBarw (f : Fields) (s : State) : Out :=
  s.issue f fun wid w s =>
    let g := f.immVal.toNat % 256
    let m := w.exec f
    if m == 0 then s.simpleOp wid w f 1
    else if !s.isMember w g then s.trapAt wid w 0x1B
    else match uniform m (w.src f.a) with
      | none => s.trapAt wid w 0x15
      | some t => s.groupOp wid w f (.await false g t)
/-- R275: NBAR. -/
def execNbar (f : Fields) (s : State) : Out :=
  s.issue f fun wid w s =>
    let n := f.immVal.toNat % 16
    let m := w.exec f
    if m == 0 then s.simpleOp wid w f 1
    else match s.boundGroup w n with
      | none => s.trapAt wid w 0x1B
      | some g =>
        if !s.isMember w g then s.trapAt wid w 0x1B
        else if f.var == 2 then
          (match uniform m (w.src f.a) with
           | none => s.trapAt wid w 0x15
           | some t => s.groupOp wid w f (.await true n t))
        else s.groupOp wid w f (.arrive true n (f.var == 0))

/-- R82: the warps of one cluster of a launch. -/
def Desc.per (d : Desc) : Nat := (d.c + 1) * (d.w + 1)
/-- R277: groups of SCOPE die bind clusters; `n` rounds of the closure. -/
def dieSet (gs : List (List Nat)) : Nat → List Nat → List Nat
  | 0, l => l
  | n + 1, l => dieSet gs n ((l ++ (gs.filter fun g => g.any l.contains).flatten).eraseDups)
/-- R276, R277: the clusters of a launch with a warp, resident or saved, that has joined a group. -/
def State.joinedClusters (s : State) (l : Launch) (g : Nat) : List Nat :=
  let inG (w : Warp) : Bool := w.members.any (·.group == g)
  ((s.warps.filter fun w => w.launch == l.id && inG w).map (·.clno)) ++ (l.clusters.filter fun c => c.warps.any inG).map (·.no)
/-- R277: the clusters of a die set, from some of its clusters on: those of the member sets, and of warps that have joined. -/
def State.dieSetOf (s : State) (l : Launch) (some_ : List Nat) : List Nat :=
  let gs := ((s.pdk l.pdk).groups.filter fun g => g.launch == l.id && g.scope == 1).map fun g =>
    (g.members.map (· / l.desc.per) ++ s.joinedClusters l g.no).eraseDups
  dieSet gs gs.length some_
/-- R277: the die that a die set already has, from a cluster other than `but`. -/
def State.setDie (s : State) (l : Launch) (some_ : List Nat) (but : Option Nat) : Option Nat :=
  let set := s.dieSetOf l some_
  (l.clusters.find? fun c => set.contains c.no && some c.no != but && c.state != .waiting).map (·.slice / Config.slicesPerDie)
/-- R277: the die of a group of SCOPE die: that of the first cluster of its die set that has been placed. -/
def State.groupDie (s : State) (g : Group) : Option Nat :=
  let l := s.launchRec g.launch
  s.setDie l (g.members.map (· / l.desc.per)).eraseDups none

/-- R276: GJOIN traps PRIV. DESIGN CHOICE (log 62): a group of SCOPE die that has no die yet, none of its die set having been placed, admits a warp
of any die. -/
def State.joinBad (s : State) (w : Warp) (g : Nat) : Bool :=
  match (s.pdk w.pdk).group g with
  | none => true
  | some x =>
    let l := s.launchRec w.launch
    x.launch != w.launch || s.isMember w g || decide (4 + s.leaving w (fun _ => true) ≤ w.members.length) ||
      decide (65535 ≤ x.bar.count + s.joining w.pdk g) || (x.scope == 0 && x.cluster != (s.clusterOf w).map (·.no)) ||
      (x.scope == 1 && (match s.groupDie x with | some d => d != dieOfCore w.core | none => false)) ||
      (l.desc.det && l.desc.phaseg == g)

/-- R276: GJOIN: the member slot is taken at issue, COUNT changes when the join is applied. -/
def execGjoin (f : Fields) (s : State) : Out :=
  s.issue f fun wid w s =>
    let g := f.immVal.toNat % 256
    if w.exec f == 0 then s.simpleOp wid w f 1
    else if s.joinBad w g then s.trapAt wid w 0x1B
    else (s.updWarp wid fun w => { w with members := w.members ++ [{ group := g }] }).groupOp wid w f (.join g)
/-- R276: GLEAVE. -/
def execGleave (f : Fields) (s : State) : Out :=
  s.issue f fun wid w s =>
    let g := f.immVal.toNat % 256
    let l := s.launchRec w.launch
    if w.exec f == 0 then s.simpleOp wid w f 1
    else if !s.isMember w g || (l.desc.det && l.desc.phaseg == g) then s.trapAt wid w 0x1B
    else s.groupOp wid w f (.leave g)

/-! ## Arrivals applied, completions notified (R256, R273) -/

/-- Operations that change a group's state. -/
def OpKind.changes : OpKind → Bool
  | .arrive .. | .join _ | .leave _ => true
  | _ => false

/-- R329: a matrix command that the warp issued before an arrival and that names its group, or the group its named barrier is bound
to, has not applied its status update. -/
def State.matrixHolds (s : State) (x : Op) : Bool :=
  match x.kind with
  | .arrive nb n _ =>
    let g := if nb then s.boundGroup (s.warp x.wid) n else some n
    s.jobs.any fun j => j.wid == x.wid && decide (j.id < x.id) && g == some j.group
  | _ => false

/-- R263: operations whose lanes are checked at their lines. -/
def OpKind.lines : OpKind → Bool
  | .load _ | .store | .atomic .. | .cas | .bitset _ | .copy _ | .root _ | .matrix 9 => true
  | _ => false
/-- R272, R273: the place and the phase of a warp's arrival are free: what its cycle has applied already comes first, and the warp has not
arrived in the present phase. -/
def State.arriveTurn (s : State) (x : Op) : Bool :=
  let w := s.warp x.wid
  let free (b : Option Barrier) (last : Option Word) : Bool := match b with
    | some b => b.inTurn s.wall x.turn && last != some b.phase
    | none => true
  match x.kind with
  | .arrive false g _ => free (s.barrier? w false g) ((w.member? g).bind (·.lastarr))
  | .arrive true n _ => free (s.barrier? w true n) (((s.boundGroup w n).bind w.member?).bind fun m => alist m.nbarr n)
  | .join g | .leave g => free (s.barrier? w false g) none
  | _ => false
/-- R252, R273: the object of a group that an update writes is free of accesses that became applicable before. -/
def State.objectFree (s : State) (x : Op) : Bool :=
  match x.kind with
  | .arrive false g _ | .join g | .leave g =>
    (match (s.pdk x.before.pdk).group g with
     | some y => (match s.vaddrRW x.before.pdk (s.launchRec y.launch).asid y.baraddr with
       | some a => s.homeFree (homeOf a) a 64
       | none => true)
     | none => true)
  | _ => true
/-- R256, R261, R272, R273: an arrival, join or leave may be applied: the warp's earlier ones are, all that its die has stamped is, and in
deterministic mode its earlier accesses have been checked at their lines, which they are as they are performed. -/
def State.arriveReady (s : State) (x : Op) : Bool :=
  x.kind.changes && s.arriveTurn x && !s.matrixHolds x && !s.frozen x.before.core && s.quiet (dieOfCore x.before.core) && s.objectFree x &&
    s.ops.all fun y => y.wid != x.wid || decide (x.id ≤ y.id) ||
      (!y.kind.changes && (!x.before.det || !y.kind.lines || y.accs.all Acc.over))

/-- The clock of a die, as a stamp (R252). -/
def State.clockOf (s : State) (d : Nat) : SMap 48 :=
  (List.range 8).foldl (fun m e => mset m e (mget s.clocks (8 * d + e))) []

/-- R272, R273: an arrival is applied: LASTARR takes PHASE; a waiting form goes on to wait for that phase, another lands it. -/
def State.applyArrival (s : State) (x : Op) (nb : Bool) (g : Nat) (waits : Bool) : State :=
  let w := s.warp x.wid
  match s.barrier? w nb g with
  | none => s.endOp x.id
  | some b =>
    let t := b.phase
    let s :=
      if nb then
        (s.updNbs w.launch (ofWarp s w) fun n =>
          if n.1 == g then (n.1, n.2.1, { n.2.2.arrive with cycle := s.wall + 1, turn := x.turn }) else n).updWarp w.id fun v =>
          { v with members := updMember ((s.boundGroup w g).getD 0) (fun m => { m with nbarr := aput m.nbarr g t }) v.members }
      else
        let s := match (s.pdk w.pdk).group g with
          | some y => (match s.vaddrRW w.pdk (s.launchRec y.launch).asid y.baraddr with
            | some a => s.mergeClock (homeOf a) (s.clockOf (dieOfCore w.core))
            | none => s)
          | none => s
        (s.changeGroup w.pdk g x.turn Barrier.arrive).updWarp w.id fun v =>
          { v with members := updMember g (fun m => { m with lastarr := some t }) v.members }
    if waits then s.updOp x.id fun x => { x with kind := .await nb g t, applied := true }
    else
      let ws := (lanesOf x.mask).flatMap fun i => regWrites x.dst i 1 t.toNat
      (s.landRegs x.wid x.id ws).endOp x.id

/-- `BARRIER_ARRIVAL_APPLY` (R273). -/
def execBarrierArrivalApply (op : Nat) (s : State) : Out :=
  .next (match s.op? op with
    | none => s
    | some x =>
      if !s.arriveReady x then s
      else match x.kind with
        | .arrive nb g waits => s.applyArrival x nb g waits
        | .join g => (s.joinGroup (s.warp x.wid) g).endOp op
        | .leave g => (s.leaveGroup (s.warp x.wid) g).endOp op
        | _ => s)

/-- R261: the completions a warp has passed, when it is the phase group's barrier: those up to phase t's, which a token that names no completed
phase of it does not count. -/
def State.passPhase (s : State) (w : Warp) (nb : Bool) (g : Nat) (t : Word) : State :=
  let l := s.launchRec w.launch
  if !nb && l.desc.det && l.desc.phaseg == g && (s.barrier? w nb g).any (fun b => decide (t.toNat < b.phase.toNat)) then
    s.updWarp w.id fun v => { v with phase := if v.phase.toNat < t.toNat + 1 then t + 1 else v.phase }
  else s

/-- R273, R274: a wait whose phase has completed. -/
def State.phaseOver (s : State) (x : Op) : Bool :=
  match x.kind with
  | .await nb g t => (match s.barrier? (s.warp x.wid) nb g with | some b => b.passed t | none => true)
  | _ => false
/-- R362: a completed wait whose core is not frozen. -/
def State.awaitDone (s : State) (x : Op) : Bool := !s.frozen x.before.core && s.phaseOver x
/-- R273: a completion reaches a waiting member; its die merges the object's stamp before the flag counts down. -/
def State.notify (s : State) (x : Op) : State :=
  if !s.phaseOver x then s
  else match x.kind with
    | .await nb g t =>
      let w := s.warp x.wid
      let s := match (if nb then none else (s.pdk w.pdk).group g) with
        | some y => (match s.vaddrRW w.pdk (s.launchRec y.launch).asid y.baraddr with
          | some a => s.mergeClock (dieOfCore w.core) (s.stampOf a 4)
          | none => s)
        | none => s
      (s.passPhase w nb g t).endOp x.id
    | _ => s

/-- `BARRIER_NOTIFY` (R273): a completion reaches a waiting member whose core is not frozen (R362). -/
def execBarrierNotify (op : Nat) (s : State) : Out :=
  .next (match s.op? op with
    | none => s
    | some x => if s.awaitDone x then s.notify x else s)

/-! ## Completion bitmaps (R278, R279) -/

/-- R278: BITSET and BITWAIT: membership, a bitmap, and each lane's byte and bit. DESIGN CHOICE (log 62): a MAPADDR in the private window, or in the
scratchpad window, gives PROT: R81 makes it a virtual address of the process, which neither is. -/
def bitOp (f : Fields) (s : State) (set : Bool) : Out :=
  s.issue f fun wid w s =>
    let g := f.immVal.toNat % 256
    if w.exec f == 0 then s.simpleOp wid w f 1
    else match (s.pdk w.pdk).group g with
    | none => s.trapAt wid w 0x1B
    | some x =>
      if !s.isMember w g || x.mapaddr == 0 then s.trapAt wid w 0x1B
      else
        let b (i : Nat) : Nat := (w.src f.a i).toNat
        let mk (i : Nat) : Acc :=
          { lane := i, asid := w.asidOf i, addr := BitVec.ofNat 64 (x.mapaddr + b i / 8), data := BitVec.ofNat 128 (b i % 8), cmp := BitVec.ofNat 64 (b i) }
        let spot (i : Nat) : Spot :=
          if x.mapbits ≤ b i then .fault 2 (x.mapaddr + b i / 8) else s.spot w i 1 1 false false (BitVec.ofNat 64 (x.mapaddr + b i / 8))
        let x := { opOf wid w f (if set then .bitset g else .bitwait g) with bytes := 1, write := set }
        s.memIssue wid w f x mk spot true true false none
/-- R279: BITSET. -/
def execBitset (f : Fields) (s : State) : Out := bitOp f s true
/-- R279: BITWAIT. -/
def execBitwait (f : Fields) (s : State) : Out := bitOp f s false

/-- R279: the bits of one aligned 8-byte word, named by any lane of a BITSET, are set as one application at the home, which no access that
has become applicable stands before (R252). -/
def State.bitsetWord (s : State) (x : Op) (a : Acc) : State :=
  let die := dieOfCore x.before.core
  let p := x.before.pdk
  let word := a.pa / 8 * 8
  let mine (b : Acc) : Bool := b.stage == .ready && b.pa / 8 == a.pa / 8
  let fault (code : Nat) (s : State) : State := s.laneFaults x.wid x.id x.pc x.before
    ((x.accs.filter mine).map fun b => { lane := b.lane, code, va := BitVec.ofNat 64 b.va, write := x.write })
  if a.stage != .ready || s.frozen x.before.core || !s.quiet die || s.blocked x a || !s.firstAt word 8 s.wall 8 0 then s
  else if s.execDev p word then fault 2 s
  else
    let (ok, s) := s.ecc (some x.before.core) p word 8 a.spec
    if ok || a.spec then
      let bits := (x.accs.filter mine).foldl (fun v b => v ||| 2 ^ (8 * (b.pa % 8) + b.data.toNat)) 0
      let (st, s) := s.stampAt die
      let s := if ok then s.applyWrite p word (leBytes (ofLe (s.peek word 8) ||| bits) 8) st else s
      (s.updOp x.id fun x => x.mapAccs fun b => if mine b then { b with stage := .done } else b).settle x.id
    else fault 4 s

end Sys2Proof.Machine
end

