-- ==== Sys2Proof/Machine/Context.lean ====
section
/-! DEFINITION. Where warps live: slots and registers (R77), windows (R227), private slots (R93); and the context area: rooms, the
directory, parked records and saved contexts as bytes (R389, R394, R395, R399 to R401). -/
namespace Sys2Proof.Machine
open Sys2Proof

/-! ## Cores and slots (R76, R77, R424) -/

/-- R427: a paddock owns a slice. -/
def State.ownsSlice (s : State) (p sl : Nat) : Bool := bitAt ((s.pdk p).reg 0x0C8).toNat sl
/-- R424: the cores of a slice that serve its paddock: core 0 of slice 0 is the Acvor root. -/
def sliceCores (sl : Nat) : List Nat :=
  ((List.range Config.coresPerSlice).map (Config.coresPerSlice * sl + ·)).filter (· != 0)
/-- The slices of the device. -/
def allSlices : List Nat := List.range 64
/-- R424: the cores of a paddock; the root world has the Acvor root alone. -/
def State.coresOf (s : State) (p : Nat) : List Nat :=
  if p = 0 then [0] else (allSlices.filter (s.ownsSlice p)).flatMap sliceCores
/-- R76: the allocation of a declared count. -/
def allocOf (n : Nat) : Nat := 8 * cdiv n 8
/-- The warps resident in a slot. -/
def State.inSlot (s : State) (c slot : Nat) : List Warp := s.warps.filter fun w => w.core == c && w.slot == slot
/-- R77: a slot has room for `k` more warps of a declared count. -/
def State.slotHolds (s : State) (c slot n k : Nat) : Bool :=
  let ws := s.inSlot c slot
  decide (ws.length + k ≤ 16) && decide ((ws.map fun w => allocOf w.n).foldl (· + ·) 0 + k * allocOf n ≤ 1024)
/-- R87: the lowest free warp index of a slot, with the slot in its upper bits. -/
def State.freeIndex (s : State) (c slot : Nat) : Nat :=
  let used := (s.inSlot c slot).map (·.index)
  ((List.range 16).find? fun i => !used.contains (16 * slot + i)).getD 0 + 16 * slot

/-! ## Windows (R227) -/

/-- Whether a warp uses a window: it has a lane of the ASID, whether the lane still runs or not, until it retires or is saved. -/
def Warp.uses (w : Warp) (c : Nat) (x : Window) : Bool :=
  w.core == c && w.pdk == x.pdk && w.launch == x.launch && w.kind != .handler && w.holdsAsid x.asid
/-- The lowest place of a window of `n` scratchpad slots on a core. -/
def Core.windowPlace (k : Core) (n : Nat) : Option Nat :=
  let used := k.windows.flatMap Window.list
  (List.range (257 - n)).find? fun b => (List.range n).all fun i => !used.contains (b + i)
/-- Bytes, tags and poison of some scratchpad slots are cleared. -/
def Core.clearSlots (k : Core) (b n : Nat) : Core :=
  let inS (x : Nat) : Bool := decide (b ≤ x) && decide (x < b + n)
  { k with pad := mdrop k.pad fun a => inS (a / 2048), tags := k.tags.filter fun t => !inS t.1
           padPoison := k.padPoison.filter fun w => !inS (w / 512) }
/-- R262: the records of the scratchpad lines and tag entries of some slots of a core. -/
def State.padRecs (s : State) (c b n : Nat) : List DetRec :=
  s.det.filter fun r => (decide (padKey c (2048 * b) ≤ r.line) && decide (r.line < padKey c (2048 * (b + n)))) ||
    (decide (tagKey c b ≤ r.line) && decide (r.line < tagKey c (b + n)))
/-- R262: they are records of a window: none of another window's stays with its slots. -/
def State.dropRecs (s : State) (c b n : Nat) : State := { s with det := s.det.filter (!(s.padRecs c b n).contains ·) }
/-- R227: the window of a launch and an ASID on a core, assigned where there is none yet. -/
def State.assignWindow (s : State) (c p launch asid n : Nat) : Option State :=
  let k := s.core c
  if n = 0 || k.windows.any fun x => x.pdk == p && x.launch == launch && x.asid == asid then some s
  else (k.windowPlace n).map fun b =>
    (s.dropRecs c b n).updCore c fun k => { (k.clearSlots b n) with windows := k.windows ++ [{ pdk := p, launch, asid, base := b, slots := n }] }
/-- R227: windows that no resident warp uses are released. -/
def State.releaseWindows (s : State) (c : Nat) : State :=
  s.updCore c fun k => { k with windows := k.windows.filter fun x => s.warps.any fun w => w.uses c x }

/-! ## Private slots (R93) -/

/-- SLOTKB of an ASID. -/
def State.slotKb (s : State) (p asid : Nat) : Nat := fld (s.arenaEntry p asid) 160 32
/-- R93: S fits a slot of a VALID entry. DESIGN CHOICE (log 54): S = 0 needs no VALID entry. -/
def State.privOk (s : State) (p asid kb : Nat) : Bool :=
  kb == 0 || (bitAt (s.arenaEntry p asid) 0 && decide (kb ≤ s.slotKb p asid))

/-- The MAP word of a slot: its device-physical address, or the cause that keeps the device from it. -/
def State.mapWord (s : State) (p asid slot : Nat) : Except (Nat × Nat) Nat :=
  let va := fld (s.arenaEntry p asid) 64 64 + slot / 64 * 8
  match s.walk p asid va with
  | .fault code _ => .error (code, va)
  | .leaf e =>
    if !e.rd || !e.wr || s.execFrame p (e.addr va) then .error (2, va)
    else match s.s2 p (e.addr va) with
      | none => .error (2, va)
      | some a => if s.unreadable p a 8 then .error (4, va) else .ok a

/-- The lowest clear bit of MAP from word `k` on; `n` words are left. -/
def State.freeSlot (s : State) (p asid nslots k : Nat) : Nat → Except (Nat × Nat) (Option Nat)
  | 0 => .ok none
  | n + 1 =>
    match s.mapWord p asid (64 * k) with
    | .error e => .error e
    | .ok a =>
      let v := ofLe (s.peek a 8)
      match (List.range 64).find? fun i => !bitAt v i && decide (64 * k + i < nslots) with
      | some i => .ok (some (64 * k + i))
      | none => s.freeSlot p asid nslots (k + 1) n

/-- One bit of MAP changes, by an atomic operation at its word's home, whose storage is retried where it fails (R13). -/
def State.setMapBit (s : State) (p asid slot v : Nat) : State :=
  match s.mapWord p asid slot with
  | .error _ => s
  | .ok a => (s.ecc none p a 8 false).2.devStore p (homeOf a) a (leBytes (setFld (ofLe (s.peek a 8)) (slot % 64) 1 v) 8)

/-- R93: the lanes of a warp that have no slot yet take one each, all or none; or why not: the ASID, the cause and the address of a
MAP word out of reach, or nothing for an arena without a free slot. -/
def State.takeSlots (s : State) (w : Warp) : Except (Option (Nat × Nat × Nat)) (SMap 32 × State) :=
  if w.privKB = 0 then .ok (w.priv, s) else
  let go (r : Except (Option (Nat × Nat × Nat)) (SMap 32 × State)) (i : Nat) : Except (Option (Nat × Nat × Nat)) (SMap 32 × State) :=
    match r with
    | .error e => .error e
    | .ok (m, t) =>
      if mget m i != 0 then .ok (m, t) else
      let a := w.asidOf i
      let n := fld (s.arenaEntry w.pdk a) 128 32
      match t.freeSlot w.pdk a n 0 (cdiv n 64) with
      | .error (code, va) => .error (some (a, code, va))
      | .ok none => .error none
      | .ok (some k) => .ok (mset m i (BitVec.ofNat 32 (k + 1)), t.setMapBit w.pdk a k 1)
  (lanesOf (w.live ||| w.held)).foldl go (.ok (w.priv, s))

/-- R93: the slots of a warp's lanes are released when it retires; those of parked lanes stay with their records. -/
def State.freeSlots (s : State) (w : Warp) (m : Lanes) : State :=
  (lanesOf m).foldl (fun t i =>
    let k := (mget w.priv i).toNat
    if k = 0 then t else t.setMapBit w.pdk (w.asidOf i) (k - 1) 0) s

/-! ## Rooms and the directory (R394, R395) -/

/-- The paddock-physical base of the context area. -/
def Pdk.ctxBase (q : Pdk) : Nat := fld (q.reg 0x090).toNat 12 34 * 2 ^ 12
/-- R432: the device reaches a place of a context area: that of a sealed paddock lies in its own channels. -/
def State.ctxReach (s : State) (p pa : Nat) : Option Nat := (s.s2 p pa).filter (s.ownChannels p)
/-- R432: a device write of at most a page in the context area; what it does not reach is an error of the interface (R435). -/
def State.ctxPut (s : State) (p pa : Nat) (bs : List (BitVec 8)) : State :=
  if (s.ctxReach p pa).isSome then s.devWrite p pa bs else s.ifError p 4
/-- R432: `n` bytes of the context area; none where they cannot be read. -/
def State.ctxGet (s : State) (p pa n : Nat) : Option Nat := if (s.ctxReach p pa).isSome then s.devRead p pa n else none
/-- Device writes of any length in the context area, page by page. -/
def State.ctxWrite (s : State) (p pa : Nat) (bs : List (BitVec 8)) : State :=
  (List.range (cdiv bs.length 4096)).foldl (fun t k => t.ctxPut p (pa + 4096 * k) ((bs.drop (4096 * k)).take 4096)) s

/-- R395: the bits of a directory entry. -/
def State.entryBits (s : State) (p : Nat) (r : Room) : Nat :=
  if r.kind = 0 then 0 else
  let lid := if r.yard.isSome then 0 else (s.exposeLid p r.lid).toNat
  lid * 2 ^ 96 + r.off * 2 ^ 64 + r.size * 2 ^ 40 + r.yard.getD 255 * 2 ^ 32 + r.asid * 2 ^ 16 + r.kind * 2 ^ 8
/-- The device writes a room's entry. -/
def State.writeEntry (s : State) (p : Nat) (r : Room) : State :=
  s.ctxPut p ((s.pdk p).ctxBase + 16 * r.idx) (leBytes (s.entryBits p r) 16)
/-- A room changes, and its entry. -/
def State.updRoom (s : State) (p idx : Nat) (f : Room → Room) : State :=
  match (s.pdk p).rooms.find? (·.idx == idx) with
  | none => s
  | some r =>
    let r := f r
    (s.updPdk p fun q => { q with rooms := q.rooms.map fun x => if x.idx == idx then r else x }).writeEntry p r
/-- R395: a room returns to KIND 0. -/
def State.freeRoom (s : State) (p idx : Nat) : State :=
  let s := s.updRoom p idx fun r => { r with kind := 0 }
  s.updPdk p fun q => { q with rooms := q.rooms.filter (·.idx != idx) }
/-- Bytes are written at the start of a room. -/
def State.writeRoom (s : State) (p idx : Nat) (bs : List (BitVec 8)) : State :=
  match (s.pdk p).rooms.find? (·.idx == idx) with
  | none => s
  | some r => s.ctxWrite p ((s.pdk p).ctxBase + 4096 * r.off) bs
/-- R395: an entry of the directory, from its bits; what the device itself knows of the room stays. -/
def State.roomOf (s : State) (p idx e : Nat) : Room :=
  let known := (((s.pdk p).rooms.find? (·.idx == idx)).getD {})
  { known with idx, off := fld e 64 32, size := fld e 40 24, kind := fld e 8 8, asid := fld e 16 16
               lid := BitVec.ofNat 32 (fld e 96 32) - ((s.pdk p).reg 0x0A8).truncate 32
               yard := if fld e 32 8 = 255 then none else some (fld e 32 8) }
/-- R395, R396: the room of a directory index, as the directory in memory has it. -/
def State.dirEntry (s : State) (p idx : Nat) : Option Room :=
  (s.ctxGet p ((s.pdk p).ctxBase + 16 * idx) 16).map (s.roomOf p idx)
/-- R395, R402: the rooms that the directory in memory names: those the device has reserved, and those copied there. -/
def State.dirRooms (s : State) (p : Nat) : List Room :=
  match s.ctxReach p (s.pdk p).ctxBase with
  | none => []
  | some a =>
    let h := s.home a
    ((s.mem.filter fun c => decide (h ≤ c.1) && decide (c.1 < h + 16 * 4095) && (c.1 - h) % 16 == 1).map fun c =>
      let k := (c.1 - h) / 16
      s.roomOf p k (ofLe (s.peek (a + 16 * k) 16)))
/-- The first place of `n` units behind the directory that no room covers. -/
def roomPlace (rooms : List Room) (limit n : Nat) : Option Nat :=
  let starts := sortBy id (16 :: rooms.map fun r => r.off + r.size)
  starts.find? fun o => decide (o + n ≤ limit) && rooms.all fun r => decide (o + n ≤ r.off) || decide (r.off + r.size ≤ o)
/-- R394, R395: a room of `n` units is reserved at the lowest free entry and place (log 19). -/
def State.reserveRoom (s : State) (p n : Nat) (r : Room) : Option (Nat × State) :=
  let q := s.pdk p
  let all := q.rooms ++ (s.dirRooms p).filter fun x => !q.rooms.any (·.idx == x.idx)
  let free := (List.range 4095).find? fun i => !all.any (·.idx == i)
  match free, roomPlace all (q.reg 0x098).toNat n with
  | some idx, some off =>
    let r := { r with idx, off, size := n, kind := 1 }
    some (idx, (s.updPdk p fun q => { q with rooms := r :: q.rooms }).writeEntry p r)
  | _, _ => none

/-! ## Warp blocks and records as bytes (R389, R399 to R401) -/

/-- R381, R400: the code of a kind. -/
def Kind.code : Kind → Nat
  | .grid => 0 | .persist => 1 | .yard => 2 | .handler => 3
/-- R191: the bits of a branch-target register. -/
def BReg.bits (b : BReg) : Nat :=
  (if b.valid then 2 ^ 63 else 0) + (if b.stale then 2 ^ 62 else 0) + b.count.toNat * 2 ^ 32 + b.target.toNat
/-- R200: the bits of a stack entry. -/
def StackEntry.bits (e : StackEntry) : Nat :=
  e.saved.toNat * 2 ^ 96 + e.pend.toNat * 2 ^ 64 + e.joinoff.toNat * 2 ^ 36 + e.resume.toNat * 2 ^ 8 + (if e.phase then 1 else 0)
/-- R401: a wait record, as KIND and GROUP; none for an operation that is not saved as a wait. -/
def waitCode (x : Op) : Option (Nat × Nat × Word) :=
  match x.kind with
  | .await _ g t => some (if x.applied then 1 else 2, g, t)
  | .bitwait g => some (3, g, 0)
  | .cwt => some (if x.bytes = 8 then 5 else 4, 0, 0)
  | _ => none
/-- R401: the bits of a wait record. -/
def waitBits (x : Op) : Nat :=
  match waitCode x with
  | none => 0
  | some (k, g, t) => k * 2 ^ 120 + x.flag.getD 15 * 2 ^ 116 + g * 2 ^ 108 + t.toNat * 2 ^ 64 + x.mask.toNat * 2 ^ 32
/-- R401: the lane data of a wait record. -/
def waitData (x : Op) : List (BitVec 8) :=
  lanes32.flatMap fun i =>
    let a := (x.acc? i).getD {}
    match x.kind with
    | .bitwait _ => leBytes a.cmp.toNat 4
    | _ => leBytes (a.addr.toNat + a.cmp.toNat * 2 ^ 64) 16

/-- R400, R401: the bytes of a warp block; its age carries TSCOFF (R402). Of more than twelve waits the first twelve have records (log 19). -/
def Warp.block (w : Warp) (all : List Op) (off : DWord) : List (BitVec 8) :=
  let waits := (all.filter fun x => (waitCode x).isSome).take 12
  let four (x : Nat) : List (BitVec 8) := leBytes x 4
  let pad (n : Nat) (bs : List (BitVec 8)) : List (BitVec 8) := bs ++ List.replicate (n - bs.length) 0
  leBytes w.pc.toNat 8 ++ four w.exm.toNat ++ four w.live.toNat ++ four w.park.toNat ++ four w.held.toNat ++ leBytes (BitVec.ofNat 64 w.age + off).toNat 8 ++
  four ((w.n - 1) * 2 ^ 24 + w.cls * 2 ^ 22 + w.kind.code * 2 ^ 20 + w.stack.length) ++
  (List.range 12).map (fun n => BitVec.ofNat 8 (w.flag n)) ++ four w.qsstat.toNat ++ List.replicate 12 0 ++
  (List.range 8).flatMap (fun b => leBytes (w.breg b).bits 8) ++
  pad 256 (w.stack.reverse.flatMap fun e => leBytes e.bits 16) ++
  pad 32 (w.members.flatMap fun m => leBytes (m.group * 2 ^ 56 + 2 ^ 55 + (if m.lastarr.isSome then 2 ^ 54 else 0) + (m.lastarr.getD 0).toNat) 8) ++
  lanes32.flatMap (fun i => four (mget w.batch i).toNat) ++
  pad 192 (waits.flatMap fun x => leBytes (waitBits x) 16) ++
  pad 256 (w.locks.flatMap fun k => leBytes (k.asid * 2 ^ 112 + k.size * 2 ^ 110 + k.page * 2 ^ 64 + 1) 16) ++ List.replicate 32 0 ++
  pad 6144 (waits.flatMap fun x => pad 512 (waitData x)) ++
  ((List.range (allocOf w.n)).flatMap fun r => lanes32.flatMap fun i => four (w.reg r i).toNat) ++
  lanes32.flatMap (fun i => four ((mget w.priv i) - 1).toNat)
/-- The number in `n` bytes at a place. -/
def num (bs : List (BitVec 8)) (at_ n : Nat) : Nat := ofLe ((bs.drop at_).take n)
/-- R381: the kind of a code. -/
def kindOf (c : Nat) : Kind := match c with | 0 => .grid | 1 => .persist | 2 => .yard | _ => .handler
/-- R191: the branch-target register of some bits. -/
def bregOf (x : Nat) : BReg :=
  { valid := bitAt x 63, stale := bitAt x 62, count := BitVec.ofNat 16 (fld x 32 16), target := BitVec.ofNat 32 (fld x 0 32) }
/-- R200: the stack entry of some bits. -/
def stackOf (x : Nat) : StackEntry :=
  { saved := BitVec.ofNat 32 (fld x 96 32), pend := BitVec.ofNat 32 (fld x 64 32), joinoff := BitVec.ofNat 28 (fld x 36 28)
    resume := BitVec.ofNat 28 (fld x 8 28), phase := bitAt x 0 }
/-- What reads of the next cycle find as the end of this one (R40, R89, R196, R212). -/
def Warp.endCycle (w : Warp) : Warp :=
  { w with pflags := w.flags, plive := w.live, ppark := w.park, pexm := w.exm, pbregs := w.bregs, pqsstat := w.qsstat }
/-- R205: STALE of the copy that the device keeps, where it has the same target: a mapping may have gone since the block was written. -/
def BReg.restored (kept b : BReg) : BReg := { b with stale := b.stale || (b.valid && kept.valid && kept.stale && kept.target == b.target) }
/-- R400, R402: a warp as a block in memory has it; what a block does not hold stays as it is. -/
def Warp.overlay (w : Warp) (bs : List (BitVec 8)) (off : DWord) : Warp :=
  let x := num bs 0x20 4
  let n := fld x 24 8 + 1
  let word (o : Nat) : Word := BitVec.ofNat 32 (num bs o 4)
  let lane (o : Nat) : List (Nat × Word) := lanes32.map fun i => (i, word (o + 4 * i))
  let slots := ((List.range 4).map fun k => num bs (0x180 + 8 * k) 8).filter (bitAt · 55)
  let member (v : Nat) : Member :=
    { group := fld v 56 8, lastarr := if bitAt v 54 then some (BitVec.ofNat 32 (fld v 0 32)) else none
      nbarr := ((w.member? (fld v 56 8)).map (·.nbarr)).getD [] }
  let locks := ((List.range 16).map fun k => num bs (0x2E0 + 16 * k) 16).filter (bitAt · 0)
  let privs := (lane (0x1C00 + 128 * allocOf n)).map fun p => (p.1, p.2 + 1)
  Warp.endCycle { w with
           pc := BitVec.ofNat 64 (num bs 0 8), exm := word 8, live := word 12, park := word 16, held := word 20
           age := (BitVec.ofNat 64 (num bs 24 8) - off).toNat, n, cls := fld x 22 2, kind := kindOf (fld x 20 2)
           flags := msetAll [] ((List.range 12).map fun k => (k, BitVec.ofNat 6 (num bs (0x24 + k) 1))), qsstat := word 0x30
           bregs := (List.range 8).map fun k => (w.breg k).restored (bregOf (num bs (0x40 + 8 * k) 8))
           stack := ((List.range (fld x 0 5)).map fun k => stackOf (num bs (0x80 + 16 * k) 16)).reverse
           members := slots.map member, batch := msetAll [] (lane 0x1A0)
           locks := locks.map fun v => { asid := fld v 112 16, size := fld v 110 2, page := fld v 64 39 }
           regs := msetAll [] ((List.range (allocOf n)).flatMap fun r => (lane (0x1C00 + 128 * r)).map fun p => (32 * r + p.1, p.2))
           priv := msetAll [] privs }
/-- The size of a warp block. -/
def blockBytes (n : Nat) : Nat := 0x1C00 + 128 * allocOf n + 128
/-- The 4 KiB units of a parked record's room. -/
def parkUnits (n : Nat) : Nat := cdiv (544 + blockBytes n) 4096

/-- R379: the fields of TRAPCAUSE. -/
def causeOf (asid : Nat) (f : LaneFault) : Nat :=
  asid * 2 ^ 16 + (if f.write then 2 ^ 9 else 0) + (if f.ft then 2 ^ 8 else 0) + f.code

/-- R17, R389: the warp that a parked record holds: its lanes' registers, targets, stack and counters, at the resume address. DESIGN CHOICE
(log 50): a write of EXM that has not landed at the ejection is dropped; the record's EXM is its lane mask. -/
def Parked.warp (r : Parked) : Warp :=
  let w := r.before
  let all := r.lanes ||| r.held
  let key (k : Nat) : Bool := all.getLsbD (k % 32)
  { w with pc := r.pc, exm := r.lanes, live := r.lanes, park := 0, held := r.held, flags := [], pflags := [], members := [], locks := []
           lockOpen := false, region := none, reopen := r.reopen, pend := [], last := none, atc := none, qsstat := 0
           stack := w.stack.map fun e => { e with saved := e.saved &&& all, pend := e.pend &&& all }
           regs := mdrop w.regs (!key ·), batch := mdrop w.batch (!key ·), priv := mdrop w.priv (!key ·)
           heldBy := none, rooms := [], ended := false }
/-- R389: the bytes of a parked record. -/
def State.parkBytes (s : State) (r : Parked) : List (BitVec 8) :=
  let w := r.before
  let lid := (s.lidOf w).toNat
  let head := r.pc.toNat * 2 ^ 192 + r.lanes.toNat * 2 ^ 160 + r.held.toNat * 2 ^ 128 + lid * 2 ^ 96 + r.asid * 2 ^ 80 +
    w.yard.getD 255 * 2 ^ 72 + 1
  leBytes head 32 ++
  lanes32.flatMap (fun i => match r.faults.find? (·.lane == i) with
    | some f => leBytes (causeOf r.asid f) 8 ++ leBytes f.va.toNat 8
    | none => List.replicate 16 0) ++
  r.warp.block [] ((s.pdk r.pdk).reg 0x0A0)

/-- Whether every access that a record's lanes issued before its instruction has completed and landed (R107). -/
def State.parkReady (s : State) (r : Parked) : Bool :=
  let m := r.lanes ||| r.held
  s.ops.all fun x => x.wid != r.wid || decide (r.upto ≤ x.id) ||
    x.accs.all fun a => !m.getLsbD a.lane || a.over

/-- `PARKED_RECORD_WRITE` (R389, R395): the oldest record that is ready is written, and its room becomes KIND 3. -/
def execParkedRecordWrite (s : State) : Out :=
  .next (match s.parked.find? s.parkReady with
    | none => s
    | some r =>
      let s := { s with parked := s.parked.filter (·.id != r.id) }
      match r.room with
      | none => s
      | some idx =>
        let s := s.updRoom r.pdk idx fun x => { x with kind := 3, asid := r.asid, park := some r, lid := r.before.lid, yard := r.before.yard }
        -- the room stays with the record when its warp leaves
        let s := s.updWarp r.wid fun w => { w with rooms := w.rooms.filter (·.2 != idx) }
        s.writeRoom r.pdk idx (s.parkBytes r))

end Sys2Proof.Machine
end

