-- ==== Sys2Proof/Machine/Select.lean ====
section
/-! DEFINITION. The selection unit (R286 to R306). -/
namespace Sys2Proof.Machine
open Sys2Proof

/-! ## The column -/

/-- R288: the image width. -/
def SelUnit.h (u : SelUnit) : Nat := elemBits u.ty
/-- R302: c, the cycles of one plane. -/
def SelUnit.c (u : SelUnit) : Nat := cdiv (u.n * (if u.weighted then 2 else 1)) 32
/-- The 4-byte words that the values take. -/
def SelUnit.valWords (u : SelUnit) : Nat := cdiv (u.n * u.h) 32
/-- R138: the image of element `j`, of the words read. -/
def SelUnit.imageAt (u : SelUnit) (j : Nat) : Nat :=
  if u.h = 32 then imageOf u.ty (mget u.seen j).toNat else imageOf u.ty (fld (mget u.seen (j / 2)).toNat (16 * (j % 2)) 16)
/-- R288: the weight of element `j`. -/
def SelUnit.weightAt (u : SelUnit) (j : Nat) : Nat := if u.weighted then (mget u.seen (u.valWords + j)).toNat else 1
/-- The total weight of candidates. -/
def SelUnit.sum (u : SelUnit) (js : List Nat) : Nat := (js.map u.weightAt).foldl (· + ·) 0
/-- The candidates, the lowest first. -/
def SelUnit.list (u : SelUnit) : List Nat := u.cand.map (·.1)

/-- R289: the walk over the next plane. -/
def SelUnit.walkPlane (u : SelUnit) : SelUnit :=
  let b := u.h - 1 - u.planes
  let zero := u.list.filter fun j => !bitAt (u.imageAt j) b
  let w0 := u.sum zero
  let planes := u.planes + 1
  let state := if planes = u.h then 4 else 3
  if u.rank.toNat ≤ w0 then { u with cand := zero.map fun j => (j, 1), planes, state }
  else { u with rank := u.rank - BitVec.ofNat 64 w0, planes, state, prefixBits := u.prefixBits ||| BitVec.ofNat 32 (2 ^ b)
                cand := (u.list.filter fun j => bitAt (u.imageAt j) b).map fun j => (j, 1) }

/-- R287: QSSTAT of the holder. -/
def SelUnit.stat (u : SelUnit) : Word :=
  let p := if u.h = 32 then u.prefixBits.toNat / 2 ^ 16 else u.prefixBits.toNat
  BitVec.ofNat 32 ((if u.released then 0 else 2 ^ 31) + u.state * 2 ^ 28 + u.err * 2 ^ 24 + u.planes * 2 ^ 18 + p % 2 ^ 16)

/-- The unit of a core changes; its holder's QSSTAT follows. -/
def State.updSel (s : State) (c : Nat) (f : SelUnit → SelUnit) : State :=
  let u := f (s.core c).sel
  let s := s.updCore c fun k => { k with sel := u }
  match u.holder with
  | some wid => s.updWarp wid fun w => { w with qsstat := u.stat }
  | none => s

/-- R286: the holder lets the unit go; another may take it from the next cycle on. -/
def State.freeSel (s : State) (c : Nat) : State :=
  match (s.core c).sel.holder with
  | none => s
  | some wid =>
    (s.updCore c fun k => { k with sel := {}, selFreed := s.wall + 1 }).updWarp wid fun w => { w with qsstat := w.qsstat &&& 0x7FFFFFFF }

/-! ## Reads (R291, R303) -/

/-- The words that the weights take. -/
def SelUnit.wtWords (u : SelUnit) : Nat := if u.weighted then u.n else 0
/-- R303: the rows of a plane: those of the values and those of the weights. -/
def SelUnit.planeRows (u : SelUnit) : Nat := cdiv u.valWords 32 + cdiv u.wtWords 32
/-- The reads of the running command's present plane or sum. DESIGN CHOICE (log 59): where the rows of a plane are more than its cycles, the
words are read 32 at a time across the end of the values. -/
def SelUnit.rows (u : SelUnit) : Nat :=
  if u.left ≠ 0 then Nat.min u.planeRows u.c
  else match u.queue with
  | (.rank .., _) :: _ => if !u.released && u.weighted && (u.state == 1 || u.state == 2) then cdiv u.n 32 else 0
  | _ => 0
/-- R303: the places of the words of a read: a row of the values, then of the weights; a rank reads the weights alone. -/
def SelUnit.span (u : SelUnit) : List Nat :=
  let all := u.valWords + u.wtWords
  let cut (from_ end_ : Nat) : List Nat := ((List.range 32).map (from_ + ·)).filter (· < end_)
  let v := cdiv u.valWords 32
  if u.left = 0 then cut (u.valWords + 32 * u.row) all
  else if u.c < u.planeRows then cut (32 * u.row) all
  else if u.row < v then cut (32 * u.row) u.valWords
  else cut (u.valWords + 32 * (u.row - v)) all
/-- Where a word of the column stands: a window byte or a virtual address. -/
def SelUnit.place (u : SelUnit) (k : Nat) : Nat := if k < u.valWords then u.values + 4 * k else u.weights + 4 * (k - u.valWords)
/-- Whether a unit reads a row in an unfrozen cycle. -/
def SelUnit.readDue (u : SelUnit) (now : Nat) : Bool := u.running && decide (u.row < u.rows) && decide (u.plane + u.row ≤ now)
/-- R303: the scratchpad words that the unit reads in its cycle. -/
def SelUnit.bankWords (u : SelUnit) (now : Nat) : List Nat :=
  if u.readDue now && !u.streamed then u.span.map fun k => u.place k / 4 else []

/-- One word as the unit reads it. What a word that fails to read gives is not stated: a free value (log 18). -/
def State.selWord (s : State) (p c : Nat) (u : SelUnit) (k : Nat) : Word × State :=
  let a := u.place k
  let open_ (s : State) : Word × State := let (v, s) := s.freeVal; (v.truncate 32, s)
  if u.streamed then
    let (pa, spec) := pageAddr u.pages a
    match s.ecc (some c) p pa 4 spec with
    | (true, s) => (BitVec.ofNat 32 (ofLe (s.peek pa 4)), s)
    | (false, s) => if spec then (0xFFFFFFFF, s) else open_ s
  else if (s.core c).padBad a 4 then open_ s
  else (BitVec.ofNat 32 (ofLe (getBytes (s.core c).pad a 4)), s)

/-- R289, R303: the unit makes its read of this cycle; the last read of a plane decides it. -/
def State.selRead (s : State) (c : Nat) : State :=
  let u := (s.core c).sel
  let p := match u.holder with | some wid => (s.warp wid).pdk | none => 0
  let (seen, s) := u.span.foldl (fun (r : SMap 32 × State) k =>
    let (v, t) := r.2.selWord p c u k
    (mset r.1 k v, t)) (u.seen, s)
  s.updSel c fun u =>
    let u := { u with seen, row := u.row + 1 }
    if u.left ≠ 0 && u.row == (s.core c).sel.rows then { u.walkPlane with left := u.left - 1, plane := u.plane + u.c, row := 0, seen := [] } else u

/-! ## Commands (R294 to R299, R302) -/

/-- R302: the cycles of a command as it starts, and the planes it walks. -/
def SelUnit.cost (u : SelUnit) (k : SelCmd) : Nat × Nat :=
  let live := !u.released
  let walks (p : Nat) : Nat × Nat := if live && (u.state == 2 || u.state == 3) then (p * u.c + cdiv p 8, p) else (0, 0)
  match k with
  | .bind _ _ _ n _ _ _ bad => (if bad then 1 else 15 + cdiv n 1024, 0)
  | .mask .. => (if live && (u.state == 1 || u.state == 2) then 8 else 1, 0)
  | .rank .. => (if live then 5 + u.c else 1, 0)
  | .step p => let (t, q) := walks (Nat.min p (u.h - u.planes)); (Nat.max t 1, q)
  | .res => let (t, q) := walks (u.h - u.planes); (t + 4, q)

/-- R295: the candidates after QSMASK. -/
def SelUnit.masked (u : SelUnit) (set : Bool) (mask base : Word) : SMap 1 :=
  (lanesOf mask).foldl (fun m j => if base.toNat + j < u.n then mset m (base.toNat + j) (if set then 1 else 0) else m) u.cand

/-- R299: a command outside the states in which it acts: STATE 5 keeps what the holder's QSSTAT says of it, but not that of a warp which no
longer holds the unit. -/
def SelUnit.disorder (u : SelUnit) : SelUnit := if u.state = 5 && !u.released then u else { u with state := 5, err := 3 }

/-- R296: QSRANK, after the reads of its weights. -/
def SelUnit.setRank (u : SelUnit) (fraction : Bool) (x : DWord) : SelUnit :=
  let w := u.sum u.list
  let r := if fraction then Nat.max 1 (cdiv (x.toNat * w) (2 ^ 32)) else x.toNat
  let u := { u with total := BitVec.ofNat 64 w, seen := [] }
  if w = 0 || decide (w < r) || r = 0 then { u with state := 5, err := 2 } else { u with rank := BitVec.ofNat 64 r, state := 2 }

/-- R298: the image and the lowest index, or all ones. -/
def SelUnit.answer (u : SelUnit) : Nat × Nat :=
  if !u.released && u.state == 4 then (u.prefixBits.toNat, (u.list.head?).getD 0xFFFFFFFF) else (0xFFFFFFFF, 0xFFFFFFFF)

/-- R294: the binding of a column that passed its checks. -/
def SelUnit.bound (u : SelUnit) (ty : Ty) (weighted streamed : Bool) (n values weights asid : Nat)
    (pages : List (Nat × Nat × Bool)) : SelUnit :=
  { u with ty, weighted, streamed, n, values, weights, asid, pages, cand := (List.range n).map fun j => (j, 1), total := 0, rank := 0
           prefixBits := 0, planes := 0, state := 1, err := 0, released := false }

/-- R286: the unit is released; commands queued behind the release still run in order. -/
def SelUnit.release (u : SelUnit) : SelUnit := { u with released := true }

/-- What a command does to the unit as it finishes. -/
def SelUnit.effect (u : SelUnit) (k : SelCmd) (pages : List (Nat × Nat × Bool)) : SelUnit :=
  let live := !u.released
  match k with
  | .bind ty wt st n v w asid bad =>
    if bad || (st && pages.any fun p => !inSramTier p.2.1) then { u with state := 5, err := 1 }.release
    else u.bound ty wt st n v w asid pages
  | .mask set mask base =>
    if live && (u.state == 1 || u.state == 2) then { u with cand := u.masked set mask base, state := 1 } else u.disorder
  | .rank fr x => if live && (u.state == 1 || u.state == 2) then u.setRank fr x else u.disorder
  | .step _ => if live && (u.state == 3 || u.state == 4) then u else u.disorder
  | .res => u.release

/-- The translations that a streamed bind's lanes found. -/
def Op.foundPages (x : Op) : List (Nat × Nat × Bool) := ((x.accs.find? (·.stage == .ready)).map (·.spages)).getD []

/-- R304: the value and weight lines of a streamed bind, as reads. -/
def State.streamKeys (s : State) (x : Op) : List (Nat × DetKind) :=
  match x.accs.find? (·.stage == .ready) with
  | none => []
  | some a =>
    let lines (va n : Nat) : List Nat :=
      (List.range (cdiv (va % 64 + n) 64)).map fun k => s.lineKey (pageAddr a.spages (va / 64 * 64 + 64 * k)).1
    (lines a.va a.len ++ lines a.addr2 a.data.toNat).map fun l => (l, .read)

/-- R305: a restored binding takes the free unit of its core, and its walk goes on at the next plane. -/
def State.selReturn (s : State) (c : Nat) : State :=
  match (s.core c).selWait with
  | [] => s
  | u :: rest =>
    let now := s.ucyc c
    (s.updCore c fun k => { k with selWait := rest }).updSel c fun _ => { u with plane := now, ends := now + u.ends }
/-- A core whose free unit a restored binding waits for. -/
def State.selReturnDue (s : State) (k : Core) : Bool :=
  !s.frozen k.id && k.sel.holder.isNone && decide (k.selFreed ≤ s.wall) && !k.selWait.isEmpty

/-- R304: the check of a streamed bind in deterministic mode, once its pages are found and before the unit starts it. -/
def State.selGate (s : State) (o : Nat) : State :=
  match s.op? o with
  | none => s
  | some x =>
    if !x.before.det || x.checked || x.accs.isEmpty || x.accs.any (fun a => a.stage == .walk || a.stage == .touch) then s
    else match s.detCheck (s.warp x.wid) (s.streamKeys x) with
      | some s => s.updOp o fun x => { x with checked := true }
      | none => s.warpTrap x.wid 0x18 x.pc x.before o
/-- R299: QSSTAT of a warp that does not hold the unit, after a command other than QSRES. -/
def Warp.selOrder (w : Warp) : Warp := { w with qsstat := BitVec.ofNat 32 (setFld (setFld w.qsstat.toNat 28 3 5) 24 4 3) }
/-- R286, R298, R299: commands still queued as the unit is released are those of a warp that does not hold it: each counts its flag down in the
next cycle, a QSRES with all ones. -/
def State.selOrphans (s : State) (wid : Nat) (q : List (SelCmd × Nat)) : State :=
  q.foldl (fun t x =>
    let due := (t.op? x.2).map fun y => t.ucyc y.before.core + 1
    match x.1 with
    | .res => t.updOp x.2 fun y => { y with kind := .simple, nregs := 2, bytes := 2 ^ 64 - 1, due }
    | _ => (t.updWarp wid Warp.selOrder).updOp x.2 fun y => { y with kind := .simple, due }) s

/-- R302: the unit starts its first command, once a streamed bind's pages are found; a command whose instruction was ejected or
trapped has left. -/
def State.selStart (s : State) (c : Nat) : State :=
  let u := (s.core c).sel
  match u.queue with
  | [] => s
  | (k, o) :: rest =>
    match s.op? o with
    | none =>
      let s := s.updSel c fun u => { u with queue := rest }
      if rest.isEmpty && (u.released || u.n == 0) then s.freeSel c else s
    | some x =>
      if x.accs.any fun a => a.stage == .walk || a.stage == .touch then s
      else
        let (cost, left) := u.cost k
        let now := s.ucyc c
        s.updSel c fun u => { u with running := true, ends := now + cost, left, plane := now, row := 0, seen := [] }

/-- R298, R302: the running command finishes: its effect, the registers of a QSRES, its flag; a release frees the unit (R286), unless the warp
has issued a QSBIND since, by which it holds the unit again (log 59). -/
def State.selFinish (s : State) (c : Nat) : State :=
  let u := (s.core c).sel
  match u.queue with
  | [] => s
  | (k, o) :: rest =>
    let x := (s.op? o).getD {}
    let s := match k with
      | .res =>
        let (v, j) := u.answer
        s.landRegs x.wid o ((lanesOf x.mask).flatMap fun i => [(32 * x.dst + i, BitVec.ofNat 32 v), (32 * (x.dst + 1) + i, BitVec.ofNat 32 j)])
      | _ => s
    let s := (s.updSel c fun u => { u.effect k x.foundPages with queue := rest, running := false, seen := [] }).endOp o
    let binds (y : SelCmd × Nat) : Bool := match y.1 with | .bind .. => true | _ => false
    if (s.core c).sel.released && !rest.any binds then (s.freeSel c).selOrphans x.wid rest else s

/-- A core whose unit has a command that may start. -/
def State.selStartDue (s : State) (k : Core) : Bool :=
  !s.frozen k.id && !k.sel.running &&
    (match k.sel.queue with
     | [] => false
     | (_, o) :: _ => match s.op? o with
       | none => true
       | some x => x.accs.all fun a => a.stage != .walk && a.stage != .touch)
/-- A core whose unit has finished its command. -/
def State.selEndDue (s : State) (k : Core) : Bool :=
  let now := s.ucyc k.id
  !s.frozen k.id && k.sel.running && k.sel.left == 0 && decide (k.sel.rows ≤ k.sel.row) && decide (k.sel.ends ≤ now)
/-- A core whose unit reads a row of a streamed column now. -/
def State.streamDue (s : State) (k : Core) : Bool := !s.frozen k.id && k.sel.streamed && k.sel.readDue (s.ucyc k.id)

/-- `SELECT_COMMAND_START` (R302, R305): restored bindings take units that are free, and units start their next command. -/
def execSelectCommandStart (s : State) : Out :=
  let s := ((s.cores.filter s.selReturnDue).map (·.id)).foldl State.selReturn s
  .next (((s.cores.filter s.selStartDue).map (·.id)).foldl State.selStart s)
/-- `SELECT_COMMAND_COMPLETE` (R302): reads of streamed columns that are due, then commands that have run their cycles. -/
def execSelectCommandComplete (s : State) : Out :=
  let s := ((s.cores.filter s.streamDue).map (·.id)).foldl State.selRead s
  .next (((s.cores.filter s.selEndDue).map (·.id)).foldl State.selFinish s)

/-! ## The instructions -/

/-- R286, R293, R304: what every instruction of the unit checks before it acts. `g` gives a lane's operands; `stream` marks a streamed
bind. In timed mode a bind in the cycle of a release finds the unit still held. -/
def State.selWhole (s : State) (wid : Nat) (w : Warp) (f : Fields) (g : Nat → Nat × Nat × Nat) (bind stream : Bool)
    (k : Nat × Nat × Nat → Nat → State → State) : State :=
  let m := w.exec f
  let u := (s.core w.core).sel
  let other := u.holder.isSome && u.holder != some wid
  let stream := stream || (bind && u.holder.isNone && decide (s.wall < (s.core w.core).selFreed))
  if m == 0 then s.simpleOp wid w f 1
  else if w.timed && (stream || other || !u.queue.isEmpty) then s.trapAt wid w 0x19
  else match uniform m g, uniform m w.asidOf with
    | none, _ => s.trapAt wid w 0x15
    | _, none => s.trapAt wid w 0x14
    | some v, some a => k v a s

/-- A command enters the queue of its core's unit. -/
def State.selQueue (s : State) (c o : Nat) (k : SelCmd) : State := s.updSel c fun u => { u with queue := u.queue ++ [(k, o)] }

/-- QSMASK to QSRES: a holder's command is queued; another warp's acts on its own QSSTAT alone (R298, R299). -/
def selCommand (f : Fields) (s : State) (g : Warp → Nat → Nat × Nat × Nat) (cmd : Nat × Nat × Nat → SelCmd) : Out :=
  s.issue f fun wid w s => s.selWhole wid w f (g w) false false fun v _ s =>
    if (s.core w.core).sel.holder == some wid then
      let (o, s) := s.addOp (opOf wid w f .select)
      s.selQueue w.core o (cmd v)
    else match cmd v with
      | .res => s.landIn wid 1 { late := true, writes := (lanesOf (w.exec f)).flatMap fun i => regWrites f.dst.toNat i 2 (2 ^ 64 - 1), flag := f.flag }
      | _ => (s.updWarp wid Warp.selOrder).simpleOp wid w f 1

/-- R294, R105: the pages of a streamed bind for one lane, walking where `walks`. -/
def State.selPages (s : State) (w : Warp) (a : Acc) (walks : Bool) : (Acc × Option LaneFault × Bool) × State :=
  match s.findPages w a.asid true false walks (pagesOf a.va a.len ++ pagesOf a.addr2 a.data.toNat) with
  | (.fault code va ft, s) => ((a, some { lane := a.lane, code, va := BitVec.ofNat 64 va, ft }, false), s)
  | (.miss, s) => ((a, none, true), s)
  | (.ok l, s) => (({ a with stage := .ready, spages := l }, none, false), s)

/-- The walks of some lanes of a streamed bind end. -/
def State.selWalk (s : State) (o : Nat) (m : Lanes) : State :=
  match s.op? o with
  | none => s
  | some x =>
    if s.frozen x.before.core then s else
    let (fs, s) := (x.accs.filter fun a => a.stage == .walk && m.getLsbD a.lane).foldl (fun (r : List LaneFault × State) a =>
      let ((a', fault, _), t) := r.2.selPages x.before a true
      (r.1 ++ fault.toList, t.updAcc o a.lane fun _ => a')) ([], s)
    (if fs.isEmpty then s else s.laneFaults x.wid o x.pc x.before fs).selGate o

/-- R294: QSBIND. -/
def execQsbind (f : Fields) (s : State) : Out :=
  let wid? := s.issuing
  let taken := match wid? with
    | some wid => let u := (s.core (s.warp wid).core).sel; u.holder.isSome && u.holder != some wid && !(s.warp wid).timed
    | none => false
  if taken then .next { s with issuing := none }
  else s.issue f fun wid w s =>
    let stream := decide (2 ≤ f.var.toNat)
    let weighted := f.var.toNat % 2 == 1
    let ptr (x : Src) (i : Nat) : Nat := if stream then (w.src64 x i).toNat else (w.src x i).toNat
    let g (i : Nat) : Nat × Nat × Nat := (ptr f.a i, (w.wordB f i).toNat, if weighted then ptr f.c i else 0)
    s.selWhole wid w f g true stream fun v asid s =>
      let (vals, n, wts) := v
      let m := w.exec f
      let lane := ((lanesOf m).head?).getD 0
      let vlen := n * elemBits f.ty / 8
      let wlen := if weighted then 4 * n else 0
      let inWin (off len : Nat) : Bool := match s.rangeAt w lane len off with | .pad .. => true | _ => false
      let inGlob (va len : Nat) : Bool := match s.rangeOf w lane len false (BitVec.ofNat 64 va) with | .glob _ => true | _ => false
      let ok := decide (1 ≤ n) && decide (n ≤ 2 ^ 20) && vals % 4 == 0 && wts % 4 == 0 &&
        (if stream then inGlob vals vlen && (!weighted || inGlob wts wlen) else inWin vals vlen && (!weighted || inWin wts wlen))
      let base := ((s.window? w.core w asid).map fun x => 2048 * x.base).getD 0
      let (va, wa) := if stream then (vals, wts) else (base + vals, base + wts)
      let cmd : SelCmd := .bind f.ty weighted stream n va wa asid !ok
      let take (s : State) : State :=
        if (s.core w.core).sel.holder == some wid then s
        else s.updSel w.core fun _ =>
          let q := w.qsstat.toNat
          { holder := some wid, state := fld q 28 3, err := fld q 24 4, planes := fld q 18 6, prefixBits := BitVec.ofNat 32 (fld q 0 16 * 2 ^ 16) }
      let enter (s : State) : State :=
        let (o, s) := (take s).addOp (opOf wid w f .select)
        s.selQueue w.core o cmd
      if !ok then enter s
      else if stream then
        let qs := (lanesOf m).map fun i =>
          (s.selPages w { lane := i, asid, va := vals, len := vlen, addr2 := wts, data := BitVec.ofNat 128 wlen } false).1
        if w.lockOpen && qs.any (·.2.2) then s.trapAt wid w 0x1A
        else
          let x := { opOf wid w f .select with accs := qs.map (·.1) }
          -- R304: the check stands before the unit changes where every page is found at issue
          let found := w.det && x.accs.all (·.stage == .ready)
          match if found then s.detCheck w (s.streamKeys x) else some s with
          | none => s.trapAt wid w 0x18
          | some s =>
            let (o, s) := (take s).addOp { x with checked := found }
            let s := s.selQueue w.core o cmd
            let fs := qs.filterMap (·.2.1)
            if fs.isEmpty then s else (s.laneFaults wid o w.pc w fs).selGate o
      else if w.det then
        let lines (a len : Nat) : List Nat := (List.range (cdiv (a % 64 + len) 64)).map fun k => padKey w.core (a / 64 * 64 + 64 * k)
        match s.detCheck w ((lines va vlen ++ lines wa wlen).map fun l => (l, .read)) with
        | some s => enter s
        | none => s.trapAt wid w 0x18
      else enter s

/-- R295: QSMASK. -/
def execQsmask (f : Fields) (s : State) : Out :=
  selCommand f s (fun w i => ((w.src f.a i).toNat, (w.wordB f i).toNat, 0))
    fun v => .mask (f.var == 1) (BitVec.ofNat 32 v.1) (BitVec.ofNat 32 v.2.1)
/-- R296: QSRANK; the immediate stands for a. -/
def execQsrank (f : Fields) (s : State) : Out :=
  let a (w : Warp) (i : Nat) : Nat := match f.args with
    | .imm _ imm => imm.toNat
    | .regs x _ _ => if f.var == 1 then (w.src64 x i).toNat else (w.src x i).toNat
  selCommand f s (fun w i => (a w i, 0, 0)) fun v => .rank (f.var == 0) (BitVec.ofNat 64 v.1)
/-- R297: QSSTEP. -/
def execQsstep (f : Fields) (s : State) : Out :=
  let p := match f.args with | .imm _ imm => imm.toNat | .regs .. => 0
  selCommand f s (fun _ _ => (0, 0, 0)) fun _ => .step p
/-- R297: QSRUN. -/
def execQsrun (f : Fields) (s : State) : Out := selCommand f s (fun _ _ => (0, 0, 0)) fun _ => .step 32
/-- R298: QSRES. -/
def execQsres (f : Fields) (s : State) : Out := selCommand f s (fun _ _ => (0, 0, 0)) fun _ => .res

/-- R300: KEYF and KEYR: elementwise. -/
def execKeyf (f : Fields) (s : State) : Out := laneOp s f .a fun w i => mapElems f.ty (imageOf f.ty) (w.opA f.ty f i)
/-- R300: KEYR. -/
def execKeyr (f : Fields) (s : State) : Out := laneOp s f .a fun w i => mapElems f.ty (unimageOf f.ty) (w.opA f.ty f i)

end Sys2Proof.Machine
end

