-- ==== Sys2Proof/Machine/Draft.lean ====
section
/-! DEFINITION. Draft trees, random streams, speculative pages and forks (R364 to R376). -/
namespace Sys2Proof.Machine
open Sys2Proof

/-! ## TRNODE and RNG (R367 to R369) -/

/-- R364: an entry of the template table. -/
def Pdk.node (q : Pdk) (t j : Nat) : Nat := (mget q.templates (64 * t + j)).toNat

/-- R367: whether a node and all its ancestors are kept; PARENT falls towards the root, so 64 steps suffice. -/
def Pdk.nodeKept (q : Pdk) (t P : Nat) : Nat → Nat → Bool
  | 0, _ => true
  | n + 1, j => !bitAt P j && (j == 0 || q.nodeKept t P n (fld (q.node t j) 0 6))

/-- R367: TRNODE. -/
def execTrnode (f : Fields) (s : State) : Out :=
  s.issue f fun wid w s => s.fixed wid w f .m 1 fun i =>
    let q := s.pdk w.pdk
    let j := (w.src f.a i).toNat
    let t := (w.src f.b i).toNat
    if 64 ≤ j || 32 ≤ t || !bitAt (q.node t j) 15 then 0
    else
      let e := q.node t j
      (if q.nodeKept t (w.src64 f.c i).toNat 64 j then 2 ^ 31 else 0) + fld e 6 3 * 2 ^ 6 + fld e 0 6

/-- R368: one round of Philox. -/
def philoxRound (c : Nat × Nat × Nat × Nat) (k0 k1 : Nat) : Nat × Nat × Nat × Nat :=
  let (c0, c1, c2, c3) := c
  let p := 0xD2511F53 * c0
  let q := 0xCD9E8D57 * c2
  ((q / 2 ^ 32) ^^^ c1 ^^^ k0, q % 2 ^ 32, (p / 2 ^ 32) ^^^ c3 ^^^ k1, p % 2 ^ 32)
/-- R368: the rounds left, with their keys. -/
def philoxFrom : Nat → Nat × Nat × Nat × Nat → Nat → Nat → Nat × Nat × Nat × Nat
  | 0, c, _, _ => c
  | n + 1, c, k0, k1 => philoxFrom n (philoxRound c k0 k1) ((k0 + 0x9E3779B9) % 2 ^ 32) ((k1 + 0xBB67AE85) % 2 ^ 32)
/-- R368: Philox(c, k). -/
def philox (c : Nat × Nat × Nat × Nat) (k0 k1 : Nat) : List Nat :=
  let (a, b, x, y) := philoxFrom 10 c k0 k1
  [a, b, x, y]

/-- R369: a word as an f32 value: its top 24 bits times 2^-24. -/
def rngFloat (x : Nat) : Nat := (fmtOf .f32).round 0 false (x / 2 ^ 8) (-24) false

/-- R369: RNG. -/
def execRng (f : Fields) (s : State) : Out :=
  s.issue f fun wid w s => s.fixed wid w f .s 4 fun i =>
    let j := w.srcLane f.a i
    let c (k : Nat) : Nat := (w.reg (f.a.reg.toNat + k) j).toNat
    let key := (w.src64 f.b i).toNat
    let r := philox (c 0, c 1, c 2, c 3) (fld key 0 32) (fld key 32 32)
    unelems 32 (if f.var == 1 then r.map rngFloat else r)

/-! ## Speculative pages (R371 to R374) -/

/-- R371: the committed frame of a speculative frame. -/
def Pdk.committed (q : Pdk) (frame : Nat) : Option Nat := alist q.spec frame

/-- The lines, by their place in a frame, that a paddock cannot read. -/
def State.badLines (s : State) (p dev : Nat) : List Nat :=
  (((s.marks.filter fun k => k.1 / 4096 == dev && k.2 != .transient).map (·.1)) ++
    ((s.poison.map (· / 16)).filter (· / 4096 == dev)) ++
    ((s.worlds.filter fun k => k.1 / 4096 == dev && s.foreign p (64 * k.1)).map (·.1))).eraseDups.map (· % 4096)

/-- The lines of one frame, but for those left out, become those of another, under the keys of a paddock; waits on the frame are evaluated, and
the bytes that change carry the stamp (R252, R279, R429). -/
def State.copyLines (s : State) (p src dst : Nat) (leave : List Nat) (stamp : SMap 48) : State :=
  let keep (c : Host.Cell) : Bool := c.1 / 2 ^ 18 != dst || leave.contains (c.1 / 64 % 4096)
  let moved := (s.mem.filter fun c => c.1 / 2 ^ 18 == src && !leave.contains (c.1 / 64 % 4096)).map fun c => (dst * 2 ^ 18 + c.1 % 2 ^ 18, c.2)
  let mem := msetAll (s.mem.filter keep) moved
  let bytes := (((s.mem.filter (!keep ·)) ++ moved).map (·.1)).eraseDups
  let worlds := (s.worlds.filter fun k => k.1 / 4096 != dst || leave.contains (k.1 % 4096)) ++
    ((s.worlds.filter fun k => k.1 / 4096 == src && !leave.contains (k.1 % 4096)).map fun k => (dst * 4096 + k.1 % 4096, s.worldOf p))
  let s := { s with mem, worlds, wstamps := if stamp.isEmpty then s.wstamps else bytes.foldl (fun m b => aput m b stamp) s.wstamps }
  let hit (a : Acc) : Bool := !a.pad && a.stage == .ready && s.home a.pa / 2 ^ 18 == dst
  ((s.ops.filter fun x => x.kind.waits && x.accs.any hit).map (·.id)).foldl State.evalWait s

/-- The poison of a frame is cleared. -/
def State.clearMarks (s : State) (dev : Nat) : State :=
  { s with marks := s.marks.filter fun k => !(k.1 / 4096 == dev && k.2 == .poison), poison := s.poison.filter (· / 65536 != dev) }

/-- R374: the frame of a lasting failure moves, whole, to a pool frame, and its home redirects. -/
def State.moveFrame (s : State) (p dev : Nat) : State :=
  if !(s.marks.any fun k => k.1 / 4096 == dev && k.2 == .lasting) then s
  else match s.spareFrame p (s.pdk p).pool with
  | none => s
  | some (_, new, r) =>
      let s := s.updPdk p fun q => { q with pool := r }
      let redirect := (dev, new) :: s.redirect.map fun x => if x.2 == dev then (x.1, new) else x
      let worlds := (s.worlds.filter fun k => k.1 / 4096 != dev && k.1 / 4096 != new) ++
        ((s.worlds.filter fun k => k.1 / 4096 == dev).map fun k => (new * 4096 + k.1 % 4096, k.2))
      ({ s with mem := copyFrame s.mem dev new, redirect, worlds, poison := s.poison.filter (· / 65536 != new)
                marks := s.marks.filter fun k => k.1 / 4096 != dev && k.1 / 4096 != new }).mgmtCount 0x01C

/-- R372, R374: PGCMT and PGDROP on one frame; none where the committed copy has failed. -/
def State.pageCommit (s : State) (p frame com : Nat) (drop : Bool) (stamp : SMap 48) : Option State :=
  match s.devFrame p frame, s.devFrame p com with
  | some d, some c =>
    let bad := s.badLines p d
    let lost := s.badLines p c
    let need := if drop then !lost.isEmpty else bad.any lost.contains
    if need then none
    else if drop then
      some (((s.copyLines p c d [] stamp).moveFrame p d).clearMarks d)
    else
      -- lines that are not poisoned are committed; the others are restored to the present copy
      let s := s.copyLines p d c bad stamp
      let s := s.copyLines p c d ((List.range 4096).filter fun l => !bad.contains l) stamp
      some ((s.moveFrame p d).clearMarks d)
  | _, _ => none

/-- R371, R372: PGSPEC on a frame with SPEC = 0: a committed frame is taken and the leaf gets SPEC. -/
def State.pageSpec (s : State) (p asid va frame : Nat) (stamp : SMap 48) : Option State :=
  match s.spareFrame p (s.pdk p).pool with
  | none => none
  | some (com, c, r) =>
    match s.devFrame p frame, s.rootTable p asid with
    | some d, some t =>
      if !(s.badLines p d).isEmpty then none
      else
        let s := s.updPdk p fun q => { q with pool := r, spec := (frame, com) :: q.spec }
        let s := (s.copyLines p d c [] stamp).clearMarks c
        some (match s.walkEnd p va t 0 5 with
          | .entry at_ 4 e => s.devWrite p at_ (leBytes (setFld e 57 1 1) 8)
          | _ => s)
    | _, _ => none

/-- R372, R105: the checks of one lane. `len` of the access keeps the paddock-physical frame. -/
def State.pageLane (s : State) (w : Warp) (op : PageOp) (a : Acc) (walks : Bool) : (Acc × Option LaneFault × Bool) × State :=
  let fault (code : Nat) (ft : Bool) : Option LaneFault := some { lane := a.lane, code, va := a.addr, write := true, ft }
  match s.spot w a.lane 1 1 false false a.addr with
  | .glob va =>
    let (x, s) : Walk × State := if walks then s.translate w.core w.pdk a.asid va
      else match s.tlbHit w.core w.pdk a.asid va with | some e => (.leaf e, s) | none => (.fault 0 false, s)
    match x with
    | .fault 0 _ => ((a, none, true), s)
    | .fault code ft => ((a, fault code ft, false), s)
    | .leaf e =>
      let frame := e.addr va / 2 ^ 18
      let spec := ((s.pdk w.pdk).committed frame).isSome
      match s.leafFound w.pdk e va true true with
      | .hit pa sp =>
        if e.size != 0 || (op != .spec && !spec) then ((a, fault 2 false, false), s)
        else (({ a with va, stage := .ready, pa, spec := sp, len := frame }, none, false), s)
      | _ => ((a, fault 2 false, false), s)
  | _ => ((a, fault 2 false, false), s)

/-- R372, R376: a page instruction. -/
def pageInstr (f : Fields) (s : State) (op : PageOp) : Out :=
  s.issue f fun wid w s =>
    if w.timed then s.trapAt wid w 0x19
    else
      let qs := (lanesOf (w.exec f)).map fun i =>
        (s.pageLane w op { lane := i, asid := w.asidOf i, addr := w.src64 f.a i } false).1
      if w.lockOpen && qs.any (·.2.2) then s.trapAt wid w 0x1A
      else (s.enterOp wid w f { opOf wid w f (.page op) with write := true } (qs.map fun q => (q.1, q.2.1))).2
/-- R372: PGSPEC. -/
def execPgspec (f : Fields) (s : State) : Out := pageInstr f s .spec
/-- R372: PGCMT. -/
def execPgcmt (f : Fields) (s : State) : Out := pageInstr f s .cmt
/-- R372: PGDROP. -/
def execPgdrop (f : Fields) (s : State) : Out := pageInstr f s .drop

/-- The walks of some lanes of a page instruction end. -/
def State.pageInstrWalk (s : State) (o : Nat) (m : Lanes) (op : PageOp) : State :=
  match s.op? o with
  | none => s
  | some x =>
    if s.frozen x.before.core then s else
    let (fs, s) := (x.accs.filter fun a => a.stage == .walk && m.getLsbD a.lane).foldl (fun (r : List LaneFault × State) a =>
      let ((a', fault, _), t) := r.2.pageLane x.before op a true
      (r.1 ++ fault.toList, t.updAcc o a.lane fun _ => a')) ([], s)
    if fs.isEmpty then s else s.laneFaults x.wid o x.pc x.before fs

/-- R376: the lines of every frame a page operation names. -/
def State.pageKeys (s : State) (x : Op) (op : PageOp) : List (Nat × DetKind) :=
  let frames := ((x.accs.filter (·.stage == .ready)).map fun a => s.lineKey (a.pa / 2 ^ 18 * 2 ^ 18)).eraseDups
  frames.flatMap fun l => (List.range 4096).map fun k => (l + k, if op == .drop then .write else .read)

/-- R376: the deterministic check of a page operation before its first frame. -/
def State.pageGate (s : State) (x : Op) (op : PageOp) (k : State → State) : State :=
  if !x.before.det || x.checked then k s
  else match s.detCheck (s.warp x.wid) (s.pageKeys x op) with
    | some s => k (s.updOp x.id fun x => { x with checked := true })
    | none => s.warpTrap x.wid 0x18 x.pc x.before x.id

/-- R62: a frame that has entered the executable-frame table. -/
def State.codeFrame (s : State) (p f : Nat) : Bool := (s.devFrame p f).any fun d => s.execDev p (d * 2 ^ 18)
/-- R62, R372: the operation on one frame: its lanes are done, or take POISON, PGFAULT for an empty pool, or PROT for a frame that no path
writes any more. -/
def State.pageFrame (s : State) (x : Op) (op : PageOp) (frame : Nat) : State :=
  let p := x.before.pdk
  let mine (a : Acc) : Bool := a.stage == .ready && a.len == frame
  match x.accs.find? mine with
  | none => s
  | some a =>
    let (st, s) := s.stampAt (dieOfCore x.before.core)
    let com := (s.pdk p).committed frame
    let code := s.codeFrame p frame || com.any (s.codeFrame p)
    let r : Option State := if code then none else match com with
      | some com => s.pageCommit p frame com (op == PageOp.drop) st
      | none => if op == PageOp.spec then s.pageSpec p a.asid a.va frame st else none
    match r with
    | some s => (s.updOp x.id fun x => x.mapAccs fun a => if mine a then { a with stage := .done } else a).settle x.id
    | none =>
      let code := if code then 2 else if com.isNone && (s.spareFrame p (s.pdk p).pool).isNone then 1 else 4
      s.laneFaults x.wid x.id x.pc x.before ((x.accs.filter mine).map fun (a : Acc) => { lane := a.lane, code, va := a.addr, write := true : LaneFault })

/-- `PAGE_OP_APPLY` (R373): a page operation is applied at a frame's home, once all that its die has stamped is applied, and every lane has
found its frame or its fault: each frame once (R372, R377). -/
def execPageOpApply (op frame : Nat) (s : State) : Out :=
  .next (match s.op? op with
    | none => s
    | some x =>
      match x.kind with
      | .page k =>
        let fenced := s.ops.any fun y => y.wid == x.wid && decide (y.id < x.id) && y.kind.fences
        let wait := x.accs.any fun a => a.stage == .walk || a.stage == .touch
        if s.frozen x.before.core || !s.quiet (dieOfCore x.before.core) || fenced || wait then s
        else s.pageGate x k fun s => s.pageFrame x k frame
      | _ => s)

/-! ## Forks (R375) -/

/-- R375: one page of a fork: the child's page at the same address holds the parent's committed contents twice (log 17). -/
def State.forkPage (s : State) (p parent child va : Nat) : Option State :=
  match s.walk p parent va, s.rootTable p child, s.spareFrame p (s.pdk p).pool with
  | .leaf e, some t, some (pres, d, rest) =>
    (match (s.pdk p).committed (e.addr va / 2 ^ 18), s.walkEnd p va t 0 5 with
     | some src, .entry at_ 4 old =>
       (match s.devFrame p src, s.spareFrame p rest with
        | some c, some (com, k, r) =>
          if !(s.badLines p c).isEmpty || fld old 62 2 == 3 then none
          else
            let s := s.updPdk p fun q => { q with pool := r, spec := (pres, com) :: q.spec }
            let s := (((s.copyLines p c d [] []).copyLines p c k [] []).clearMarks d).clearMarks k
            let leaf := 3 * 2 ^ 62 + 2 ^ 61 + (if e.rd then 2 ^ 60 else 0) + (if e.wr then 2 ^ 59 else 0) + 2 ^ 57 + pres * 2 ^ 18
            some (s.devWrite p at_ (leBytes leaf 8))
        | _, _ => none)
     | _, _ => none)
  | _, _, _ => none

/-- R374, R375: a stream record of the child, from the parent's committed one; written to both copies of the child's page. None where the
parent's page has no committed copy, its record is lost, or the child's page is not mapped. -/
def State.forkStream (s : State) (p parent child f from_ to_ : Nat) : Option State :=
  match s.walk p parent from_, s.walk p child to_ with
  | .leaf e, .leaf g =>
    (match (s.pdk p).committed (e.addr from_ / 2 ^ 18) with
     | none => none
     | some src =>
       match s.devRead p (src * 2 ^ 18 + from_ % 2 ^ 18) 32 with
       | none => none
       | some r => some <|
         let k := philox (f, 0xFFFFFFFF, 0xFFFFFFFF, 0xFFFFFFFF) (fld r 0 32) (fld r 32 32)
         let rec_ := leBytes (unelems 32 (k.take 2) + fld r 64 128 * 2 ^ 64) 32
         let s := s.devWrite p (g.addr to_) rec_
         match (s.pdk p).committed (g.addr to_ / 2 ^ 18) with
         | some com => s.devWrite p (com * 2 ^ 18 + to_ % 2 ^ 18) rec_
         | none => s)
  | _, _ => none

/-- `SEQUENCE_FORK` (R375): every page, then the stream records; where a page or a record fails, nothing, and the fork is reported failed (R374). -/
def execSequenceFork (p parent child : Nat) (f : Word) (pages : List Nat) (streams : List (Nat × Nat)) (s : State) : Out :=
  let paged := pages.foldl (fun (r : Option State) pg => r.bind fun t => t.forkPage p parent child (pg * 2 ^ 18)) (some s)
  .next (match streams.foldl (fun (r : Option State) x => r.bind fun t => t.forkStream p parent child f.toNat x.1 x.2) paged with
    | none => { s with fork := some false }
    | some s => { s with fork := some true })

end Sys2Proof.Machine
end

