-- ==== Sys2Proof/Machine/Align.lean ====
section
/-! DEFINITION. The arithmetic of the matrix unit: formats (R312), block alignment (R314 to R316), block sums (R317, R318), promotion
(R319), pruning (R344). -/
namespace Sys2Proof.Machine
open Sys2Proof

/-- R312: A aligned bits a and B digits d of a format; none for a type that is no format of the unit. -/
def matFormat (t : Ty) : Option (Nat × Nat) :=
  match t with
  | .i4x8 | .q4x8 => some (4, 1)
  | .i8x4 => some (8, 1)
  | .i16x2 | .q8ax4 | .q8bx4 | .f16x2 | .bf16x2 => some (16, 2)
  | .f32 => some (32, 4)
  | .f64 => some (56, 7)
  | _ => none

/-- R325: the fields of a format word. -/
def fmtA (f : Word) : Ty := Ty.ofCode (f.extractLsb' 4 4)
/-- R325: BTYPE. -/
def fmtB (f : Word) : Ty := Ty.ofCode (f.extractLsb' 0 4)
/-- R312: a of the A format. -/
def aBits (f : Word) : Nat := ((matFormat (fmtA f)).getD (8, 1)).1
/-- R312: d of the B format. -/
def bDigits (f : Word) : Nat := ((matFormat (fmtB f)).getD (8, 1)).2
/-- R325: the block length L. -/
def blockLen (f : Word) : Nat := 16 * 2 ^ fld f.toNat 8 2
/-- R325: A carries block scales. -/
def aScaled (f : Word) : Bool := f.getLsbD 10
/-- R325: B carries block scales. -/
def bScaled (f : Word) : Bool := f.getLsbD 11
/-- R312: the wide accumulator format. -/
def wideOf (f : Word) : Ty :=
  if !(fmtA f).isFloat then .i32 else if fmtA f == .f64 || fmtB f == .f64 then .f64 else .f32
/-- R320, R325: tiles held, and accumulator slots of one tile. -/
def fmtTiles (f : Word) : Nat := fld f.toNat 12 4 + 1
/-- R320: the slots of one tile. -/
def tileSlots (f : Word) : Nat := if wideOf f == .f64 then 2 else 1
/-- R312, R325, R340: a format word is admitted; `sc` is the variant that gives offsets. -/
def fmtOk (f : Word) (sc : Bool) (asoff bsoff : Nat) : Bool :=
  (matFormat (fmtA f)).isSome && (matFormat (fmtB f)).isSome && (fmtA f).isFloat == (fmtB f).isFloat &&
    ((fmtA f).isFloat || (!aScaled f && !bScaled f)) &&
    (if sc then asoff % 4 == 0 && bsoff % 4 == 0 else !aScaled f && !bScaled f)

/-! ## Alignment -/

/-- R316: the value of an element of a floating format; `xv` is the value of the q4 code 0b1000. -/
def matVal (t : Ty) (xv : Word) (x : Nat) : FVal :=
  if t == .q4x8 && x % 16 == 8 then (match (fmtOf .f16x2).val (fld xv.toNat 16 16) with | .inf _ => .nan | v => v)
  else (fmtOf t).val x

/-- An aligned element: its integer, its special, whether it is finite and not zero, and then its sign. -/
def packEl (q : Int) (sp : Nat) (nz neg : Bool) : BitVec 64 :=
  BitVec.ofNat 64 (tc 56 q + sp * 2 ^ 56 + (if nz then 2 ^ 58 + (if neg then 2 ^ 59 else 0) else 0))
/-- The integer of an aligned element. -/
def elQ (e : BitVec 64) : Int := sx 56 e.toNat
/-- Its special: 0 none, 1 NaN, 2 +infinity, 3 -infinity. -/
def elSp (e : BitVec 64) : Nat := fld e.toNat 56 2
/-- It is finite and not zero. -/
def elNz (e : BitVec 64) : Bool := bitAt e.toNat 58

/-- R315: a block in width w with a scale code: its elements and E. -/
def alignBlock (w c : Nat) (vs : List FVal) : List (BitVec 64) × BitVec 16 :=
  let vs := vs.map fun v => match v with
    | .fin n m e => if c = 255 then FVal.nan else .fin n m (e + (c : Int) - 127)
    | .inf n => if c = 255 then .nan else .inf n
    | .nan => .nan
  let tops := vs.filterMap fun v => match v with | .fin _ m e => if m = 0 then none else some (e + bitLen m - 1, m, e) | _ => none
  let E := match tops with
    | [] => 0
    | x :: r => r.foldl (fun E y => max E y.1) x.1
  let rint (E : Int) (m : Nat) (e : Int) : Nat := roundNat 0 false m (e - (E - (w : Int) + 2))
  let E := if tops.any fun x => rint E x.2.1 x.2.2 == 2 ^ (w - 1) then E + 1 else E
  (vs.map fun v => match v with
    | .fin n m e => packEl (signInt n (rint E m e)) 0 (m != 0) n
    | .inf n => packEl 0 (if n then 3 else 2) false false
    | .nan => packEl 0 1 false false, BitVec.ofInt 16 E)

/-- A line of 128 zero elements. -/
def zeroLine : Line := { els := List.replicate 128 0 }

/-- R314, R315: a line of 128 codes: `w` the aligned width, `L` the block length, `scale` the code of each block. -/
def alignLine (t : Ty) (xv : Word) (w L : Nat) (scale : Nat → Nat) (codes : List Nat) : Line :=
  if !t.isFloat then { els := codes.map fun x => let q := sx (elemBits t) x; packEl q 0 (q != 0) (decide (q < 0)) }
  else
    let blocks := (List.range (128 / L)).map fun i => alignBlock w (scale i) (((codes.drop (i * L)).take L).map (matVal t xv))
    { els := blocks.flatMap (·.1), exps := blocks.map (·.2) }

/-! ## Sums -/

/-- R317: the block sum of a row and a column, of a floating pair. -/
def blockSum (f : Word) (row col : Line) : FVal :=
  let pairs := row.els.zip col.els
  let neg (e : BitVec 64) : Bool := elSp e == 3 || bitAt e.toNat 59
  let infs := pairs.filter fun x => 2 ≤ elSp x.1 || 2 ≤ elSp x.2
  let zero (e : BitVec 64) : Bool := elSp e == 0 && !elNz e
  let sign (x : BitVec 64 × BitVec 64) : Bool := neg x.1 != neg x.2
  if row.els.any (elSp · == 1) || col.els.any (elSp · == 1) then .nan
  else if infs.any fun x => zero x.1 || zero x.2 then .nan
  else match infs with
  | x :: r => if r.all fun y => sign y == sign x then .inf (sign x) else .nan
  | [] =>
    let L := blockLen f
    let part (i : Nat) : Bool × Nat × Int :=
      let v := (((pairs.drop (i * L)).take L).map fun x => elQ x.1 * elQ x.2).foldl (· + ·) 0
      let e := sx 16 ((row.exps[i]?).getD 0).toNat - aBits f + 2 + (sx 16 ((col.exps[i]?).getD 0).toNat - (8 * bDigits f : Nat) + 2)
      (decide (v < 0), v.natAbs, e)
    let (v, e) := exactSum ((List.range (128 / L)).map part)
    .fin (decide (v < 0)) v.natAbs e

/-- R314, R318: the K-block sum of an integer pair, before saturation. -/
def intSum (row col : Line) : Int := ((row.els.zip col.els).map fun x => elQ x.1 * elQ x.2).foldl (· + ·) 0

/-- R133: an integer saturated to 32 bits. -/
def sat32 (x : Int) : Int := max (-(2 ^ 31 : Nat)) (min (2 ^ 31 - 1 : Nat) x)

/-- R319: an element after promotion, with the bits NARROWOVF and WIDESAT. -/
def promote (f : Word) (row col : Line) (w : Nat) : Nat × Nat :=
  if wideOf f == .i32 then
    let S := intSum row col
    let n := sat32 S
    let v := sx 32 w + n
    (tc 32 (sat32 v), (if n == S then 0 else 1) + (if sat32 v == v then 0 else 2))
  else
    let F := fmtOf (wideOf f)
    match F.val w, blockSum f row col with
    | .nan, _ | _, .nan => (F.cnan, 0)
    | x, S => (F.sum 0 [x, S], 0)

/-- R344: one group of four elements after pruning: the two highest stay. -/
def pruneFour (es : List (BitVec 64)) : List (BitVec 64) :=
  let rank (e : BitVec 64) : Nat := if elSp e = 0 then (elQ e).natAbs else 2 ^ 60
  let idx := List.range es.length
  let at_ (i : Nat) : Nat := ((es[i]?).map rank).getD 0
  let above (i : Nat) : Nat := (idx.filter fun j => decide (at_ i < at_ j) || (at_ i == at_ j && decide (j < i))).length
  idx.map fun i => if above i < 2 then (es[i]?).getD 0 else 0
/-- R344: a column after pruning. -/
def Line.prune (l : Line) : Line := { l with els := (List.range 32).flatMap fun j => pruneFour ((l.els.drop (4 * j)).take 4) }

end Sys2Proof.Machine
end

