-- ==== Sys2Proof/Machine/Matrix.lean ====
section
/-! DEFINITION. The matrix unit (R310 to R348), and the access cycle of a core with the reads of its units (R229, R303). -/
namespace Sys2Proof.Machine
open Sys2Proof

/-! ## Reservations (R323 to R326) -/

/-- The reservation of a group on a core. -/
def State.reserv (s : State) (c p launch g : Nat) : Option Reservation :=
  (s.core c).res.find? fun r => r.pdk == p && r.launch == launch && r.group == g
/-- The reservation a command acts on. -/
def State.jobRes (s : State) (j : MatJob) : Option Reservation := s.reserv j.core j.pdk j.launch j.group
/-- The reservation that a started command acts on, while it stands. -/
def State.heldRes (s : State) (j : MatJob) : Option Reservation := (s.core j.core).res.find? (·.id == j.res)
/-- The state with a reservation of a core changed. -/
def State.updRes (s : State) (c id : Nat) (f : Reservation → Reservation) : State :=
  s.updCore c fun k => { k with res := k.res.map fun r => if r.id == id then f r else r }
/-- The state with one command of the unit changed. -/
def State.updJob (s : State) (o : Nat) (f : MatJob → MatJob) : State :=
  { s with jobs := s.jobs.map fun j => if j.id == o then f j else j }

/-- The lowest place of `n` free consecutive units of `total`. -/
def place (total n : Nat) (used : List Nat) : Option Nat :=
  (List.range (total + 1 - n)).find? fun b => (List.range n).all fun i => !used.contains (b + i)
/-- A range of units. -/
def unitRange (b n : Nat) : List Nat := (List.range n).map (b + ·)

/-- The first word of a tile in accumulator memory (R320). -/
def Reservation.tileWord (r : Reservation) (t : Nat) : Nat := 512 * (r.tbase + tileSlots r.fmt * t)
/-- The slots of a tile. -/
def Reservation.slotsOf (r : Reservation) (t : Nat) : List Nat := unitRange (r.tbase + tileSlots r.fmt * t) (tileSlots r.fmt)
/-- The words of one element of the wide format. -/
def Reservation.elWords (r : Reservation) : Nat := tileSlots r.fmt
/-- An element of a tile (R320, R345). -/
def Core.tileEl (k : Core) (r : Reservation) (t e : Nat) : Nat :=
  ofLe ((List.range r.elWords).flatMap fun i => leBytes (mget k.tiles (r.tileWord t + r.elWords * e + i)).toNat 4)
/-- The writes of an element of a tile. -/
def Reservation.elWrites (r : Reservation) (t e v : Nat) : List (Nat × Word) :=
  (List.range r.elWords).map fun i => (r.tileWord t + r.elWords * e + i, BitVec.ofNat 32 (v / 2 ^ (32 * i)))

/-! ## Storage that fails (R13, R322) -/

/-- The elements of the row buffer. -/
def Reservation.rowElements (r : Reservation) : List Element := (unitRange r.gbase r.gran).map .granule
/-- The elements of a tile. -/
def Reservation.tileElements (r : Reservation) (t : Nat) : List Element := (r.slotsOf t).map .slot
/-- The elements of some planes. -/
def planeElements (m p d : Nat) : List Element := (unitRange p d).map (.plane m)
/-- One of some elements fails for good. -/
def Core.fails (k : Core) (es : List Element) : Bool := es.any fun e => k.weak.contains (e, true)
/-- R322: a plane, or a tile, whose poison bit is set, or whose storage fails. -/
def Core.planesBad (k : Core) (m p d : Nat) : Bool :=
  (unitRange p d).any (fun q => k.planePoison.contains (m, q)) || k.fails (planeElements m p d)
/-- R322: likewise for a tile. -/
def Core.tileBad (k : Core) (r : Reservation) (t : Nat) : Bool := (r.slotsOf t).any k.tilePoison.contains || k.fails (r.tileElements t)

/-! ## The window ranges of MLDA and MLDB (R325, R342) -/

/-- The data and scale ranges a load reads, as window offsets and lengths. -/
def loadRanges (fmt : Word) (asoff bsoff : Nat) (k : MatCmd) : Option ((Nat × Nat) × (Nat × Nat)) :=
  match k with
  | .mldb _ _ off =>
    some ((off, 1024 * elemBits (fmtB fmt)), (bsoff, if bScaled fmt then 64 * (128 / blockLen fmt) else 0))
  | .mlda off rows =>
    some ((off, 16 * elemBits (fmtA fmt) * rows), (asoff, if aScaled fmt then rows * (128 / blockLen fmt) else 0))
  | _ => none

/-- R342: both ranges lie in the window, at a multiple of 4. -/
def rangesOk (win : Option Window) (r : (Nat × Nat) × (Nat × Nat)) : Bool :=
  match win with
  | none => false
  | some x => r.1.1 % 4 == 0 && decide (r.1.1 + r.1.2 ≤ 2048 * x.slots) &&
      (r.2.2 == 0 || (r.2.1 % 4 == 0 && decide (r.2.1 + r.2.2 ≤ 2048 * x.slots)))

/-- The window that a command reads (R330, R342). -/
def State.jobWin (s : State) (j : MatJob) : Option Window :=
  (s.core j.core).windows.find? fun x => x.pdk == j.pdk && x.launch == j.launch && x.asid == j.asid

/-! ## Starts (R331, R332, R338) -/

/-- The planes, by macro, that a command touches. -/
def MatCmd.planes (k : MatCmd) (d : Nat) : Option (Nat × Nat × Nat) :=
  match k with
  | .mldb m p _ | .mspr m p | .mma _ m p => some (m, p, d)
  | _ => none
/-- The tile a command writes. -/
def MatCmd.writes : MatCmd → Option Nat
  | .mzero t | .mput t .. | .mma t .. => some t
  | _ => none
/-- The command is an MMA. -/
def MatCmd.isMma : MatCmd → Bool
  | .mma .. => true
  | _ => false

/-- R331: an earlier command of the reservation still keeps what `j` needs. -/
def keeps (now d : Nat) (e j : MatJob) : Bool :=
  let broadcasting := e.cmd.isMma && (e.started.isNone || decide (now < e.frees))
  let onMacro (m : Nat) : Bool := match e.cmd.planes d with | some (n, _) => n == m | none => false
  match e.cmd with
  | .mres .. | .mrel => !e.finished
  | _ =>
    e.started.isNone ||
    match j.cmd with
    | .mldb m .. | .mspr m _ => onMacro m && (if e.cmd.isMma then broadcasting else !e.finished)
    | .mlda .. => broadcasting || (match e.cmd with | .mlda .. => !e.finished | _ => false)
    | .mma _ m p =>
      (match e.cmd with
       | .mlda .. => !e.finished
       | .mma _ n _ => n == m && broadcasting
       | .mldb n q _ | .mspr n q => n == m && overlap q d p d && !e.finished
       | _ => false)
    | .mzero t | .mput t .. | .mmov t .. => e.cmd.writes == some t && !e.finished
    | .mrel => !e.finished
    | _ => false

/-- The commands of the same reservation accepted before one. -/
def earlierJobs (js : List MatJob) (j : MatJob) : List MatJob :=
  js.filter fun e => decide (e.id < j.id) && e.core == j.core && e.pdk == j.pdk && e.launch == j.launch && e.group == j.group
/-- MSTAT is served at the status word's home, not by the unit. -/
def MatCmd.isStat : MatCmd → Bool
  | .mstat _ => true
  | _ => false

/-- R326, R333: no MLDB of another reservation, accepted earlier, is still to claim the macro. -/
def State.claimFree (s : State) (j : MatJob) : Bool :=
  match j.cmd with
  | .mldb m .. => s.jobs.all fun e =>
      !(decide (e.id < j.id) && e.core == j.core && !(earlierJobs [e] j).contains e && e.started.isNone &&
        (match e.cmd with | .mldb n .. => n == m | _ => false))
  | _ => true
/-- R331: nothing keeps a command from starting. -/
def State.jobFree (s : State) (j : MatJob) : Bool :=
  let now := s.ucyc j.core
  match j.cmd with
  | .mres .. => true
  | _ =>
    let d := ((s.jobRes j).map fun r => bDigits r.fmt).getD 1
    s.claimFree j && (earlierJobs s.jobs j).all fun e => e.cmd.isStat || !keeps now d e j
/-- R338: no command accepted earlier on the core still waits for its .at start. -/
def State.atClear (s : State) (j : MatJob) : Bool :=
  s.jobs.all fun e => !(decide (e.id < j.id) && e.core == j.core && e.at?.isSome && e.started.isNone)

/-- The cycles of a command that runs (R332), and how long it broadcasts. -/
def jobCost (fmt : Word) (k : MatCmd) : Nat × Nat :=
  let d := bDigits fmt
  match k with
  | .mldb .. => ((if fmtB fmt == .f64 then 16 + 512 else 16 + 64 * d) + (if bScaled fmt then 4 else 0), 0)
  | .mlda _ rows => (12 + cdiv (rows * elemBits (fmtA fmt)) 8 + (if aScaled fmt then 1 else 0), 0)
  | .mma .. => (20 + aBits fmt * d, aBits fmt * d)
  | .mspr .. => (8 + 16 * d, 0)
  | .mzero _ | .mrel => (4, 0)
  | .mstat _ => (0, 0)
  | .mres .. | .mmov .. | .mput .. => (8, 0)

/-- R326, R342 to R345: what keeps a command of a reservation from running, as bits of the status word. -/
def State.jobReport (s : State) (j : MatJob) (r : Reservation) : Nat :=
  let tile (t : Nat) : Nat := if t < fmtTiles r.fmt then 0 else 0x30
  let loaded (m p : Nat) : Bool := r.btiles.any fun b => b.m == m && b.p == p
  match j.cmd with
  | .mldb m p _ =>
    let taken := (s.core j.core).res.any fun x => x.macros.contains m && x.id != r.id
    (if 8 < p + bDigits r.fmt then 0x10 else 0) + (if taken then 0x20 else 0) +
      (if (loadRanges r.fmt r.asoff r.bsoff j.cmd).any (rangesOk (s.jobWin j)) then 0 else 0x80)
  | .mlda .. => if (loadRanges r.fmt r.asoff r.bsoff j.cmd).any (rangesOk (s.jobWin j)) then 0 else 0x80
  | .mma t m p => tile t ||| (if loaded m p then 0 else 0x20)
  | .mspr m p => if loaded m p then 0 else 0x20
  | .mzero t => tile t
  | .mmov t _ ty | .mput t _ ty => tile t ||| (if ty == wideOf r.fmt then 0 else 0x08)
  | _ => 0

/-- R323, R340: MRES: the reservation where it can be placed, or its report. -/
def State.jobMres (s : State) (j : MatJob) (fmt : Word) (sc : Bool) (asoff bsoff : Nat) : Except Nat Reservation :=
  if !fmtOk fmt sc asoff bsoff then .error 0x0C
  else
    let k := s.core j.core
    let gran := 1 + cdiv (aBits fmt) 8
    let slots := fmtTiles fmt * tileSlots fmt
    match place 64 gran (k.res.flatMap fun r => unitRange r.gbase r.gran), place 128 slots (k.res.flatMap fun r => unitRange r.tbase r.tslots) with
    | some g, some t =>
      if (s.jobRes j).isSome then .error 0x04
      else .ok { id := j.id, pdk := j.pdk, launch := j.launch, group := j.group, fmt, asoff, bsoff, asid := j.asid, owner := j.wid,
                 clno := (s.warp j.wid).clno, tbase := t, tslots := slots, gbase := g, gran, rows := List.replicate 8 zeroLine }
    | _, _ => .error 0x04

/-- A lane's element index and data. -/
def MatJob.elem (j : MatJob) (i : Nat) : Nat := (mget j.data (64 + i)).toNat % 512

/-- R331: the placement of an MRES is decided in the cycle in which the unit accepts it. -/
def State.placeMres (s : State) (j : MatJob) : State :=
  match j.cmd with
  | .mres fmt asoff bsoff =>
    if j.placed || s.frozen j.core || decide (s.ucyc j.core < j.accepted) || (s.op? j.id).isNone then s
    else
      let sc := ((s.op? j.id).map (·.var == 1)).getD false
      match s.jobMres j fmt sc asoff.toNat bsoff.toNat with
      | .error e => s.updJob j.id fun j => { j with placed := true, report := BitVec.ofNat 8 e }
      | .ok r =>
        let mine (t : Nat) : Bool := decide (r.tbase ≤ t) && decide (t < r.tbase + r.tslots)
        let s := s.updCore j.core fun k =>
          { k with res := k.res ++ [r], tiles := mdrop k.tiles fun w => mine (w / 512), tilePoison := k.tilePoison.filter (!mine ·) }
        s.updJob j.id fun j => { j with placed := true, res := r.id }
  | _ => s

/-- R331, R332: the effects that a command has as it starts: MLDB claims the macro, MZERO and MPUT write the tile, MMOV reads it, MMA takes
what it reads, whose storage is retried where it fails (R13). -/
def State.startEffect (s : State) (j : MatJob) (r : Reservation) : State :=
  let lanes := lanesOf (((s.op? j.id).map (·.mask)).getD 0)
  match j.cmd with
  | .mldb m .. =>
    if r.macros.contains m then s
    else (s.updRes j.core r.id fun r => { r with macros := r.macros ++ [m] }).updJob j.id fun j => { j with claimed := true }
  | .mzero t => s.updCore j.core fun k =>
      { k with tiles := mdrop k.tiles fun w => (r.slotsOf t).contains (w / 512), tilePoison := k.tilePoison.filter fun p => !(r.slotsOf t).contains p }
  | .mput t .. =>
    let all := (List.range 512).all fun e => lanes.any fun i => j.elem i == e
    s.updCore j.core fun k =>
      { k with tiles := msetAll k.tiles (lanes.flatMap fun i => r.elWrites t (j.elem i) (mget j.data i).toNat)
               tilePoison := if all then k.tilePoison.filter fun p => !(r.slotsOf t).contains p else k.tilePoison }
  | .mmov t .. =>
    let s := (s.retryElements j.core (r.tileElements t)).2
    let k := s.core j.core
    s.updJob j.id fun j =>
      { j with data := msetAll j.data (lanes.map fun i => (i, BitVec.ofNat 64 (k.tileEl r t (j.elem i))))
               bad := k.tileBad r t }
  | .mspr m p =>
    let d := bDigits r.fmt
    let s := (s.retryElements j.core (planeElements m p d)).2
    s.updJob j.id fun v => { v with bad := (s.core j.core).fails (planeElements m p d) && (unitRange p d).any fun q => !(s.core j.core).planePoison.contains (m, q) }
  | .mma t m p =>
    let cols := ((r.btiles.find? fun b => b.m == m && b.p == p).map (·.lines)).getD []
    let d := bDigits r.fmt
    let s := (s.retryElements j.core (planeElements m p d ++ r.rowElements ++ r.tileElements t)).2
    let failing := (unitRange p d).filter fun q => (s.core j.core).fails [.plane m q]
    let s := s.updCore j.core fun k => { k with planePoison := (k.planePoison ++ failing.map fun q => (m, q)).eraseDups }
    let s := if (s.core j.core).fails r.rowElements then s.updRes j.core r.id fun r => { r with apoison := true } else s
    let k := s.core j.core
    let bad := r.apoison || k.fails r.rowElements || k.planesBad m p d || (k.fails (r.tileElements t) && !(r.slotsOf t).all k.tilePoison.contains)
    s.updJob j.id fun j => { j with rows := r.rows, cols, bad }
  | _ => s

/-- A command starts in a cycle: with a report that keeps it from running it takes one cycle. -/
def State.startJob (s : State) (j : MatJob) : State :=
  let now := s.ucyc j.core
  let begin_ (s : State) (cost frees report : Nat) : State :=
    s.updJob j.id fun j => { j with started := some now, ends := now + cost, frees := now + frees, report := BitVec.ofNat 8 report }
  match j.cmd with
  | .mres .. => begin_ s (if j.report = 0 then 8 else 1) 0 j.report.toNat
  | _ =>
    match s.jobRes j with
    | none => begin_ s 1 0 0x04
    | some r =>
      if r.asid != j.asid then begin_ s 1 0 0x04 else
      match s.jobReport j r with
      | 0 =>
        let (cost, frees) := jobCost r.fmt j.cmd
        let base := ((s.jobWin j).map fun x => 2048 * x.base).getD 0
        let s := match loadRanges r.fmt r.asoff r.bsoff j.cmd with
          | some (d, sc) => s.updJob j.id fun j => { j with bytes := d.2, base := base + d.1, sbytes := sc.2, sbase := base + sc.1 }
          | none => s
        (begin_ (s.startEffect j r) cost frees 0).updJob j.id fun j => { j with res := r.id }
      | e => begin_ s 1 0 e

/-- R338: the cycle of an .at start has come. -/
def State.atNow (s : State) (j : MatJob) : Bool :=
  match j.at? with | some o => decide (o.toNat ≤ (s.taskc (s.warp j.wid)).toNat) | none => true
/-- R331, R338: the unit has accepted a command, nothing that it waits for is held, no .at start stands before it, and its reservation is not
one that a sealed core keeps for its save (R391). -/
def State.jobMay (s : State) (j : MatJob) : Bool :=
  decide (j.accepted ≤ s.ucyc j.core) && s.atClear j && s.jobFree j && (s.jobRes j).all (!·.closed)
/-- A command that may start, or whose .at start has come. -/
def State.jobStartDue (s : State) (j : MatJob) : Bool :=
  !s.frozen j.core && j.started.isNone && !j.cmd.isStat && s.atNow j && (j.at?.isSome || s.jobMay j)
/-- R338: a command starts, or an .at start is a timing fault and the command leaves; so does one whose instruction was undone by a
warp trap before it. -/
def State.tryStart (s : State) (j : MatJob) : State :=
  if !s.jobStartDue j then s
  else if (s.op? j.id).isNone then { s with jobs := s.jobs.filter (·.id != j.id) }
  else
    let clash := s.jobs.any fun e => decide (e.id < j.id) && e.core == j.core && e.started == some (s.ucyc j.core)
    if j.at?.isSome && (!s.jobMay j || clash) then
      let s := { s with jobs := s.jobs.filter (·.id != j.id), agenda := .timingFault 5 (s.warp j.wid).tstart.toNat :: s.agenda }
      s.endOp j.id
    else s.startJob j

/-- A command of the unit as it stands. -/
def State.withJob (s : State) (o : Nat) (k : State → MatJob → State) : State :=
  match s.jobs.find? (·.id == o) with | some j => k s j | none => s
/-- `MATRIX_COMMAND_START` (R331): the commands that may start, in the order of acceptance. -/
def execMatrixCommandStart (s : State) : Out :=
  .next ((s.jobs.map (·.id)).foldl (fun t o => (t.withJob o State.placeMres).withJob o State.tryStart) s)

/-! ## Reads (R303, R331) -/

/-- The reads that a load makes: its data rows, then its scale codes. -/
def MatJob.rowsToRead (j : MatJob) : Nat := cdiv j.bytes 128 + cdiv j.sbytes 128
/-- The words of a load's next read: key, and scratchpad byte. -/
def MatJob.span (j : MatJob) : List (Nat × Nat) :=
  let part (key base bytes row : Nat) : List (Nat × Nat) :=
    (((List.range 32).map (32 * row + ·)).filter fun i => 4 * i < bytes).map fun i => (key + i, base + 4 * i)
  let d := cdiv j.bytes 128
  if j.row < d then part 0 j.base j.bytes j.row else part (2 ^ 20) j.sbase j.sbytes (j.row - d)
/-- A load reads a row in an unfrozen cycle. -/
def MatJob.readDue (j : MatJob) (now : Nat) : Bool :=
  !j.finished && decide (j.row < j.rowsToRead) && (match j.started with | some t => decide (t + j.row ≤ now) | none => false)
/-- A load makes its read of this cycle. -/
def State.jobRead (s : State) (j : MatJob) : State :=
  let k := s.core j.core
  let ws := j.span.map fun x => (x.1, BitVec.ofNat 32 (ofLe (getBytes k.pad x.2 4)))
  s.updJob j.id fun v =>
    { v with seen := msetAll v.seen ws, row := v.row + 1, bad := v.bad || j.span.any fun x => k.padBad x.2 4 }
/-- The words of the scratchpad that a core's units read in a cycle, one list for each read. -/
def State.unitReads (s : State) (c : Nat) : List (List Nat) :=
  let now := s.ucyc c
  (s.core c).sel.bankWords now :: (s.jobs.filter fun j => j.core == c && j.readDue now).map fun j => j.span.map fun x => x.2 / 4

/-- Whether a core has an access, a tag update or a unit's read that is due. -/
def State.padDue (s : State) (k : Core) : Bool :=
  let now := s.ucyc k.id
  !s.frozen k.id &&
    (k.padq.any (fun p => decide (p.due ≤ now)) || k.tagq.any (fun u => decide (u.due ≤ now)) ||
      (!k.sel.streamed && k.sel.readDue now) || s.jobs.any fun j => j.core == k.id && j.readDue now)
/-- The access cycle of a core: its units read, then its lanes access (R229, R230, R303). -/
def State.bankCycle (s : State) (c : Nat) : State :=
  let now := s.ucyc c
  let reads := s.unitReads c
  let s := if !(s.core c).sel.streamed && (s.core c).sel.readDue now then s.selRead c else s
  let s := (s.jobs.filter fun j => j.core == c && j.readDue now).foldl State.jobRead s
  s.accessCycle c reads
/-- `SCRATCH_ACCESS_CYCLE` (R229): the access cycles that have come. -/
def execScratchAccessCycle (s : State) : Out := .next (((s.cores.filter s.padDue).map (·.id)).foldl State.bankCycle s)

/-! ## Completions -/

/-- A byte of what a load read. -/
def MatJob.byte (j : MatJob) (key i : Nat) : Nat := fld (mget j.seen (key + i / 4)).toNat (8 * (i % 4)) 8
/-- Element `i` of a packed range of elements of a type. -/
def MatJob.code (j : MatJob) (t : Ty) (i : Nat) : Nat :=
  let b := elemBits t
  if b = 4 then fld (j.byte 0 (i / 2)) (4 * (i % 2)) 4
  else ofLe ((List.range (b / 8)).map fun n => BitVec.ofNat 8 (j.byte 0 (i * (b / 8) + n)))

/-- R325, R342: the aligned columns that an MLDB loads. -/
def MatJob.columns (j : MatJob) (f : Word) : List Line :=
  let per := 128 / blockLen f
  (List.range 64).map fun n =>
    alignLine (fmtB f) f (8 * bDigits f) (blockLen f) (fun i => if bScaled f then j.byte (2 ^ 20) (n * per + i) else 127)
      ((List.range 128).map fun k => j.code (fmtB f) (64 * k + n))
/-- R325, R342: the aligned rows that an MLDA stages; the others are zero. -/
def MatJob.stage (j : MatJob) (f : Word) (rows : Nat) : List Line :=
  let per := 128 / blockLen f
  (List.range 8).map fun r =>
    if r < rows then
      alignLine (fmtA f) f (aBits f) (blockLen f) (fun i => if aScaled f then j.byte (2 ^ 20) (r * per + i) else 127)
        ((List.range 128).map fun k => j.code (fmtA f) (128 * r + k))
    else zeroLine

/-- R343: an MMA promotes its sums into a tile. -/
def Core.multiply (k : Core) (r : Reservation) (t : Nat) (j : MatJob) : Core × Nat :=
  let els := (List.range 8).flatMap fun i => (List.range 64).map fun n => (i, n)
  let one (x : Nat × Nat) : Nat × Nat × Nat :=
    let e := 64 * x.1 + x.2
    let (v, b) := promote r.fmt ((j.rows[x.1]?).getD zeroLine) ((j.cols[x.2]?).getD zeroLine) (k.tileEl r t e)
    (e, v, b)
  let out := els.map one
  ({ k with tiles := msetAll k.tiles (out.flatMap fun x => r.elWrites t x.1 x.2.1) }, out.foldl (fun b x => b ||| x.2.2) 0)

/-- The effects that a command has as it completes, and what it reports. -/
def State.endEffect (s : State) (j : MatJob) (r : Reservation) : State × Nat :=
  let mark (b : Bool) : Nat := if b then 0x40 else 0
  match j.cmd with
  | .mrel =>
    (s.updCore j.core fun k =>
      { k with res := k.res.filter (·.id != r.id)
               planePoison := k.planePoison.filter fun x => !r.macros.contains x.1 }, 0)
  | .mldb m p _ =>
    let d := bDigits r.fmt
    let s := s.updRes j.core r.id fun r =>
      { r with btiles := (r.btiles.filter fun b => !(b.m == m && overlap b.p b.d p d)) ++ [{ m, p, d, lines := j.columns r.fmt }] }
    let planes := unitRange p d
    (s.updCore j.core fun k =>
      { k with planePoison := (k.planePoison.filter fun x => !(x.1 == m && planes.contains x.2)) ++
                 (if j.bad then planes.map fun q => (m, q) else []) }, mark j.bad)
  | .mlda _ rows => (s.updRes j.core r.id fun r => { r with rows := j.stage r.fmt rows, apoison := j.bad }, mark j.bad)
  | .mspr m p =>
    let s := s.updRes j.core r.id fun r =>
      { r with btiles := r.btiles.map fun b => if b.m == m && b.p == p then { b with lines := b.lines.map Line.prune } else b }
    (s.updCore j.core fun k =>
      { k with planePoison := if j.bad then (k.planePoison ++ (unitRange p (bDigits r.fmt)).map fun q => (m, q)).eraseDups else k.planePoison }, mark j.bad)
  | .mma t .. =>
    let (k, bits) := (s.core j.core).multiply r t j
    let k := if j.bad then { k with tilePoison := (k.tilePoison ++ r.slotsOf t).eraseDups } else k
    (s.updCore j.core fun _ => k, bits + mark j.bad)
  | .mmov t .. =>
    let x := (s.op? j.id).getD {}
    if j.bad then
      let slots := (r.slotsOf t).filter fun n => (s.core j.core).fails [.slot n] && !(s.core j.core).tilePoison.contains n
      let s := s.updCore j.core fun k => { k with tilePoison := slots ++ k.tilePoison }
      (s.laneFaults x.wid x.id x.pc x.before ((lanesOf x.mask).map fun i => { lane := i, code := 4 }), mark (!slots.isEmpty))
    else (s.landRegs x.wid x.id ((lanesOf x.mask).flatMap fun i => regWrites x.dst i r.elWords (mget j.data i).toNat), 0)
  | _ => (s, 0)

/-- A command has run its cycles. -/
def State.jobEndDue (s : State) (j : MatJob) : Bool :=
  !s.frozen j.core && j.started.isSome && !j.finished && decide (j.ends ≤ s.ucyc j.core)
/-- R81, R327: the address of a group's status word, and the launching process's ASID. -/
def State.statusWord (s : State) (p g : Nat) : Nat × Nat :=
  match (s.pdk p).group g with
  | some x => (x.baraddr + 64, (s.launchRec x.launch).asid)
  | none => (64, 0)
/-- R334: the check of a command's status update, before the unit changes. -/
def State.statusCheck (s : State) (j : MatJob) : Option State :=
  let (va, asid) := s.statusWord j.pdk j.group
  let w := s.warp j.wid
  if w.det then s.detCheck w (match s.vaddrRW j.pdk asid va with | some a => [(s.lineKey a, DetKind.atomic 3)] | none => []) else some s
/-- R334: a command whose status update conflicts changes nothing, and traps DETCONF; a macro that it claimed is free again. -/
def State.undoJob (s : State) (j : MatJob) : State :=
  let s := if j.claimed then (match j.cmd with
      | .mldb m .. => s.updRes j.core j.res fun r => { r with macros := r.macros.filter (· != m) }
      | _ => s) else s
  let s := { s with jobs := s.jobs.filter (·.id != j.id) }
  match s.op? j.id with
  | some x => s.warpTrap x.wid 0x18 x.pc x.before x.id
  | none => s
/-- R328, R332: a command completes; without a report it leaves and its flag counts down. -/
def State.finishJob (s : State) (j : MatJob) : State :=
  if !s.jobEndDue j then s
  else
    let leave (s : State) : State := ({ s with jobs := s.jobs.filter (·.id != j.id) }).endOp j.id
    let (t, more) := match (if j.report = 0 then s.heldRes j else none) with
      | some r => s.endEffect j r
      | none => (s, 0)
    let report := j.report ||| BitVec.ofNat 8 more
    if report = 0 then leave t
    else match t.statusCheck j with
      | some t => t.updJob j.id fun j => { j with finished := true, report }
      | none => s.undoJob j

/-- R254, R346: an MSTAT whose turn has come: no earlier command of its warp that names its group is left, no FENCE is before it, and its lanes
wait for nothing. -/
def State.statDue (s : State) (j : MatJob) : Bool :=
  j.cmd.isStat && !s.frozen j.core && s.quiet (dieOfCore j.core) &&
    (match s.op? j.id with | some x => decide (x.issued < s.ucyc j.core) && x.accs.all fun a => a.stage == .ready || a.stage == .gone | none => true) &&
    (s.jobs.all fun e => !(decide (e.id < j.id) && e.wid == j.wid && e.group == j.group)) &&
    s.ops.all fun y => !(y.wid == j.wid && decide (y.id < j.id) && y.kind.fences)
/-- R112: an earlier access of the warp to the status word stands before an MSTAT. -/
def State.statBlocked (s : State) (x : Op) (va pa : Nat) : Bool :=
  s.ops.any fun y => y.wid == x.wid && decide (y.id < x.id) && y.kind.queued &&
    y.accs.any fun b => accBefore y b { x with bytes := 8 } { va, pa }
/-- R346: MSTAT reads, or reads and clears, the status word at its home; its lanes take the faults of an LD there. -/
def State.doStat (s : State) (j : MatJob) (clear : Bool) : State :=
  match s.op? j.id with
  | none => { s with jobs := s.jobs.filter (·.id != j.id) }
  | some x =>
    let (va, asid) := s.statusWord j.pdk j.group
    let die := dieOfCore j.core
    let live := (x.accs.filter (·.stage == .ready)).map (·.lane)
    let fail (s : State) (code : Nat) (ft : Bool) : State :=
      s.laneFaults x.wid x.id x.pc x.before (live.map fun i => { lane := i, code, va := BitVec.ofNat 64 va, ft })
    -- R103: the translation of a word of a locked region hits, or traps
    if x.before.lockOpen && (s.tlbHit j.core j.pdk asid va).isNone then s.warpTrap x.wid 0x1A x.pc x.before x.id else
    match s.search j.core j.pdk asid va true false with
    | (.fault code ft, s) => fail s code ft
    | (.miss, s) => s
    | (.hit pa spec, s) =>
      if s.statBlocked x va pa || (clear && !s.homeFree die pa 8) then s else
      let keys := (s.lineKey pa, DetKind.read) :: (if clear then [(s.lineKey pa, DetKind.write)] else [])
      match if x.before.det then s.detCheck (s.warp x.wid) keys else some s with
      | none => s.warpTrap x.wid 0x18 x.pc x.before x.id
      | some s =>
        let (ok, s) := s.ecc (some j.core) j.pdk pa 8 spec
        if !ok && !spec then fail s 4 false
        else
          let v := if ok then ofLe (s.peek pa 8) else 2 ^ 64 - 1
          let s := s.mergeClock die (s.stampOf pa 8)
          let s := if !(clear && ok) then s
            else if (s.vaddrRW j.pdk asid va).isSome then s.devStore j.pdk die pa (leBytes 0 8)
            else s.devVWrite j.pdk asid va (leBytes 0 8) (s.exposeLid j.pdk x.before.lid)
          let s := s.landRegs x.wid x.id (live.flatMap fun i => regWrites x.dst i 2 v)
          let s := s.updOp x.id fun x => x.mapAccs fun a => if a.stage == .ready then { a with stage := .done } else a
          ({ s with jobs := s.jobs.filter (·.id != j.id) }).settle x.id

/-- `MATRIX_COMMAND_COMPLETE` (R332, R346): commands that have run their cycles, and MSTATs whose turn has come. -/
def execMatrixCommandComplete (s : State) : Out :=
  .next (s.jobs.foldl (fun t j =>
    match j.cmd with
    | .mstat clear => if t.statDue j then t.doStat j clear else t
    | _ => t.finishJob j) s)

/-! ## The status word (R327 to R329) -/

/-- R54: the operation code of a matrix command. -/
def MatCmd.op : MatCmd → Nat
  | .mres .. => 0xA0 | .mrel => 0xA1 | .mldb .. => 0xA2 | .mlda .. => 0xA3 | .mma .. => 0xA4 | .mspr .. => 0xA5 | .mzero _ => 0xA6
  | .mmov .. => 0xA7 | .mput .. => 0xA8 | .mstat _ => 0xA9
/-- R327: FIRSTTILE. -/
def MatCmd.firstTile : MatCmd → Nat
  | .mzero t | .mma t .. | .mmov t .. | .mput t .. => t
  | .mldb m p _ | .mspr m p => 4 * m + p
  | _ => 0

/-- R328: the word after a report. -/
def statusAfter (old report op tile core : Nat) : Nat :=
  let v := old ||| report
  if old % 256 = 0 then setFld (setFld (setFld v 56 8 op) 48 8 tile) 44 4 core else v

/-- `MATRIX_STATUS_UPDATE` (R328): a completed command's report is applied at the word's home; then its flag counts down. -/
def execMatrixStatusUpdate (cmd : Nat) (s : State) : Out :=
  .next (match s.jobs.find? (·.id == cmd) with
    | none => s
    | some j =>
      let w := s.warp j.wid
      let (va, asid) := s.statusWord j.pdk j.group
      let free := match s.vaddrRW j.pdk asid va with | some a => s.homeFree (homeOf a) a 8 | none => true
      if !j.finished || s.frozen j.core || !s.quiet (dieOfCore j.core) || !free then s
      else
        let leave (s : State) : State := ({ s with jobs := s.jobs.filter (·.id != j.id) }).endOp j.id
        let old := ((s.vaddrRW j.pdk asid va).map fun a => ofLe (s.peek a 8)).getD 0
        let v := statusAfter old j.report.toNat j.cmd.op j.cmd.firstTile (fld w.clshape.toNat 16 2)
        leave (s.devVWrite j.pdk asid va (leBytes v 8) (s.exposeLid j.pdk w.lid)))

/-! ## The instructions (R330, R336 to R340) -/

/-- A command accepted in its own cycle, one for each cycle of a core (R332, R337). -/
def State.acceptCycle (s : State) (c : Nat) : Nat :=
  ((s.jobs.filter fun j => j.core == c && !j.cmd.isStat).map fun j => j.accepted + 1).foldl Nat.max (s.ucyc c)

/-- R347: the warp whose MRES made the group's reservation on the core, or makes it as soon as the unit accepts it. -/
def State.resOwner (s : State) (w : Warp) (g : Nat) : Option Nat :=
  match s.reserv w.core w.pdk w.launch g with
  | some r => some r.owner
  | none => (s.jobs.find? fun j => j.core == w.core && j.pdk == w.pdk && j.launch == w.launch && j.group == g && !j.placed && (match j.cmd with | .mres .. => true | _ => false)).map (·.wid)
/-- R334: the format word and offsets by which a load of the group reads, at issue. -/
def State.resFormat (s : State) (w : Warp) (g : Nat) : Option (Word × Nat × Nat) :=
  match s.reserv w.core w.pdk w.launch g with
  | some r => some (r.fmt, r.asoff, r.bsoff)
  | none => s.jobs.findSome? fun j =>
      match j.cmd with
      | .mres f a b => if !j.placed && j.core == w.core && j.pdk == w.pdk && j.launch == w.launch && j.group == g then some (f, a.toNat, b.toNat) else none
      | _ => none
/-- R334: the lines of a load, as reads. -/
def State.loadKeys (s : State) (w : Warp) (g : Nat) (k : MatCmd) : List (Nat × DetKind) :=
  match (s.resFormat w g).bind fun x => loadRanges x.1 x.2.1 x.2.2 k, s.window? w.core w (w.asidOf 0) with
  | some r, some x =>
    if !rangesOk (some x) r then [] else
    let lines (o n : Nat) : List Nat :=
      let a := 2048 * x.base + o
      (List.range (cdiv (a % 64 + n) 64)).map fun i => padKey w.core (a / 64 * 64 + 64 * i)
    (lines r.1.1 r.1.2 ++ lines r.2.1 r.2.2).map fun l => (l, .read)
  | _, _ => []

/-- R103, R330, R338, R347: what every matrix instruction checks, and its acceptance. `g` gives the operands that every lane must
supply alike, `cmd` the command of lane 0's. -/
def matInstr (f : Fields) (s : State) (g : Warp → Nat → List Nat) (cmd : List Nat → MatCmd) (data : Warp → Nat → List (Nat × DWord)) : Out :=
  s.issue f fun wid w s =>
    let grp := f.immVal.toNat % 256
    let at_ := f.dst.toNat
    let isAt := f.var == 1 && (match cmd [] with | .mldb .. | .mlda .. | .mma .. | .mspr .. | .mzero _ => true | _ => false)
    let ops (i : Nat) : List Nat := g w i ++ (if isAt && w.timed then [(w.reg at_ i).toNat] else [])
    if w.active != BitVec.allOnes 32 then s.trapAt wid w 0x13
    else match uniform (BitVec.allOnes 32) ops with
    | none => s.trapAt wid w 0x15
    | some v =>
      let k := cmd v
      let off := BitVec.ofNat 64 (w.reg at_ 0).toNat
      if w.spans (BitVec.allOnes 32) then s.trapAt wid w 0x14
      else if !s.isMember w grp || !(((s.pdk w.pdk).group grp).map (·.msw)).getD false then s.trapAt wid w 0x1B
      else if w.lockOpen && k.isStat && (let x := s.statusWord w.pdk grp; s.tlbHit w.core w.pdk x.2 x.1).isNone then s.trapAt wid w 0x1A
      else if w.timed && (k.isStat || (isAt && decide (off.toNat ≤ (s.taskc w).toNat))) then s.trapAt wid w 0x19
      else if w.det && !k.isStat && (match s.resOwner w grp with | some o => o != wid | none => false) then s.trapAt wid w 0x18
      else match if w.det then s.detCheck w (s.loadKeys w grp k) else some s with
      | none => s.trapAt wid w 0x18
      | some s =>
        -- R41: without an executing lane
        if w.exec f == 0 then s.simpleOp wid w f 1 else
        let accs : List Acc := if k.isStat then (lanesOf (w.exec f)).map fun i => { lane := i, asid := w.asidOf i, stage := .ready } else []
        let (o, s) := s.addOp { opOf wid w f (.matrix (k.op - 0xA0)) with accs }
        let j : MatJob := { id := o, core := w.core, wid, pdk := w.pdk, launch := w.launch, group := grp, cmd := k, asid := w.asidOf 0,
                            at? := if isAt && w.timed then some off else none, accepted := s.acceptCycle w.core
                            data := msetAll [] ((lanesOf (w.exec f)).flatMap (data w)) }
        { s with jobs := s.jobs ++ [j] }

/-- R336: the macro and base plane of MLDB and MSPR. -/
def immMP (f : Fields) : Nat × Nat := (fld f.immVal.toNat 8 2, fld f.immVal.toNat 10 3)
/-- R336: the tile of MMA, MZERO, MMOV and MPUT. -/
def immTile (f : Fields) : Nat := fld f.immVal.toNat 8 8
/-- An operand of the command. -/
def nth (v : List Nat) (i : Nat) : Nat := (v[i]?).getD 0
/-- No lane data. -/
def noData (_ : Warp) (_ : Nat) : List (Nat × DWord) := []

/-- R340: MRES. -/
def execMres (f : Fields) (s : State) : Out :=
  let r := f.a.reg.toNat
  matInstr f s (fun w i => (w.src f.a i).toNat :: (if f.var == 1 then [(w.reg (r + 1) i).toNat, (w.reg (r + 2) i).toNat] else []))
    (fun v => .mres (BitVec.ofNat 32 (nth v 0)) (BitVec.ofNat 32 (if f.var == 1 then nth v 1 else 0)) (BitVec.ofNat 32 (if f.var == 1 then nth v 2 else 0)))
    noData
/-- R341: MREL. -/
def execMrel (f : Fields) (s : State) : Out := matInstr f s (fun _ _ => []) (fun _ => .mrel) noData
/-- R342: MLDB. -/
def execMldb (f : Fields) (s : State) : Out :=
  matInstr f s (fun w i => [(w.src f.a i).toNat]) (fun v => .mldb (immMP f).1 (immMP f).2 (nth v 0)) noData
/-- R342: MLDA. -/
def execMlda (f : Fields) (s : State) : Out :=
  matInstr f s (fun w i => [(w.src f.a i).toNat]) (fun v => .mlda (nth v 0) (fld f.immVal.toNat 8 3 + 1)) noData
/-- R343: MMA. -/
def execMma (f : Fields) (s : State) : Out :=
  matInstr f s (fun _ _ => []) (fun _ => .mma (immTile f) (fld f.immVal.toNat 16 2) (fld f.immVal.toNat 18 3)) noData
/-- R344: MSPR. -/
def execMspr (f : Fields) (s : State) : Out := matInstr f s (fun _ _ => []) (fun _ => .mspr (immMP f).1 (immMP f).2) noData
/-- R343: MZERO. -/
def execMzero (f : Fields) (s : State) : Out := matInstr f s (fun _ _ => []) (fun _ => .mzero (immTile f)) noData
/-- R345: MMOV. -/
def execMmov (f : Fields) (s : State) : Out :=
  matInstr f s (fun _ _ => []) (fun _ => .mmov (immTile f) 0 f.ty) fun w i => [(64 + i, BitVec.ofNat 64 (w.src f.a i).toNat)]
/-- R345: MPUT. -/
def execMput (f : Fields) (s : State) : Out :=
  matInstr f s (fun _ _ => []) (fun _ => .mput (immTile f) 0 f.ty) fun w i =>
    [(64 + i, BitVec.ofNat 64 (w.src f.a i).toNat), (i, BitVec.ofNat 64 (w.regsVal f.dst.toNat i (tyRegs f.ty)))]
/-- R346: MSTAT. -/
def execMstat (f : Fields) (s : State) : Out := matInstr f s (fun _ _ => []) (fun _ => .mstat (f.var == 1)) noData

end Sys2Proof.Machine
end

