-- ==== Sys2Proof/Machine/Handler.lean ====
section
/-! DEFINITION. The supervisor's handler: its start and end, its four instructions, replays, and unmaps (R101, R381 to R388). -/
namespace Sys2Proof.Machine
open Sys2Proof

/-! ## The served warp -/

/-- The warp leaves the machine: its locks and its selection unit go with it. -/
def State.dropWarp (s : State) (wid : Nat) : State :=
  let w := s.warp wid
  let s := s.freeLocks wid
  let s := if (s.core w.core).sel.holder == some wid then s.freeSel w.core else s
  { s with warps := s.warps.filter (·.id != wid) }

/-- The fault of a lane that a handler serves, as its registers hold it (R379). -/
def Warp.servedFault (h : Warp) (i : Nat) : LaneFault :=
  let c := (mget h.tcause i).toNat
  { lane := i, code := fld c 0 8, va := mget h.tva i, write := bitAt c 9, ft := bitAt c 8 }

/-- R386, R387: the ASIDs of some lanes that a handler serves are ejected, or exit. -/
def State.ejectLanes (s : State) (h : Warp) (m : Lanes) : State :=
  match h.holds with
  | none => s
  | some wid =>
    let w := s.warp wid
    let fs := (lanesOf (m &&& h.tmask &&& w.alive)).map fun i => { h.servedFault i with ft := false }
    match h.handop.bind s.op? with
    | some x => s.ejectServed wid x.id x.pc x.pc x.before false fs
    | none => (match fs with
        | [] => s
        | f :: _ => let pc := mget h.epc f.lane; s.ejectServed wid s.nextId pc (pc + 16) w h.trapEnd fs)

/-- The warp that a handler held goes on (R383, R387). -/
def State.release (s : State) (h : Warp) : State :=
  match h.holds with
  | none => s
  | some wid =>
    let s := s.updWarp wid fun w => { w with heldBy := none, ready := Nat.max w.ready (s.now w + 1) }
    if h.trapEnd then s.updWarp wid Warp.exitAll else s

/-! ## Starting a handler (R381) -/

/-- What waits for a handler: the held lanes of an operation, or a TRAPI. -/
structure Case where
  wid     : Nat
  op      : Option Op
  pc      : DWord
  faults  : List LaneFault
  found   : Nat
  trapEnd : Bool
  deriving DecidableEq, Repr, Inhabited

/-- R106: every lane of an operation has finished its checks and some wait for the handler. -/
def Op.held (x : Op) : Bool := x.replay.isNone && x.accs.any (·.stage == .touch) && x.accs.all (·.stage != .walk)
/-- R53: LDS and STS of a warp that have not landed. -/
def State.padsPending (s : State) (wid : Nat) : Bool :=
  s.ops.any fun y => y.wid == wid && y.classL && !y.padsHeld && y.accs.any fun a => a.pad && a.stage != .done && a.stage != .gone
/-- The cases that may start now. Those of a warp with an open region wait for its last word, and for what that region deferred (R203, R465). -/
def State.cases (s : State) : List Case :=
  let free (wid : Nat) : Bool :=
    let w := s.warp wid
    w.heldBy.isNone && !s.frozen w.core && !s.padsPending wid && !w.inRegion && s.deferred.all (·.wid != wid)
  let ofOps := (s.ops.filter fun x => x.held && free x.wid).map fun x =>
    let fs := (x.accs.filter (·.stage == .touch)).filterMap (·.fault)
    { wid := x.wid, op := some x, pc := x.pc, faults := fs, found := s.now x.before, trapEnd := false : Case }
  let ofTraps := (s.pending.filter fun x => free x.wid).map fun x =>
    { wid := x.wid, op := none, pc := x.pc, faults := x.faults, found := x.found, trapEnd := x.trapEnd : Case }
  ofOps ++ ofTraps

/-- R380, R381: a case for which no handler can run. -/
def State.noHandler (s : State) (c : Case) : State :=
  let w := s.warp c.wid
  match c.op with
  | some x => s.ejectServed c.wid x.id x.pc x.pc x.before false c.faults
  | none =>
    let s := s.ejectServed c.wid s.nextId c.pc (c.pc + 16) w c.trapEnd c.faults
    if c.trapEnd then s.updWarp c.wid Warp.exitAll else s

/-- R381: the image that holds HNDENTRY, if its count is HNDREGS.COUNT + 1. -/
def Pdk.handlerImage (q : Pdk) : Option Image :=
  let e := (q.reg 0x080).toNat
  q.images.find? fun im => im.asid == 0 && decide (im.va ≤ e) && decide (e < im.va + im.len) && im.n == fld (q.reg 0x088).toNat 0 8 + 1

/-- R381: the handler warp of a case. -/
def State.formHandler (s : State) (c : Case) (im : Image) (slot : Nat) : State :=
  let w := s.warp c.wid
  let fs := c.faults.filter fun f => w.alive.getLsbD f.lane
  let m := maskOf fun i => fs.any (·.lane == i)
  let (id, s) := s.takeId
  let h : Warp :=
    { id, kind := .handler, pdk := w.pdk, image := im.handle, n := im.n, core := w.core, slot, index := s.freeIndex w.core slot
      cls := 0, age := s.wall, pc := (s.pdk w.pdk).reg 0x080, exm := m, live := m, plive := m, pexm := m, ready := c.found + 6
      holds := some c.wid, handop := c.op.map (·.id), trapEnd := c.trapEnd, tmask := m
      tcause := msetAll [] (fs.map fun f => (f.lane, BitVec.ofNat 32 (causeOf (w.asidOf f.lane) f)))
      tva := msetAll [] (fs.map fun f => (f.lane, f.va)), epc := msetAll [] (fs.map fun f => (f.lane, c.pc)) }
  let s := s.updWarp c.wid fun w => { w.landAll with heldBy := some id }
  { s with warps := s.warps ++ [h] }

/-- R15: lanes of an operation that have left the warp before their handler starts no longer wait for it. -/
def State.dropDead (s : State) (wid : Nat) (x : Op) : State :=
  let live := (s.warp wid).alive
  (s.updOp x.id fun y => y.mapAccs fun a => if a.stage == .touch && !live.getLsbD a.lane then { a with stage := .gone } else a).settle x.id
/-- `HANDLER_START` (R381). -/
def execHandlerStart (s : State) : Out :=
  .next (match s.cases.head? with
    | none => s
    | some c =>
      let w := s.warp c.wid
      let s := match c.op with
        | some x => if c.faults.any fun f => w.alive.getLsbD f.lane then s else s.dropDead c.wid x
        | none => { s with pending := s.pending.filter fun x => !(x.wid == c.wid && x.pc == c.pc && x.found == c.found) }
      if !c.faults.any fun f => w.alive.getLsbD f.lane then (if c.trapEnd then s.updWarp c.wid Warp.exitAll else s) else
      let q := s.pdk w.pdk
      let room (k : Nat) : Bool := match q.handlerImage with | some im => s.slotHolds w.core k im.n 1 | none => false
      if q.reg 0x080 == 0 then s.noHandler c
      else match q.handlerImage, (w.slot :: List.range 4).find? room with
        | some im, some slot => s.formHandler c im slot
        | _, _ => (s.noHandler c).countReg w.pdk 0x09C 1)

/-- A handler that has ended without a TRET and whose operations have completed (R387). -/
def State.failedHandler (s : State) : Option Warp :=
  s.warps.find? fun h => h.kind == .handler && (h.ended || (h.live ||| h.held) &&& ~~~h.park == 0) && h.pend.isEmpty &&
    !s.frozen h.core && s.ops.all fun x => x.wid != h.id
/-- `HANDLER_FAIL` (R387). -/
def execHandlerFail (s : State) : Out :=
  .next (match s.failedHandler with
    | none => s
    | some h => (((s.countReg h.pdk 0x09C 1).ejectLanes h (BitVec.allOnes 32)).release h).dropWarp h.id)

/-- An operation whose replay has come (R383). -/
def State.replayDue (s : State) (x : Op) : Bool :=
  !s.frozen x.before.core && (match x.replay with | some d => decide (d ≤ s.ucyc x.before.core) | none => false)
/-- `FAULT_REPLAY` (R383): the held lanes that are not PARK and have not exited walk again. -/
def execFaultReplay (s : State) : Out :=
  .next ((s.ops.filter s.replayDue).foldl (fun t x =>
    let live := (t.warp x.wid).alive
    let again (a : Acc) : Acc :=
      if a.stage != .touch then a else if live.getLsbD a.lane then { a with stage := .walk, fault := none } else { a with stage := .gone }
    (t.updOp x.id fun y => { y.mapAccs again with replay := none }).settle x.id) s)

/-! ## TRET and EJECT (R383, R386) -/

/-- R382: an instruction of the handler: another warp traps PRIV. -/
def handlerOp (f : Fields) (s : State) (k : Nat → Warp → State → State) : Out :=
  s.issue f fun wid w s => if w.kind == .handler && w.holds.isSome then k wid w s else s.trapAt wid w 0x1B

/-- R383: TRET. -/
def execTret (f : Fields) (s : State) : Out :=
  handlerOp f s fun wid w s =>
    let s := match w.handop with
      | some o => s.updOp o fun x => if x.held then { x with replay := some (s.now w + 4) } else x
      | none => s
    (s.release w).dropWarp wid
/-- R386: EJECT. -/
def execEject (f : Fields) (s : State) : Out := handlerOp f s fun _ w s => s.ejectLanes w (w.exec f)

/-! ## PGMAP and PGUNMAP (R384, R385) -/

/-- The FASID of a lane that a handler serves. -/
def Warp.fasid (h : Warp) (i : Nat) : Nat := fld (mget h.tcause i).toNat 16 16
/-- The level-4 entry of an address under an ASID: its place and value; none where the walk ends above level 4. -/
def State.leafEntry (s : State) (p asid va : Nat) : Option (Nat × Nat) :=
  match s.rootTable p asid with
  | none => none
  | some t =>
    if inWindows va then none
    else match s.walkEnd p va t 0 5 with
    | .entry at_ 4 e => some (at_, e)
    | _ => none

/-- A device-physical frame is written with zeros. -/
def State.zeroFrame (s : State) (dev : Nat) : State :=
  { s with mem := s.mem.filter fun c => c.1 / 2 ^ 18 != dev, marks := s.marks.filter fun k => k.1 / 4096 != dev || k.2 == .lasting
           poison := s.poison.filter (· / 65536 != dev), worlds := s.worlds.filter (·.1 / 4096 != dev) }

/-- R384: one lane's action: its result and the state after it. -/
def State.mapLane (s : State) (p asid va : Nat) : Nat × State :=
  let s := s.noteReads p (s.walkReads p asid va)
  match s.leafEntry p asid va with
  | none => (3, s)
  | some (at_, e) =>
    if fld e 62 2 = 3 then (1, s)
    else if fld e 62 2 != 1 || bitAt e 58 then (3, s)
    else match s.spareFrame p (s.pdk p).pool with
      | none => (2, s)
      | some (f, dev, r) =>
          let s := (s.updPdk p fun q => { q with pool := r }).zeroFrame dev
          let keep := (if bitAt e 60 then 2 ^ 60 else 0) + (if bitAt e 59 then 2 ^ 59 else 0) + (if bitAt e 57 then 2 ^ 57 else 0)
          (0, s.devWrite p at_ (leBytes (3 * 2 ^ 62 + 2 ^ 61 + keep + f * 2 ^ 18) 8))

/-- R384: PGMAP: the lanes act in order; their results land, and the flag counts down, a while later (log 9). -/
def execPgmap (f : Fields) (s : State) : Out :=
  handlerOp f s fun wid w s =>
    let m := w.exec f
    if m == 0 then s.simpleOp wid w f 1
    else
      let (ws, s) := (lanesOf m).foldl (fun (r : List (Nat × Word) × State) i =>
        let (v, t) := r.2.mapLane w.pdk (w.fasid i) (w.src64 f.a i).toNat
        (r.1 ++ regWrites f.dst.toNat i 1 v, t)) ([], s)
      let (o, s) := s.takeId
      s.landIn wid (Nat.max 1 (Config.latency o)) { late := true, writes := ws, flag := f.flag }

/-- What one lane of a PGUNMAP changes: its result, the frames for the pool and those leaving the executable-frame table, the page. -/
structure Unmapped where
  result : Nat := 1
  free   : List Nat := []
  exec   : List Nat := []
  page   : Option (Nat × Nat) := none
  deriving DecidableEq, Repr, Inhabited

/-- R205: STALE for the targets of a page of an ASID, in every warp of the paddock, the saved and the queued ones too. -/
def State.stalePage (s : State) (p asid page : Nat) : State :=
  let hit (w : Warp) : Bool := w.pdk == p && ((s.pdk p).image w.image).any (·.asid == asid)
  let stale (w : Warp) : Warp := if hit w then w.stale (s.imageVa w).toNat (· == page) else w
  { s with warps := s.warps.map stale
           launches := s.launches.map fun l => { l with clusters := l.clusters.map fun c => { c with warps := c.warps.map stale } }
           parked := s.parked.map fun r => { r with before := stale r.before }
           pdks := s.pdks.map fun q => { q with rooms := q.rooms.map fun r =>
             { r with park := r.park.map fun x => { x with before := stale x.before } } } }

/-- R385: one lane's action. -/
def State.unmapLane (s : State) (p asid va : Nat) (ft : Bool) : Unmapped × State :=
  let s := s.noteReads p (s.walkReads p asid va)
  match s.rootTable p asid with
  | none => ({}, s)
  | some t =>
    if inWindows va then ({}, s)
    else match s.walkEnd p va t 0 5 with
    | .unread _ => ({}, s)
    | .entry at_ lev e =>
      if fld e 62 2 != 3 || !bitAt e 61 then ({}, s)
      else if lev < 4 then ({ result := 3 }, s)
      else
        let frame := fld e 18 28
        let q := s.pdk p
        let exec := if q.exframes.contains frame then [frame] else []
        let s := s.devWrite p at_ (leBytes (setFld e 62 2 (if ft then 1 else 0)) 8)
        let s := if bitAt e 58 then s.stalePage p asid (va / 2 ^ 18) else s
        ({ result := 0, free := if ft then frame :: (q.committed frame).toList else [], exec, page := some (asid, va / 2 ^ 18) }, s)

/-- R101: a page-table change that waits for the leases before it. -/
def State.addDrain (s : State) (p id : Nat) (d : Drain) : State :=
  let j : Job := { id, since := s.wall, lease := s.xlmaxl p, cores := s.cores.map fun k => (k.id, s.ucyc k.id), what := d }
  s.updPdk p fun q => { q with jobs := q.jobs ++ [j] }

/-- R385: PGUNMAP. -/
def execPgunmap (f : Fields) (s : State) : Out :=
  handlerOp f s fun wid w s =>
    let m := w.exec f
    let ft := f.var == 1
    if m == 0 then s.simpleOp wid w f 1
    else
      let (us, s) := (lanesOf m).foldl (fun (r : List (Nat × Unmapped) × State) i =>
        let (u, t) := r.2.unmapLane w.pdk (w.fasid i) (w.src64 f.a i).toNat ft
        (r.1 ++ [(i, u)], t)) ([], s)
      let (o, s) := s.addOp { opOf wid w f (.pgunmap ft) with nregs := 1 }
      s.addDrain w.pdk o (.unmap (some o) (us.map fun u => (u.1, BitVec.ofNat 32 u.2.result)) (us.flatMap (·.2.free))
        (us.flatMap (·.2.exec)) (us.filterMap (·.2.page)) none)

/-! ## Drains (R101) -/

/-- R101: the leases granted before a change have run out. -/
def State.drained (s : State) (p : Nat) (j : Job) : Bool :=
  decide (j.since + 64 * j.lease ≤ s.wall) &&
    s.cores.all fun k => !((s.coresOf p).contains k.id) || decide ((alist j.cores k.id).getD j.since + 64 * j.lease ≤ s.ucyc k.id)

/-- An access of an ASID in flight that found its place through a page. -/
def Acc.through (a : Acc) (pages : List (Nat × Nat)) : Bool :=
  let hit (page : Nat) : Bool := pages.contains (a.asid, page)
  a.stage != .walk && a.stage != .touch && a.stage != .done && a.stage != .gone &&
    ((!a.pad && hit (a.va / 2 ^ 18)) || (a.dpages ++ a.spages).any fun x => hit x.1)
/-- R101: an operation still uses an unmapped page. DEDUCED (log 40): the pages that a selection unit keeps from a streamed bind (R288) are not
counted; only lanes' accesses are waited for. -/
def State.stillUsed (s : State) (p : Nat) (pages : List (Nat × Nat)) : Bool :=
  s.ops.any fun x => x.before.pdk == p && !x.kind.waits && x.accs.any (Acc.through · pages)
/-- The first unmap of a paddock that may complete. -/
def State.unmapDue (s : State) (q : Pdk) : Option Job :=
  q.jobs.find? fun j => match j.what with
    | .unmap _ _ _ _ pages _ => s.drained q.no j && !s.stillUsed q.no pages
    | .xmap .. => false

/-- The table without one occurrence of each frame of a list: another image may have entered it too. -/
def dropFrames (l : List Nat) (frames : List Nat) : List Nat := frames.foldl List.erase l
/-- R62: another unmap of the same pages has no claim left to the frames that one has taken out of the table. -/
def Job.without (j : Job) (pages : List (Nat × Nat)) (exec : List Nat) : Job :=
  match j.what with
  | .unmap op lanes free mine ps seq => if ps.any pages.contains then { j with what := .unmap op lanes free (dropFrames mine exec) ps seq } else j
  | .xmap .. => j
/-- R61, R62, R101, R385: an unmap is complete: frames go to the pool and leave the executable-frame table, waits on the pages
translate again, the flag counts down or the command is reported. -/
def State.finishUnmap (s : State) (p : Nat) (j : Job) : State :=
  match j.what with
  | .xmap .. => s
  | .unmap op lanes free exec pages seq =>
    -- R62: an image keeps no claim to a frame that its unmapped page has given up
    let covers (im : Image) (x : Nat × Nat) : Bool := im.asid == x.1 && decide (im.va < (x.2 + 1) * 2 ^ 18) && decide (x.2 * 2 ^ 18 < im.va + im.len)
    let s := s.updPdk p fun q =>
      { q with jobs := (q.jobs.filter (·.id != j.id)).map fun k => k.without pages exec, pool := q.pool ++ free, spec := q.spec.filter fun x => !free.contains x.1
               exframes := dropFrames q.exframes exec
               images := q.images.map fun im => if pages.any (covers im) then { im with frames := dropFrames im.frames exec } else im }
    let again (x : Op) : Op :=
      if x.before.pdk == p && x.kind.waits then x.mapAccs fun a => if a.through pages then { a with stage := .walk } else a else x
    let s := s.mapOps again
    let s := match op.bind s.op? with
      | some x => (s.landRegs x.wid x.id ((lanes.filter fun l => x.mask.getLsbD l.1).map fun l => (32 * x.dst + l.1, l.2))).endOp x.id
      | none => s
    match seq with | some n => s.reportDone p n | none => s

/-- `UNMAP_COMPLETE` (R101). -/
def execUnmapComplete (s : State) : Out :=
  .next (match s.pdks.findSome? fun q => (s.unmapDue q).map fun j => (q.no, j) with
    | none => s
    | some (p, j) => s.finishUnmap p j)

end Sys2Proof.Machine
end

