-- ==== Sys2Proof/Machine/Rink.lean ====
section
/-! DEFINITION. The rink: its instructions, frames, drift, skids, timing faults and announced stops (R407 to R423). -/
namespace Sys2Proof.Machine
open Sys2Proof

/-! ## Registers of the rink (R408) -/

/-- R408: DIAM. -/
def State.diam (s : State) : Nat := fld s.rkctl 40 8
/-- R408: hops to a member, 255 for none; the map holds the complement. -/
def State.hopsTo (s : State) (m : Nat) : Nat := 255 - (mget s.rink.dist m).toNat
/-- R408: where a frame of a channel that arrives on a port is relayed; none delivers it here. -/
def State.relayOf (s : State) (port chan : Nat) : Option Nat :=
  let q := 255 - (mget s.rink.relay (256 * port + chan)).toNat
  if q < 8 then some q else none
/-- The state with the rink engine changed. -/
def State.updRink (s : State) (f : Rink → Rink) : State := { s with rink := f s.rink }

/-! ## Frames (R414 to R417) -/

/-- STAMP. -/
def frameStamp (b : BitVec 1152) : Nat := fld b.toNat 1088 64
/-- MASK. -/
def frameMask (b : BitVec 1152) : Lanes := BitVec.ofNat 32 (fld b.toNat 1056 32)
/-- CHAN. -/
def frameChan (b : BitVec 1152) : Nat := fld b.toNat 1048 8
/-- HOPS. -/
def frameHops (b : BitVec 1152) : Nat := fld b.toNat 1032 8
/-- R416: the due cycle. -/
def frameDue (b : BitVec 1152) : Nat := frameStamp b + Config.hop * frameHops b
/-- DATA of a lane. -/
def frameWord (b : BitVec 1152) (i : Nat) : Nat := fld b.toNat (32 * i) 32
/-- R416: a frame that has crossed one link more. -/
def frameHop (b : BitVec 1152) : BitVec 1152 := BitVec.ofNat 1152 (setFld b.toNat 1032 8 (frameHops b + 1))

/-- R415: a port may start a frame in a schedule cycle. -/
def Rink.portFree (r : Rink) (port : Nat) : Bool :=
  match alist r.starts port with
  | some c => decide (c + 3 ≤ r.rinkc.toNat)
  | none => true
/-- A frame starts on a port (R414, R416). -/
def Rink.start (r : Rink) (port : Nat) : Rink := { r with starts := aput r.starts port r.rinkc.toNat }
/-- R422: a warp of a task names a channel. -/
def Rink.name (r : Rink) (chan : Nat) (tstart : DWord) : Rink := { r with chans := aput r.chans chan tstart }
/-- R422: the task of a channel. -/
def Rink.taskOf (r : Rink) (chan : Nat) : Option DWord := alist r.chans chan

/-- R411: what TSND, TRCV and DRFT check first. -/
def State.rinkIssue (s : State) (wid : Nat) (w : Warp) (port : Option Nat) (k : State → State) : State :=
  if !w.timed || (match port with | some p => !bitAt s.rkctl (8 + p) | none => false) then s.trapAt wid w 0x1B else k s
/-- R407, R414: a frame goes out on a port. A port whose link is in Ethernet mode carries none (log 12). -/
def State.sendFrame (s : State) (port : Nat) (bits : BitVec 1152) : State :=
  if s.rinkPort port then { s with rinkSent := .frame port bits :: s.rinkSent } else s

/-- R414, R415: TSND. -/
def execTsnd (f : Fields) (s : State) : Out :=
  s.issue f fun wid w s =>
    let port := fld f.immVal.toNat 0 3
    let chan := fld f.immVal.toNat 8 8
    s.rinkIssue wid w (some port) fun s =>
      if !s.rink.portFree port then s.trapAt wid w 0x19 4
      else
        let m := w.exec f
        let data := (lanesOf m).foldl (fun v i => v + (w.src f.a i).toNat * 2 ^ (32 * i)) 0
        let bits := s.rink.rinkc.toNat * 2 ^ 1088 + m.toNat * 2 ^ 1056 + chan * 2 ^ 1048 + s.memberId * 2 ^ 1040 + data
        ((s.updRink fun r => (r.start port).name chan w.tstart).sendFrame port (BitVec.ofNat 1152 bits)).simpleOp wid w f 4

/-- R417: TRCV. A frame that came in this very cycle was not in the buffer at the end of the previous one. -/
def execTrcv (f : Fields) (s : State) : Out :=
  s.issue f fun wid w s =>
    let i := f.immVal.toNat
    let port := fld i 0 3
    let chan := fld i 8 8
    let hops := fld i 16 8
    s.rinkIssue wid w (some port) fun s =>
      let s := s.updRink fun r => r.name chan w.tstart
      let mine (x : Frame) : Bool := x.port == port && x.relay.isNone && frameChan x.bits == chan && frameHops x.bits == hops &&
        frameStamp x.bits + Config.hop * hops == s.rink.rinkc.toNat && decide (x.seen < s.wall)
      match s.rink.frames.find? mine with
      | none => s.trapAt wid w 0x19 1
      | some x =>
        let lanes := lanesOf (w.exec f &&& frameMask x.bits)
        let s := s.updRink fun r => { r with frames := r.frames.map fun y => if mine y then { y with read := true } else y }
        s.landIn wid (if w.exec f == 0 then 1 else 8)
          { late := true, writes := lanes.flatMap fun i => regWrites f.dst.toNat i 1 (frameWord x.bits i), flag := f.flag }

/-- R413: ATC. -/
def execAtc (f : Fields) (s : State) : Out :=
  s.issue f fun wid w s =>
    if !w.timed then s
    else
      let t := (s.taskc w).toNat
      let g := t / 2 ^ 32 * 2 ^ 32 + f.immVal.toNat
      if g ≤ t then s.trapAt wid w 0x19 else s.updWarp wid fun w => { w with atc := some (BitVec.ofNat 64 g) }

/-- R412: DRFT. -/
def execDrft (f : Fields) (s : State) : Out :=
  s.issue f fun wid w s =>
    s.rinkIssue wid w none fun s =>
      let m := w.exec f
      if m == 0 then s
      else match uniform m (w.src f.a) with
        | none => s.trapAt wid w 0x15
        | some v => s.updRink fun r => { r with drftx := min (max (sx 32 v.toNat) (-512)) 512, drftk := 0, drftn := 0 }

/-! ## Drift (R410, R412) -/

/-- R412: the steps of a correction that are due after its first k schedule cycles. -/
def Rink.stepsDue (r : Rink) : Nat := Nat.min r.drftk 4096 * r.drftx.natAbs / 4096
/-- A phase step is due. -/
def State.stepDue (s : State) : Bool := decide (s.rink.drftn < s.rink.stepsDue)
/-- `DRFT_PHASE_STEP` (R412). -/
def execDrftPhaseStep (s : State) : Out :=
  .next (if s.stepDue then s.updRink fun r => { r with drftn := r.drftn + 1, phase := r.phase - r.drftx.sign } else s)

/-- R410: DRIFTOBS is due for a refresh in the present schedule cycle. -/
def State.refreshDue (s : State) : Bool :=
  s.rink.formed && s.rink.rinkc.toNat % 256 == 0 && s.rink.refreshed != some s.rink.rinkc
/-- R409, R410: the offset that is measured; that of the reference member is 0. -/
def State.offset (s : State) : Int := if s.memberId == fld s.rkctl 32 8 then 0 else s.rink.phase
/-- `DRIFTOBS_REFRESH` (R410). -/
def execDriftobsRefresh (s : State) : Out :=
  .next (if s.refreshDue then s.updRink fun r => { r with driftobs := BitVec.ofInt 32 s.offset, refreshed := some r.rinkc } else s)

/-! ## Timing faults (R422) -/

/-- The warps of a task take TIMING. -/
def State.trapTask (s : State) (tstart : DWord) : State :=
  ((s.warps.filter fun w => w.timed && w.tstart == tstart && !w.ended).map (·.id)).foldl (fun (t : State) wid =>
    let w := t.warp wid
    t.takeTrap wid 0x19 w.pc w t.nextId) s

/-- R423: the room of the frames that a stopped task kept. -/
def State.frameRoom (s : State) (tstart : DWord) : Option (Nat × Room) :=
  s.pdks.findSome? fun q => (q.rooms.find? fun r => r.kind == 4 && (s.launchRec r.launch).desc.tstart == tstart).map fun r => (q.no, r)
/-- R422: the frames that a stop has kept of an aborted task are discarded with it. -/
def State.dropKept (s : State) (tstart : DWord) : State :=
  let s := s.updRink fun r => { r with saved := r.saved.filter fun k => k.2.1 != tstart }
  match s.frameRoom tstart with | some x => s.freeRoom x.1 x.2.idx | none => s
/-- R422: what a member does on finding a timing fault or receiving its abort. The traps wait for the end of a skid. What is not resident ends as
it would start (`State.startDue`, log 33). -/
def State.abortTask (s : State) (tstart : DWord) : State :=
  let mine (x : Frame) : Bool := s.rink.taskOf (frameChan x.bits) == some tstart
  let s := (s.updRink fun r =>
    { r with frames := r.frames.filter (!mine ·), aborted := (tstart :: r.aborted).eraseDups, skids := r.skids.filter (!·.planned) }).dropKept tstart
  if s.inSkid then s.updRink fun r => { r with traps := r.traps ++ [tstart] } else s.trapTask tstart

/-- R408, R422: RKFAULT keeps the first fault, with the member that found it. -/
def State.noteFault (s : State) (member cause : Nat) : State :=
  if mget s.mgmt 0x110 != 0 then s
  else { s with mgmt := mset s.mgmt 0x110 (BitVec.ofNat 64 (s.rink.rinkc.toNat % 2 ^ 48 * 2 ^ 16 + member * 2 ^ 8 + cause)) }

/-- R422: a member finds a timing fault of a task: it records it, floods an abort and ends the task. -/
def State.findFault (s : State) (cause : Nat) (tstart : DWord) : State :=
  let s := s.noteFault s.memberId cause
  (s.flood none fun p => .abort p s.memberId cause tstart.toNat).abortTask tstart
/-- `TIMING_FAULT` (R422). -/
def execTimingFault (cause tstart : Nat) (s : State) : Out := .next (s.findFault cause (BitVec.ofNat 64 tstart))
/-- `TIMING_ABORT_RECEIVE` (R408, R422). The flood goes on the first time. -/
def execTimingAbortReceive (port member cause tstart : Nat) (s : State) : Out :=
  .next (if !s.rink.formed || !s.rinkPort port then s
    else
      let t : DWord := BitVec.ofNat 64 tstart
      let s := s.noteFault member cause
      (if s.rink.aborted.contains t then s else s.flood (some port) fun p => .abort p member cause tstart).abortTask t)

/-- A timing fault of the member itself ends every task it runs; without one it is only recorded. -/
def State.memberFault (s : State) (cause : Nat) : State :=
  let ts := ((s.launches.filter fun l => l.desc.timed).map fun l => l.desc.tstart).eraseDups
  ts.foldl (fun t x => t.findFault cause x) (s.noteFault s.memberId cause)
/-- A timing fault about a channel's frame: the fault of the channel's task, and of the member itself where no task has named it. -/
def State.frameFault (s : State) (cause chan : Nat) : State :=
  match s.rink.taskOf chan with
  | some t => s.findFault cause t
  | none => s.memberFault cause

/-- `RINK_LINK_LOST` (R422): cause LINK. -/
def execRinkLinkLost (port : Nat) (s : State) : Out :=
  .next (if s.rink.formed && s.rinkPort port then s.memberFault 6 else s)

/-- R410: the count of a member with the cycles of the skids it has taken, as far as they have passed. -/
def Rink.passed (r : Rink) (wall : Nat) : Nat := r.rinkc.toNat + Config.skid * r.taken - (r.skidEnds.getD 0 - (wall + 1))
/-- R410, R419: the skids known here that a neighbour may be taking while its count stands at a cycle: it is at most one hop nearer to their
origin, or farther, than this member (log 33). -/
def State.standing (s : State) (count : Nat) : Nat :=
  ((s.rink.skids.map fun x => (x.origin, x.stamp, x.index)) ++ s.rink.done).eraseDups.countP fun x =>
    let h := if x.1 == s.memberId then 0 else s.hopsTo x.1
    [h - 1, h, h + 1].any fun k => count == x.2.1 + Config.hop * k
/-- `TIMING_FLIT_RECEIVE` (R410): the phase offset, as a 32-bit two's complement number, and the comparison with the neighbour's
count; 256 schedule cycles are allowed for each skid that one side has taken and the other has not, and up to as many for one that the
neighbour is taking. -/
def execTimingFlitReceive (port _member count taken phase : Nat) (s : State) : Out :=
  .next (if !s.rink.formed || !s.rinkPort port then s
    else
      let s := s.updRink fun r => { r with phase := sx 32 phase }
      let theirs := count + (mget s.rink.hop port).toNat + Config.skid * taken
      let ours := s.rink.passed s.wall
      if theirs ≤ ours + 8 + Config.skid * s.standing count && ours ≤ theirs + 8 then s else s.memberFault 2)

/-! ## Arrival, relay and removal (R416) -/

/-- `RINK_FRAME_ARRIVE` (R416, R422). -/
def execRinkFrameArrive (port : Nat) (frame : BitVec 1152) (s : State) : Out :=
  .next (
    let bits := frameHop frame
    let chan := frameChan bits
    let dead := match s.rink.taskOf chan with | some t => s.rink.aborted.contains t | none => false
    if !s.rink.formed || !s.rinkPort port || dead then s
    else
      let relay := s.relayOf port chan
      let full := decide (512 ≤ (s.rink.frames.filter fun x => x.port == port && x.relay.isNone).length)
      if relay.isNone && full then s.frameFault 3 chan
      else s.updRink fun r => { r with frames := r.frames ++ [{ port, relay, bits, seen := s.wall }] })

/-- A frame whose relay is due (R416). -/
def State.relayDue (s : State) (x : Frame) : Bool := x.relay.isSome && decide (frameDue x.bits ≤ s.rink.rinkc.toNat)
/-- `RINK_FRAME_RELAY` (R416): the oldest due frame is forwarded, or meets a collision. -/
def execRinkFrameRelay (s : State) : Out :=
  .next (match s.rink.frames.find? s.relayDue with
    | none => s
    | some x =>
      let q := x.relay.getD 0
      let s := s.updRink fun r => { r with frames := r.frames.erase x }
      if s.rink.portFree q then (s.updRink fun r => r.start q).sendFrame q x.bits
      else s.frameFault 4 (frameChan x.bits))

/-- R423: a frame of a stopped task that is due after the stop cycle is kept. -/
def Rink.keeps (r : Rink) (x : Frame) : Bool :=
  match r.taskOf (frameChan x.bits) with
  | some t => r.stops.any fun k => k.1 == t && decide (k.2 < frameDue x.bits)
  | none => false
/-- A frame whose due cycle has ended. -/
def State.expired (s : State) (x : Frame) : Bool := x.relay.isNone && decide (frameDue x.bits < s.rink.rinkc.toNat) && !s.rink.keeps x
/-- `RINK_FRAME_EXPIRE` (R416): frames past their due cycle are removed, and counted if unread. -/
def execRinkFrameExpire (s : State) : Out :=
  let n := (s.rink.frames.filter fun x => s.expired x && !x.read).length
  let v := Nat.min 0xFFFFFFFF ((mget s.mgmt 0x118).toNat + n)
  .next { (s.updRink fun r => { r with frames := r.frames.filter fun x => !s.expired x }) with mgmt := mset s.mgmt 0x118 (BitVec.ofNat 64 v) }

/-! ## Skids (R418 to R420) -/

/-- `UNPLANNED_SKID` (R418): a freeze cause arises on a core that holds a warp of a timed launch. -/
def execUnplannedSkid (core : Nat) (s : State) : Out := .next (if s.rink.formed && s.holdsTimed core then s.freeze core 1 else s)

/-- `SKID_ANNOUNCE_RECEIVE` (R419): a skid is announced once; one announced too late is taken at once and is a timing fault of cause
SKEW. -/
def execSkidAnnounceReceive (port origin stamp index : Nat) (planned : Bool) (s : State) : Out :=
  .next (
    let known := s.rink.skids.any fun x => x.origin == origin && x.stamp == stamp && x.index == index
    if !s.rink.formed || !s.rinkPort port || known || s.rink.done.contains (origin, stamp, index) then s
    else
      let due := stamp + Config.hop * s.hopsTo origin
      let s := s.flood (some port) fun p => .skid p origin stamp index planned
      if due < s.rink.rinkc.toNat then (s.updRink fun r => { (r.take s.wall 1) with done := (origin, stamp, index) :: r.done }).memberFault 2
      else s.updRink fun r => { r with skids := r.skids ++ [{ origin, stamp, index, due, planned }] })

/-- R419: the skid to take now: the first one due, once no skid runs on after this cycle. -/
def State.nextSkid (s : State) : Option Skid :=
  let free := match s.rink.skidEnds with | some e => decide (e ≤ s.wall + 1) | none => true
  let ready := s.rink.skids.filter fun x => decide (x.due ≤ s.rink.rinkc.toNat)
  let key (x : Skid) : Nat := (x.origin * 2 ^ 64 + x.stamp) * 2 ^ 32 + x.index
  if free then (sortBy key ready).head? else none
/-- `SKID_TAKE` (R419). -/
def execSkidTake (s : State) : Out :=
  .next (match s.nextSkid with
    | none => s
    | some x => s.updRink fun r =>
        { (r.take s.wall 1) with skids := r.skids.erase x, done := ((x.origin, x.stamp, x.index) :: r.done) })
/-- A run of skids is over. -/
def State.skidOver (s : State) : Bool := match s.rink.skidEnds with | some e => decide (e ≤ s.wall) | none => false
/-- `SKID_END` (R418): the skids are over; traps that waited for it are delivered (R422). -/
def execSkidEnd (s : State) : Out :=
  .next (if s.skidOver then
      let ts := s.rink.traps
      ts.foldl State.trapTask (s.updRink fun r => { r with skidEnds := none, skidFrom := 0, traps := [] })
    else s)

/-- R419, R420, R461: a planned skid is announced, at most one in 256 schedule cycles, taken 4,096 schedule cycles later; PLANSKID is set. -/
def State.planSkid (s : State) : State :=
  let now := s.rink.rinkc.toNat
  let soon := match s.rink.lastPlanned with | some c => decide (now < c + 256) | none => false
  if !s.rink.formed || !(s.warps.any (·.timed)) || soon then s
  else
    let k : Skid := { origin := s.memberId, stamp := now + Config.skidNotice, index := s.rink.index, due := now + Config.skidNotice, planned := true }
    let s := (s.updRink fun r => { r with lastPlanned := some now, index := r.index + 1, skids := r.skids ++ [k] }).flood none
      fun p => .skid p k.origin k.stamp k.index true
    { s with mgmt := mset s.mgmt 0x014 (mget s.mgmt 0x014 ||| 2) }
/-- `PLANNED_SKID_ANNOUNCE` (R419, R420, R461). -/
def execPlannedSkidAnnounce (s : State) : Out := .next s.planSkid
/-- R418, R459: a core has taken its first warp of a timed launch, which it had not in `old`: from now on it freezes with the member alone. What is
left of a freeze of its own becomes skids, and of its throttling a planned one. -/
def State.joinTimed (old : State) (s : State) (c : Nat) : State :=
  if old.holdsTimed c || !s.holdsTimed c then s else
  let k := old.core c
  let s := s.freeze c (k.until_ - (s.wall + 1))
  if k.throttled then s.planSkid else s

/-! ## Announced stops (R423) -/

/-- A member learns the stop cycle of a task, once, and floods it. -/
def State.learnStop (s : State) (came : Option Nat) (tstart : DWord) (stop : Nat) : State :=
  if s.rink.stops.any (·.1 == tstart) then s
  else (s.updRink fun r => { r with stops := r.stops ++ [(tstart, stop)] }).flood came fun p => .stop p tstart.toNat stop
/-- The launch of a paddock by its exposed LAUNCHID (R402). -/
def State.byLid (s : State) (p : Nat) (lid : Nat) : Option Launch :=
  s.launches.find? fun l => l.pdk == p && l.yard.isNone && (s.exposeLid p l.lid).toNat == lid
/-- `RINK_PREEMPT_ANNOUNCE` (R423): the member that receives the request floods the stop cycle. -/
def execRinkPreemptAnnounce (p lid : Nat) (s : State) : Out :=
  .next (match s.byLid p lid with
    | some l =>
      if l.desc.timed && s.rink.formed then
        s.learnStop none l.desc.tstart (s.rink.rinkc.toNat + Config.skidNotice + Config.hop * s.diam)
      else s
    | none => s)
/-- `PREEMPTION_ANNOUNCEMENT_RECEIVE` (R423). -/
def execPreemptionAnnouncementReceive (port tstart stop : Nat) (s : State) : Out :=
  .next (if s.rink.formed && s.rinkPort port then s.learnStop (some port) (BitVec.ofNat 64 tstart) stop else s)

/-- R423: the task of a warp has stopped. -/
def State.taskStopped (s : State) (w : Warp) : Bool :=
  w.timed && s.rink.stops.any fun k => k.1 == w.tstart && decide (k.2 < s.rink.rinkc.toNat)
/-- A resident cluster that a stop has not reached yet. -/
def State.stopHits (s : State) (l : Launch) (c : Cluster) : Bool :=
  c.state == .resident && c.preempt.isNone && l.desc.timed &&
    s.rink.stops.any fun k => k.1 == l.desc.tstart && decide (k.2 < s.rink.rinkc.toNat)
/-- `TIMED_STOP` (R423): after schedule cycle S no warp of the task issues, and its clusters are to be saved. -/
def execTimedStop (s : State) : Out :=
  .next { s with
    warps := s.warps.map fun w => if s.taskStopped w then { w with stopped := true } else w
    launches := s.launches.map fun l =>
      { l with clusters := l.clusters.map fun c => if s.stopHits l c then { c with preempt := some 2 } else c } }

end Sys2Proof.Machine
end

