-- ==== Sys2Proof/Machine/Place.lean ====
section
/-! DEFINITION. Placement: the queues, seats for warps, rooms and slots, and the return of saved clusters (R78 to R80, R93, R227, R277,
R357, R358, R393, R394). -/
namespace Sys2Proof.Machine
open Sys2Proof

/-! ## Seats on a core (R77, R227, R361) -/

/-- R361: the slots of a timed launch hold no warp of another; nor two of its own, which could not both issue their first words at
TSTART. -/
def State.slotAdmits (s : State) (c slot : Nat) (w : Warp) : Bool :=
  s.slotHolds c slot w.n 1 && (!w.timed || (s.inSlot c slot).isEmpty) && (s.inSlot c slot).all (!·.timed)
/-- The slot a warp goes to: of those that admit it, the lowest with the fewest warps (log 21). -/
def State.slotFor (s : State) (c : Nat) (w : Warp) : Option Nat :=
  let ok := (List.range 4).filter fun k => s.slotAdmits c k w
  (sortBy (fun k => (s.inSlot c k).length) ok).head?
/-- A warp takes a seat on a core. -/
def State.seat (s : State) (c : Nat) (w : Warp) : Option State :=
  (s.slotFor c w).map fun k =>
    { s with warps := s.warps ++ [{ w with core := c, slot := k, index := s.freeIndex c k }] }
/-- Each element in turn, while all succeed. -/
def foldSome {α β : Type} (f : β → α → Option β) : β → List α → Option β
  | b, [] => some b
  | b, a :: r => (f b a).bind fun b => foldSome f b r
/-- R227: the windows that warps need, then their seats. -/
def State.seatCore (s : State) (slots : Nat) (ws : List Warp) (c : Nat) : Option State :=
  let keys := (ws.flatMap fun w => (w.asids ((w.live ||| w.held) &&& ~~~w.park)).map fun a => (w.pdk, w.launch, a)).eraseDups
  (foldSome (fun t (k : Nat × Nat × Nat) => t.assignWindow c k.1 k.2.1 k.2.2 slots) s keys).bind fun s =>
    foldSome (fun t w => t.seat c w) s ws
/-- Cores in increasing order for the parts of a cluster, each of which `sit` seats. -/
def seatCores {α : Type} (sit : State → α → Nat → Option State) : State → List Nat → List α → Option (List Nat × State)
  | s, _, [] => some ([], s)
  | _, [], _ :: _ => none
  | s, c :: cs, g :: gs =>
    match (sit s g c).bind fun t => seatCores sit t cs gs with
    | some (l, t) => some (c :: l, t)
    | none => seatCores sit s cs (g :: gs)
/-- The first slice of a list whose cores have room. -/
def seatSlices {α : Type} (sit : State → α → Nat → Option State) (s : State) (parts : List α) : List Nat → Option (Nat × List Nat × State)
  | [] => none
  | sl :: r =>
    match seatCores sit s (sliceCores sl) parts with
    | some (cores, t) => some (sl, cores, t)
    | none => seatSlices sit s parts r

/-! ## Which slices (R277, R358) -/

/-- R358: one step of the walk along the curve. -/
def d2xyFrom : Nat → Nat → Nat → Nat → Nat → Nat × Nat
  | 0, _, _, x, y => (x, y)
  | n + 1, s, t, x, y =>
    let rx := t / 2 % 2
    let ry := (t ^^^ rx) % 2
    let (x, y) := if ry = 0 then (if rx = 1 then (s - 1 - y, s - 1 - x) else (y, x)) else (x, y)
    d2xyFrom n (2 * s) (t / 4) (x + s * rx) (y + s * ry)
/-- R358: d2xy of a square of 2^k. -/
def d2xy (k d : Nat) : Nat × Nat := d2xyFrom k 1 d 0 0
/-- The exponent of the smallest power of two that is at least `n`. -/
def ceilLog (n : Nat) : Nat := ((List.range 17).find? fun k => decide (n ≤ 2 ^ k)).getD 17
/-- R357, R358: the clusters of a grid in the order of their queue. -/
def gridOrder (det : Bool) (x y : Nat) : List (Nat × Nat) :=
  if det then
    let k := ceilLog (Nat.max x y)
    ((List.range (4 ^ k)).map (d2xy k)).filter fun c => decide (c.1 < x) && decide (c.2 < y)
  else (List.range (x * y)).map fun i => (i % x, i / x)

/-- The slices of a paddock, in increasing order. -/
def State.slicesOf (s : State) (p : Nat) : List Nat := allSlices.filter (s.ownsSlice p)
/-- The dies of a paddock. -/
def State.diesOf (s : State) (p : Nat) : List Nat := ((s.slicesOf p).map (· / Config.slicesPerDie)).eraseDups
/-- R277: the die that the die set of a cluster already has. -/
def State.boundDie (s : State) (l : Launch) (cl : Cluster) : Option Nat :=
  s.setDie l [cl.no] (some cl.no)
/-- R277: the dies to try, one after another, for a cluster whose die set has no die yet; `none` for any other cluster. -/
def State.diesToTry (s : State) (l : Launch) (cl : Cluster) : List (Option Nat) :=
  if (s.boundDie l cl).isSome || (s.dieSetOf l [cl.no]).length ≤ 1 then [none] else (s.diesOf l.pdk).map some
/-- The slices a cluster may go to, in order; `die` where only one die is tried. -/
def State.slicesFor (s : State) (l : Launch) (cl : Cluster) (die : Option Nat) : List Nat :=
  let dies := s.diesOf l.pdk
  let onDie (d : Option Nat) (sl : Nat) : Bool := match d with | some d => sl / Config.slicesPerDie == d | none => true
  let q := Nat.max 1 (l.desc.gridx * l.desc.gridy)
  let det := if l.desc.det && decide (cl.no < q) then dies[cl.rank * dies.length / q]? else none
  (s.slicesOf l.pdk).filter fun sl => onDie (s.boundDie l cl) sl && onDie det sl && onDie die sl

/-! ## Warps as they start (R68, R78) -/

/-- R67: an effective grant names both ASIDs. -/
def Pdk.granted (q : Pdk) (a b : Nat) : Bool :=
  a != b && q.grants.any fun g => g.inA && g.inB && ((g.a == a && g.b == b) || (g.a == b && g.b == a))
/-- R427: PDCFG.DET. -/
def Pdk.det (q : Pdk) : Bool := bitAt (q.reg 0x0C0).toNat 0
/-- R68, R71: the grant part of a warp's share relation, from the table as it stands. -/
def State.shareNow (s : State) (w : Warp) : SMap 32 :=
  let q := s.pdk w.pdk
  if q.isSealed then [] else
  msetAll [] (lanes32.map fun i => (i, maskOf fun j => q.granted (w.asidOf i) (w.asidOf j)))
/-- R68, R70: the share relation of a warp that was formed before it is placed: no grant entered since, and none revoked since (log 60). -/
def State.shareKept (s : State) (w : Warp) : SMap 32 :=
  let now := s.shareNow w
  msetAll [] (w.share.map fun x => (x.1, x.2 &&& mget now x.1))
/-- R78: a warp that has not run yet. -/
def freshWarp (id : Nat) (kind : Kind) (l : Launch) (pc : DWord) (live : Lanes) (asid : Nat → Nat) (arg : Nat → DWord) : Warp :=
  let d := l.desc
  { id, kind, pdk := l.pdk, launch := l.id, yard := l.yard, image := d.image, n := d.regs + 1, cls := d.cls, age := l.age, lid := l.lid, pc
    exm := live, live, plive := live, pexm := live, asid := msetAll [] ((lanesOf live).map fun i => (i, BitVec.ofNat 16 (asid i)))
    regs := msetAll [] ((lanesOf live).flatMap fun i => regWrites 0 i (Nat.min 2 (d.regs + 1)) (arg i).toNat)
    privKB := d.privkb, timed := d.timed, tstart := d.tstart, det := d.det }
/-- R61, R78: the address of a launch's entry. -/
def State.entryPc (s : State) (l : Launch) : DWord :=
  BitVec.ofNat 64 ((((s.pdk l.pdk).image l.desc.image).map (·.va)).getD 0 + l.desc.entry)
/-- R78 to R87: warp m of core k of a cluster of a grid. -/
def State.gridWarp (s : State) (l : Launch) (cl : Cluster) (id k m : Nat) : Warp :=
  let d := l.desc
  let x := cl.no % d.gridx
  let y := cl.no / d.gridx
  let ord := (cl.no * (d.c + 1) + k) * (d.w + 1) + m
  let w := freshWarp id (if d.kind == 1 then .persist else .grid) l (s.entryPc l) (BitVec.allOnes 32) (fun _ => l.asid) fun _ => d.argptr
  { w with clno := cl.no, share := s.shareNow w, clid := BitVec.ofNat 32 (y * 2 ^ 16 + x)
           clshape := BitVec.ofNat 32 (k * 2 ^ 16 + m * 2 ^ 12 + d.c * 2 ^ 8 + d.w)
           members := (((s.pdk l.pdk).groups.filter fun g => g.launch == l.id && g.members.contains ord).map fun g => { group := g.no }) }
/-- The warps of a cluster by core: as saved or formed, or new. -/
def State.partsOf (s : State) (l : Launch) (cl : Cluster) : List (List Warp) :=
  if cl.state == .saved then cl.cores.map fun c => cl.warps.filter (·.core == c)
  else if cl.warps.isEmpty then (List.range (l.desc.c + 1)).map fun k => (List.range (l.desc.w + 1)).map fun m =>
    s.gridWarp l cl (s.nextId + k * (l.desc.w + 1) + m) k m
  else [cl.warps]

/-! ## The return of a saved cluster (R227, R305, R335, R392, R393) -/

/-- What a place in a saved window has become on its new core. -/
def State.moved (s : State) (c : Nat) (z : Sealed) (asid a : Nat) : Nat :=
  match z.windows.find? fun x => x.win.asid == asid && decide (2048 * x.win.base ≤ a) && decide (a < 2048 * (x.win.base + x.win.slots)) with
  | none => a
  | some x =>
    match (s.core c).windows.find? fun y => y.pdk == x.win.pdk && y.launch == x.win.launch && y.asid == asid with
    | none => a
    | some y => a - 2048 * x.win.base + 2048 * y.base
/-- R227: a saved window comes back where none of its launch and ASID is assigned. -/
def State.openWindow (s : State) (c : Nat) (x : SavedWin) : Option State :=
  let same (y : Window) : Bool := y.pdk == x.win.pdk && y.launch == x.win.launch && y.asid == x.win.asid
  if (s.core c).windows.any same then some s
  else (s.assignWindow c x.win.pdk x.win.launch x.win.asid x.win.slots).map fun s =>
    let b := (((s.core c).windows.find? same).map (·.base)).getD 0
    let rec_ (r : DetRec) : DetRec := { r with line := if 2 ^ 49 ≤ r.line then r.line + tagKey c b - 2 ^ 49 else r.line + padKey c (2048 * b) - 2 ^ 48 }
    let s : State := { s with det := s.det ++ x.det.map rec_ }
    s.updCore c fun k => { k with
      pad := x.data.foldl (fun m e => mset m (2048 * b + e.1) e.2) k.pad
      tags := x.tags.foldl (fun t e => setTag t (b + e.1) e.2) k.tags
      padPoison := (x.bad.map (512 * b + ·)) ++ k.padPoison }
/-- R335: a saved reservation takes granules, accumulator slots and its macros on its new core. -/
def State.openRes (s : State) (c : Nat) (x : SavedRes) : Option State :=
  let k := s.core c
  let same (r : Reservation) : Bool := r.pdk == x.res.pdk && r.launch == x.res.launch && r.group == x.res.group
  if (k.res.any same) || x.res.macros.any fun m => k.res.any (·.macros.contains m) then none else
  match place 64 x.res.gran (k.res.flatMap fun r => unitRange r.gbase r.gran), place 128 x.res.tslots (k.res.flatMap fun r => unitRange r.tbase r.tslots) with
  | some g, some t =>
    let mine (w : Nat) : Bool := decide (t ≤ w) && decide (w < t + x.res.tslots)
    some (s.updCore c fun k =>
      { k with res := k.res ++ [{ x.res with gbase := g, tbase := t, closed := false }]
               tiles := msetAll (mdrop k.tiles fun w => mine (w / 512)) (x.tiles.map fun e => (512 * t + e.1, e.2))
               tilePoison := (x.tilePoison.map (t + ·)) ++ k.tilePoison.filter (!mine ·)
               planePoison := x.planePoison ++ k.planePoison.filter fun q => !x.res.macros.contains q.1 })
  | _, _ => none
/-- R305: a saved binding, with its columns where its window now is, waits for the unit. -/
def State.openSel (s : State) (c : Nat) (z : Sealed) (u : SelUnit) : State :=
  let at_ (streamed : Bool) (a : Nat) : Nat := if streamed then a else s.moved c z u.asid a
  let cmd (q : SelCmd × Nat) : SelCmd × Nat := match q.1 with
    | .bind ty wt st n v w a bad => (.bind ty wt st n (if st then v else s.moved c z a v) (if st then w else s.moved c z a w) a bad, q.2)
    | _ => q
  s.updCore c fun k => { k with selWait := k.selWait ++
    [{ u with values := at_ u.streamed u.values, weights := at_ u.streamed u.weights, queue := u.queue.map cmd }] }
/-- One core of a saved cluster is restored: windows, seats, units. -/
def State.seatSaved (s : State) (slots : Nat) (g : Sealed × List Warp) (c : Nat) : Option State :=
  (foldSome (fun t x => t.openWindow c x) s g.1.windows).bind fun s =>
    (s.seatCore slots g.2 c).bind fun s =>
      (foldSome (fun t x => t.openRes c x) s g.1.res).map fun s =>
        match g.1.sel with | some u => s.openSel c g.1 u | none => s
/-- R392: some bytes of the scratchpad and the poison of their words, those at `bad` poisoned and the others not. -/
def Core.replay (k : Core) (base : Nat) (e : Replay) : Core :=
  let a := base + e.off
  let words := (List.range (cdiv e.bytes.length 4)).map (a / 4 + ·)
  { k with pad := putBytes k.pad a e.bytes
           padPoison := (e.bad.map fun o => (base + o) / 4) ++ k.padPoison.filter (!words.contains ·) }
/-- R392: a replay entry is applied to the window of its ASID on its core. -/
def State.applyReplay (s : State) (l : Launch) (cores : List Nat) (e : Replay) : State :=
  match cores[e.core]? with
  | none => s
  | some c =>
    match (s.core c).windows.find? fun y => y.pdk == l.pdk && y.launch == l.id && y.asid == e.asid with
    | none => s
    | some y => s.updCore c fun k => k.replay (2048 * y.base) e
/-- R104, R393: a warp's locked set is walked and locked again; what cannot be is left out. -/
def State.relock (s : State) (wid : Nat) : State :=
  let w := s.warp wid
  let s := s.updWarp wid fun w => { w with locks := [] }
  w.locks.foldl (fun (t : State) k =>
    let w := t.warp wid
    match t.translate w.core w.pdk k.asid (k.page * 2 ^ 18) with
    | (.leaf e, u) =>
      let held := u.lockedIn w.core w.slot
      if lockKeyOf e == k && (held.contains (w.pdk, k) || decide (held.length < 16)) then u.lockEntry w k else t
    | _ => t) s
/-- R281, R401: where a lane of a saved wait, or queued command, now finds its place: a CWT's by its address, a BITWAIT's by its bit in the bitmap of
its group; what lies in memory is looked for again. -/
def State.replaced (s : State) (w : Warp) (z : Sealed) (x : Op) (a : Acc) : Acc :=
  if a.stage != .ready then a else
  match x.kind with
  | .cwt =>
    (match s.spot w a.lane x.bytes x.bytes true true a.addr with
     | .pad b => { a with pad := true, pa := b }
     | .glob va => { a with pad := false, va, stage := .walk }
     | .fault _ va => { a with pad := false, va, stage := .walk })
  | .bitwait g =>
    let at_ := (((s.pdk w.pdk).group g).map (·.mapaddr)).getD 0 + a.cmp.toNat / 8
    { a with addr := BitVec.ofNat 64 at_, va := at_, data := BitVec.ofNat 128 (a.cmp.toNat % 8), stage := .walk }
  | _ => if a.pad then { a with pa := s.moved w.core z a.asid a.pa } else { a with stage := .walk }
/-- R281, R393: a saved wait, or queued command, of a warp that is back. -/
def State.reopenWait (s : State) (cores : List Nat) (cl : Cluster) (x : Op) : State :=
  let w := s.warp x.wid
  let z := ((cl.sealed.find? fun z => cores[z.k]? == some w.core)).getD {}
  let x := { x with before := { x.before with core := w.core, slot := w.slot } }
  { s with ops := s.ops ++ [x.mapAccs (s.replaced w z x)] }
/-- R281: a restored wait is evaluated before its warp issues. -/
def State.reopenEval (s : State) (o : Nat) : State :=
  match s.op? o with
  | none => s
  | some x => if x.kind.waits then (s.walkWait x (BitVec.allOnes 32)).evalWait o else s.notify x

/-! ## Rooms (R394) -/

/-- The bytes of a core's windows in a saved context: one window for a grid, one for each ASID of a yard's warp (R227). -/
def Desc.windowBytes (d : Desc) : Nat :=
  if d.kind == 2 then 32 * 64 + 2056 * Nat.min 256 (32 * d.spslots) else 64 + 2056 * d.spslots
/-- The 4 KiB units of a cluster's room: its core sections, each with 8 MiB for the areas whose size depends on the run, which these never
exceed (log 19). -/
def Desc.ctxUnits (d : Desc) (cores warps : Nat) : Nat :=
  cdiv (256 + cores * (256 + d.windowBytes + 2 ^ 23) + warps * blockBytes (d.regs + 1)) 4096
/-- R394: the rooms of one new warp: one for each ASID of a yard's, else one. -/
def State.warpRooms (s : State) (l : Launch) (wid : Nat) : Option State :=
  let w := s.warp wid
  let keys := if w.kind == .yard then w.asids w.live else [0]
  foldSome (fun (t : State) a =>
    (t.reserveRoom w.pdk (l.desc.ctxUnits 1 1) { lid := l.lid, yard := w.yard, launch := l.id }).map fun r =>
      r.2.updWarp wid fun w => { w with rooms := w.rooms ++ [(a, r.1)] }) s keys

/-! ## Placing (R79, R80, R357, R361) -/

/-- What trying to place leads to: no room; no private slots, for the warp named; or the state after it. -/
inductive Placed where
  | noRoom
  | noSlots (w : Warp) (e : Option (Nat × Nat × Nat))
  | done (s : State)

/-- R93: every warp of a list takes its private slots. -/
def State.slotsAll (s : State) : List Nat → Placed
  | [] => .done s
  | wid :: r =>
    match s.takeSlots (s.warp wid) with
    | .error e => .noSlots (s.warp wid) e
    | .ok (m, t) => (t.updWarp wid fun w => { w with priv := m }).slotsAll r

/-- A cluster of a launch changes. -/
def State.updCluster (s : State) (l no : Nat) (f : Cluster → Cluster) : State :=
  s.updLaunch l fun x => { x with clusters := x.clusters.map fun c => if c.no == no then f c else c }

/-- The seats of a cluster: the slice, the cores, the identifiers of its warps and the state after. -/
def State.seatCluster (s : State) (l : Launch) (cl : Cluster) (die : Option Nat) : Option (Nat × List Nat × List Nat × State) :=
  let parts := s.partsOf l cl
  let ids := parts.flatten.map (·.id)
  let s' := if cl.warps.isEmpty then { s with nextId := s.nextId + ids.length } else s
  let slices := s.slicesFor l cl die
  let slots := l.desc.spslots
  let r := if cl.state == .saved then
      let zs := (List.range parts.length).map fun k => ((cl.sealed.find? (·.k == k)).getD { k }, (parts[k]?).getD [])
      seatSlices (fun t g c => t.seatSaved slots g c) s' zs slices
    else seatSlices (fun t ws c => t.seatCore slots ws c) s' parts slices
  r.map fun x => (x.1, x.2.1, ids, x.2.1.foldl s.joinTimed x.2.2)

/-- R394: the cluster's room: its own from before, or a new one; then the rooms of new warps. -/
def State.roomsFor (s : State) (l : Launch) (cl : Cluster) (cores : Nat) (ids : List Nat) : Option (Nat × State) :=
  match cl.room with
  | some r => some (r, s.updRoom l.pdk r fun x => { x with kind := 1, asid := 0, park := none })
  | none =>
    (s.reserveRoom l.pdk (l.desc.ctxUnits cores ids.length) { lid := l.lid, yard := l.yard, launch := l.id, clid := cl.no }).bind fun r =>
      (foldSome (fun t wid => t.warpRooms l wid) r.2 ids).map fun t => (r.1, t)

/-- A cluster's warps are ready, and its record says where it is. DESIGN CHOICE (log 20): of an untimed warp that was saved, what was left of a
SLEEP, or of the cycles of a taken transfer (R195), is not kept: its block has no place for it (R400). -/
def State.seated (s : State) (l : Launch) (cl : Cluster) (slice : Nat) (cores ids : List Nat) (room : Nat) : State :=
  let s := s.updCluster l.id cl.no fun c =>
    { c with state := .resident, slice, cores, room := some room, queued := false, since := s.wall, retry := 0, preempt := none, cmd := none
             warps := [], waits := [], replays := [], sealed := [] }
  -- R40, R393: the first word is not held by its DIST; what is left of a timed warp's transfer is (log 20)
  let start (w : Warp) : Warp :=
    let t := s.now w
    if !ids.contains w.id then w else
    let w := { w with stopped := false, last := none, share := if cl.state == ClState.saved then s.shareNow w else s.shareKept w }
    if w.timed && cl.state == .saved then { w with ready := t + (l.startAt - s.rink.rinkc).toNat + w.ready, tstart := l.desc.tstart }
    else { w with ready := t + 1 }
  { s with warps := s.warps.map start }
/-- R393: what is done before a restored warp issues. -/
def State.reopen (s : State) (l : Launch) (cl : Cluster) (cores ids : List Nat) : State :=
  let s := cl.replays.foldl (fun t e => t.applyReplay l cores e) s
  let s := ids.foldl State.relock s
  let s := cl.waits.foldl (fun t x => t.reopenWait cores cl x) s
  (cl.waits.map (·.id)).foldl State.reopenEval s

/-- R357, R393: one cluster is placed, or restored; on one die alone where one is tried. -/
def State.placeOne (s : State) (l : Launch) (cl : Cluster) (die : Option Nat) : Placed :=
  match s.seatCluster l cl die with
  | none => .noRoom
  | some (slice, cores, ids, t) =>
    match t.roomsFor l cl cores.length ids with
    | none => .noRoom
    | some (room, t) =>
      match t.slotsAll ids with
      | .done t =>
        let t := (t.seated l cl slice cores ids room).reopen l cl cores ids
        .done (match cl.cmd with | some n => t.reportDone l.pdk n | none => t)
      | r => r
/-- The first try that places; else that whose private slots were missing, if any. -/
def firstPlaced {α : Type} (try_ : α → Placed) (l : List α) : Placed :=
  l.foldl (fun r a => match r with
    | .done t => .done t
    | .noRoom => try_ a
    | .noSlots w e => match try_ a with | .done t => .done t | _ => .noSlots w e) .noRoom
/-- R80, R277, R361: every cluster of a launch that enters as one unit, each by `one`; a die set goes to the first die that leaves the whole unit
room. -/
def State.placeUnit (one : State → Launch → Cluster → Option Nat → Placed) (s : State) (l : Nat) : List Cluster → Placed
  | [] => .done s
  | cl :: r => firstPlaced (fun die => match one s (s.launchRec l) cl die with | .done t => t.placeUnit one l r | x => x)
      (s.diesToTry (s.launchRec l) cl)
/-- R277, R357: a cluster that is placed alone goes to the first die with room for it. -/
def State.placeSome (s : State) (l : Launch) (cl : Cluster) : Placed := firstPlaced (s.placeOne l cl) (s.diesToTry l cl)

/-- R357: the device's queued clusters: the most urgent class first, then in the order of their launches, and of their ranks. -/
def State.queue (s : State) : List (Launch × Cluster) :=
  let all := s.launches.flatMap fun l => (l.clusters.filter (·.queued)).map fun c => (l, c)
  sortBy (·.1.desc.cls) (sortBy (·.1.id) (sortBy (·.2.rank) all))
/-- The queued clusters of a paddock. -/
def State.queueOf (s : State) (p : Nat) : List (Launch × Cluster) := s.queue.filter (·.1.pdk == p)
/-- R261: no earlier launch of its paddock stands before one in deterministic mode. -/
def State.launchTurn (s : State) (l : Launch) : Bool := !l.desc.det || s.launches.all fun x => x.pdk != l.pdk || decide (l.id ≤ x.id)
/-- R396: the rank from which clusters of resumed records are numbered; they have no place on the curve of R358. -/
def resumedRank : Nat := 2 ^ 33
/-- R358: the cluster before one on the curve, if any, has become resident. -/
def Launch.inOrder (l : Launch) (cl : Cluster) : Bool :=
  !l.desc.det || cl.state == .saved || cl.rank = 0 || decide (resumedRank ≤ cl.rank) ||
    l.clusters.any fun c => c.rank + 1 == cl.rank && c.state != .waiting
/-- R435: a paddock whose interface is in ERROR, that is halted or is being scrubbed places nothing. -/
def Pdk.places (q : Pdk) : Bool := q.ifstate != 3 && !q.stalled && !q.stopping
/-- R357: the head of the queues of the device, of the clusters that their paddock and R261 let be placed (log 21). -/
def State.queueHead (s : State) : Option (Launch × Cluster) := s.queue.find? fun x => (s.pdk x.1.pdk).places && s.launchTurn x.1
/-- R357: the attempt to place the head, where it is a paddock's. -/
def State.placeHead (s : State) (p : Nat) : Option (Launch × Cluster × Placed) :=
  match s.queueHead with
  | none => none
  | some (l, cl) =>
    if l.pdk != p || !l.inOrder cl then none
    else if (l.desc.kind == 1 || l.desc.timed) && cl.state == .waiting && cl.warps.isEmpty then
      some (l, cl, s.placeUnit State.placeOne l.id (l.clusters.filter (·.state == .waiting)))
    else some (l, cl, s.placeSome l cl)
/-- R357: a placement of a paddock is due: its head has room, or has just found no private slots. -/
def State.placeDue (s : State) (p : Nat) : Option Cluster :=
  match s.placeHead p with
  | some (_, cl, .done _) => some cl
  | some (_, cl, .noSlots ..) => if cl.retry = 0 then some cl else none
  | _ => none
/-- R349: CRSTAT.WAITROOM. -/
def State.noteWaiting (s : State) (p : Nat) : State :=
  if s.hasPdk p then s.updPdk p fun q =>
    q.setReg 0x06C (BitVec.ofNat 64 (setFld (q.reg 0x06C).toNat 1 1 (if (s.queueOf p).isEmpty then 0 else 1)))
  else s
/-- R93: the attempt found no slots: the fault, if any, is posted, and the head waits. -/
def State.slotsMissing (s : State) (l cl : Nat) (w : Warp) (e : Option (Nat × Nat × Nat)) : State :=
  let s := s.updCluster l cl fun c => { c with retry := Nat.max 1 s.wall }
  match e with
  | none => s
  | some (a, code, va) =>
    let s := match s.vaddrRW w.pdk a va with | some pa => (s.ecc none w.pdk pa 8 false).2 | none => s
    s.postFault w.pdk a code (blockOf va) (bitmapOf va) 1 true 0 (s.lidOf w) 0xFFF

/-- `CLUSTER_PLACE` (R357): the head of a paddock's queue is placed. -/
def execClusterPlace (p : Nat) (s : State) : Out :=
  .next (match s.placeHead p with
    | some (_, _, .done t) => t.noteWaiting p
    | some (l, cl, .noSlots w e) => if cl.retry = 0 then s.slotsMissing l.id cl.no w e else s
    | _ => s.noteWaiting p)
/-- `CLUSTER_RESTORE` (R393): the saved cluster at the head of a paddock's queue, by its room, is placed again. -/
def execClusterRestore (p idx : Nat) (s : State) : Out :=
  .next (match s.placeHead p with
    | some (_, cl, .done t) => if cl.state == .saved && cl.room == some idx then t.noteWaiting p else s
    | _ => s)

/-- R93: a wait for slots ends when room or slots free: the next attempt is due. -/
def State.retryQueue (s : State) (p : Nat) : State :=
  { s with launches := s.launches.map fun l =>
      if l.pdk == p then { l with clusters := l.clusters.map fun c => { c with retry := 0 } } else l }
/-- R93: a cluster has waited 800,000 cycles since its last attempt. -/
def State.slotRetryDue (s : State) (c : Cluster) : Bool := c.queued && c.retry != 0 && decide (c.retry + 800000 ≤ s.wall)
/-- `PRIVATE_SLOT_RETRY` (R93). -/
def execPrivateSlotRetry (s : State) : Out :=
  .next { s with launches := s.launches.map fun l =>
    { l with clusters := l.clusters.map fun c => if s.slotRetryDue c then { c with retry := 0 } else c } }

end Sys2Proof.Machine
end

