-- ==== Sys2Proof/Machine/Launch.lean ====
section
/-! DEFINITION. Launches and yards: descriptors, group lists, acceptance, formation, starts, and the end of warps, clusters and launches
(R64, R72 to R75, R81, R82, R261, R353 to R355, R361). -/
namespace Sys2Proof.Machine
open Sys2Proof

/-! ## Commands (R352, R353) -/

/-- A command of a ring changes. -/
def State.updCmd (s : State) (p seq : Nat) (f : Cmd → Cmd) : State :=
  s.updRing p fun g => { g with cmds := g.cmds.map fun c => if c.seq == seq then f c else c }
/-- R352: the accepted command that starts next, if it is this one: every command before it has started. -/
def State.toStart (s : State) (p seq opc : Nat) (payload : BitVec 256) : Bool :=
  match (s.ringOf p).cmds.find? (!·.started) with
  | some c => c.seq == seq && c.opc == opc && c.payload == payload && c.report.isNone
  | none => false
/-- A command of a ring starts: `k` does it. A command that is not the next to start does nothing (log 6). -/
def State.command (s : State) (p seq opc : Nat) (payload : BitVec 256) (k : State → State) : Out :=
  .next (if s.toStart p seq opc payload then k (s.updCmd p seq fun c => { c with started := true }) else s)
/-- R351: the bits of a payload outside some fields, each by its lowest bit and its width, are zero. -/
def unusedZero (payload : BitVec 256) (fields : List (Nat × Nat)) : Bool :=
  (fields.foldl (fun x f => setFld x f.1 f.2 0) payload.toNat) == 0

/-! ## Reading memory for a command -/

/-- Bytes under an ASID, line by line; none where one of them cannot be read. -/
def State.vgetPieces (s : State) (p asid : Nat) : List (Nat × Nat) → Option (List (BitVec 8))
  | [] => some []
  | x :: r => match s.vread p asid x.1 x.2, s.vgetPieces p asid r with
    | some v, some l => some (leBytes v x.2 ++ l)
    | _, _ => none
/-- Bytes at a virtual address under an ASID, over any pages. -/
def State.vgetBytes (s : State) (p asid va n : Nat) : Option (List (BitVec 8)) := s.vgetPieces p asid (linePieces va n)
/-- The number they make. -/
def State.vget (s : State) (p asid va n : Nat) : Option Nat := (s.vgetBytes p asid va n).map ofLe
/-- R13: the device's reads of some ranges of an ASID, and of the tables on the way: failures are logged, and frames retired. -/
def State.noteGets (s : State) (p asid : Nat) (ranges : List (Nat × Nat)) : State :=
  (ranges.flatMap fun r => linePieces r.1 r.2).foldl (fun (t : State) x =>
    let t := t.noteReads p (t.walkReads p asid x.1)
    match t.vaddr p asid x.1 false with
    | some a => (t.ecc none p a x.2 false).2
    | none => t) s
/-- R81: bytes that a present leaf lets the device read and write. -/
def State.mappedRW (s : State) (p asid va : Nat) : Bool := decide (va < 2 ^ 57) && (s.vaddrRW p asid va).isSome

/-! ## Descriptors (R355) -/

/-- R9, R355: a descriptor of 1,024 bits; none with a field out of range. Its reserved bits are ignored. -/
def parseDesc (x : Nat) : Option Desc :=
  let d : Desc :=
    { argptr := BitVec.ofNat 64 (fld x 960 64), glist := fld x 896 64, nbbind := (List.range 16).map fun k => fld x (768 + 8 * k) 8
      tstart := BitVec.ofNat 64 (fld x 704 64), image := fld x 672 32, entry := fld x 640 32, gridx := fld x 624 16, gridy := fld x 608 16
      gcount := fld x 600 8, phaseg := fld x 592 8, privkb := fld x 576 16, spslots := fld x 567 9, regs := fld x 559 8, cls := fld x 557 2
      kind := fld x 555 2, c := fld x 553 2, w := fld x 549 4, det := bitAt x 548, timed := bitAt x 547 }
  if d.glist % 64 == 0 && d.entry % 16 == 0 && decide (d.privkb ≤ 16384) && decide (d.spslots ≤ 256) && d.kind != 3
  then some d else none
/-- R355: the descriptor at an address. -/
def State.readDesc (s : State) (p asid va : Nat) : Option Desc :=
  if va % 64 != 0 then none else (s.vget p asid va 128).bind parseDesc
/-- What a descriptor of a grid and one of a yard must meet alike: the reason of R354 that fails it. -/
def State.descFault (s : State) (p : Nat) (d : Desc) : Option Nat :=
  if d.det != (s.pdk p).det then some 2
  else match (s.pdk p).image d.image with
    | none => some 3
    | some im => if d.regs + 1 != im.n || decide (im.len ≤ d.entry) then some 2 else none

/-! ## The group fill list (R81, R82, R355) -/

/-- All results, or the first error. -/
def allOk {ε α : Type} : List (Except ε α) → Except ε (List α)
  | [] => .ok []
  | .error e :: _ => .error e
  | .ok a :: r => match allOk r with | .ok l => .ok (a :: l) | .error e => .error e
/-- R355: the ordinals of a member bitmap for `n` warps; none where it cannot be read, is empty, or has a bit at or beyond `n`. -/
def State.readMembers (s : State) (p asid va n : Nat) : Option (List Nat) :=
  let word (k : Nat) : Except Unit (List Nat) :=
    match s.vget p asid (va + 8 * k) 8 with
    | some v => .ok (((List.range 64).filter (bitAt v ·)).map (64 * k + ·))
    | none => .error ()
  match allOk ((List.range (cdiv n 64)).map word) with
  | .error _ => none
  | .ok l => let ms := l.flatten; if ms.isEmpty || ms.any (decide <| n ≤ ·) then none else some ms
/-- R9, R355: one entry of the list; its reserved bits are ignored. -/
def State.readFill (s : State) (p asid va n : Nat) : Except Nat Group :=
  match s.vget p asid va 32 with
  | none => .error 2
  | some x =>
    let g : Group := { no := fld x 248 8, scope := fld x 246 2, mapbits := fld x 230 16, msw := bitAt x 229, baraddr := fld x 128 64, mapaddr := fld x 64 64 }
    let at_ := fld x 0 64
    if g.scope == 3 || g.baraddr % 64 != 0 || g.mapaddr % 8 != 0 || at_ % 8 != 0 then .error 2
    else match s.readMembers p asid at_ n with
      | none => .error 2
      | some ms => if 65535 < ms.length then .error 5 else .ok { g with members := ms, count := ms.length, bar := { count := ms.length } }
/-- The clusters that a group has members in. -/
def Group.clusters (g : Group) (per : Nat) : List Nat := (g.members.map (· / per)).eraseDups
/-- R82, R84, R277, R355: the rules of a whole list: the reason that fails it. -/
def State.groupsFault (s : State) (p asid : Nat) (d : Desc) (gs : List Group) : Option Nat :=
  let nos := gs.map (·.no)
  let one (g : Group) : Bool := (g.clusters d.per).length == 1
  let named := d.nbbind.filter (· != 0xFF)
  if nos.eraseDups.length != nos.length then some 2
  else if named.any (!nos.contains ·) then some 2
  else if named.any fun k => gs.any fun g => g.no == k && !one g then some 5
  else if gs.any fun g => g.scope == 0 && !one g then some 5
  else if (gs.flatMap (·.members)).any fun m => decide (4 < (gs.filter (·.members.contains m)).length) then some 5
  else if nos.any fun k => ((s.pdk p).group k).isSome then some 4
  else if gs.any fun g => !s.mappedRW p asid g.baraddr || (g.msw && !s.mappedRW p asid (g.baraddr + 64)) then some 2
  else none

/-! ## LAUNCH (R261, R354, R355, R361) -/

/-- R79: the clusters of a grid as they are queued. -/
def State.clustersOf (s : State) (d : Desc) (gs : List Group) : List Cluster :=
  let order := gridOrder d.det d.gridx d.gridy
  -- R84: bound to a group whose members all lie in the cluster
  let nbs (no : Nat) := (List.range 16).filterMap fun k =>
    (gs.find? fun g => some g.no == d.nbbind[k]? && (g.clusters d.per).all (· == no)).map fun g => (k, g.no, ({ count := g.count } : Barrier))
  (List.range order.length).map fun r =>
    let (x, y) := (order[r]?).getD (0, 0)
    { no := y * d.gridx + x, rank := r, nbs := nbs (y * d.gridx + x), entered := s.wall }
/-- A cluster takes its seats and nothing else. -/
def State.seatOnly (s : State) (l : Launch) (cl : Cluster) (die : Option Nat) : Placed :=
  match s.seatCluster l cl die with
  | some (slice, cores, _, t) => .done (t.updCluster l.id cl.no fun c => { c with state := .resident, slice, cores })
  | none => .noRoom
/-- R80: a `persist` launch that its paddock could never hold: with nothing else there, its clusters do not all find seats. -/
def State.neverFits (s : State) (gs : List Group) (l : Launch) : Bool :=
  let bare : State := { s with warps := [], cores := [], launches := s.launches ++ [l] }
  let bare := bare.updPdk l.pdk fun q => { q with groups := q.groups ++ gs.map fun g => { g with launch := l.id } }
  l.desc.kind == 1 && match bare.placeUnit State.seatOnly l.id l.clusters with | .done _ => false | _ => true
/-- The die sets of a launch's groups of SCOPE die (R277). -/
def dieSets (d : Desc) (gs : List Group) : List (List Nat) :=
  let ls := (gs.filter (·.scope == 1)).map (·.clusters d.per)
  ls.map (dieSet ls ls.length)
/-- R277: a die has room for some clusters at once, with nothing else there. -/
def State.dieHolds (s : State) (l : Launch) (die : Nat) (cs : List Cluster) : Bool :=
  let slices := (s.slicesOf l.pdk).filter (· / Config.slicesPerDie == die)
  let go (t : State) (cl : Cluster) : Option State :=
    (seatSlices (fun t ws c => t.seatCore l.desc.spslots ws c) t (t.partsOf l cl) slices).map fun r => { r.2.2 with nextId := t.nextId + l.desc.per }
  (foldSome go { s with warps := [], cores := [] } cs).isSome
/-- R277: what fails a launch by a die set: no die has room for a cluster of it, or for all of a `persist` launch's, or R358 would place its
clusters on two dies. -/
def State.dieFault (s : State) (l : Launch) (gs : List Group) : Bool :=
  let dies := s.diesOf l.pdk
  (dieSets l.desc gs).any fun set =>
    let cs := l.clusters.filter fun c => set.contains c.no
    !(dies.any fun d => s.dieHolds l d (if l.desc.kind == 1 then cs else cs.take 1)) ||
      (l.desc.det && decide (1 < ((cs.map fun c => c.rank * dies.length / l.clusters.length).eraseDups).length))
/-- R355: what a LAUNCH reads under its ASID: its descriptor, the list, the member bitmaps. -/
def State.launchReads (s : State) (p : Nat) (payload : BitVec 256) : List (Nat × Nat) :=
  let va := fld payload.toNat 192 64
  let asid := fld payload.toNat 144 16
  (va, 128) :: match s.readDesc p asid va with
    | none => []
    | some d =>
      let n := d.gridx * d.gridy * d.per
      (List.range d.gcount).flatMap fun k =>
        let at_ := d.glist + 32 * k
        (at_, 32) :: (match s.vget p asid at_ 32 with | some x => [(fld x 0 64, 8 * cdiv n 64)] | none => [])
/-- R355: the checks of a LAUNCH, in the model's order (log 22): its groups and record, or the reason that fails it. -/
def State.checkLaunch (s : State) (p seq : Nat) (payload : BitVec 256) : Except Nat (List Group × Launch) :=
  let va := fld payload.toNat 192 64
  let lid := fld payload.toNat 160 32
  let asid := fld payload.toNat 144 16
  if lid = 0 then .error 2
  else if asid = 0 then .error 0x0C
  else match s.readDesc p asid va with
  | none => .error 2
  | some d =>
    if 2 ≤ d.kind || d.gridx = 0 || d.gridy = 0 || (d.glist = 0 && d.gcount != 0) then .error 2
    else match s.descFault p d with
    | some r => .error r
    | none =>
      if !s.privOk p asid d.privkb then .error 2
      else match allOk ((List.range d.gcount).map fun k => s.readFill p asid (d.glist + 32 * k) (d.gridx * d.gridy * d.per)) with
      | .error r => .error r
      | .ok gs =>
        let gs := gs.map fun g => { g with cluster := if g.scope == 0 then (g.clusters d.per).head? else none }
        match s.groupsFault p asid d gs with
        | some r => .error r
        | none =>
          let l : Launch := { id := s.nextId, pdk := p, seq := some seq, lid := BitVec.ofNat 32 lid - ((s.pdk p).reg 0x0A8).truncate 32, asid, age := s.acceptedAt p seq,
                              desc := d, clusters := s.clustersOf d gs, startAt := d.tstart }
          if s.dieFault l gs then .error 5
          else if d.det && !(gs.any fun g => g.no == d.phaseg && g.count == d.gridx * d.gridy * d.per) then .error 9
          else if d.timed && (!bitAt s.rkctl 0 || decide (d.tstart.toNat ≤ s.rink.rinkc.toNat)) then .error 8
          else if ({ s with nextId := s.nextId + 1 }).neverFits gs l then .error 6
          else .ok (gs, l)
/-- R271, R327, R355: an accepted launch fills its groups and queues its clusters. -/
def State.enterLaunch (s : State) (gs : List Group) (l : Launch) : State :=
  let s := { s with nextId := s.nextId + 1, launches := s.launches ++ [l] }
  let s := s.updPdk l.pdk fun q => { q with groups := q.groups ++ gs.map fun g => { g with launch := l.id } }
  let s := gs.foldl (fun (t : State) g =>
    let t := t.mirror l.pdk g.no
    if g.msw then t.devVWrite l.pdk l.asid (g.baraddr + 64) (List.replicate 8 0) (t.exposeLid l.pdk l.lid) else t) s
  s.noteWaiting l.pdk
/-- LAUNCH (R355). -/
def execLaunch (p seq : Nat) (payload : BitVec 256) (s : State) : Out :=
  s.command p seq 0x01 payload fun s =>
    if !unusedZero payload [(144, 112)] then s.reportFail p seq 1
    else if !s.hasPdk p then s.reportFail p seq 2
    else
      let s := s.noteGets p (fld payload.toNat 144 16) (s.launchReads p payload)
      match s.checkLaunch p seq payload with
      | .error r => s.reportFail p seq r
      | .ok (gs, l) => s.enterLaunch gs l

/-! ## Yards (R72 to R75, R455) -/

/-- R427: PARENT and LEVEL of a paddock. -/
def Pdk.parent (q : Pdk) : Nat := fld (q.reg 0x0C0).toNat 8 8
/-- LEVEL. -/
def Pdk.level (q : Pdk) : Nat := fld (q.reg 0x0C0).toNat 2 2
/-- R425, R426: the paddocks carved from a ring's. -/
def State.children (s : State) (p : Nat) : List Pdk := s.pdks.filter fun q => q.no != p && q.parent == p
/-- R455: the paddock that a YARDCREATE or a TMPLSET of a ring names: that of the ring, or one of its children. No field of their payload says
which, so that it is free where there is more than one (log 22). -/
def State.named (s : State) (p seq : Nat) : Option Nat :=
  let ks := (if s.hasPdk p then [p] else []) ++ (s.children p).map (·.no)
  ks[Config.names p seq % ks.length]?
/-- The yard of a number. -/
def Pdk.yard (q : Pdk) (y : Nat) : Option Yard := q.yards.find? (·.no == y)
/-- A yard changes. -/
def State.updYard (s : State) (p y : Nat) (f : Yard → Yard) : State :=
  s.updPdk p fun q => { q with yards := q.yards.map fun x => if x.no == y then f x else x }
/-- R73: the requests a trigger applies to: a sealed paddock's by ASID, else all. -/
def Yard.lines (y : Yard) (isSealed : Bool) : List (List Request) :=
  if isSealed then (y.pending.map (·.asid)).eraseDups.map fun a => y.pending.filter (·.asid == a) else [y.pending]
/-- R73: a queue of requests forms a warp at a wall cycle. -/
def formsAt (wall : Nat) (l : List Request) : Bool :=
  decide (32 ≤ l.length) || (match l.head? with | some r => decide (r.time + Config.yardWait ≤ wall) | none => false)
/-- R14, R74, R75: the oldest requests of a queue become a warp, which is a launch record of its own with one cluster. -/
def State.formYardWarp (s : State) (p y : Nat) (l : List Request) : State :=
  match (s.pdk p).yard y with
  | none => s
  | some yd =>
    let rs := l.take 32
    let (wid, s) := s.takeId
    let (id, s) := s.takeId
    let image := (((s.pdk p).images.find? (·.ident == yd.ident)).map (·.handle)).getD yd.desc.image
    let rec' : Launch := { id, pdk := p, asid := 0, age := ((rs.head?).map (·.time)).getD s.wall, desc := { yd.desc with image }, yard := some y }
    let at_ (i : Nat) : Request := (rs[i]?).getD {}
    let w := freshWarp wid .yard rec' (s.entryPc rec') (maskOf fun i => decide (i < rs.length)) (fun i => (at_ i).asid) fun i => (at_ i).arg
    let rec' := { rec' with clusters := [{ warps := [{ w with share := s.shareNow w }], entered := s.wall }] }
    let s := s.updYard p y fun yd => { yd with pending := yd.pending.filter fun r => !rs.contains r }
    { s with launches := s.launches ++ [rec'], seqs := s.seqs ++ (List.range rs.length).map fun i => (p, wid, i, (at_ i).seq) }
/-- R73: every queue of a paddock's yards that triggers forms its warp, the oldest request first. -/
def State.formYards (s : State) (p : Nat) : State :=
  let q := s.pdk p
  let due := q.yards.flatMap fun y => ((y.lines q.isSealed).filter (formsAt s.wall)).map fun l => (y.no, l)
  let s := (sortBy (fun x => ((x.2.head?).map (·.time)).getD 0) due).foldl (fun t x => t.formYardWarp p x.1 x.2) s
  s.noteWaiting p
/-- A yard of a paddock triggers now. -/
def State.yardDue (s : State) (q : Pdk) : Bool := q.yards.any fun y => (y.lines q.isSealed).any (formsAt s.wall)
/-- `YARD_FORM_TIMEOUT` (R73). -/
def execYardFormTimeout (s : State) : Out := .next (((s.pdks.filter s.yardDue).map (·.no)).foldl State.formYards s)

/-- YARDPOST (R72, R93). -/
def execYardpost (p seq : Nat) (payload : BitVec 256) (s : State) : Out :=
  s.command p seq 0x02 payload fun s =>
    let asid := fld payload.toNat 176 16
    let y := fld payload.toNat 168 8
    if !unusedZero payload [(168, 88)] then s.reportFail p seq 1
    else if asid = 0 then s.reportFail p seq 0x0C
    else match (s.pdk p).yard y with
      | none => s.reportFail p seq 2
      | some yd =>
        if Config.yardLimit ≤ yd.pending.length then s.reportFail p seq 7
        else if !s.privOk p asid yd.desc.privkb then s.reportFail p seq 2
        else
          let r : Request := { seq, asid, arg := BitVec.ofNat 64 (fld payload.toNat 192 64), time := s.wall }
          let s := s.updYard p y fun yd => { yd with pending := yd.pending ++ [r] }
          if s.yardDue (s.pdk p) then s.formYards p else s
/-- YARDCREATE (R355, R72, R455), for the paddock it names. A KIND 2 descriptor has no fill list, so each byte of its NBBIND is 0xFF. -/
def execYardcreate (p seq : Nat) (payload : BitVec 256) (s : State) : Out :=
  s.command p seq 0x20 payload fun s =>
    let va := fld payload.toNat 192 64
    let y := fld payload.toNat 184 8
    let asid := fld payload.toNat 160 16
    if !unusedZero payload [(192, 64), (184, 8), (160, 16)] then s.reportFail p seq 1
    else match s.named p seq with
    | none => s.reportFail p seq 2
    | some no =>
      if 64 ≤ y || ((s.pdk no).yard y).isSome then s.reportFail p seq 2 else
      let s := s.noteGets no asid [(va, 128)]
      match s.readDesc no asid va with
      | none => s.reportFail p seq 2
      | some d =>
        if d.nbbind.any (· != 0xFF) || d.kind != 2 || d.argptr != 0 || d.gridx != 0 || d.gridy != 0 || d.c != 0 || d.w != 0 || d.glist != 0 || d.gcount != 0 || d.timed then s.reportFail p seq 2
        else match s.descFault no d with
          | some r => s.reportFail p seq r
          | none =>
            let ident := (((s.pdk no).image d.image).map (·.ident)).getD 0
            (s.updPdk no fun q => { q with yards := q.yards ++ [{ no := y, ident, desc := d }] }).reportDone p seq
/-- YARDDESTROY (R455). -/
def execYarddestroy (p seq : Nat) (payload : BitVec 256) (s : State) : Out :=
  s.command p seq 0x21 payload fun s =>
    let y := fld payload.toNat 248 8
    if !unusedZero payload [(248, 8)] then s.reportFail p seq 1
    else match (s.pdk p).yard y with
      | none => s.reportFail p seq 2
      | some yd =>
        let s := yd.pending.foldl (fun t r => t.reportFail p r.seq 0x0B) s
        (s.updPdk p fun q => { q with yards := q.yards.filter (·.no != y) }).reportDone p seq

/-! ## The end of warps, clusters and launches (R64, R341, R353, R358) -/

/-- R353: yard requests whose lanes have exited are done. A parked lane has not exited. -/
def State.reportLanes (s : State) (wid : Nat) : State :=
  let w := s.warp wid
  let out (x : Nat × Nat × Nat × Nat) : Bool :=
    x.2.1 == wid && s.hasWarp wid && !(w.live ||| w.held ||| w.park).getLsbD x.2.2.1
  let s' := { s with seqs := s.seqs.filter (!out ·) }
  (s.seqs.filter out).foldl (fun t x => t.reportDone x.1 x.2.2.2) s'
/-- R64: a warp has nothing left: no lane that runs or may run, no access, result, fault, region, record or command of its own. A wait ends with
its warp, once its lanes have found their places (R388). -/
def State.warpOver (s : State) (w : Warp) : Bool :=
  w.kind != .handler && !w.gone && (w.live ||| w.held) &&& ~~~w.park == 0 && w.pend.isEmpty && w.region.isNone && w.heldBy.isNone &&
    (s.ops.all fun x => x.wid != w.id || (x.kind.waits && x.accs.all fun a => a.stage != .walk && a.stage != .touch) || (match x.kind with | .await .. | .cwait _ => true | _ => false)) &&
    s.deferred.all (·.wid != w.id) && s.parked.all (·.wid != w.id) && s.pending.all (·.wid != w.id) &&
    s.jobs.all (·.wid != w.id) && (s.core w.core).padq.all (·.wid != w.id) && !s.frozen w.core
/-- R273: the leaves of a warp that retires come in their turn of the cycle. -/
def State.mayRetire (s : State) (w : Warp) : Bool :=
  s.warpOver w && w.members.all fun m => match s.barrier? w false m.group with | some b => b.inTurn s.wall w.turn | none => true
/-- R93, R272, R276, R288: a warp retires: it leaves its groups, lets its slots go, and its waits end. -/
def State.endWarp (s : State) (wid : Nat) : State :=
  let w := s.warp wid
  let s := w.members.foldl (fun t m => t.leaveGroup (t.warp wid) m.group) s
  let s := s.freeSlots w (BitVec.allOnes 32 &&& ~~~w.park)
  let s := s.freeLocks wid
  let s := if (s.core w.core).sel.holder == some wid then s.freeSel w.core else s
  let s := { s with ops := s.ops.filter (·.wid != wid) }
  (s.updWarp wid fun w => { w with live := w.live &&& w.park, held := 0, gone := true }).reportLanes wid
/-- A warp's place is free: its room, its window and its slot. -/
def State.clearOut (s : State) (wid : Nat) : State :=
  let w := s.warp wid
  let s := w.rooms.foldl (fun t r => t.freeRoom w.pdk r.2) s
  ((s.dropWarp wid).releaseWindows w.core).retryQueue w.pdk
/-- The warps of a cluster. -/
def State.warpsOf (s : State) (l cl : Nat) : List Warp := s.warps.filter fun w => w.launch == l && w.clno == cl && w.kind != .handler
/-- R358: a cluster of a launch may retire now: its warps have, and in deterministic mode so has the cluster before it. -/
def State.clusterOver (s : State) (l : Launch) (c : Cluster) : Bool :=
  c.state == .resident && ((s.warpsOf l.id c.no).all (·.gone)) &&
    (!l.desc.det || c.rank = 0 || decide (resumedRank ≤ c.rank) || l.clusters.any fun d => d.rank + 1 == c.rank && d.state == .retired)
/-- R79: a cluster retires: its warps' places and its room are free. -/
def State.retireCluster (s : State) (l : Launch) (c : Cluster) : State :=
  let s := ((s.warpsOf l.id c.no).map (·.id)).foldl State.clearOut s
  -- the room of a resumed warp that has been parked again stays with its record
  let parked (r : Nat) : Bool := (s.pdk l.pdk).rooms.any fun x => x.idx == r && x.kind == 3
  let s := match c.room with | some r => (if parked r then s else s.freeRoom l.pdk r) | none => s
  s.updCluster l.id c.no fun c => { c with state := .retired, room := none, cores := [] }
/-- A launch has a parked record that has not been resumed (R353). -/
def State.hasParked (s : State) (l : Launch) : Bool :=
  s.parked.any (·.before.launch == l.id) || (s.pdk l.pdk).rooms.any fun r => r.kind == 3 && r.park.any (·.before.launch == l.id)
/-- R353: a launch is done. -/
def State.launchOver (s : State) (l : Launch) : Bool := l.clusters.all (·.state == .retired) && !s.hasParked l
/-- R81, R227, R341, R353: a launch retires: its groups, windows and reservations are free, and it is reported. -/
def State.closeLaunch (s : State) (l : Launch) : State :=
  let s := s.updPdk l.pdk fun q => { q with groups := q.groups.filter (·.launch != l.id) }
  let own (r : Reservation) : Bool := r.pdk == l.pdk && r.launch == l.id
  let s := { s with
    launches := s.launches.filter (·.id != l.id)
    cores := s.cores.map fun k => { k with res := k.res.filter (!own ·), windows := k.windows.filter fun x => !(x.pdk == l.pdk && x.launch == l.id) } }
  match l.seq with
  | none => s
  | some n => (match l.failed with | some r => s.reportFail l.pdk n r | none => s.reportDone l.pdk n)
/-- Clusters, by rising rank, and then launches that have come to their end. -/
def State.sweep (s : State) : State :=
  let s := s.launches.foldl (fun t l => (sortBy (·.rank) l.clusters).foldl (fun t c =>
    let l := t.launchRec l.id
    match l.clusters.find? (·.no == c.no) with
    | some c => if t.clusterOver l c then t.retireCluster l c else t
    | none => t) t) s
  (s.launches.filter s.launchOver).foldl (fun t l => t.closeLaunch l) s
/-- A launch or a cluster has come to its end. -/
def State.sweepDue (s : State) : Bool := s.launches.any fun l => s.launchOver l || l.clusters.any (s.clusterOver l)
/-- `WARP_RETIRE` (R64): a warp that is over retires. Outside deterministic mode its place is free at once. -/
def execWarpRetire (s : State) : Out :=
  .next (match (sortBy Warp.turn s.warps).find? s.mayRetire with
    | none => s.sweep
    | some w =>
      let s := s.endWarp w.id
      (if w.det then s else s.clearOut w.id).sweep)

/-! ## Timed starts (R361) -/

/-- R422: a launch of a task that has ended still waits for room: it misses its start. -/
def State.startLost (s : State) (l : Launch) : Bool := s.rink.aborted.contains l.desc.tstart && l.clusters.any (·.state == .waiting)
/-- A timed launch whose start has come or is past, or will not come. -/
def State.startDue (s : State) (l : Launch) : Bool :=
  l.desc.timed && !l.started && l.failed.isNone && s.rink.formed && (decide (l.startAt.toNat ≤ s.rink.rinkc.toNat) || s.startLost l)
/-- R354, R361: a timed launch that missed its start, or the new one of a CRESUME (log 20): nothing of it runs, and it is reported. -/
def State.missStart (s : State) (l : Launch) : State :=
  let s := (s.warps.filter (·.launch == l.id)).foldl (fun (t : State) w => (t.endWarp w.id).clearOut w.id) s
  let s := l.clusters.foldl (fun (t : State) c => match c.room with | some r => t.freeRoom l.pdk r | none => t) s
  let s := (l.seq.toList ++ l.clusters.filterMap (·.cmd)).foldl (fun t n => t.reportFail l.pdk n 8) s
  (s.updLaunch l.id fun l =>
    { l with failed := some 8, clusters := l.clusters.map fun c => { c with state := .retired, queued := false, room := none } }).noteWaiting l.pdk
/-- R361: a warp of a launch that starts issues its next word in this cycle, or where its transfer binds it. -/
def State.started (s : State) (l : Nat) (w : Warp) : Warp :=
  if w.launch == l && decide (w.ready ≤ s.now w) then { w with ready := s.now w, target := true } else w
/-- A launch as it stands once it has started. -/
def State.startLaunch (s : State) (l : Launch) : State :=
  { (s.updLaunch l.id fun l => { l with started := true }) with warps := s.warps.map (s.started l.id) }

end Sys2Proof.Machine
end

