-- ==== Sys2Proof/Machine/Saved.lean ====
section
/-! DEFINITION. The saved context as bytes, and read back: core sections, windows, bindings, reservations, replays, waits and kept frames (R305,
R335, R392, R399 to R401, R423), and what a copied context area makes of them (R402). Places that the rules leave to the device are the
model's (log 19). -/
namespace Sys2Proof.Machine
open Sys2Proof

/-! ## Windows, replays, bindings, reservations as bytes (R305, R335, R392, R399) -/

/-- Bytes padded with zeros to a length. -/
def padTo (n : Nat) (bs : List (BitVec 8)) : List (BitVec 8) := bs ++ List.replicate (n - bs.length) 0
/-- R231: the bits of a tag entry. -/
def Tag.bits (t : Tag) : Nat := (if t.valid then 2 ^ 63 else 0) + (if t.dirty then 2 ^ 62 else 0) + t.asid.toNat * 2 ^ 46 + t.tag.toNat
/-- R231: the tag entry of some bits. -/
def tagOf (v : Nat) : Tag := { valid := bitAt v 63, dirty := bitAt v 62, asid := BitVec.ofNat 16 (fld v 46 16), tag := BitVec.ofNat 46 (fld v 0 46) }
/-- R399: a window: descriptor, tag entries, data. -/
def SavedWin.block (x : SavedWin) (lid : Word) : List (BitVec 8) :=
  padTo 64 (leBytes x.win.asid 4 ++ leBytes lid.toNat 4 ++ leBytes x.win.slots 4) ++
  (List.range x.win.slots).flatMap (fun i => leBytes (((alist x.tags i).map Tag.bits).getD 0) 8) ++ getBytes x.data 0 (2048 * x.win.slots)
/-- R399, R402: a window of a launch from its bytes; the device's own copy of it, if any, gives the rest. -/
def readWin (kept : List SavedWin) (p launch : Nat) (bs : List (BitVec 8)) : SavedWin :=
  let asid := num bs 0 4
  let slots := num bs 8 4
  let base := (kept.find? (·.win.asid == asid)).getD {}
  { base with win := { base.win with pdk := p, launch, asid, slots }
              tags := ((List.range slots).map fun k => (k, tagOf (num bs (64 + 8 * k) 8))).filter (·.2.valid)
              data := putBytes [] 0 ((bs.drop (64 + 8 * slots)).take (2048 * slots)) }
/-- As many windows as a section counts. -/
def readWins (kept : List SavedWin) (p launch : Nat) : Nat → List (BitVec 8) → List SavedWin
  | 0, _ => []
  | n + 1, bs => let x := readWin kept p launch bs; x :: readWins kept p launch n (bs.drop (64 + 2056 * x.win.slots))

/-- R392: a replay entry. -/
def Replay.block (e : Replay) : List (BitVec 8) :=
  let n := e.bytes.length
  leBytes (1 * 2 ^ 120 + n * 2 ^ 96 + e.asid * 2 ^ 80 + e.off) 16 ++ padTo (16 * cdiv n 16) e.bytes
/-- R392: the replay entries of a core in some bytes, `n` at most. -/
def readReplays (k : Nat) : Nat → List Replay → List (BitVec 8) → List Replay
  | 0, _, _ => []
  | n + 1, kept, bs =>
    let h := num bs 0 16
    let len := fld h 96 24
    if fld h 120 8 != 1 then []
    else { (kept.head?).getD {} with core := k, asid := fld h 80 16, off := fld h 0 32, bytes := (bs.drop 16).take len } ::
      readReplays k n kept.tail (bs.drop (16 + 16 * cdiv len 16))

/-- The place of a scratchpad byte in the saved window of an ASID, and back. -/
def relTo (wins : List SavedWin) (asid a : Nat) : Nat := a - 2048 * ((wins.find? (·.win.asid == asid)).map (·.win.base)).getD 0
/-- The scratchpad byte of a place in it. -/
def absTo (wins : List SavedWin) (asid a : Nat) : Nat := a + 2048 * ((wins.find? (·.win.asid == asid)).map (·.win.base)).getD 0
/-- A queued selection command in 32 bytes. -/
def SelCmd.bits (wins : List SavedWin) : SelCmd → Nat
  | .bind ty wt st n v w a bad =>
    let r (x : Nat) : Nat := if st then x else relTo wins a x
    1 + ty.code.toNat * 2 ^ 8 + (if wt then 2 ^ 12 else 0) + (if st then 2 ^ 13 else 0) + (if bad then 2 ^ 14 else 0) + a * 2 ^ 16 + n * 2 ^ 64 +
      r v * 2 ^ 128 + r w * 2 ^ 192
  | .mask set m b => 2 + (if set then 2 ^ 12 else 0) + m.toNat * 2 ^ 64 + b.toNat * 2 ^ 96
  | .rank fr x => 3 + (if fr then 2 ^ 12 else 0) + x.toNat * 2 ^ 64
  | .step p => 4 + p * 2 ^ 64
  | .res => 5
/-- The selection command of some bits. -/
def selCmdOf (wins : List SavedWin) (x : Nat) : SelCmd :=
  match fld x 0 8 with
  | 1 =>
    let a := fld x 16 16
    let r (v : Nat) : Nat := if bitAt x 13 then v else absTo wins a v
    .bind (Ty.ofCode (BitVec.ofNat 4 (fld x 8 4))) (bitAt x 12) (bitAt x 13) (fld x 64 32) (r (fld x 128 64)) (r (fld x 192 64)) a (bitAt x 14)
  | 2 => .mask (bitAt x 12) (BitVec.ofNat 32 (fld x 64 32)) (BitVec.ofNat 32 (fld x 96 32))
  | 3 => .rank (bitAt x 12) (BitVec.ofNat 64 (fld x 64 64))
  | 4 => .step (fld x 64 64)
  | _ => .res
/-- R305: the selection binding: a header with the column and where its walk stands, W, r, QSSTAT and the number of queued commands, then the
candidates, then each command with its flag, held counted up, its lanes and its destination. -/
def SelUnit.block (u : SelUnit) (wins : List SavedWin) (waits : List Op) : List (BitVec 8) :=
  let r (x : Nat) : Nat := if u.streamed then x else relTo wins u.asid x
  let cmd (q : SelCmd × Nat) : List (BitVec 8) :=
    let x := (waits.find? (·.id == q.2)).getD {}
    leBytes (q.1.bits wins) 32 ++ leBytes (x.mask.toNat + x.dst * 2 ^ 32 + x.flag.getD 15 * 2 ^ 40) 16
  leBytes (u.ty.code.toNat + (if u.weighted then 2 ^ 4 else 0) + (if u.streamed then 2 ^ 5 else 0) + (if u.running then 2 ^ 6 else 0) +
    (if u.released then 2 ^ 7 else 0) + u.left * 2 ^ 8 + u.asid * 2 ^ 16 + u.n * 2 ^ 32 + r u.values * 2 ^ 64 + r u.weights * 2 ^ 128 + u.ends % 2 ^ 32 * 2 ^ 192 +
    u.prefixBits.toNat * 2 ^ 224) 32 ++
  leBytes u.total.toNat 8 ++ leBytes u.rank.toNat 8 ++ leBytes u.stat.toNat 4 ++ leBytes u.queue.length 12 ++
  (List.range (cdiv u.n 8)).map (fun b => BitVec.ofNat 8 ((List.range 8).foldl (fun v i => v + (mget u.cand (8 * b + i)).toNat * 2 ^ i) 0)) ++
  u.queue.flatMap cmd
/-- R305: the binding of some bytes, of holder `wid`; `at_` names the operation of its j-th command. -/
def readSel (kept : SelUnit) (wins : List SavedWin) (wid : Nat) (at_ : Nat → Nat) (bs : List (BitVec 8)) : SelUnit :=
  let h := num bs 0 32
  let q := num bs 48 4
  let n := fld h 32 32
  let streamed := bitAt h 5
  let asid := fld h 16 16
  let r (x : Nat) : Nat := if streamed then x else absTo wins asid x
  let bits_ := (List.range n).filter fun j => bitAt (num bs (64 + j / 8) 1) (j % 8)
  let cmds := bs.drop (64 + cdiv n 8)
  { kept with holder := some wid, ty := Ty.ofCode (BitVec.ofNat 4 (fld h 0 4)), weighted := bitAt h 4, streamed, running := bitAt h 6, released := bitAt h 7
              left := fld h 8 8, asid, n, values := r (fld h 64 64), weights := r (fld h 128 64), ends := fld h 192 32, prefixBits := BitVec.ofNat 32 (fld h 224 32)
              total := BitVec.ofNat 64 (num bs 32 8), rank := BitVec.ofNat 64 (num bs 40 8), state := fld q 28 3, err := fld q 24 4, planes := fld q 18 6
              cand := bits_.map fun j => (j, 1)
              queue := (List.range (Nat.min (num bs 52 4) 1024)).map fun j => (selCmdOf wins (num cmds (48 * j) 32), at_ j) }
/-- R305: the operation of the j-th queued command. -/
def readSelOp (kept : Op) (w : Warp) (cmd : SelCmd) (v : Nat) : Op :=
  let mask : Lanes := BitVec.ofNat 32 (fld v 0 32)
  let pages : List Acc := match cmd with
    | .bind ty wt true n va wa asid false => (lanesOf mask).map fun i =>
        { lane := i, asid, va, len := n * elemBits ty / 8, addr2 := wa, data := BitVec.ofNat 128 (if wt then 4 * n else 0) }
    | _ => []
  { kept with wid := w.id, kind := .select, mask, dst := fld v 32 8, flag := if fld v 40 4 = 15 then none else some (fld v 40 4)
              accs := if kept.accs.isEmpty then pages else kept.accs }

/-- R324: the record of a reservation. -/
def Reservation.bits (r : Reservation) (lid : Word) : Nat :=
  r.fmt.toNat * 2 ^ 224 + r.asoff * 2 ^ 192 + r.bsoff * 2 ^ 160 + lid.toNat * 2 ^ 128 + r.group * 2 ^ 120 + r.asid * 2 ^ 104 + r.tbase * 2 ^ 96 +
    r.tslots * 2 ^ 88 + r.gbase * 2 ^ 80 + r.gran * 2 ^ 72 + (r.macros.map fun m => 2 ^ (68 + m)).foldl (· + ·) 0
/-- The bytes of an aligned row or column. -/
def lineBytes : Nat := 1104
/-- An aligned row or column: 128 elements of 8 bytes, then at most 32 exponents, then how many there are of both. -/
def Line.block (x : Line) : List (BitVec 8) :=
  padTo 1024 (x.els.flatMap fun e => leBytes e.toNat 8) ++ padTo 64 (x.exps.flatMap fun e => leBytes e.toNat 2) ++
    padTo 16 [BitVec.ofNat 8 x.els.length, BitVec.ofNat 8 x.exps.length]
/-- The row or column of some bytes. -/
def readLine (bs : List (BitVec 8)) : Line :=
  { els := (List.range (num bs 1088 1)).map fun k => BitVec.ofNat 64 (num bs (8 * k) 8)
    exps := (List.range (num bs 1089 1)).map fun k => BitVec.ofNat 16 (num bs (1024 + 2 * k) 2) }
/-- `n` rows or columns. -/
def readLines (n : Nat) (bs : List (BitVec 8)) : List Line := (List.range n).map fun k => readLine (bs.drop (lineBytes * k))
/-- R335: a reservation: its record, the poison bits, how many rows and tiles of B it has and the place of its MRES's warp, the row buffer, the
tiles of B, the accumulator slots. -/
def SavedRes.block (x : SavedRes) (lid : Word) (ws : List Warp) : List (BitVec 8) :=
  let bit (l : List Nat) : Nat := (l.eraseDups.map (2 ^ ·)).foldl (· + ·) 0
  leBytes (x.res.bits lid) 32 ++ leBytes (bit (x.planePoison.map fun q => 8 * q.1 + q.2)) 4 ++ leBytes (bit x.tilePoison) 16 ++
  padTo 12 [if x.res.apoison then 1 else 0, BitVec.ofNat 8 x.res.btiles.length, BitVec.ofNat 8 x.res.rows.length, BitVec.ofNat 8 ((ws.map (·.id)).idxOf x.res.owner)] ++
  x.res.rows.flatMap Line.block ++
  (x.res.btiles.flatMap fun b => padTo 16 [BitVec.ofNat 8 b.m, BitVec.ofNat 8 b.p, BitVec.ofNat 8 b.d, BitVec.ofNat 8 b.lines.length] ++ b.lines.flatMap Line.block) ++
  (List.range (512 * x.res.tslots)).flatMap fun k => leBytes (mget x.tiles k).toNat 4
/-- `n` tiles of B, and the bytes behind them. -/
def readTiles : Nat → List (BitVec 8) → List BTile × List (BitVec 8)
  | 0, bs => ([], bs)
  | n + 1, bs =>
    let k := num bs 3 1
    let (l, rest) := readTiles n (bs.drop (16 + lineBytes * k))
    ({ m := num bs 0 1, p := num bs 1 1, d := num bs 2 1, lines := readLines k (bs.drop 16) } :: l, rest)
/-- R335: a reservation of a launch from its bytes, and the bytes behind it. A new one has the number `id`. -/
def readRes (kept : List SavedRes) (p launch clno id : Nat) (ws : List Warp) (bs : List (BitVec 8)) : SavedRes × List (BitVec 8) :=
  let h := num bs 0 32
  let ones (v n : Nat) : List Nat := (List.range n).filter (bitAt v ·)
  let group := fld h 120 8
  let base := ((kept.find? (·.res.group == group)).map (·.res)).getD { id }
  let tslots := fld h 88 8
  let rows := num bs 54 1
  let (btiles, rest) := readTiles (num bs 53 1) (bs.drop (64 + lineBytes * rows))
  let res : Reservation :=
    { base with pdk := p, launch, clno, group, fmt := BitVec.ofNat 32 (fld h 224 32), asoff := fld h 192 32, bsoff := fld h 160 32, asid := fld h 104 16
                tbase := fld h 96 8, tslots, gbase := fld h 80 8, gran := fld h 72 8, macros := ones (fld h 68 4) 4, apoison := num bs 52 1 != 0
                rows := readLines rows (bs.drop 64), btiles, owner := ((ws[num bs 55 1]?).map (·.id)).getD base.owner, closed := false }
  ({ res, planePoison := (ones (num bs 32 4) 32).map fun k => (k / 8, k % 8), tilePoison := ones (num bs 36 16) 128
     tiles := msetAll [] ((List.range (512 * tslots)).map fun k => (k, BitVec.ofNat 32 (num rest (4 * k) 4))) }, rest.drop (2048 * tslots))
/-- The reservations of a matrix area, `n` at most. -/
def readAllRes (kept : List SavedRes) (p launch clno id : Nat) (ws : List Warp) : Nat → List (BitVec 8) → List SavedRes
  | 0, _ => []
  | n + 1, bs =>
    if bs.isEmpty then [] else
    let (x, rest) := readRes kept p launch clno id ws bs
    x :: readAllRes kept p launch clno (id + 1) ws n rest

/-! ## Sections and contexts (R399) -/

/-- R399: a core section that starts at a byte of the context. Of more than 255 replay entries the count shows 255 (log 19). -/
def Sealed.block (z : Sealed) (start : Nat) (lid : Word) (ws : List Warp) (waits : List Op) (replays : List Replay) (off : DWord) :
    List (BitVec 8) :=
  let wins := z.windows.flatMap (·.block lid)
  let sel := match z.sel with | some u => u.block z.windows waits | none => []
  let mat := z.res.flatMap (·.block lid ws)
  let reps := replays.flatMap Replay.block
  let blocks := ws.map fun w => w.block (waits.filter (·.wid == w.id)) off
  let o1 := 256 + wins.length
  let o2 := o1 + sel.length
  let body := wins ++ sel ++ mat ++ reps
  let starts := (List.range ws.length).map fun k => start + 256 + body.length + ((blocks.take k).map (·.length)).foldl (· + ·) 0
  let size := 256 + body.length + blocks.flatten.length
  padTo 16 (leBytes size 8 ++ [BitVec.ofNat 8 z.windows.length, BitVec.ofNat 8 ws.length, BitVec.ofNat 8 (Nat.min 255 replays.length)]) ++
    padTo 112 (leBytes (start + 256) 8 ++ leBytes (start + o1) 8 ++ leBytes (start + o2) 8 ++ leBytes (start + o2 + mat.length) 8) ++
    padTo 128 (starts.flatMap (leBytes · 8)) ++ body ++ blocks.flatten
/-- R399: the bytes of a cluster's context. -/
def State.ctxBytes (s : State) (l : Launch) (cl : Cluster) (ws : List Warp) : List (BitVec 8) :=
  let part (k start : Nat) : List (BitVec 8) :=
    let z := (cl.sealed.find? (·.k == k)).getD { k }
    z.block start l.lid (sortBy (·.index) (ws.filter fun w => some w.core == cl.cores[k]?)) cl.waits (cl.replays.filter (·.core == k))
      ((s.pdk l.pdk).reg 0x0A0)
  let (offs, body) := (List.range cl.cores.length).foldl (fun (r : List Nat × List (BitVec 8)) k =>
    let at_ := 256 + r.2.length
    (r.1 ++ [at_], r.2 ++ part k at_)) ([], [])
  let clid := ((ws.head?).map (·.clid)).getD 0
  let nb (k : Nat) : Nat := match cl.nbs.find? (·.1 == k) with
    | some n => n.2.2.phase.toNat * 2 ^ 32 + n.2.2.arrived % 2 ^ 16 * 2 ^ 16 + n.2.2.count % 2 ^ 16
    | none => 0
  let head := leBytes (256 + body.length) 8 ++ leBytes l.lid.toNat 4 ++ leBytes clid.toNat 4 ++ leBytes (l.desc.c * 2 ^ 8 + l.desc.w) 4 ++
    leBytes ((if l.desc.det then 2 else 0) + (if l.desc.timed then 1 else 0)) 4 ++ leBytes (s.tsc l.pdk).toNat 8 ++
    padTo 32 (offs.flatMap (leBytes · 8)) ++ (List.range 16).flatMap (fun k => leBytes (nb k) 8) ++ List.replicate 64 0
  head ++ body

/-! ## Kept frames (R423) -/

/-- R423: a kept frame as the context area holds it: its bits, its port and the port of its relay, 0xFF for none; log 19. -/
def Frame.block (x : Frame) : List (BitVec 8) :=
  leBytes x.bits.toNat 144 ++ padTo 16 [1, BitVec.ofNat 8 x.port, BitVec.ofNat 8 (x.relay.getD 255)]
/-- The frames that some bytes hold. -/
def framesOf (bs : List (BitVec 8)) : List Frame :=
  ((List.range (bs.length / 160)).filter fun k => num bs (160 * k + 144) 1 == 1).map fun k =>
    let r := num bs (160 * k + 146) 1
    { port := num bs (160 * k + 145) 1, relay := if r = 255 then none else some r, bits := BitVec.ofNat 1152 (num bs (160 * k) 144) }


/-! ## Reading the context area (R389, R395, R398, R402) -/

/-- Bytes of the context area at a paddock-physical address; none where they cannot be read. -/
def State.ctxRead (s : State) (p pa n : Nat) : Option (List (BitVec 8)) :=
  (linePieces pa n).foldl (fun r x => match r, s.ctxGet p x.1 x.2 with
    | some l, some v => some (l ++ leBytes v x.2)
    | _, _ => none) (some [])
/-- R13, R403, R432: the device's reads of the directory and of a room: failures are logged, and a byte that it does not reach is an error of the
interface. -/
def State.ctxNote (s : State) (p : Nat) (reads : List (Nat × Nat)) : State :=
  (reads.flatMap fun r => linePieces r.1 r.2).foldl (fun (t : State) x => if (t.ctxReach p x.1).isNone then t.ifError p 4 else t.noteReads p [x]) s
/-- The place of an entry of the directory. -/
def State.dirAt (s : State) (p idx : Nat) : Nat × Nat := ((s.pdk p).ctxBase + 16 * idx, 16)
/-- R395, R396, R398: the room of a directory index, of a kind, as the directory in memory has it. -/
def State.room? (s : State) (p idx kind : Nat) : Option Room := (s.dirEntry p idx).filter (·.kind == kind)
/-- The paddock-physical base of a room. -/
def State.roomBase (s : State) (p : Nat) (r : Room) : Nat := (s.pdk p).ctxBase + 4096 * r.off
/-- A room that the device did not reserve itself, as of a copied context area, is its own from now on (R402). -/
def State.adoptRoom (s : State) (p : Nat) (r : Room) : State :=
  s.updPdk p fun q => if q.rooms.any (·.idx == r.idx) then q else { q with rooms := r :: q.rooms }

/-! ## Launches and warps of a copied context (R402) -/

/-- R465: the words of an image's region that are left from a warp's PC on, where it stands inside one. -/
def State.holdLeft (s : State) (w : Warp) : Nat :=
  match (s.pdk w.pdk).image w.image with
  | none => 0
  | some im => ((List.range 32).takeWhile fun k => im.holds.contains (w.pc.toNat - im.va + 16 * k)).length
/-- R402: what of a launch neither a copied room nor the paddock gives is free; the grid counts as 65,536 wide, so that a cluster's number is its CLID
(log 19). -/
def State.copiedLaunch (s : State) (p : Nat) (lid : Word) (asid : Nat) (w : Warp) (d : Desc) : Launch :=
  let free (k : Nat) : Nat := Config.notCopied lid k
  let image := (((s.pdk p).images.find? fun m => m.n == w.n && decide (m.va ≤ w.pc.toNat) && decide (w.pc.toNat < m.va + m.len)).map (·.handle)).getD (free 0)
  let tstart := BitVec.ofNat 64 (free 1)
  { id := s.nextId, pdk := p, lid, asid, age := w.age, startAt := tstart
    desc := { d with image, tstart, gridx := 2 ^ 16, gridy := 2 ^ 16, privkb := free 2 % 16385, phaseg := free 3 % 256, regs := w.n - 1, cls := w.cls, kind := w.kind.code } }
/-- R396, R402: the launch of a copied room: that of its LAUNCHID, or a new record of the yard it names, or one made of what was copied. -/
def State.launchFor (s : State) (p : Nat) (r : Room) (asid : Nat) (w : Warp) (d : Desc) : Launch :=
  match r.yard, s.launches.find? fun l => l.pdk == p && l.yard.isNone && l.lid == r.lid with
  | none, some l => l
  | none, none => s.copiedLaunch p r.lid asid w d
  | some y, _ =>
    match (s.pdk p).yard y with
    | some yd =>
      let image := (((s.pdk p).images.find? (·.ident == yd.ident)).map (·.handle)).getD yd.desc.image
      { id := s.nextId, pdk := p, age := w.age, desc := { yd.desc with image }, yard := some y }
    | none => { s.copiedLaunch p 0 0 w d with yard := some y }
/-- The launch, where it is a new record. -/
def State.newLaunch (s : State) (l : Launch) : List Launch := if s.launches.any (·.id == l.id) then [] else [l]

/-! ## A parked record read back (R17, R389, R396) -/

/-- R389: the bytes of a record up to the end of its warp block. -/
def State.recordLen (s : State) (p : Nat) (r : Room) : Nat :=
  544 + blockBytes (num ((s.ctxRead p (s.roomBase p r + 544) 0x24).getD []) 0x23 1 + 1)
/-- R17, R389, R396, R402, R465: the parked record of a room, from its bytes; what these do not give is as the device parked it, or of a copied
record that of its launch, which comes with it where it is new. A record inside a region reopens it. -/
def State.readRecord (s : State) (p : Nat) (r : Room) : Option (Parked × List Launch) :=
  let base := s.roomBase p r
  (s.ctxRead p base 32).bind fun h =>
    (s.ctxRead p (base + 544) (s.recordLen p r - 544)).map fun bs =>
      let x := ofLe h
      let asid := fld x 80 16
      let off := (s.pdk p).reg 0x0A0
      let w := ({} : Warp).overlay bs off
      let l := s.launchFor p r asid w { spslots := Config.notCopied r.lid 4 % 257, c := Config.notCopied r.lid 5 % 4, w := Config.notCopied r.lid 6 % 16 }
      let k := r.park.getD { pdk := p, before := freshWarp 0 w.kind l 0 (BitVec.allOnes 32) (fun _ => asid) fun _ => 0 }
      let before := k.before.overlay bs off
      let pc := BitVec.ofNat 64 (fld x 192 64)
      ({ k with pc, lanes := BitVec.ofNat 32 (fld x 160 32), held := BitVec.ofNat 32 (fld x 128 32), asid, before
                reopen := s.holdLeft { before with pc } }, if r.park.isSome then [] else s.newLaunch l)

/-! ## A saved cluster read back (R393, R398 to R401) -/

/-- R401: a wait of a warp from its record and lane data; `kept` is the device's own copy, or an empty operation with a new number. Whether a
copied one waits at a group or at a named barrier is free (log 19). -/
def readWait (w : Warp) (kept : Op) (v : Nat) (data : List (BitVec 8)) : Option Op :=
  let nb := match kept.kind with | .await b .. => b | _ => Config.notCopied w.lid 7 % 2 == 1
  let g := if nb then fld v 108 4 else fld v 108 8
  let code := fld v 120 8
  let kind : Option OpKind := match code with
    | 1 | 2 => some (.await nb g (BitVec.ofNat 32 (fld v 64 32)))
    | 3 => some (.bitwait (fld v 108 8))
    | 4 | 5 => some .cwt
    | _ => none
  kind.map fun kind =>
    let mask : Lanes := BitVec.ofNat 32 (fld v 32 32)
    let acc (i : Nat) : Acc :=
      let a := (kept.acc? i).getD { lane := i, asid := w.asidOf i, stage := .ready }
      if code = 3 then { a with cmp := BitVec.ofNat 64 (num data (4 * i) 4) }
      else { a with addr := BitVec.ofNat 64 (num data (16 * i) 8), cmp := BitVec.ofNat 64 (num data (16 * i + 8) 8) }
    { kept with wid := w.id, kind, mask, flag := if fld v 116 4 = 15 then none else some (fld v 116 4), applied := code == 1
                bytes := if code = 5 then 8 else if code = 4 then 4 else 1, pc := if kept.wid = 0 then w.pc else kept.pc
                before := if kept.wid = 0 then w else kept.before, accs := if code ≤ 2 then [] else (lanesOf mask).map acc }
/-- R400, R401: the waits of a warp block; the device's own beyond the twelve that have records follow. New ones are numbered from `next` on. -/
def readWaits (w : Warp) (kept : List Op) (next : Nat) (b : List (BitVec 8)) : List Op :=
  ((List.range 12).filterMap fun j => readWait w ((kept[j]?).getD { id := next + j }) (num b (0x220 + 16 * j) 16) (b.drop (0x400 + 512 * j))) ++ kept.drop 12
/-- R399: the place of the core section of index k, 0 for none. -/
def sectionAt (bs : List (BitVec 8)) (k : Nat) : Nat := num bs (0x20 + 8 * k) 8
/-- R399: the warp block of place m in a section. -/
def blockAt (bs : List (BitVec 8)) (k m : Nat) : List (BitVec 8) := bs.drop (num bs (sectionAt bs k + 128 + 8 * m) 8)
/-- The device's own copies of the warps of a core, in the order of their blocks. -/
def Cluster.keptOn (c : Cluster) (k : Nat) : List Warp := sortBy Warp.index (c.warps.filter fun w => c.cores[k]? == some w.core)
/-- R400: the warps of a section. -/
def State.readWarps (s : State) (l : Launch) (c : Cluster) (bs : List (BitVec 8)) (k : Nat) : List Warp :=
  let off := (s.pdk l.pdk).reg 0x0A0
  let clid := BitVec.ofNat 32 (num bs 12 4)
  (List.range (Nat.min (num bs (sectionAt bs k + 9) 1) 16)).map fun m =>
    let b := blockAt bs k m
    let asid (i : Nat) : Nat := if l.yard.isSome then Config.notCopied l.lid (64 + 32 * m + i) else l.asid
    let new : Warp := { freshWarp (s.nextId + 16 * k + m) (({} : Warp).overlay b off).kind l 0 (BitVec.allOnes 32) asid fun _ => 0 with
      core := (c.cores[k]?).getD k, index := m, clno := c.no, clid, clshape := BitVec.ofNat 32 (k * 2 ^ 16 + m * 2 ^ 12 + num bs 0x10 2) }
    let w := (((c.keptOn k)[m]?).getD new).overlay b off
    { w with reopen := s.holdLeft w }
/-- R391, R399: the section of a core: what its seal froze, its waits and queued commands, and its replays. -/
def State.readSection (s : State) (l : Launch) (c : Cluster) (bs : List (BitVec 8)) (k : Nat) (ws : List Warp) : Sealed × List Op × List Replay :=
  let o := sectionAt bs k
  let at_ (j : Nat) : Nat := num bs (o + 16 + 8 * j) 8
  let area (j : Nat) : List (BitVec 8) := (bs.drop (at_ j)).take (at_ (j + 1) - at_ j)
  let kept := (c.sealed.find? (·.k == k)).getD { k }
  let next := s.nextId + 64 + 2 ^ 12 * k
  let windows := readWins kept.windows l.pdk l.id (num bs (o + 8) 1) (area 0)
  let holder := (ws.find? fun w => bitAt w.qsstat.toNat 31).getD {}
  let old := kept.sel.getD {}
  let sel := if (area 1).isEmpty then none
    else some (readSel old windows holder.id (fun j =>
      (((old.queue[j]?).map (·.2)).filter fun x => c.waits.any (·.id == x)).getD (next + 2 ^ 11 + j)) (area 1))
  let cmds := (sel.map (·.queue)).getD []
  let selOps := (List.range cmds.length).map fun j =>
    let q := (cmds[j]?).getD (.res, 0)
    readSelOp ((c.waits.find? (·.id == q.2)).getD { id := q.2, pc := holder.pc, before := holder }) holder q.1
      (num (area 1) (64 + cdiv ((sel.map (·.n)).getD 0) 8 + 48 * j + 32) 16)
  let waits := (List.range ws.length).flatMap fun m =>
    let w := (ws[m]?).getD {}
    readWaits w (c.waits.filter fun x => x.wid == w.id && (waitCode x).isSome) (next + 16 * m) (blockAt bs k m)
  let replays := (bs.drop (at_ 3)).take ((if ws.isEmpty then o + num bs o 8 else num bs (o + 128) 8) - at_ 3)
  ({ k, windows, sel, res := readAllRes kept.res l.pdk l.id c.no (next + 2 ^ 10) ws 64 (area 2) }, waits ++ selOps,
    readReplays k (replays.length / 16 + 1) (c.replays.filter (·.core == k)) replays)
/-- R398 to R401: a saved cluster from the bytes of its room; what no byte gives is as the device saved it (log 19). -/
def State.readCluster (s : State) (l : Launch) (c : Cluster) (bs : List (BitVec 8)) : Cluster :=
  let parts := (List.range c.cores.length).map fun k => let ws := s.readWarps l c bs k; (ws, s.readSection l c bs k ws)
  let nb (k : Nat) : Option (Nat × Nat × Barrier) :=
    let v := num bs (0x40 + 8 * k) 8
    let b (x : Barrier) : Barrier := { x with phase := BitVec.ofNat 32 (fld v 32 32), arrived := fld v 16 16, count := fld v 0 16 }
    match c.nbs.find? (·.1 == k) with
    | some n => some (k, n.2.1, b n.2.2)
    | none => if v = 0 || !c.warps.isEmpty then none else some (k, Config.notCopied l.lid (16 + k) % 256, b {})
  { c with warps := parts.flatMap (·.1), sealed := parts.map (·.2.1), waits := parts.flatMap (·.2.2.1), replays := parts.flatMap (·.2.2.2)
           nbs := (List.range 16).filterMap nb }
/-- R402: a cluster whose context was copied, before its bytes are read. -/
def State.copiedCluster (s : State) (l : Launch) (r : Room) (bs : List (BitVec 8)) : Cluster :=
  let clid := num bs 12 4
  { no := fld clid 16 16 * l.desc.gridx + fld clid 0 16, rank := resumedRank + s.nextId, state := .saved, queued := false, room := some r.idx
    cores := (List.range 4).filter fun k => sectionAt bs k != 0 }
/-- R398, R402: the saved cluster of a room, with the room's bytes: the device's own by the room, or of a copied context that of its LAUNCHID and
CLID, or a new one. -/
def State.savedIn (s : State) (p : Nat) (r : Room) : Option (Launch × Cluster × List (BitVec 8)) :=
  let base := s.roomBase p r
  (s.ctxRead p base 16).bind fun h =>
    (s.ctxRead p base (Nat.min (num h 0 8) (4096 * r.size))).map fun bs =>
      let clid := num h 12 4
      let hit (l : Launch) (c : Cluster) : Bool := c.state == .saved &&
        (c.room == some r.idx || (l.yard.isNone && r.yard.isNone && l.lid.toNat == num h 8 4 && c.no == fld clid 16 16 * l.desc.gridx + fld clid 0 16))
      match (s.launches.filter (·.pdk == p)).findSome? fun l => (l.clusters.find? (hit l)).map fun c => (l, c) with
      | some x => (x.1, x.2, bs)
      | none =>
        let w := ({} : Warp).overlay (blockAt bs 0 0) ((s.pdk p).reg 0x0A0)
        let win : List (BitVec 8) := bs.drop (num bs (sectionAt bs 0 + 16) 8)
        let has := num bs (sectionAt bs 0 + 8) 1 != 0
        let asid := if has then num win 0 4 else Config.notCopied r.lid 8 % 2 ^ 16
        let d : Desc := { spslots := if has then num win 8 4 else Config.notCopied r.lid 4 % 257, c := num bs 0x11 1 % 4, w := num bs 0x10 1 % 16
                          det := bitAt (num bs 0x14 4) 1, timed := bitAt (num bs 0x14 4) 0 }
        let l := s.launchFor p { r with lid := BitVec.ofNat 32 (num h 8 4) } asid w d
        (l, s.copiedCluster l r bs, bs)
/-- R398, R402: the launch and the cluster of a copied context are the device's own from now on. -/
def State.adopt (s : State) (l : Launch) (c : Cluster) : State :=
  let s : State := { s with launches := s.launches ++ s.newLaunch l, nextId := s.nextId + 2 ^ 12 * (c.cores.length + 2) }
  s.updLaunch l.id fun x => if x.clusters.any (·.no == c.no) then x else { x with clusters := x.clusters ++ [c] }

end Sys2Proof.Machine
end

