-- ==== Sys2Proof/Machine/Preempt.lean ====
section
/-! DEFINITION. Shares recomputed, pre-emption, saved clusters and parked records that resume (R70, R390 to R401, R423, R426). -/
namespace Sys2Proof.Machine
open Sys2Proof

/-! ## Shares (R70) -/

/-- The revocations that still wait for a warp. -/
def Cmd.waitsShare (c : Cmd) : Bool := c.opc == 0x23 && c.started && c.report.isNone && !c.left.isEmpty
/-- R70: a warp that a revocation waits for, at a boundary outside any region; one that is about to be saved takes the new relation when it
resumes. -/
def State.shareDue (s : State) : Option Nat :=
  (s.warps.find? fun w => w.region.isNone && !s.isSealedWarp w && !s.frozen w.core && ((s.pdk w.pdk).ring.cmds.any fun c => c.waitsShare && c.left.contains w.id)).map (·.id)
/-- `SHARE_RECOMPUTE` (R70): a resident warp takes the share relation of the table as it stands. -/
def execShareRecompute (wid : Nat) (s : State) : Out :=
  let w := s.warp wid
  .next (if !s.hasWarp wid || w.region.isSome || s.isSealedWarp w then s
    else
      let s := s.updWarp wid fun w => { w with share := s.shareNow w }
      s.updRing w.pdk fun g => { g with cmds := g.cmds.map fun c => if c.waitsShare then { c with left := c.left.filter (· != wid) } else c })

/-! ## Requests (R390, R397, R423, R426) -/

/-- R390: issue stops in the warps of a cluster; 0 for a quantum, 1 for a command. -/
def State.requestCluster (s : State) (l cl why : Nat) : State :=
  let s := s.updCluster l cl fun c => { c with preempt := some why }
  { s with warps := s.warps.map fun w => if w.launch == l && w.clno == cl && w.kind != .handler then { w with stopped := true } else w }
/-- R397: the resident clusters of a launch that a CLID names. -/
def Launch.named (l : Launch) (clid : Nat) : List Cluster :=
  l.clusters.filter fun c => c.state == .resident && (clid == 0xFFFFFFFF || (fld clid 0 16 < Nat.max 1 l.desc.gridx && c.no == fld clid 16 16 * l.desc.gridx + fld clid 0 16))
/-- `PREEMPT_REQUEST` (R390): by the paddock, the LAUNCHID as exposed, and the CLID. A timed task stops only at an announced cycle. The warps of a
paddock that is stopped are not saved (R435). -/
def execPreemptRequest (p lid clid : Nat) (s : State) : Out :=
  .next (match s.byLid p lid with
    | none => s
    | some l => if l.desc.timed || !s.pdkRuns p then s else (l.named clid).foldl (fun t c => t.requestCluster l.id c.no 1) s)
/-- R426: clusters that have run for a quantum while another context of their paddock waits. -/
def State.expiredQuanta (s : State) : List (Nat × Nat) :=
  s.launches.flatMap fun l =>
    let q := ((s.pdk l.pdk).reg 0x0D8).toNat % 2 ^ 32
    if q = 0 || l.desc.timed || !s.pdkRuns l.pdk || (s.queueOf l.pdk).isEmpty then []
    else (l.clusters.filter fun c => c.state == .resident && c.preempt.isNone && decide (c.since + 1024 * q ≤ s.wall)).map fun c => (l.id, c.no)
/-- `QUANTUM_EXPIRE` (R426). -/
def execQuantumExpire (s : State) : Out := .next (s.expiredQuanta.foldl (fun t x => t.requestCluster x.1 x.2 0) s)

/-- R397: the clusters that a PREEMPT names: those of the launch, of a timed one those of its whole task; each as 4,096 times its paddock plus
the index of its room. -/
def State.namedRooms (s : State) (l : Launch) (clid : Nat) : List Nat :=
  let of (x : Launch) (c : Nat) : List Nat := (x.named c).filterMap fun k => k.room.map (4096 * x.pdk + ·)
  if l.desc.timed then (s.launches.filter fun x => x.desc.timed && x.desc.tstart == l.desc.tstart).flatMap fun x => of x 0xFFFFFFFF
  else of l clid
/-- PREEMPT (R397). -/
def execPreempt (p seq : Nat) (payload : BitVec 256) (s : State) : Out :=
  s.command p seq 0x25 payload fun s =>
    let lid := fld payload.toNat 224 32
    let clid := fld payload.toNat 192 32
    if !unusedZero payload [(192, 64)] then s.reportFail p seq 1
    else match s.byLid p lid with
      | none => s.reportFail p seq 2
      | some l =>
        if l.clusters.all (·.state != .resident) then s.reportFail p seq 2
        else
          let next : Instr := if l.desc.timed then .rinkPreemptAnnounce p lid else .preemptRequest p lid clid
          { (s.updCmd p seq fun c => { c with left := s.namedRooms l clid }) with agenda := s.agenda ++ [next] }

/-! ## Sealing (R305, R335, R391) -/

/-- R391: an operation of a cluster's warp that a save keeps. -/
def Op.saved (x : Op) : Bool :=
  (match x.kind with | .await .. | .bitwait _ | .cwt | .select => true | _ => false) && x.accs.all fun a => a.stage != .walk && a.stage != .touch
/-- R335: a reservation goes with the cluster of the warp that issued its MRES. -/
def Reservation.ofCluster (r : Reservation) (l : Launch) (cl : Cluster) : Bool := r.pdk == l.pdk && r.launch == l.id && r.clno == cl.no
/-- R305: the unit of a core may be taken from its holder now: it runs no command, or stands between two planes. -/
def SelUnit.between (u : SelUnit) : Bool := !u.running || (u.left != 0 && u.row == 0)
/-- R391: a core of a cluster has nothing outstanding. -/
def State.sealReady (s : State) (l : Launch) (cl : Cluster) (ws : List Warp) (c : Nat) : Bool :=
  let mine (wid : Nat) : Bool := ws.any (·.id == wid)
  let k := s.core c
  !s.frozen c && (ws.all fun w => w.pend.isEmpty && w.region.isNone && w.heldBy.isNone) &&
    s.ops.all (fun x => !mine x.wid || x.saved) && s.jobs.all (!mine ·.wid) &&
    (k.res.all fun r => !r.ofCluster l cl || s.jobs.all fun j => j.started.isNone || j.finished || j.res != r.id) && k.padq.all (!mine ·.wid) &&
    k.tagq.all (fun u => decide (u.due ≤ s.ucyc c)) && s.deferred.all (!mine ·.wid) && s.pending.all (!mine ·.wid) &&
    s.parked.all (!mine ·.wid) && (match k.sel.holder with | some h => !mine h || k.sel.between | none => true)
/-- R423: every frame stamped at or before the stop has arrived. -/
def State.framesIn (s : State) (l : Launch) : Bool :=
  s.rink.stops.all fun k => k.1 != l.desc.tstart || decide (k.2 + Config.hop * s.diam < s.rink.rinkc.toNat)
/-- The warps of a cluster on one of its cores, those of a resumed warp's included. -/
def State.warpsOn (s : State) (l cl c : Nat) : List Warp := (s.warpsOf l cl).filter (·.core == c)
/-- The first core of a cluster that seals now, with its index; none of a paddock that is stopped (R435). -/
def State.sealDue (s : State) : Option (Launch × Cluster × Nat × Nat) :=
  s.launches.findSome? fun l => l.clusters.findSome? fun cl =>
    if cl.state != .resident || cl.preempt.isNone || !s.pdkRuns l.pdk || (cl.preempt == some 2 && !s.framesIn l) then none
    else ((List.range cl.cores.length).find? fun k =>
      let c := (cl.cores[k]?).getD 0
      !cl.sealed.any (·.k == k) && s.sealReady l cl (s.warpsOn l.id cl.no c) c).map fun k => (l, cl, k, (cl.cores[k]?).getD 0)
/-- A window as a save copies it, with its records (R262); words that fail for good come back poisoned (R13). -/
def Core.saveWin (k : Core) (recs : List DetRec) (now : Nat) (x : Window) : SavedWin :=
  let lo := 2048 * x.base
  let hi := 2048 * (x.base + x.slots)
  { win := x
    data := (k.pad.filter fun e => decide (lo ≤ e.1) && decide (e.1 < hi)).map fun e => (e.1 - lo, e.2)
    tags := ((k.tagsAt now).filter fun t => decide (x.base ≤ t.1) && decide (t.1 < x.base + x.slots)).map fun t => (t.1 - x.base, t.2)
    det := recs.map fun r => { r with line := if tagKey k.id 0 ≤ r.line then r.line + 2 ^ 49 - tagKey k.id x.base else r.line + 2 ^ 48 - padKey k.id lo }
    bad := (((k.padPoison ++ k.weak.filterMap fun e => match e with | (.word w, true) => some w | _ => none).eraseDups).filter fun w =>
      decide (lo ≤ 4 * w) && decide (4 * w < hi)).map (· - 512 * x.base) }
/-- A reservation as a save copies it. -/
def Core.saveRes (k : Core) (r : Reservation) : SavedRes :=
  let mine (t : Nat) : Bool := decide (r.tbase ≤ t) && decide (t < r.tbase + r.tslots)
  let weak := k.weak.filterMap fun x => if x.2 then some x.1 else none
  let planes := weak.filterMap fun e => match e with | .plane m p => if r.macros.contains m then some (m, p) else none | _ => none
  let slots := weak.filterMap fun e => match e with | .slot n => if mine n then some (n - r.tbase) else none | _ => none
  { res := { r with apoison := r.apoison || k.fails r.rowElements }, tiles := (k.tiles.filter fun w => mine (w.1 / 512)).map fun w => (w.1 - 512 * r.tbase, w.2)
    planePoison := ((k.planePoison.filter fun q => r.macros.contains q.1) ++ planes).eraseDups
    tilePoison := (((k.tilePoison.filter mine).map (· - r.tbase)) ++ slots).eraseDups }
/-- R391: a core seals: its windows, selection unit and reservations are copied; they stay the cluster's, idle, until it is saved. Its warps'
waits and queued commands go with them. -/
def State.sealCore (s : State) (l : Launch) (cl : Cluster) (k c : Nat) : State :=
  let ws := s.warpsOn l.id cl.no c
  let mine (wid : Nat) : Bool := ws.any (·.id == wid)
  let own (u : SelUnit) : Bool := match u.holder with | some h => mine h | none => false
  let co := s.core c
  let now := s.ucyc c
  let z : Sealed :=
    { k, windows := (co.windows.filter fun x => ws.any (·.uses c x)).map fun x => co.saveWin (s.padRecs c x.base x.slots) now x
      sel := if own co.sel then some { co.sel with ends := co.sel.ends - now } else co.selWait.find? own
      res := (co.res.filter (·.ofCluster l cl)).map co.saveRes }
  let waits := s.ops.filter (mine ·.wid)
  let s := s.updCore c fun k =>
    { k with sel := if own k.sel then { holder := k.sel.holder } else k.sel, selWait := k.selWait.filter (!own ·)
             res := k.res.map fun r => if r.ofCluster l cl then { r with closed := true } else r }
  let s := { s with ops := s.ops.filter (!mine ·.wid) }
  s.updCluster l.id cl.no fun cl => { cl with sealed := cl.sealed ++ [z], waits := cl.waits ++ waits }
/-- `CORE_SEAL` (R391). -/
def execCoreSeal (s : State) : Out :=
  .next (match s.sealDue with
    | none => s
    | some (l, cl, k, c) => s.sealCore l cl k c)

/-! ## The save (R391, R393, R397, R423) -/

/-- R391, R435: a cluster whose every core has sealed, of a paddock that is not stopped. -/
def State.saveDue (s : State) : Option (Launch × Cluster) :=
  (s.launches.filter (s.pdkRuns ·.pdk)).findSome? fun l => (l.clusters.find? fun c => c.state == .resident && c.preempt.isSome && c.sealed.length == c.cores.length).map fun c => (l, c)
/-- R423: what is left of a timed warp's waits, counted from the cycle after the stop. -/
def State.timedRest (s : State) (w : Warp) : Warp :=
  match s.rink.stops.find? (·.1 == w.tstart) with
  | none => w
  | some (_, stop) =>
    let past := s.rink.rinkc.toNat - (stop + 1)
    let at_ := s.now w - past
    { w with ready := w.ready - at_ }
/-- R397: the PREEMPTs that wait for a cluster go on without it; each names the first one of its own paddock that was saved. -/
def State.notePreempted (s : State) (p room : Nat) : State :=
  let k := 4096 * p + room
  let note (q : Nat) (c : Cmd) : Cmd :=
    if c.opc == 0x25 && c.left.contains k then
      { c with left := c.left.filter (· != k), first := if q == p then c.first.orElse fun _ => some room else c.first }
    else c
  { s with pdks := s.pdks.map fun q => { q with ring := { q.ring with cmds := q.ring.cmds.map (note q.no) } } }
/-- R423: with the last cluster of a stopped task, the frames of its channels go to the context area. -/
def State.saveFrames (s : State) (l : Launch) : State :=
  if !l.desc.timed || s.launches.any (fun x => x.desc.timed && x.desc.tstart == l.desc.tstart && x.clusters.any (·.state == .resident)) then s else
  let mine (x : Frame) : Bool := s.rink.taskOf (frameChan x.bits) == some l.desc.tstart
  let fs := s.rink.frames.filter mine
  let s : State := s.updRink fun r => { r with frames := r.frames.filter (!mine ·), saved := r.saved ++ [(l.pdk, l.desc.tstart, fs)] }
  let bytes := fs.flatMap Frame.block
  match s.reserveRoom l.pdk (Nat.max 1 (cdiv bytes.length 4096)) { lid := l.lid, launch := l.id } with
  | none => s
  | some x =>
    (x.2.updRoom l.pdk x.1 fun r => { r with kind := 4 }).writeRoom l.pdk x.1 bytes
/-- R391: a core lets go of what a saved cluster had on it: its locks, its selection unit, its reservations. -/
def State.leaveCore (s : State) (l : Launch) (cl : Cluster) (mine : Nat → Bool) (c : Nat) : State :=
  let s := match (s.core c).sel.holder with | some h => (if mine h then s.freeSel c else s) | none => s
  let s := s.updCore c fun k =>
    let held := (k.res.filter (·.ofCluster l cl)).flatMap (·.macros)
    { k with res := k.res.filter (!·.ofCluster l cl), planePoison := k.planePoison.filter fun q => !held.contains q.1
             tlb := k.tlb.map fun e => { e with locks := e.locks.filter (!mine ·.2) } }
  s.releaseWindows c
/-- R391, R393: a cluster is saved: its context is written, its warps leave, its windows, reservations and slots are free. -/
def State.saveCluster (s : State) (l : Launch) (cl : Cluster) : State :=
  let ws := s.warpsOf l.id cl.no
  let mine (wid : Nat) : Bool := ws.any (·.id == wid)
  let bytes := s.ctxBytes l cl (ws.filter (!·.gone))
  let saved := (ws.filter (!·.gone)).map fun w => if w.timed then s.timedRest w else w
  let s := cl.cores.foldl (fun t c => t.leaveCore l cl mine c) { s with warps := s.warps.filter (!mine ·.id) }
  let s := s.updCluster l.id cl.no fun c =>
    { c with state := .saved, warps := saved, queued := cl.preempt == some 0, entered := s.wall, preempt := none }
  let s := match cl.room with
    | none => s
    | some idx =>
      ((s.updRoom l.pdk idx fun r => { r with kind := 2 }).writeRoom l.pdk idx bytes).notePreempted l.pdk idx
  ((s.saveFrames l).retryQueue l.pdk).noteWaiting l.pdk
/-- `CLUSTER_SAVE` (R391). -/
def execClusterSave (s : State) : Out :=
  .next (match s.saveDue with
    | none => s
    | some (l, cl) => s.saveCluster l cl)

/-! ## PRESUME and CRESUME (R17, R396, R398, R423) -/

/-- R17, R396: a parked record becomes a warp of its own, queued as a cluster of one; its room is its own. -/
def State.resumeRecord (s : State) (p seq : Nat) (r : Room) (rec' : Parked) (more : List Launch) : State :=
  let s : State := { (s.adoptRoom p r) with launches := s.launches ++ more, nextId := s.nextId + more.length }
  let (id, s) := s.takeId
  let l := s.launchRec rec'.before.launch
  let no := (l.clusters.map (·.no)).foldl Nat.max (l.desc.gridx * l.desc.gridy) + 1
  let w := rec'.warp
  let w := { w with id, clno := no, share := s.shareNow w, plive := w.live, pexm := w.exm, ppark := 0, pbregs := w.bregs, rooms := [(rec'.asid, r.idx)], stopped := false }
  let s := s.updRoom p r.idx fun x => { x with kind := 1, asid := 0, park := none }
  let s := s.ctxPut p (s.roomBase p r) [2]
  let all := rec'.lanes ||| rec'.held
  let key (x : Nat × Nat × Nat × Nat) : Nat × Nat × Nat × Nat :=
    if x.1 == p && x.2.1 == rec'.wid && all.getLsbD x.2.2.1 then (x.1, id, x.2.2) else x
  let s := { s with seqs := s.seqs.map key }
  let c : Cluster := { no, rank := resumedRank + id, warps := [w], room := some r.idx, entered := s.wall, cmd := some seq }
  (s.updLaunch l.id fun l => { l with clusters := l.clusters ++ [c] }).noteWaiting p
/-- PRESUME (R396). -/
def execPresume (p seq : Nat) (payload : BitVec 256) (s : State) : Out :=
  s.command p seq 0x24 payload fun s =>
    if !unusedZero payload [(244, 12)] then s.reportFail p seq 1
    else
      let idx := fld payload.toNat 244 12
      match s.room? p idx 3 with
      | none => (s.ctxNote p [s.dirAt p idx]).reportFail p seq 0x0E
      | some r =>
        let k := s.readRecord p r
        let s := s.ctxNote p [s.dirAt p idx, (s.roomBase p r, s.recordLen p r)]
        match k with
        | some k => s.resumeRecord p seq r k.1 k.2
        | none => s.reportFail p seq 0x0E

/-- R423: a stopped task continues from S + 1 when RINKC reaches the new start: its frames, channels and launches are rebased. A task that a timing
fault has ended takes its traps there (R422). -/
def State.rebaseTask (s : State) (l : Launch) (new : DWord) : State :=
  let old := l.desc.tstart
  match s.rink.stops.find? (·.1 == old) with
  | none => s.updLaunch l.id fun l => { l with startAt := new, started := false }
  | some (_, stop) =>
    let base : DWord := new - BitVec.ofNat 64 (stop + 1) + old
    let shift := base - old
    let move (x : Frame) : Frame := { x with bits := BitVec.ofNat 1152 (setFld x.bits.toNat 1088 64 (BitVec.ofNat 64 (frameStamp x.bits) + shift).toNat) }
    let room := s.frameRoom old
    let kept := match room.bind fun x => s.ctxRead x.1 (s.roomBase x.1 x.2) (4096 * x.2.size) with
      | some bs => framesOf bs
      | none => List.flatten ((s.rink.saved.filter fun (k : Nat × DWord × List Frame) => k.2.1 == old).map fun (k : Nat × DWord × List Frame) => k.2.2)
    let fs := kept.map move
    let s : State := s.updRink fun r =>
      { r with frames := r.frames ++ fs, saved := r.saved.filter fun k => k.2.1 != old, stops := r.stops.filter (·.1 != old)
               chans := r.chans.map fun k => if k.2 == old then (k.1, base) else k
               aborted := if r.aborted.contains old then (base :: r.aborted).eraseDups else r.aborted }
    let s : State := { s with launches := s.launches.map fun x =>
      if x.desc.timed && x.desc.tstart == old then { x with desc := { x.desc with tstart := base }, startAt := new, started := false } else x }
    match room with
    | some x => s.freeRoom x.1 x.2.idx
    | none => s
/-- CRESUME (R398). -/
def execCresume (p seq : Nat) (payload : BitVec 256) (s : State) : Out :=
  s.command p seq 0x26 payload fun s =>
    let idx := fld payload.toNat 244 12
    let new : DWord := BitVec.ofNat 64 (fld payload.toNat 128 64)
    if !unusedZero payload [(244, 12), (128, 64)] then s.reportFail p seq 1
    else match s.room? p idx 2 with
      | none => (s.ctxNote p [s.dirAt p idx]).reportFail p seq 0x0E
      | some r =>
        let saved := s.savedIn p r
        let s := s.ctxNote p [s.dirAt p idx, (s.roomBase p r, (saved.map (·.2.2.length)).getD 16)]
        match saved with
        | none => s.reportFail p seq 0x0E
        | some (l, c, bs) =>
          if !l.desc.timed && new != 0 then s.reportFail p seq 1
          else if l.desc.timed && decide (new.toNat ≤ s.rink.rinkc.toNat) then s.reportFail p seq 8
          else
            let c' := s.readCluster l c bs
            let s := (s.adoptRoom p r).adopt l c
            let s := if l.desc.timed && (l.startAt != new || l.started) then s.rebaseTask l new else s
            (s.updCluster l.id c.no fun _ => { c' with queued := true, entered := s.wall, cmd := some seq, room := some idx }).noteWaiting p

end Sys2Proof.Machine
end

