-- ==== Sys2Proof/Machine/Sha.lean ====
section
/-! DEFINITION. SHA-512 (FIPS 180-4), which R61, R428, R439 and R441 name. A digest is a number whose byte k, the k-th of the
digest, is at bits [8 k + 7 : 8 k], as the device stores it (R5). -/
namespace Sys2Proof.Machine
open Sys2Proof

/-- The primes below 410: eighty of them. -/
def shaPrimes : List Nat :=
  (List.range 410).filter fun n => decide (2 ≤ n) && (List.range 21).all fun d => decide (d < 2) || decide (n ≤ d) || n % d != 0
/-- The largest number whose `k`-th power is at most `x`, of those that extend `r` by `n` lower bits. -/
def rootBelow (k x : Nat) : Nat → Nat → Nat
  | 0, r => r
  | n + 1, r => rootBelow k x n (if (r + 2 ^ n) ^ k ≤ x then r + 2 ^ n else r)
/-- FIPS 180-4: the first 64 bits of the fraction of a prime's `k`-th root. -/
def rootFraction (k p : Nat) : Nat := rootBelow k (p * 2 ^ (64 * k)) 70 0 % 2 ^ 64
/-- FIPS 180-4: the round constants, of the cube roots of the first eighty primes. -/
def shaK : List Nat := shaPrimes.map (rootFraction 3)
/-- FIPS 180-4: the initial hash value, of the square roots of the first eight primes. -/
def shaInit : List Nat := (shaPrimes.take 8).map (rootFraction 2)

/-- A 64-bit word rotated right. -/
def rotr64 (x n : Nat) : Nat := (x / 2 ^ n) ||| (x * 2 ^ (64 - n) % 2 ^ 64)
/-- The next word of the schedule, from the sixteen before it, newest first. -/
def shaNext (w : List Nat) : Nat :=
  let g (i : Nat) : Nat := (w[i]?).getD 0
  let s1 := rotr64 (g 1) 19 ^^^ rotr64 (g 1) 61 ^^^ g 1 / 2 ^ 6
  let s0 := rotr64 (g 14) 1 ^^^ rotr64 (g 14) 8 ^^^ g 14 / 2 ^ 7
  (s1 + g 6 + s0 + g 15) % 2 ^ 64
/-- The schedule, newest first, with `n` more words. -/
def shaSchedule : Nat → List Nat → List Nat
  | 0, w => w
  | n + 1, w => shaSchedule n (shaNext w :: w)
/-- One round over the working variables a to h. -/
def shaRound (v : List Nat) (kw : Nat) : List Nat :=
  match v with
  | [a, b, c, d, e, f, g, h] =>
    let t1 := h + (rotr64 e 14 ^^^ rotr64 e 18 ^^^ rotr64 e 41) + ((e &&& f) ^^^ ((2 ^ 64 - 1 - e) &&& g)) + kw
    let t2 := (rotr64 a 28 ^^^ rotr64 a 34 ^^^ rotr64 a 39) + ((a &&& b) ^^^ (a &&& c) ^^^ (b &&& c))
    [(t1 + t2) % 2 ^ 64, a, b, c, (d + t1) % 2 ^ 64, e, f, g]
  | _ => v
/-- One block of sixteen words. -/
def shaBlock (h : List Nat) (block : List Nat) : List Nat :=
  let w := (shaSchedule 64 block.reverse).reverse
  let v := (List.zipWith (fun k x => (k + x) % 2 ^ 64) shaK w).foldl shaRound h
  List.zipWith (fun a b => (a + b) % 2 ^ 64) h v
/-- The value of bytes, the highest first. -/
def ofBe (bs : List (BitVec 8)) : Nat := bs.foldl (fun a b => 256 * a + b.toNat) 0
/-- The words of padded bytes, block by block; `n` blocks. -/
def shaBlocks (bs : List (BitVec 8)) : Nat → List Nat → List Nat
  | 0, h => h
  | n + 1, h => shaBlocks (bs.drop 128) n (shaBlock h ((List.range 16).map fun k => ofBe ((bs.drop (8 * k)).take 8)))
/-- SHA-512 of bytes. -/
def sha512 (bs : List (BitVec 8)) : BitVec 512 :=
  let n := bs.length
  let zeros := (239 - n % 128) % 128
  let padded := bs ++ [0x80] ++ List.replicate zeros 0 ++ (leBytes (8 * n) 16).reverse
  let h := shaBlocks padded (padded.length / 128) shaInit
  BitVec.ofNat 512 (ofLe (h.flatMap fun x => (leBytes x 8).reverse))
/-- The bytes of a digest. -/
def digestBytes (d : BitVec 512) : List (BitVec 8) := leBytes d.toNat 64

end Sys2Proof.Machine
end

