-- ==== Sys2Proof/Machine/Ring.lean ====
section
/-! DEFINITION. The command rings and the register pages: doorbell, entries, completion records, restarts, and writes under their
access codes (R8, R102, R349 to R353, R363, R402, R408, R427, R434, R451, R461, R462). -/
namespace Sys2Proof.Machine
open Sys2Proof

/-! ## Ring registers (R349, R350) -/

/-- A register of a ring: in the paddock's page, or for the root world in the management page. -/
def State.rreg (s : State) (p off : Nat) : Nat := (if p = 0 then mget s.mgmt off else (s.pdk p).reg off).toNat
/-- A register of a ring is set. -/
def State.setRreg (s : State) (p off v : Nat) : State :=
  if p = 0 then { s with mgmt := mset s.mgmt off (BitVec.ofNat 64 v) } else s.updPdk p fun q => q.setReg off (BitVec.ofNat 64 v)
/-- A bit of CRSTAT is set or cleared. -/
def State.crstat (s : State) (p bit : Nat) (on : Bool) : State := s.setRreg p 0x06C (setFld (s.rreg p 0x06C) bit 1 (if on then 1 else 0))
/-- R352: CRBASE.LOGSZ lies in 4 to 16. -/
def State.ringOn (s : State) (p : Nat) : Bool := let z := fld (s.rreg p 0x040) 0 5; decide (4 ≤ z) && decide (z ≤ 16)
/-- The entries of a ring. -/
def State.ringSize (s : State) (p : Nat) : Nat := 2 ^ fld (s.rreg p 0x040) 0 5
/-- The base of a ring. -/
def State.ringBase (s : State) (p : Nat) : Nat := fld (s.rreg p 0x040) 12 34 * 2 ^ 12
/-- R349: both copies of the header hold ACKSEQ and DONESEQ, in that order (log 19). -/
def State.writeHeader (s : State) (p : Nat) : State :=
  let h : DWord × DWord := (BitVec.ofNat 64 (s.rreg p 0x058), BitVec.ofNat 64 (s.rreg p 0x060))
  let s := s.updRing p fun g => { g with header := h, copy := h }
  if s.ringBase p < 64 then s else s.devWrite p (s.ringBase p - 64) (leBytes h.1.toNat 8 ++ leBytes h.2.toNat 8)

/-! ## The doorbell and the entries (R351, R352) -/

/-- R454: the device has reached STAGE 4. -/
def State.booted (s : State) : Bool := s.powered && fld (mget s.mgmt 0x004).toNat 0 4 == 4
/-- R432, R447: a sealed paddock's page and memory are reached through its own function alone, in CONFIG_LOCKED and RUN through its IDE stream. -/
def Pdk.shuts (q : Pdk) (via : Via) : Bool :=
  q.isSealed && (via.fn != q.no || ((q.ifstate == 1 || q.ifstate == 2) && !via.ide))
/-- R432, R447, R454, R460: the completion of a host request to a page, 0 the management page, that does not reach it: of a device without power, before
STAGE 4, with no such paddock, through a function that has no such page or may not reach it. -/
def State.pageShut (s : State) (via : Via) (p : Nat) : Option HostReply :=
  if !s.powered then some .linkDown
  else if !s.booted || !(p = 0 || s.hasPdk p) || (via.fn != 0 && via.fn != p) || (p != 0 && (s.pdk p).shuts via) then some .unsupported
  else none
/-- R435, R447: a host request to a page: in ERROR it completes with completer abort; else, where the page is reached, it is done. -/
def State.hostPage (s : State) (via : Via) (p : Nat) (k : State → State) : State :=
  match s.pageShut via p with
  | some r => { s with reply := r }
  | none => if p != 0 && (s.pdk p).ifstate == 3 then { s with reply := .abort } else { k s with reply := .ok [] }
/-- `DOORBELL_WRITE` (R352). -/
def execDoorbellWrite (at_ : PageAt) (seq : DWord) (s : State) : Out :=
  .next (s.hostPage at_.via at_.page fun s => (s.setRreg at_.page 0x050 seq.toNat).updRing at_.page fun g => { g with waitDoor := false })
/-- `CRHEAD_WRITE` (R353). -/
def execCrheadWrite (at_ : PageAt) (seq : DWord) (s : State) : Out :=
  .next (s.hostPage at_.via at_.page fun s => s.setRreg at_.page 0x070 seq.toNat)

/-- R352: the OPCs that are not reserved. -/
def knownOpc (c : Nat) : Bool := [0x01, 0x02, 0x0F, 0x10, 0x11, 0x12, 0x20, 0x21, 0x22, 0x23, 0x24, 0x25, 0x26, 0x28, 0x29, 0x30, 0x31].contains c
/-- R352, R433: a ring halts, or its interface moves to ERROR. -/
def State.ringFail (s : State) (p cause : Nat) : State := if p = 0 then s.crstat 0 2 true else s.ifError p cause
/-- R352, R433, R466: a ring reads its next entry: it is on, open, keyed by a session, with no restart due, and the doorbell is past it. -/
def State.entryDue (s : State) (p : Nat) : Bool :=
  let g := s.ringOf p
  s.ringOn p && !g.waitDoor && g.session.isSome && !s.flash.any (·.no == p) && decide (s.rreg p 0x058 + 1 ≤ s.rreg p 0x050) && !bitAt (s.rreg p 0x06C) 2 &&
    (p = 0 || (!(s.pdk p).stopping && !(s.pdk p).zeroing && ((s.pdk p).ifstate == 0 || (s.pdk p).ifstate == 2)))
/-- R352: an entry is accepted. -/
def State.acceptEntry (s : State) (p e x : Nat) : State :=
  let s := (s.setRreg p 0x058 e).writeHeader p
  let c : Cmd := { seq := e, opc := fld x 440 8, payload := BitVec.ofNat 256 (fld x 128 256), time := s.wall }
  let bad := !knownOpc c.opc || fld x 384 56 != 0
  let s := s.updRing p fun g => { g with cmds := g.cmds ++ [{ c with started := bad }] }
  let s := if e = 2 ^ 64 - 3 then s.crstat p 0 true else s
  if bad then s.reportFail p e 1 else s
/-- `RING_ENTRY_READ` (R352): the next entry is read and accepted, discarded, or refused. DESIGN CHOICE (log 56): an entry in a line that does
not read counts as one whose tag fails. -/
def execRingEntryRead (p : Nat) (s : State) : Out :=
  .next (if !s.entryDue p then s else
    let e := s.rreg p 0x058 + 1
    let at_ := s.ringBase p + 64 * (e % s.ringSize p)
    let entry := s.devRead p at_ 64
    let s := s.noteReads p [(at_, 64)]
    match entry with
    | none => s.ringFail p (if (s.s2 p at_).isNone then 4 else 3)
    | some x =>
      let seq := fld x 448 64
      let g := s.ringOf p
      let key := Config.ringKey (g.session.getD 0) g.rekeys
      if seq < e then
        (s.setRreg p 0x068 (Nat.min 0xFFFFFFFF (s.rreg p 0x068 + 1))).updRing p fun g => { g with waitDoor := true }
      else if e < seq then s.ringFail p 2
      else if (Config.ringTag key seq p (BitVec.ofNat 384 (fld x 128 384))).toNat != fld x 0 128 then s.ringFail p 3
      else if e = 2 ^ 64 - 2 && fld x 440 8 != 0x0F then s.ringFail p 2
      else s.acceptEntry p e x)

/-- R352: REKEY starts once every earlier command has been reported and consumed. -/
def State.rekeyReady (s : State) (p seq : Nat) : Bool := s.rreg p 0x060 + 1 == seq && s.rreg p 0x070 + 1 == seq
/-- REKEY (R352). The next key is installed once its own record is written. -/
def execRekey (p seq : Nat) (payload : BitVec 256) (s : State) : Out :=
  if !s.rekeyReady p seq then .next s
  else s.command p seq 0x0F payload fun s => if payload != 0 then s.reportFail p seq 1 else s.reportDone p seq

/-! ## Completion records (R353) -/

/-- R353: the bits of a record. -/
def recordBits (c : Cmd) (r : Report) : Nat :=
  let lid := if c.opc == 0x01 then fld c.payload.toNat 160 32 else 0
  c.seq * 2 ^ 192 + r.status * 2 ^ 184 + r.reason * 2 ^ 176 + lid * 2 ^ 144 + r.tsc.toNat * 2 ^ 80 + r.handle * 2 ^ 48 + r.failoff * 2 ^ 16 +
    r.failwhy * 2 ^ 8
/-- R397: a PREEMPT whose clusters have all been saved, or have retired first. -/
def State.preemptOver (s : State) (c : Cmd) : Bool :=
  c.opc == 0x25 && c.started && c.report.isNone && !s.agenda.any (fun i => match i with | .preemptRequest .. | .rinkPreemptAnnounce .. => true | _ => false) &&
    c.left.all fun r => !s.launches.any fun l => l.pdk == r / 4096 && l.clusters.any fun k => k.room == some (r % 4096) && k.state == .resident
/-- R70: a revocation that no resident warp waits for any more. -/
def State.revokeOver (s : State) (c : Cmd) : Bool := c.opc == 0x23 && c.started && c.report.isNone && c.left.all fun w => !s.hasWarp w
/-- Everything that has finished since the last record is reported: yard lanes, failed launches, PREEMPTs, revocations. -/
def State.reportAll (s : State) (p : Nat) : State :=
  let s := ((s.seqs.filter (·.1 == p)).map (·.2.1)).eraseDups.foldl State.reportLanes s
  let s := s.launches.foldl (fun (t : State) l => match l.failed, l.seq with | some r, some n => (if l.pdk == p then t.reportFail p n r else t) | _, _ => t) s
  (s.ringOf p).cmds.foldl (fun (t : State) c =>
    if t.preemptOver c then t.report p { seq := c.seq, handle := c.first.getD 0xFFF }
    else if t.revokeOver c then t.reportDone p c.seq else t) s
/-- The next command of a ring, with its report. -/
def State.nextReport (s : State) (p : Nat) : Option (Cmd × Report) :=
  (s.ringOf p).cmds.head?.bind fun c => c.report.map fun r => (c, r)
/-- R353: there is room for record n. -/
def State.recordRoom (s : State) (p n : Nat) : Bool := decide (n ≤ s.rreg p 0x070 + s.ringSize p)
/-- Bytes are written to the host. -/
def State.hostPut (s : State) (a : Nat) (bs : List (BitVec 8)) : State := { s with hostmem := putBytes s.hostmem a bs }
/-- R353, R448: a record is written, its interrupt raised, and DONESEQ advances; a REKEY restarts the sequence (R352). The doorbell's
old value does not count after it (log 23). -/
def State.putRecord (s : State) (p : Nat) (c : Cmd) (r : Report) : State :=
  let host := fld (s.rreg p 0x048) 12 52 * 2 ^ 12
  let s := (s.hostPut (host + 32 * (c.seq % s.ringSize p)) (leBytes (recordBits c r) 32)).raise p 1
  let s := s.updRing p fun g => { g with cmds := g.cmds.filter (·.seq != c.seq) }
  if c.opc == 0x0F && r.status == 0 then
    let s := ((((s.setRreg p 0x058 0).setRreg p 0x060 0).setRreg p 0x070 0).crstat p 0 false).crstat p 3 false
    (s.updRing p fun g => { g with rekeys := g.rekeys + 1, waitDoor := true }).writeHeader p
  else ((s.setRreg p 0x060 c.seq).crstat p 3 false).writeHeader p
/-- `COMPLETION_RECORD_WRITE` (R353): the next record in SEQ order, once there is room. -/
def execCompletionRecordWrite (p : Nat) (s : State) : Out :=
  let s := s.reportAll p
  .next (match s.nextReport p with
    | none => s
    | some (c, r) => if s.recordRoom p c.seq then s.putRecord p c r else s.crstat p 3 true)
/-- A ring has something to report, or a record to write, now. -/
def State.recordDue (s : State) (p : Nat) : Bool :=
  let t := s.reportAll p
  match t.nextReport p with
  | some (c, _) => t.recordRoom p c.seq || !bitAt (s.rreg p 0x06C) 3
  | none => decide (t.seqs.length < s.seqs.length) || ((t.ringOf p).cmds.filter (·.report.isSome)).length != ((s.ringOf p).cmds.filter (·.report.isSome)).length
/-- R435, R449: every accepted command that has no report yet is reported with a status and a reason. -/
def State.failAll (s : State) (p status reason : Nat) : State :=
  s.updRing p fun g => { g with cmds := g.cmds.map fun c =>
    { c with started := true, report := c.report.orElse fun _ => some { seq := c.seq, status, reason, tsc := s.tsc p } } }
/-- Records are written while there is room; `n` at most. -/
def State.flushRecords (s : State) (p : Nat) : Nat → State
  | 0 => s
  | n + 1 =>
    match s.nextReport p with
    | some (c, r) => if s.recordRoom p c.seq then (s.putRecord p c r).flushRecords p n else s
    | none => s

/-! ## Restart (R363) -/

/-- R363: records already written for the next SEQs count as reported. `n` at most. -/
def State.skipRecords (s : State) (p host size : Nat) : Nat → Nat → Nat
  | 0, d => d
  | n + 1, d => if ofLe (getBytes s.hostmem (host + 32 * ((d + 1) % size) + 24) 8) == d + 1 then s.skipRecords p host size n (d + 1) else d
/-- R363: the command of a SEQ, reported aborted by reset. Of one whose payload the reset has lost, LAUNCHID is a free value (log 61). -/
def State.aborted (s : State) (p n : Nat) : Cmd :=
  let c := ((s.ringOf p).cmds.find? (·.seq == n)).getD { seq := n, opc := 1, payload := BitVec.ofNat 256 ((Config.lostLid n).toNat * 2 ^ 160) }
  { c with started := true, report := some { seq := n, status := 2, tsc := s.tsc p } }
/-- R363: a paddock's ring restarts from a header: what is not reported yet is reported aborted by reset, in order, as room permits (R353). -/
def State.restartRing (s : State) (p : Nat) (h : DWord × DWord) : State :=
  let host := fld (s.rreg p 0x048) 12 52 * 2 ^ 12
  let ack := h.1.toNat
  let d := s.skipRecords p host (s.ringSize p) (ack - h.2.toNat) h.2.toNat
  let cmds := (List.range (ack - d)).map fun k => s.aborted p (d + 1 + k)
  let s := (s.setRreg p 0x058 ack).setRreg p 0x060 d
  ((s.updRing p fun g => { g with cmds, session := none }).writeHeader p).flushRecords p cmds.length
/-- R353, R363: the records of a saved header that there is room for, in the saved ring's slots and order; the last SEQ reported. `n` at most. -/
def State.abortSaved (s : State) (p host size ack d : Nat) : Nat → Nat × State
  | 0 => (d, s)
  | n + 1 =>
    if ack ≤ d then (d, s)
    else if s.rreg p 0x070 + size < d + 1 then (d, s.crstat p 3 true)
    else
      let c := s.aborted p (d + 1)
      let s := (s.hostPut (host + 32 * ((d + 1) % size)) (leBytes (recordBits c (c.report.getD {})) 32)).raise p 1
      ((s.setRreg p 0x060 (d + 1)).crstat p 3 false).abortSaved p host size ack (d + 1) n
/-- `RING_RESTART` (R363, R466): a paddock created again, with a new session, restarts from its saved header. Its ring opens once every record
is written to the saved CRHOST. -/
def execRingRestart (p : Nat) (s : State) : Out :=
  .next (match s.flash.find? (·.no == p) with
    | none => s
    | some h =>
      if !(p = 0 || s.hasPdk p) || (s.ringOf p).session.isNone then s
      else
        let host := fld h.crhost.toNat 12 52 * 2 ^ 12
        let size := 2 ^ fld h.crbase.toNat 0 5
        let ack := h.ack.toNat
        let d := s.skipRecords p host size (ack - h.done.toNat) h.done.toNat
        let (d, s) := ((s.setRreg p 0x058 ack).setRreg p 0x060 d).abortSaved p host size ack d (ack - d)
        let s := s.writeHeader p
        { s with flash := if ack ≤ d then s.flash.filter (·.no != p)
                          else s.flash.map fun x => if x.no == p then { x with done := BitVec.ofNat 64 d } else x })

/-! ## Reads and writes under access codes (R8, R434, R461) -/

/-- R8, R352, R462: the offset of a register that reads as zero: it is write-only. -/
def writeOnly (page off : Nat) : Bool := if page = 0 then off == 0x024 || off == 0x050 else off == 0x050
/-- R438: a line of a paddock's channels that was last written under an older WORLDGEN, or never. -/
def State.oldLine (s : State) (p l : Nat) : Bool :=
  let frame := l / 4096
  bitAt ((s.pdk p).reg 0x0C8).toNat (Config.sliceOf frame).val && !Config.inSram frame && alist s.worlds l != some (s.worldOf p)
/-- R427, R438: SCRUBSTAT: BUSY while a scrub, a stop, a reset or a test of the paddock is under way, BGZERO, and the lines still to zero: those that the
pass has not passed, but for the ones written since. -/
def State.scrubStat (s : State) (p : Nat) : Nat :=
  let q := s.pdk p
  let ahead := (s.worlds.filter fun k => (q.bgptr.any fun b => decide (b ≤ k.1)) && k.2 == s.worldOf p && inShare (q.reg 0x0C8).toNat (64 * k.1) &&
    !inSramTier (64 * k.1)).length
  (if q.scrubbing.isSome || q.stopping || q.zeroing then 1 else 0) + (if q.bgptr.isSome then 2 else 0) +
    (if q.bgptr.isSome then (q.bgleft - ahead) / 1024 * 2 ^ 16 else 0)
/-- R402, R408, R427, R461: a byte of a register page, 0 the management page; a 4-byte register stands beside its neighbour in their word. -/
def State.pageByte (s : State) (page off : Nat) : BitVec 8 :=
  let word := off / 8 * 8
  if page = 0 && decide (0x200 ≤ off) && decide (off < 0x300) then 255 - mget s.rink.dist (off - 0x200)
  else if page = 0 && decide (0x800 ≤ off) && decide (off < 0x1000) then 255 - mget s.rink.relay (off - 0x800)
  else
    let reg (o : Nat) : Nat := if writeOnly page o then 0 else s.rreg page o
    let reg (o : Nat) : Nat :=
      if page = 0 && o == 0x00C then (Config.sensor o s.wall).toNat % 2 ^ 16
      else if page = 0 && o == 0x010 then (Config.sensor o s.wall).toNat % 2 ^ 8
      else if page != 0 && o == 0x004 then s.xlmaxl page
      else if page != 0 && o == 0x0E0 then s.scrubStat page else reg o
    BitVec.ofNat 8 ((reg word + reg (word + 4) * 2 ^ 32) / 2 ^ (8 * (off % 8)))
/-- R435, R432, R447, R454: a host read of a register page. In ERROR it reads IFSTATE alone. -/
def State.pageRead (s : State) (via : Via) (page off len : Nat) : HostReply :=
  match s.pageShut via page with
  | some r => r
  | none =>
  if 0x1000 < off + len then .unsupported
  else if page != 0 && (s.pdk page).ifstate == 3 && !(decide (0x0DC ≤ off) && decide (off + len ≤ 0x0E0)) then .abort
  else .ok ((List.range len).map fun k => s.pageByte page (off + k))



/-- R8: the access codes of a register that software writes. -/
inductive Access where
  | rw (mask : Nat)
  | w1c (mask : Nat)
  | rl (mask : Nat)
  | none
  deriving DecidableEq, Repr, Inhabited

/-- A mask of the bits from `lo` to `hi`. -/
def bits (hi lo : Nat) : Nat := 2 ^ (hi + 1) - 2 ^ lo
/-- R102, R349, R402, R427, R451: the registers of a paddock's page that have no row of their own. -/
def pageAccess (off : Nat) : Access :=
  if off = 0x000 then .rw (bits 15 0) else if off = 0x008 then .rw (bits 45 12) else if off = 0x010 then .rw (bits 45 18 + 1)
  else if off = 0x018 then .w1c (bits 1 0) else if off = 0x020 then .rw (bits 45 12)
  else if off = 0x040 then .rl (bits 45 12 + bits 4 0) else if off = 0x048 then .rl (bits 63 12) else if off = 0x068 then .w1c (bits 31 0)
  else if off = 0x080 then .rw (bits 63 0) else if off = 0x088 then .rw (bits 7 0) else if off = 0x08C then .w1c (bits 31 0)
  else if off = 0x090 then .rw (bits 45 12) else if off = 0x098 then .rw (bits 31 0) else if off = 0x09C then .w1c (bits 31 0)
  else if off = 0x0A0 then .rl (bits 63 0) else if off = 0x0A8 then .rl (bits 31 0) else if off = 0x0B0 then .rl (bits 45 12 + 1)
  else if off = 0x0C0 then .rl (bits 23 8 + bits 3 0) else if off = 0x0C8 then .rl (bits 63 0) else if off = 0x0D0 then .rl (bits 31 0)
  else if off = 0x0D8 then .rl (bits 31 0)
  else if 0x200 ≤ off && off < 0x300 then
    (match off % 0x20 with | 0x00 => .rl (bits 63 26 + bits 1 0) | 0x08 | 0x10 => .rl (bits 63 0) | 0x18 => .w1c (bits 39 0) | _ => .none)
  else .none
/-- R350, R408, R461: the registers of the management page that have no row of their own. The root ring's are never locked. -/
def mgmtAccess (off : Nat) : Access :=
  if off = 0x008 then .rl (bits 15 0) else if off = 0x014 then .w1c (bits 1 0) else if off = 0x018 then .w1c (bits 31 0)
  else if off = 0x028 then .w1c (bits 31 0) else if off = 0x040 then .rw (bits 45 12 + bits 4 0) else if off = 0x048 then .rw (bits 63 12)
  else if off = 0x068 then .w1c (bits 31 0) else if off = 0x100 then .rl (bits 47 24 + bits 15 8 + 1) else if off = 0x110 then .w1c (bits 63 0)
  else if off = 0x118 then .w1c (bits 31 0) else if (0x200 ≤ off && off < 0x300) || (0x800 ≤ off && off < 0x1000) then .rl (bits 63 0) else .none
/-- R8: the value a register takes. -/
def Access.write (a : Access) (old v : Nat) : Nat :=
  match a with
  | .rw m | .rl m => v &&& m
  | .w1c m => old - (old &&& v &&& m)
  | .none => old

/-- R434: the offsets of the page's words whose access code is RL. -/
def watchOffsets : List Nat := ((List.range 512).map (8 * ·)).filter fun o => match pageAccess o with | .rl _ => true | _ => false
/-- R434: the paddocks that watch the management page: those locked. -/
def State.watchers (s : State) : List Nat := (s.pdks.filter fun q => !q.watch.isEmpty).map (·.no)
/-- R408, R461: a register of the management page is written. RKDIST and RKRELAY are written 8 bytes at a time. -/
def State.putMgmt (s : State) (off v : Nat) : State :=
  if off = 0x008 then { s with mgmt := mset s.mgmt 0x008 (BitVec.ofNat 64 (Nat.min 2800 (Nat.max 1000 v))) }
  else
    let put (m : SMap 8) (base : Nat) : SMap 8 :=
      (List.range 8).foldl (fun m k => mset m (off - base + k) (BitVec.ofNat 8 (255 - v / 256 ^ k % 256))) m
    if 0x200 ≤ off && off < 0x300 then s.updRink fun r => { r with dist := put r.dist 0x200 }
    else if 0x800 ≤ off && off < 0x1000 then s.updRink fun r => { r with relay := put r.relay 0x800 }
    else { s with mgmt := mset s.mgmt off (BitVec.ofNat 64 v) }
/-- R434: the 8-byte word of an offset of the management page holds an RL register. -/
def mgmtRl (off : Nat) : Bool := [off / 8 * 8, off / 8 * 8 + 4].any fun o => match mgmtAccess o with | .rl _ => true | _ => false
/-- R8, R434, R462: a write of a register: page 0 is the management page, page p that of paddock p. A word of 8 bytes is watched whole (log 41).
NQCTL has a step of its own. -/
def State.putReg (s : State) (page off : Nat) (val : DWord) : State :=
  if page = 0 then
    let a := mgmtAccess off
    if mgmtRl off && !s.watchers.isEmpty then s.watchers.foldl (fun t p => t.ifError p 1) s
    else if a == .none then s
    else s.putMgmt off (a.write (mget s.mgmt off).toNat val.toNat)
  else
    let a := pageAccess off
    let q := s.pdk page
    if 0x200 ≤ off && off < 0x300 && off % 0x20 == 0 then s
    else if q.watch.contains (off / 8 * 8) then s.ifError page 1
    else if a == .none then s
    else s.updPdk page fun q => q.setReg off (BitVec.ofNat 64 (a.write (q.reg off).toNat val.toNat))

/-! ## Requests that wait (R252, R434, R437, R449) -/

/-- A request from outside waits; its step tries again. -/
def State.hold (s : State) (i : Instr) : State := if s.held.contains i then s else { s with held := s.held ++ [i] }
/-- It waits no longer. -/
def State.unhold (s : State) (i : Instr) : State := { s with held := s.held.erase i }

end Sys2Proof.Machine
end

