-- ==== Sys2Proof/Decode.lean ====
section
/-! DEFINITION. The instruction word (R37, R45, R49): reading its fields, refusing it with the scanner's reason (R56), and
the encoder. -/
namespace Sys2Proof

/-- R37: bits [lo + n - 1 : lo] of a word. -/
def wbits (w : IWord) (lo n : Nat) : BitVec n := w.extractLsb' lo n

/-- R5: the word whose bytes, from the lowest address, are these. -/
def wordOfBytes (bs : List (BitVec 8)) : IWord :=
  bs.foldr (fun b acc => (acc <<< 8) ||| b.zeroExtend 128) 0

/-- R47: the pattern of a code below 8. -/
def Pat.ofCode (c : BitVec 3) : Pat :=
  match c.toNat with
  | 0 => .id | 1 => .bc | 2 => .rot | 3 => .x | 4 => .m | 5 => .up | 6 => .dn | _ => .sg

/-- R47: the code of a pattern. -/
def Pat.code : Pat → BitVec 4
  | .id => 0 | .bc => 1 | .rot => 2 | .x => 3 | .m => 4 | .up => 5 | .dn => 6 | .sg => 7

/-- R45: the half select of its two bits; 0b11 is reserved and is refused apart. -/
def Half.ofCode (c : BitVec 2) : Half :=
  match c.toNat with
  | 1 => .lo | 2 => .hi | _ => .none

/-- R45: the two bits of a half select. -/
def Half.code : Half → BitVec 2
  | .none => 0 | .lo => 1 | .hi => 2

/-- R45: the source field whose lowest bit is bit `lo` of the word. -/
def unpackSrc (w : IWord) (lo : Nat) : Src :=
  { reg := wbits w (lo + 15) 8, pat := Pat.ofCode (wbits w (lo + 11) 3), k := wbits w (lo + 6) 5,
    neg := w.getLsbD (lo + 5), abs := w.getLsbD (lo + 4), half := Half.ofCode (wbits w (lo + 2) 2) }

/-- R45: the reasons for which the bits of a source field are reserved whatever the instruction: a pattern code above 7,
a half select of 0b11, the reserved bit, and the IMM bit of a source other than a. DESIGN CHOICE (log 51): they keep these reasons
in a field that the instruction does not use; every other bit set there has reason 0x09 (R39). -/
def srcBitReasons (w : IWord) (lo : Nat) (isA : Bool) : List Nat :=
  (if w.getLsbD (lo + 14) then [6] else [])
  ++ (if wbits w (lo + 2) 2 == 3 || w.getLsbD (lo + 1) then [7] else [])
  ++ (if !isA && w.getLsbD lo then [8] else [])

/-- R49: SRCA.IMM. -/
def immBit (w : IWord) : Bool := w.getLsbD 46

/-- R37: the fields of a word. -/
def unpack (w : IWord) : Fields :=
  { sched :=
      { dist := wbits w 108 4, wait := wbits w 96 12, setf := wbits w 92 4, pen := w.getLsbD 91, psense := w.getLsbD 90,
        preg := wbits w 82 8, pbit := wbits w 77 5 },
    ty := Ty.ofCode (wbits w 116 4), var := wbits w 112 4, dst := wbits w 69 8,
    args := if immBit w then .imm (unpackSrc w 46) (wbits w 0 32)
            else .regs (unpackSrc w 46) (unpackSrc w 23) (unpackSrc w 0) }

/-- The reasons of the bits that `unpack` cannot hold (R45, R49). -/
def bitReasons (w : IWord) : List Nat :=
  srcBitReasons w 46 true
  ++ (if immBit w then (if wbits w 32 14 == 0 then [] else [8])
      else srcBitReasons w 23 false ++ srcBitReasons w 0 false)

/-- R54: the instruction of an operation code. -/
def Instr.ofOp (op : Nat) (f : Fields) : Option Instr :=
  match op with
  | 0x00 => some (.nop f)
  | 0x01 => some (.prep f)
  | 0x02 => some (.prepv f)
  | 0x03 => some (.xfer f)
  | 0x04 => some (.xfers f)
  | 0x05 => some (.join f)
  | 0x06 => some (.call f)
  | 0x07 => some (.ret f)
  | 0x08 => some (.loop f)
  | 0x09 => some (.hold f)
  | 0x0A => some (.icinv f)
  | 0x0B => some (.sleep f)
  | 0x0C => some (.exit f)
  | 0x0D => some (.trap f)
  | 0x10 => some (.iadd f)
  | 0x11 => some (.isub f)
  | 0x12 => some (.iaddc f)
  | 0x13 => some (.isubb f)
  | 0x14 => some (.imul f)
  | 0x15 => some (.imulh f)
  | 0x16 => some (.imad f)
  | 0x17 => some (.imadw f)
  | 0x18 => some (.ineg f)
  | 0x19 => some (.iabs f)
  | 0x1A => some (.imin f)
  | 0x1B => some (.imax f)
  | 0x1C => some (.iclamp f)
  | 0x1D => some (.icmp f)
  | 0x1E => some (.iset f)
  | 0x1F => some (.sel f)
  | 0x20 => some (.shl f)
  | 0x21 => some (.shr f)
  | 0x22 => some (.sar f)
  | 0x23 => some (.rotl f)
  | 0x24 => some (.rotr f)
  | 0x25 => some (.andOp f)
  | 0x26 => some (.orOp f)
  | 0x27 => some (.xorOp f)
  | 0x28 => some (.andn f)
  | 0x29 => some (.logt f)
  | 0x30 => some (.popc f)
  | 0x31 => some (.clz f)
  | 0x32 => some (.fnsb f)
  | 0x33 => some (.brev f)
  | 0x34 => some (.bfx f)
  | 0x35 => some (.bfi f)
  | 0x36 => some (.bperm f)
  | 0x37 => some (.mov f)
  | 0x38 => some (.movi f)
  | 0x39 => some (.movx f)
  | 0x3A => some (.movxw f)
  | 0x3B => some (.movs f)
  | 0x3C => some (.movsw f)
  | 0x3D => some (.cvt f)
  | 0x3E => some (.pack f)
  | 0x3F => some (.unpk f)
  | 0x40 => some (.fadd f)
  | 0x41 => some (.fsub f)
  | 0x42 => some (.fmul f)
  | 0x43 => some (.ffma f)
  | 0x44 => some (.fmin f)
  | 0x45 => some (.fmax f)
  | 0x46 => some (.fminp f)
  | 0x47 => some (.fmaxp f)
  | 0x48 => some (.fcmp f)
  | 0x49 => some (.fclass f)
  | 0x4A => some (.frnd f)
  | 0x4B => some (.fscale f)
  | 0x4C => some (.fexp f)
  | 0x4D => some (.fdiv f)
  | 0x4E => some (.fsqrt f)
  | 0x50 => some (.rcp f)
  | 0x51 => some (.rsq f)
  | 0x52 => some (.ex2 f)
  | 0x53 => some (.lg2 f)
  | 0x54 => some (.fsin f)
  | 0x55 => some (.fcos f)
  | 0x56 => some (.tanh f)
  | 0x57 => some (.sigm f)
  | 0x58 => some (.dot4 f)
  | 0x59 => some (.dot8 f)
  | 0x5A => some (.dotf8 f)
  | 0x5B => some (.dotf4 f)
  | 0x5C => some (.dot2h f)
  | 0x60 => some (.shfl f)
  | 0x61 => some (.shflx f)
  | 0x62 => some (.shflu f)
  | 0x63 => some (.shfld f)
  | 0x64 => some (.bcast f)
  | 0x65 => some (.vote f)
  | 0x66 => some (.ballot f)
  | 0x67 => some (.matchOp f)
  | 0x68 => some (.redi f)
  | 0x69 => some (.redf f)
  | 0x6A => some (.redm f)
  | 0x6B => some (.scan f)
  | 0x6C => some (.compact f)
  | 0x70 => some (.ld f)
  | 0x71 => some (.st f)
  | 0x72 => some (.ldro f)
  | 0x73 => some (.pref f)
  | 0x74 => some (.tlock f)
  | 0x75 => some (.tfree f)
  | 0x76 => some (.lds f)
  | 0x77 => some (.sts f)
  | 0x78 => some (.sptag f)
  | 0x79 => some (.spset f)
  | 0x7A => some (.spclr f)
  | 0x80 => some (.cpy f)
  | 0x81 => some (.cpym f)
  | 0x82 => some (.cpyg f)
  | 0x83 => some (.cscat f)
  | 0x84 => some (.cseal f)
  | 0x85 => some (.cwait f)
  | 0x88 => some (.rng f)
  | 0x89 => some (.trnode f)
  | 0x8A => some (.pgspec f)
  | 0x8B => some (.pgcmt f)
  | 0x8C => some (.pgdrop f)
  | 0x90 => some (.atom f)
  | 0x91 => some (.atoms f)
  | 0x92 => some (.cas f)
  | 0x93 => some (.cass f)
  | 0x94 => some (.red f)
  | 0x95 => some (.fence f)
  | 0x96 => some (.bar f)
  | 0x97 => some (.bara f)
  | 0x98 => some (.barw f)
  | 0x99 => some (.nbar f)
  | 0x9A => some (.cwt f)
  | 0x9B => some (.bitset f)
  | 0x9C => some (.bitwait f)
  | 0x9D => some (.gjoin f)
  | 0x9E => some (.gleave f)
  | 0xA0 => some (.mres f)
  | 0xA1 => some (.mrel f)
  | 0xA2 => some (.mldb f)
  | 0xA3 => some (.mlda f)
  | 0xA4 => some (.mma f)
  | 0xA5 => some (.mspr f)
  | 0xA6 => some (.mzero f)
  | 0xA7 => some (.mmov f)
  | 0xA8 => some (.mput f)
  | 0xA9 => some (.mstat f)
  | 0xB0 => some (.qsbind f)
  | 0xB1 => some (.qsrank f)
  | 0xB2 => some (.qsstep f)
  | 0xB3 => some (.qsrun f)
  | 0xB4 => some (.qsmask f)
  | 0xB5 => some (.qsres f)
  | 0xB6 => some (.keyf f)
  | 0xB7 => some (.keyr f)
  | 0xB8 => some (.tsnd f)
  | 0xB9 => some (.trcv f)
  | 0xBA => some (.atc f)
  | 0xBB => some (.drft f)
  | 0xC0 => some (.tret f)
  | 0xC1 => some (.pgmap f)
  | 0xC2 => some (.pgunmap f)
  | 0xC3 => some (.eject f)
  | 0xC4 => some (.scrub f)
  | 0xC5 => some (.mext f)
  | 0xC6 => some (.shab f)
  | 0xC7 => some (.edsign f)
  | 0xC8 => some (.lockif f)
  | _ => none

/-- R56: why the scanner refuses a word, under the declared count n: the reasons in the order of the table. -/
def wordReasons (n : Nat) (w : IWord) : List Nat :=
  let f := unpack w
  match rowOf (wbits w 120 8).toNat f with
  | none => [1]
  | some r => bitReasons w ++ r.reasons n f

/-- The first failing check in the table's order is the one with the lowest reason code (R56). -/
def firstReason : List Nat → Option Nat
  | [] => none
  | r :: rs => some (rs.foldl Nat.min r)

/-- Decoding is total: the instruction, or the scanner's reason code for the refusal (R56). -/
def decodeWord (n : Nat) (w : IWord) : Except Nat Instr :=
  match firstReason (wordReasons n w) with
  | some r => .error r
  | none => match Instr.ofOp (wbits w 120 8).toNat (unpack w) with
    | some i => .ok i
    | none => .error 1

/-- The instruction of a word with the largest declared count. -/
def decode (w : IWord) : Option Instr :=
  match decodeWord 256 w with
  | .ok i => some i
  | .error _ => none

/-- The fixed name of the host: the instruction of a table word of nbits bits. Every Terit instruction is one 128-bit word,
stored little-endian (R5, R37), so the table's numbering is the word's own; bits above nbits are zero. -/
def decodeTableWord (nbits w : Nat) : Option Instr := decode (BitVec.ofNat 128 (w % 2 ^ nbits))

/-- A bit as a one-bit field. -/
def bitOf (b : Bool) : BitVec 1 := BitVec.ofBool b

/-- R45: the 23 bits of a source field; `immB` is its bit 0. -/
def packSrc (s : Src) (immB : Bool) : BitVec 23 :=
  s.reg ++ s.pat.code ++ s.k ++ bitOf s.neg ++ bitOf s.abs ++ s.half.code ++ (0 : BitVec 1) ++ bitOf immB

/-- R37, R49: bits [68:0]: the three sources, or source a and the immediate. -/
def packArgs : Args → BitVec 69
  | .regs a b c => packSrc a false ++ packSrc b false ++ packSrc c false
  | .imm a i => packSrc a true ++ (0 : BitVec 14) ++ i

/-- R37: the word of an operation code and its fields. -/
def pack (op : BitVec 8) (f : Fields) : IWord :=
  op ++ f.ty.code ++ f.var ++ f.sched.dist ++ f.sched.wait ++ f.sched.setf ++ bitOf f.sched.pen ++ bitOf f.sched.psense
    ++ f.sched.preg ++ f.sched.pbit ++ f.dst ++ packArgs f.args

/-- The word of an instruction; an event or a host command has none and answers 0. -/
def encode (i : Instr) : IWord :=
  match i.opFields with
  | some (op, f) => pack (BitVec.ofNat 8 op) f
  | none => 0

end Sys2Proof
end

