-- ==== Sys2Proof/Machine/Scanner.lean ====
section
/-! DEFINITION. The code scanner over a whole image (R56 to R60, R192, R202, R463). Words are numbered from 0. -/
namespace Sys2Proof.Machine
open Sys2Proof

/-- A word of an image, the all-zero word beyond it. -/
def codeWord (ws : List IWord) (i : Nat) : IWord := (ws[i]?).getD 0
/-- The operation code of a word. -/
def opByte (w : IWord) : Nat := (wbits w 120 8).toNat
/-- max(DIST, 1) of a word. -/
def stepOf (w : IWord) : Nat := Nat.max 1 (unpack w).sched.dist.toNat
/-- The region that HOLD word `i` opens: its length, if the word is a HOLD. -/
def holdLen (ws : List IWord) (i : Nat) : Option Nat :=
  let w := codeWord ws i
  if opByte w == 0x09 then some (unpack w).immVal.toNat else none
/-- R192, R202: the HOLD word whose region a word lies inside. A HOLD outside 1 to 32 opens none. -/
def holdOf (ws : List IWord) (i : Nat) : Option Nat :=
  (List.range (Nat.min i 32)).findSome? fun k =>
    match holdLen ws (i - 1 - k) with
    | some n => if k < n && n ≤ 32 then some (i - 1 - k) else none
    | none => none
/-- R194: the byte offsets inside HOLD regions of an image. -/
def holdInteriors (ws : List IWord) : List Nat := ((List.range ws.length).filter fun i => (holdOf ws i).isSome).map (16 * ·)
/-- R176: an f64 word that occupies the pipeline for two cycles. -/
def isF64Pace (w : IWord) : Bool := decide (0x40 ≤ opByte w) && decide (opByte w ≤ 0x43) && (unpack w).ty == .f64
/-- R176: a word that the pace keeps out of the next cycle. -/
def isPaced (w : IWord) : Bool := decide (0x40 ≤ opByte w) && decide (opByte w ≤ 0x4C)

/-- R202: a HOLD word opens a malformed region. -/
def holdBad (ws : List IWord) (i : Nat) : Bool :=
  match holdLen ws i with
  | none => false
  | some n =>
    let inside := (List.range n).map fun k => codeWord ws (i + 1 + k)
    n == 0 || decide (32 < n) || decide (ws.length ≤ i + n) ||
      inside.any (fun w => (decide (0x01 ≤ opByte w) && decide (opByte w ≤ 0x0D)) || (unpack w).sched.wait != 0 || opByte w == 0xBA) ||
      (List.range (n - 1)).any fun k => isF64Pace (codeWord ws (i + 1 + k)) && isPaced (codeWord ws (i + 2 + k)) && stepOf (codeWord ws (i + 2 + k)) == 1
/-- R192: the offset that a PREP or an XFERS names fails: 5 for its place, 12 inside a region. -/
def targetReasons (ws : List IWord) (i : Nat) : List Nat :=
  let w := codeWord ws i
  if opByte w == 0x01 || opByte w == 0x04 then
    let t := (unpack w).immVal.toNat
    if t % 16 != 0 || decide (16 * ws.length ≤ t) then [5] else if (holdOf ws (t / 16)).isSome then [12] else []
  else []

/-- R60: a word cannot continue to the next. -/
def ends (w : IWord) : Bool :=
  let op := opByte w
  !(unpack w).sched.pen && (op == 0x0C || op == 0xC0 || op == 0x0D || op == 0x07 || op == 0x05 || op == 0x03 || op == 0x04)
/-- R57: no word is reached by falling through this one: what R60 names, and CALL, which is always taken (R198). -/
def breaks (w : IWord) : Bool := ends w || opByte w == 0x06

/-- R146: EXM counts as one register, beyond the lane registers, of a MOVS that writes it. -/
def exmReg : Nat := 256
/-- The lane registers of an operand, and EXM for the special register that a MOVS writes. -/
def opndRegs (o : Opnd) (r : BitVec 8) : List Nat :=
  match o with
  | .lane n .. => (List.range n).map (r.toNat + ·)
  | .sreg _ true => [exmReg]
  | _ => []
/-- R57: the registers a word reads under the declared count. -/
def wordReads (n : Nat) (w : IWord) : List Nat :=
  let f := unpack w
  let op := opByte w
  if op == 0x39 || op == 0x3A then List.range n
  else match rowOf op f with
    | none => []
    | some r => (r.sources f).flatMap (fun x => opndRegs x.1 x.2.reg) ++ (if f.sched.pen then [f.sched.preg.toNat] else []) ++
        (if r.dstRead then opndRegs r.dst f.dst else [])
/-- R57, R146: the registers in which a word has a fixed-class result, and its landing. -/
def wordWrites (w : IWord) : List Nat × Nat :=
  let f := unpack w
  match rowOf (opByte w) f with
  | none => ([], 0)
  | some r => if r.cls.fixed && r.dstWrite then (opndRegs r.dst f.dst, lambda f r.cls) else ([], 0)
/-- R57, R58: the reasons of the pairs of word `q` with the `n` words before `p + 1`, `b` being the issue distance from `p`. Landings
end within 18 cycles, so `n` of 18 suffices. -/
def pairReasons (ws : List IWord) (n q : Nat) : Nat → Nat → Nat → List Nat
  | 0, _, _ => []
  | k + 1, p, b =>
    let wp := codeWord ws p
    let wq := codeWord ws q
    if breaks wp then [] else
    let (rs, lp) := wordWrites wp
    let (qs, lq) := wordWrites wq
    let together := (holdOf ws p).isSome && holdOf ws p == holdOf ws q
    let reads := wordReads n wq
    let cover := !together && ((decide (b < lp) && rs.any reads.contains) || (decide (b = 1) && isF64Pace wp && isPaced wq))
    let order := rs.any qs.contains && decide (b + lq ≤ lp)
    (if cover then [10] else []) ++ (if order then [11] else []) ++
      (if p = 0 then [] else pairReasons ws n q k (p - 1) (b + stepOf wp))
/-- R56, R463: every reason reported at a word of an image. -/
def imageReasons (ws : List IWord) (n i : Nat) : List Nat :=
  let w := codeWord ws i
  wordReasons n w ++ targetReasons ws i ++ (if holdBad ws i then [12] else []) ++
    (if i = 0 then [] else pairReasons ws n i 18 (i - 1) (stepOf w)) ++ (if i + 1 = ws.length && !ends w then [13] else [])
/-- R56: the first word that fails, as its byte offset and the reason reported. -/
def scanImage (ws : List IWord) (n : Nat) : Option (Nat × Nat) :=
  (List.range ws.length).findSome? fun i => (firstReason (imageReasons ws n i)).map fun r => (16 * i, r)

end Sys2Proof.Machine
end

