-- ==== Sys2Proof/Machine/Commands.lean ====
section
/-! DEFINITION. Management commands (R61, R62, R67, R70, R364, R365, R424 to R428, R456, R457) and the scrub (R437, R438). -/
namespace Sys2Proof.Machine
open Sys2Proof

/-! ## Share grants (R67, R70) -/

/-- R70: the resident warps that hold a grant between two ASIDs. -/
def State.holders (s : State) (p a b : Nat) : List Nat :=
  let pairs (w : Warp) : Bool := lanes32.any fun i => lanes32.any fun j => w.asidOf i == a && w.asidOf j == b && (mget w.share i).getLsbD j
  (s.warps.filter fun w => w.pdk == p && pairs w).map (·.id)
/-- R67: an entry after a grant is entered or revoked by one side. -/
def Grant.side (g : Grant) (own : Nat) (on : Bool) : Grant := if own == g.a then { g with inA := on } else { g with inB := on }
/-- SHGRANT (R67, R70, R455). -/
def execShgrant (p seq : Nat) (payload : BitVec 256) (s : State) : Out :=
  s.command p seq 0x23 payload fun s =>
    let x := payload.toNat
    let no := fld x 248 8
    let own := fld x 232 16
    let other := fld x 216 16
    let revoke := bitAt x 215
    if !unusedZero payload [(215, 41)] then s.reportFail p seq 1
    else if !s.hasPdk p || own == other then s.reportFail p seq 2
    else
      let old := (s.pdk p).grants.find? fun g => g.no == no && (g.inA || g.inB)
      let same (g : Grant) : Bool := (g.a == own && g.b == other) || (g.a == other && g.b == own)
      let put (g : Grant) (s : State) : State := s.updPdk p fun q =>
        { q with grants := q.grants.filter (·.no != no) ++ (if g.inA || g.inB then [g] else []) }
      match old with
      | some g =>
        if !same g then s.reportFail p seq 2
        else
          let s := put (g.side own (!revoke)) s
          let left := if revoke && g.inA && g.inB then s.holders p own other else []
          if left.isEmpty then s.reportDone p seq else s.updCmd p seq fun c => { c with left }
      | none => (if revoke then s else put { no, a := own, b := other, inA := true } s).reportDone p seq

/-! ## Templates (R364, R365) -/

/-- R364: the 64 entries of a template keep its rules: the nodes stand first, the rest is zero. -/
def templateOk (es : List Nat) : Bool :=
  let e (j : Nat) : Nat := (es[j]?).getD 0
  let k := (es.takeWhile (bitAt · 15)).length
  (List.range 64).all fun j =>
    if k ≤ j then e j == 0
    else fld (e j) 9 6 == 0 &&
      (if j = 0 then fld (e j) 0 9 == 0 else fld (e j) 0 6 < j && fld (e j) 6 3 == fld (e (fld (e j) 0 6)) 6 3 + 1)
/-- TMPLSET (R364, R365, R455). -/
def execTmplset (p seq : Nat) (payload : BitVec 256) (s : State) : Out :=
  s.command p seq 0x22 payload fun s =>
    let x := payload.toNat
    if !unusedZero payload [(192, 64), (187, 5), (160, 16)] then s.reportFail p seq 1
    else match s.named p seq with
    | none => s.reportFail p seq 2
    | some no =>
      let asid := fld x 160 16
      let read := s.vgetBytes no asid (fld x 192 64) 128
      let s := s.noteGets no asid [(fld x 192 64, 128)]
      match read with
      | none => s.reportFail p seq 2
      | some bs =>
        let es := (List.range 64).map fun j => ofLe ((bs.drop (2 * j)).take 2)
        let t := fld x 187 5
        if !templateOk es then s.reportFail p seq 2
        else (s.updPdk no fun q =>
          { q with templates := (List.range 64).foldl (fun m j => mset m (64 * t + j) (BitVec.ofNat 16 ((es[j]?).getD 0))) q.templates }).reportDone p seq

/-! ## XMAP and XUNMAP (R61, R62) -/

/-- R61: a map request; none outside its limits. -/
def parseMap (x : Nat) : Option (Nat × Nat × Nat × Nat) :=
  let va := fld x 448 64
  let len := fld x 416 32
  let entry := fld x 376 32
  if fld x 0 376 == 0 && va % 2 ^ 18 == 0 && len % 16 == 0 && decide (16 ≤ len) && decide (len ≤ 2 ^ 28) && entry % 16 == 0 && decide (entry < len) &&
      decide (va + len ≤ 2 ^ 57) then some (va, len, fld x 408 8 + 1, entry) else none
/-- R61: the frames of the code range; none unless every page is a present 256 KiB leaf with RD = 1, WR = 0 and EX = 0. -/
def State.codeFrames (s : State) (p asid va len : Nat) : Option (List Nat) :=
  let page (k : Nat) : Except Unit Nat :=
    match s.walk p asid (va + k * 2 ^ 18) with
    | .leaf e => if e.size == 0 && e.rd && !e.wr && !e.ex then .ok (e.frame / 2 ^ 18) else .error ()
    | .fault .. => .error ()
  match allOk ((List.range (cdiv len (2 ^ 18))).map page) with
  | .ok l => some l
  | .error _ => none
/-- XMAP (R61): steps 1 and 2; the leases run out next. -/
def execXmap (p seq : Nat) (payload : BitVec 256) (s : State) : Out :=
  s.command p seq 0x28 payload fun s =>
    let asid := fld payload.toNat 176 16
    if !unusedZero payload [(176, 80)] then s.reportFail p seq 1
    else if !s.hasPdk p then s.reportFail p seq 2
    else
      let at_ := fld payload.toNat 192 64
      let read := s.vgetBytes p asid at_ 64
      let s := s.noteGets p asid [(at_, 64)]
      match read.bind fun bs => parseMap (ofLe bs) with
      | none => s.reportFail p seq 2
      | some (va, len, n, entry) =>
        match s.codeFrames p asid va len with
        | none => s.reportFail p seq 2
        | some frames =>
          let (id, s) := s.takeId
          let s := s.updPdk p fun q => { q with exframes := q.exframes ++ frames }
          s.addDrain p id (.xmap seq { handle := id % 2 ^ 32, asid, va, len, n, entry, frames })
/-- The words of an image's code; none where a page cannot be read. -/
def State.codeWords (s : State) (p : Nat) (im : Image) : Option (List IWord) :=
  match allOk ((List.range (im.len / 16)).map fun k => match s.vget p im.asid (im.va + 16 * k) 16 with
    | some x => (Except.ok (BitVec.ofNat 128 x) : Except Unit IWord)
    | none => .error ()) with
  | .ok l => some l
  | .error _ => none
/-- R61: EX is written in the leaf of a page. -/
def State.setEx (s : State) (p asid va v : Nat) : State :=
  match s.leafEntry p asid va with
  | some (at_, e) => if fld e 62 2 == 3 then s.devWrite p at_ (leBytes (setFld e 58 1 v) 8) else s
  | none => s
/-- The virtual addresses of an image's pages. -/
def Image.pages (im : Image) : List Nat := (List.range (cdiv im.len (2 ^ 18))).map fun k => im.va + k * 2 ^ 18
/-- R61: steps 4 to 6 of an XMAP whose leases have run out. DESIGN CHOICE (log 49): code that cannot be read any more takes its frames out of the
table again, with reason 0x02. -/
def State.finishXmap (s : State) (p : Nat) (j : Job) : State :=
  match j.what with
  | .unmap .. => s
  | .xmap seq im =>
    let s := s.updPdk p fun q => { q with jobs := q.jobs.filter (·.id != j.id) }
    let undo (s : State) : State := s.updPdk p fun q => { q with exframes := dropFrames q.exframes im.frames }
    let read := s.codeWords p im
    let s := s.noteGets p im.asid [(im.va, im.len)]
    match read with
    | none => (undo s).reportFail p seq 2
    | some ws =>
      match scanImage ws im.n with
      | some (off, why) => (undo s).report p { seq, status := 1, reason := 0x0D, failoff := off, failwhy := why }
      | none =>
        let im := { im with ident := sha512 (ws.flatMap fun (w : IWord) => leBytes w.toNat 16), holds := holdInteriors ws }
        let s := im.pages.foldl (fun (t : State) va => t.setEx p im.asid va 1) s
        (s.updPdk p fun q => { q with images := q.images ++ [im] }).report p { seq, handle := im.handle }
/-- The first XMAP whose leases have run out. -/
def State.xmapDue (s : State) (q : Pdk) : Option Job :=
  q.jobs.find? fun j => match j.what with | .xmap .. => s.drained q.no j | .unmap .. => false
/-- `XMAP_LEASE_DRAINED` (R61). -/
def execXmapLeaseDrained (s : State) : Out :=
  .next (match s.pdks.findSome? fun q => (s.xmapDue q).map fun j => (q.no, j) with
    | none => s
    | some (p, j) => s.finishXmap p j)
/-- XUNMAP (R61, R205). -/
def execXunmap (p seq : Nat) (payload : BitVec 256) (s : State) : Out :=
  s.command p seq 0x29 payload fun s =>
    if !unusedZero payload [(224, 32)] then s.reportFail p seq 1
    else match (s.pdk p).image (fld payload.toNat 224 32) with
      | none => s.reportFail p seq 3
      | some im =>
        let s := im.pages.foldl (fun (t : State) va => (t.setEx p im.asid va 0).stalePage p im.asid (va / 2 ^ 18)) s
        let (id, s) := s.takeId
        (s.addDrain p id (.unmap none [] [] im.frames (im.pages.map fun va => (im.asid, va / 2 ^ 18)) (some seq))).updPdk p fun q =>
          { q with images := q.images.filter (·.handle != im.handle) }

/-! ## Measurements (R428, R439, R440) -/

/-- R439: MEASk. -/
def State.measReg (s : State) (k : Nat) : BitVec 512 := (s.meas[k]?).getD 0
/-- R439: MEASk takes a value. -/
def State.setMeas (s : State) (k : Nat) (v : BitVec 512) : State :=
  { s with meas := (List.range 8).map fun i => if i == k then v else s.measReg i }
/-- R439: MEASk is extended with 64 bytes. -/
def State.extend (s : State) (k : Nat) (v : BitVec 512) : State := s.setMeas k (sha512 (digestBytes (s.measReg k) ++ digestBytes v))
/-- R428: MEAS2 is extended with the digest of a command's entry, its TAG zero. -/
def State.extendEntry (s : State) (seq opc : Nat) (payload : BitVec 256) : State :=
  s.extend 2 (sha512 (leBytes (seq * 2 ^ 448 + opc * 2 ^ 440 + payload.toNat * 2 ^ 128) 64))

/-! ## The scrub (R430, R437, R438, R466) -/

/-- R437: the reset values of a paddock's page. -/
def pageReset : SMap 64 := [(0x000, 0x40)]
/-- R13, R97: the frames of the pool of some slices, but for those that stand in for retired ones. -/
def State.freePool (s : State) (slices : BitVec 64) : List Nat := (Config.poolFrames slices).filter fun f => !s.redirect.any (·.2 == f)
/-- R13, R437, R457: a core whose state a scrub has cleared: the elements that fail for good go out of use. -/
def Core.scrubbed (k : Core) : Core :=
  { id := k.id, frozen := k.frozen, from_ := k.from_, until_ := k.until_, throttled := k.throttled
    weak := k.weak.filter (!·.2), dead := k.dead ++ (k.weak.filter (·.2)).map (·.1) }
/-- R424: the 64-byte lines of the channels of some slices. -/
def channelLines (slices : Nat) : Nat := ((List.range 64).filter (bitAt slices)).length * (Config.sliceFrames - 768) * 4096
/-- R430: what another world left in the SRAM tier of a paddock's slices reads as noise under its keys (log 55). -/
def State.scramble (s : State) (p : Nat) : State :=
  let left := ((s.worlds.filter fun k => k.2 != s.worldOf p && inShare ((s.pdk p).reg 0x0C8).toNat (64 * k.1) && inSramTier (64 * k.1)).map (·.1)).eraseDups
  let noisy (l : Nat) : List (BitVec 8) := (List.range 64).map fun k => mget s.mem (64 * l + k) ^^^ Config.noise (s.pdk p).world (64 * l + k)
  { s with mem := left.foldl (fun m l => putBytes m (64 * l) (noisy l)) s.mem, worlds := s.worlds.filter fun k => !left.contains k.1 }
/-- R437, R438, R466: the paddock's world changes: its keys, the valid state of its slices, its memory, tables and registers. What
PDCFG, PDSLICES, PDBW, QUANTUM, IFSTATE and WORLDGEN hold stays. -/
def State.scrubWorld (s : State) (p : Nat) : State :=
  let s := s.drawKeys p
  let q := s.pdk p
  let slices := (q.reg 0x0C8).toNat
  let mine (a : Nat) : Bool := inShare slices a
  let cores := s.coresOf p
  let keep := [0x0C0, 0x0C8, 0x0D0, 0x0D8, 0x0DC]
  let regs := msetAll pageReset ((keep.map fun o => (o, q.reg o)) ++ [(0x0E8, BitVec.ofNat 64 (((q.reg 0x0E8).toNat + 1) % 2 ^ 32))])
  let gone (wid : Nat) : Bool := s.warps.any fun w => w.id == wid && w.pdk == p
  let lineMine (k : Nat) : Bool := mine (64 * k)
  let s : State := { s with
    warps := s.warps.filter (·.pdk != p), ops := s.ops.filter (!gone ·.wid), jobs := s.jobs.filter (·.pdk != p)
    deferred := s.deferred.filter (!gone ·.wid), parked := s.parked.filter (·.pdk != p), pending := s.pending.filter (!gone ·.wid)
    launches := s.launches.filter (·.pdk != p), seqs := s.seqs.filter (·.1 != p)
    cores := s.cores.map fun (k : Core) => if cores.contains k.id then k.scrubbed else k
    stlb := s.stlb.filter (·.2.pdk != p), outbound := s.outbound.filter fun o => !gone (((s.op? o.op).map (·.wid)).getD 0)
    mem := s.mem.filter fun c => !mine c.1, wstamps := s.wstamps.filter fun k => !mine k.1
    poison := s.poison.filter fun w => !mine (4 * w), worlds := s.worlds.filter fun k => !lineMine k.1
    marks := s.marks.filter fun k => !lineMine k.1 || k.2 == .lasting, det := s.det.filter fun r => !(decide (r.line < 2 ^ 40) && lineMine r.line) }
  { s with pdks := s.pdks.map fun x => if x.no != p then x else
      { no := p, regs, watch := x.watch, ring := { session := x.ring.session, rekeys := x.ring.rekeys }, pool := s.freePool (q.reg 0x0C8)
        world := x.world, bgptr := some 0, bgleft := channelLines slices, scrubbing := x.scrubbing, stopping := x.stopping, zeroing := true } }
/-- R438: the next old line of a paddock's channels from a line on, in address order, with how many lines of the present world the pass keeps on
its way there. A frame that is not in its channels is passed at once. `n` steps at most. -/
def State.nextOldFrom (s : State) (p : Nat) : Nat → Nat → Nat → Option (Nat × Nat)
  | 0, _, _ => none
  | n + 1, l, kept =>
    if Config.frames * 4096 ≤ l then none
    else if s.oldLine p l then some (l, kept)
    else if inShare ((s.pdk p).reg 0x0C8).toNat (64 * l) && !inSramTier (64 * l) then s.nextOldFrom p n (l + 1) (kept + 1)
    else s.nextOldFrom p n ((l / 4096 + 1) * 4096) kept
/-- R438: the old line that a paddock's pass comes to next, and the lines it keeps before that. -/
def State.nextOld (s : State) (p : Nat) : Option (Nat × Nat) :=
  (s.pdk p).bgptr.bind fun b => s.nextOldFrom p (Config.frames + s.worlds.length + 1) b 0
/-- `BGZERO_LINE` (R438): the pass rewrites the next old line as zeros, and passes the lines it keeps before that. A line that no world is
named for reads as the rewritten one. -/
def execBgzeroLine (p line : Nat) (s : State) : Out :=
  .next (match s.nextOld p with
    | some (l, kept) => if l != line then s else s.updPdk p fun q =>
        { q with bgptr := some (l + 1), bgleft := q.bgleft - 1 - kept, bgwall := s.wall + 1 }
    | none => s)
/-- R437, R438: a pass that has no old line left, of a paddock whose scrub is over. -/
def State.passOver (s : State) (q : Pdk) : Bool := q.bgptr.isSome && !q.zeroing && q.scrubbing.isNone && (s.nextOld q.no).isNone
/-- `BGZERO_PASS_END` (R438). -/
def execBgzeroPassEnd (s : State) : Out :=
  .next ((s.pdks.filter s.passOver).foldl (fun t q => t.updPdk q.no fun q => { q with bgptr := none, bgleft := 0 }) s)

/-! ## Paddocks (R424 to R428) -/

/-- R428: the ring's own interface, and a named paddock's, are CONFIG_UNLOCKED. -/
def State.unlocked (s : State) (p : Nat) : Bool := p = 0 || (s.hasPdk p && (s.pdk p).ifstate == 0)
/-- R426: budgets that a paddock of a parent may have, beside its siblings' and over its own children's. -/
def State.budgetOk (s : State) (parent no lp net quantum : Nat) : Bool :=
  let sib := (s.children parent).filter (·.no != no)
  let own := s.children no
  let sum (l : List Pdk) (lo : Nat) : Nat := (l.map fun q => fld (q.reg 0x0D0).toNat lo 16).foldl (· + ·) 0
  decide (sum own 0 ≤ lp) && decide (sum own 16 ≤ net) && (own.all fun q => decide ((q.reg 0x0D8).toNat ≤ quantum)) &&
  if parent = 0 then decide (sum sib 16 + net ≤ 3200)
  else
    let b := ((s.pdk parent).reg 0x0D0).toNat
    decide (sum sib 0 + lp ≤ fld b 0 16) && decide (sum sib 16 + net ≤ fld b 16 16) && decide (quantum ≤ ((s.pdk parent).reg 0x0D8).toNat)
/-- R424: slices that a paddock of this ring may give to a new one: its own, with no warp on them. -/
def State.slicesFree (s : State) (p mask : Nat) : Bool :=
  mask != 0 && (if p = 0 then s.pdks.all fun q => (q.reg 0x0C8).toNat &&& mask == 0 else ((s.pdk p).reg 0x0C8).toNat &&& mask == mask) &&
    s.warps.all fun w => w.core == 0 || !bitAt mask (sliceOfCore w.core)
/-- R428: whether a PDCREATE keeps the rules. -/
def State.createOk (s : State) (p no mask lp net quantum : Nat) (isSealed : Bool) : Bool :=
  decide (1 ≤ no) && decide (no ≤ 64) && !s.hasPdk no && s.unlocked p && (p = 0 || (s.pdk p).level == 1) && s.slicesFree p mask &&
    s.budgetOk p no lp net quantum && (p = 0 || !(s.pdk p).isSealed || isSealed)
/-- R428: the slices of a paddock's page change. -/
def State.giveSlices (s : State) (p mask : Nat) (add : Bool) : State :=
  if p = 0 then s else s.updPdk p fun q =>
    let v := (q.reg 0x0C8).toNat
    q.setReg 0x0C8 (BitVec.ofNat 64 (if add then v ||| mask else v - (v &&& mask)))
/-- PDCREATE (R428, R429, R430). -/
def execPdcreate (p seq : Nat) (payload : BitVec 256) (s : State) : Out :=
  s.command p seq 0x10 payload fun s =>
    let x := payload.toNat
    let mask := fld x 192 64
    let no := fld x 184 8
    let lp := fld x 160 16
    let net := fld x 144 16
    let quantum := fld x 112 32
    if !unusedZero payload [(184, 72), (176, 2), (112, 64)] then s.reportFail p seq 1
    else if !s.createOk p no mask lp net quantum (bitAt x 176) then s.reportFail p seq 2
    else
      let cfg := no * 2 ^ 16 + p * 2 ^ 8 + (if p = 0 then 1 else 2) * 4 + fld x 176 1 * 2 + fld x 177 1
      let regs := msetAll pageReset [(0x0C0, BitVec.ofNat 64 cfg), (0x0C8, BitVec.ofNat 64 mask), (0x0D0, BitVec.ofNat 64 (net * 2 ^ 16 + lp)),
        (0x0D8, BitVec.ofNat 64 quantum)]
      let s := s.giveSlices p mask false
      let s : State := { s with pdks := s.pdks ++ [{ no, regs, pool := s.freePool (BitVec.ofNat 64 mask) }] }
      (((s.drawKeys no).scramble no).extendEntry seq 0x10 payload).reportDone p seq
/-- R428: whether a command that names a paddock keeps the rules. -/
def State.ownChild (s : State) (p no : Nat) : Bool := s.hasPdk no && (s.pdk no).parent == p && s.unlocked no && s.unlocked p
/-- R12, R354: a paddock is closed before its scrub: its warps stop, its commands are reported failed with 0x0B, as its records have room. -/
def State.closePdk (s : State) (no : Nat) : State :=
  let s : State := { s with warps := s.warps.map fun w => if w.pdk == no then { w with stopped := true } else w }
  let s := (s.updPdk no fun q => { q with stopping := true }).failAll no 1 0x0B
  s.flushRecords no (s.ringOf no).cmds.length
/-- The PDDESTROYs, or HTESTs, of every ring that have started and wait for a paddock: the ring, the command and the paddock. -/
def State.tearing (s : State) (opc : Nat) : List (Nat × Cmd × Nat) :=
  (0 :: s.pdks.map (·.no)).flatMap fun p =>
    ((s.ringOf p).cmds.filter fun c => c.opc == opc && c.started && c.report.isNone).flatMap fun c => c.left.map fun no => (p, c, no)
/-- A paddock is being destroyed or tested. -/
def State.torn (s : State) (no : Nat) : Bool := (s.tearing 0x11 ++ s.tearing 0x31).any (·.2.2 == no)
/-- R428: a paddock whose commands are all reported goes: its world is scrubbed, its slices return. -/
def State.destroyPdk (s : State) (p : Nat) (c : Cmd) (no : Nat) : State :=
  let mask := ((s.pdk no).reg 0x0C8).toNat
  let s := (s.scrubWorld no).giveSlices p mask true
  (({ s with pdks := s.pdks.filter (·.no != no) } : State).extendEntry c.seq c.opc c.payload).reportDone p c.seq
/-- The PDDESTROYs whose paddock has no command left to report. -/
def State.destroysOver (s : State) : List (Nat × Cmd × Nat) := (s.tearing 0x11).filter fun d => (s.ringOf d.2.2).cmds.isEmpty
/-- Every PDDESTROY that may end ends. -/
def State.endDestroys (s : State) : State := s.destroysOver.foldl (fun t d => t.destroyPdk d.1 d.2.1 d.2.2) s
/-- A scrub or a stop of a paddock is under way. -/
def Pdk.scrubs (q : Pdk) : Bool := q.stopping || q.scrubbing.isSome
/-- PDDESTROY (R428): the paddock is closed; once its records are written it is scrubbed and goes. A scrub of it that is under way comes first
(log 26). -/
def execPddestroy (p seq : Nat) (payload : BitVec 256) (s : State) : Out :=
  if (s.pdk (fld payload.toNat 248 8)).scrubs then .next s else
  s.command p seq 0x11 payload fun s =>
    let no := fld payload.toNat 248 8
    if !unusedZero payload [(248, 8)] then s.reportFail p seq 1
    else if !s.ownChild p no || !(s.children no).isEmpty then s.reportFail p seq 2
    else ((s.closePdk no).updCmd p seq fun c => { c with left := [no] }).endDestroys
/-- PDBUDGET (R428). -/
def execPdbudget (p seq : Nat) (payload : BitVec 256) (s : State) : Out :=
  s.command p seq 0x12 payload fun s =>
    let x := payload.toNat
    let no := fld x 248 8
    let lp := fld x 160 16
    let net := fld x 144 16
    let quantum := fld x 112 32
    if !unusedZero payload [(248, 8), (112, 64)] then s.reportFail p seq 1
    else if !s.ownChild p no || !s.budgetOk p no lp net quantum then s.reportFail p seq 2
    else
      let s := s.updPdk no fun q => (q.setReg 0x0D0 (BitVec.ofNat 64 (net * 2 ^ 16 + lp))).setReg 0x0D8 (BitVec.ofNat 64 quantum)
      (s.extendEntry seq 0x12 payload).reportDone p seq

/-! ## RKFORM (R407, R409, R456) -/

/-- R408, R456: the rink ports, by their mode bit. -/
def State.rinkPorts (s : State) : List Nat := (List.range 8).filter fun k => bitAt s.rkctl (8 + k)
/-- R89: RINKC reads to the end of the cycle as it did before the formation changed. -/
def Rink.keepReads (r : Rink) : Option (Option DWord) := some r.reads
/-- R409, R456: the rink is formed with RINKC at a value. -/
def State.formRink (s : State) (c : Nat) : State :=
  let s := s.updRink fun r => { dist := r.dist, relay := r.relay, hop := r.hop, formed := true, rinkc := BitVec.ofNat 64 c, was := r.keepReads
                                pdrift := r.pdrift }
  { s with mgmt := msetAll s.mgmt [(0x108, 0), (0x10C, 0)] }
/-- R456: the commands to form the rink that have started and wait. -/
def State.formings (s : State) : List Cmd := s.root.cmds.filter fun c => c.opc == 0x30 && c.started && c.report.isNone
/-- R456: the commands to form the rink are reported and measured. -/
def State.formDone (s : State) : State :=
  s.formings.foldl (fun t c => (t.extendEntry c.seq 0x30 c.payload).reportDone 0 c.seq) s
/-- R407, R456: the formation fails here, and word of it goes on over the other links (log 24). -/
def State.failForm (s : State) (came : Option Nat) : State :=
  let s := (s.updRink fun r => { r with forming := false, formed := false, was := r.keepReads }).flood came fun q => .start q true
  s.formings.foldl (fun t c => t.reportFail 0 c.seq 2) s
/-- RKFORM (R456): each link's transit is measured, a free value within its field (log 5). A member whose links are too long fails, and every
other with it (R407); the others wait for the start flit, the member REFID to start it (log 24). -/
def execRkform (p seq : Nat) (payload : BitVec 256) (s : State) : Out :=
  s.command p seq 0x30 payload fun s =>
    if payload != 0 then s.reportFail p seq 1
    else if p != 0 || !bitAt s.rkctl 0 || s.diam = 0 then s.reportFail p seq 2
    else
      let (hops, s) := s.rinkPorts.foldl (fun (r : List (Nat × BitVec 10) × State) k =>
        let (v, t) := r.2.freeVal
        (r.1 ++ [(k, v.truncate 10)], t)) (([] : List (Nat × BitVec 10)), s)
      let s := s.updRink fun r => { r with hop := msetAll [] hops }
      let word (half : Nat) : Nat := ((hops.filter fun (h : Nat × BitVec 10) => h.1 / 4 == half).map fun h => h.2.toNat * 2 ^ (16 * (h.1 % 4))).foldl (· + ·) 0
      let s : State := { s with mgmt := msetAll s.mgmt [(0x120, BitVec.ofNat 64 (word 0)), (0x128, BitVec.ofNat 64 (word 1))] }
      let down := s.rinkPorts.any fun k => !(s.ports.any fun x => x.no == k && x.up && x.rink)
      if down || hops.any fun (h : Nat × BitVec 10) => decide (600 < h.2.toNat) then s.failForm none
      else if s.rinkPorts.isEmpty && s.memberId == fld s.rkctl 32 8 then (s.formRink 0).formDone
      else s.updRink fun r => { r with forming := true, formed := false, was := r.keepReads }
/-- `RINK_START_FLIT` (R456): the start flit reaches a member that is forming on a port, or word that the formation fails does; it is flooded on
over the other links. RINKC is 0, corrected by the transit of the links it came through, as measured on that port (log 24). The
member REFID starts the flit itself: its event names no port. -/
def execRinkStart (port : Nat) (fails : Bool) (s : State) : Out :=
  let mine := s.memberId == fld s.rkctl 32 8
  .next (if !s.rink.forming || (if 8 ≤ port then !mine || fails else !s.rinkPort port || (mine && !fails)) then s
    else if fails then s.failForm (some port)
    else ((s.formRink (if mine then 0 else (mget s.rink.hop port).toNat * s.hopsTo (fld s.rkctl 32 8))).flood (some port) fun q => .start q false).formDone)
/-- R456: the member REFID starts the flit. -/
def execRinkStartFlit (s : State) : Out := execRinkStart 8 false s

/-! ## Health test (R457) -/

/-- HTEST (R457). What the paddock's ring has accepted is reported failed before the scrub (log 26). -/
def execHtest (p seq : Nat) (payload : BitVec 256) (s : State) : Out :=
  if (s.pdk (fld payload.toNat 248 8)).scrubs then .next s else
  s.command p seq 0x31 payload fun s =>
    let no := fld payload.toNat 248 8
    if !unusedZero payload [(248, 8)] then s.reportFail p seq 1
    else if p != 0 || !s.hasPdk no || !s.unlocked no || s.warps.any (·.pdk == no) then s.reportFail p seq 2
    else (s.closePdk no).updCmd p seq fun c => { c with left := [no] }
/-- A device-physical frame has a line that fails for good. -/
def State.failsAt (s : State) (frame : Nat) : Bool := s.marks.any fun k => k.1 / 4096 == frame && k.2 == .lasting
/-- R13, R457: the pages of a paddock's share whose failure has proved lasting, those of the pool among them, move to pool frames that do not fail,
as far as there are any; with how many have moved. -/
def State.retireShare (s : State) (p : Nat) : Nat × State :=
  let slices := ((s.pdk p).reg 0x0C8).toNat
  let frames := ((s.marks.filter fun k => inShare slices (64 * k.1) && k.2 == .lasting).map (·.1 / 4096)).eraseDups
  let good (f : Nat) : Bool := (s.devFrame p f).any fun d => !s.failsAt d
  let t := frames.foldl (fun (t : State) f => t.moveFrame p f) (s.updPdk p fun q => { q with pool := q.pool.filter good })
  ((frames.filter fun f => !t.failsAt f).length, t.updPdk p fun q => { q with pool := q.pool ++ (s.pdk p).pool.filter (!good ·) })
/-- R461: HTSTAT: PASS as the test reports it, DONE, and the pages it has retired. -/
def testWord (report : BitVec 512) (retired : Nat) : Nat := fld report.toNat 0 1 + 2 + Nat.min retired 255 * 256
/-- `HTEST_COMPLETE` (R457): the test of a paddock whose records are written ends with a report of 64 bytes. Its first word is HTSTAT's, the rest
that of the event (log 26). -/
def execHtestComplete (p : Nat) (report : BitVec 512) (s : State) : Out :=
  .next (match (s.tearing 0x31).find? fun d => d.2.2 == p && (s.ringOf p).cmds.isEmpty with
    | none => s
    | some d =>
      let (n, s) := s.retireShare p
      let s := (s.scrubWorld p).updPdk p fun q => { q with stopping := false, zeroing := false }
      let s := s.extend 3 (sha512 (digestBytes (BitVec.ofNat 512 (setFld report.toNat 0 32 (testWord report n)))))
      { s.reportDone 0 d.2.1.seq with mgmt := mset s.mgmt 0x020 (BitVec.ofNat 64 (testWord report n)) })

end Sys2Proof.Machine
end

