-- ==== Sys2Proof/Machine/CrossLane.lean ====
section
/-! DEFINITION. Exchanges, votes, reductions and scans between the lanes of a warp (R210 to R224). -/
namespace Sys2Proof.Machine
open Sys2Proof

/-- R212: the warp with EXM, LIVE and PARK as they stood at the end of the previous cycle: a cross-lane instruction goes by these in who supplies,
who writes and whose values must agree. A MOVS that lands in the issue cycle governs it not yet (log 58). -/
def Warp.prev (w : Warp) : Warp := { w with exm := w.pexm, live := w.plive, park := w.ppark }
/-- A cross-lane instruction: `k` gets the warp by the masks of R212. -/
def crossOp (f : Fields) (s : State) (k : Nat → Warp → State → State) : Out := s.issue f fun wid w s => k wid w.prev s

/-- R210: the supplying set X(i), in lane order; every active lane is in its own. -/
def Warp.supplySet (w : Warp) (i : Nat) : List Nat :=
  lanes32.filter fun j => w.supplies i j || (i == j && w.active.getLsbD i)
/-- The bits of source a of a lane, a pair in a 64-bit type. -/
def Warp.rawA (w : Warp) (f : Fields) (i : Nat) : Nat :=
  if f.ty.is64 then (w.reg64 f.a.reg.toNat i).toNat else (w.reg f.a.reg.toNat i).toNat

/-! ## Exchanges (R215, R216) -/

/-- R215: each writing lane takes source a of the lane that `index` names, or its own. -/
def exchange (f : Fields) (s : State) (index : Nat → Nat → Option Nat) : Out :=
  crossOp f s fun wid w s => s.fixed wid w f .x (tyRegs f.ty) fun i =>
    match index i (w.wordB f i).toNat with
    | some j => if (w.supplySet i).contains j then w.rawA f j else w.rawA f i
    | none => w.rawA f i

/-- R215: SHFL. -/
def execShfl (f : Fields) (s : State) : Out := exchange f s fun _ b => some b
/-- R215: SHFLX. -/
def execShflx (f : Fields) (s : State) : Out := exchange f s fun i b => some (i ^^^ (b % 32))
/-- R215: SHFLU. -/
def execShflu (f : Fields) (s : State) : Out := exchange f s fun i b => if b ≤ i then some (i - b) else none
/-- R215: SHFLD. -/
def execShfld (f : Fields) (s : State) : Out := exchange f s fun i b => some (i + b)
/-- R216: BCAST: NONUNI when the writing lanes of `.lane` hold different lane numbers. -/
def execBcast (f : Fields) (s : State) : Out :=
  s.issue f fun wid now s =>
    let w := now.prev
    let own (i j : Nat) : Nat := if (w.supplySet i).contains j then w.rawA f j else w.rawA f i
    if f.var == 0 then
      let m := w.exec f
      match uniform m (w.wordB f) with
      | none => if m == 0 then s.fixed wid w f .x (tyRegs f.ty) fun _ => 0 else s.trapAt wid now 0x15
      | some k => s.fixed wid w f .x (tyRegs f.ty) fun i => own i k.toNat
    else s.fixed wid w f .x (tyRegs f.ty) fun i =>
      let x := w.supplySet i
      own i ((if f.var == 1 then x.head? else x.getLast?).getD i)

/-! ## Votes (R217) -/

/-- R217: VOTE. -/
def execVote (f : Fields) (s : State) : Out :=
  crossOp f s fun wid w s => s.fixed wid w f .x 1 fun i =>
    let bit (j : Nat) : Bool := bitAt (w.reg f.a.reg.toNat j).toNat (f.immVal.toNat % 32)
    let x := w.supplySet i
    let r := match f.var.toNat with
      | 0 => x.all bit
      | 1 => x.any bit
      | _ => x.all bit || !x.any bit
    if r then 1 else 0
/-- R217: BALLOT. -/
def execBallot (f : Fields) (s : State) : Out :=
  crossOp f s fun wid w s => s.fixed wid w f .x 1 fun i =>
    (maskOf fun j => (w.supplySet i).contains j && bitAt (w.reg f.a.reg.toNat j).toNat (f.immVal.toNat % 32)).toNat
/-- R217: MATCH: a mask in one register, whatever the width compared. -/
def execMatchOp (f : Fields) (s : State) : Out :=
  crossOp f s fun wid w s => s.fixed wid w f .x 1 fun i =>
    (maskOf fun j => (w.supplySet i).contains j && w.rawA f j == w.rawA f i).toNat

/-! ## Reductions (R218 to R221) -/

/-- R218: an integer reduction of the values of one type. The identity is what an empty list gives. -/
def reduceInt (t : Ty) (op : Nat) (xs : List Nat) : Nat :=
  let b := elemBits t
  let vs := xs.map (intVal t)
  let lo : Int := if t.isSigned then -(2 ^ (b - 1) : Nat) else 0
  let hi : Int := if t.isSigned then (2 ^ (b - 1) : Nat) - 1 else (2 ^ b : Nat) - 1
  match op with
  | 0 => tc b (vs.foldl (· + ·) 0)
  | 1 => intOut t true (vs.foldl (· + ·) 0)
  | 2 => tc b (vs.foldl min hi)
  | 3 => tc b (vs.foldl max lo)
  | 4 => xs.foldl (· &&& ·) (2 ^ b - 1)
  | 5 => xs.foldl (· ||| ·) 0
  | _ => xs.foldl (· ^^^ ·) 0

/-- R141: one level of the pairwise tree. -/
def pairUp (g : Nat → Nat → Nat) : List Nat → List Nat
  | a :: b :: r => g a b :: pairUp g r
  | l => l

/-- R141: the sum of 32 leaves. -/
def treeSum (g : Nat → Nat → Nat) (leaves : List Nat) : Nat :=
  ((pairUp g (pairUp g (pairUp g (pairUp g (pairUp g leaves))))).head?).getD 0

/-- R142: one step of a floating prefix, at distance d. -/
def scanStep (g : Nat → Nat → Nat) (l : List Nat) (d : Nat) : List Nat :=
  lanes32.map fun i => if d ≤ i then g ((l[i - d]?).getD 0) ((l[i]?).getD 0) else (l[i]?).getD 0

/-- The value of each element of a packed type, formed apart. -/
def perElem (t : Ty) (g : (Nat → Nat) → Nat) : Nat :=
  let b := elemBits t
  unelems b ((List.range (elemCount t)).map fun k => g fun v => fld v (b * k) b)

/-- R219: the leaves of reader i: -0 where a lane supplies nothing. -/
def floatLeaves (F : Fmt) (x : List Nat) (val : Nat → Nat) : List Nat :=
  lanes32.map fun j => if x.contains j then val j else F.signed true 0

/-- R218: REDI. -/
def execRedi (f : Fields) (s : State) : Out :=
  crossOp f s fun wid w s => s.fixed wid w f .y (tyRegs f.ty) fun i =>
    reduceInt f.ty f.var.toNat ((w.supplySet i).map (w.rawA f))
/-- R219: REDF. -/
def execRedf (f : Fields) (s : State) : Out :=
  crossOp f s fun wid w s => s.fixed wid w f .y (tyRegs f.ty) fun i =>
    let F := fmtOf f.ty
    perElem f.ty fun e => treeSum (F.add f.var.toNat) (floatLeaves F (w.supplySet i) fun j => e (w.rawA f j))

/-- R220: the extreme of a list of codes, lane order being operand order. -/
def reduceMinmax (F : Fmt) (maxi prop : Bool) : List Nat → Nat
  | [] => 0
  | x :: r => let v := r.foldl (F.minmax maxi prop) x; if F.isNan v then F.quiet v else v

/-- R221: the better of two candidates: value and logical index. -/
def argBetter (t : Ty) (maxi : Bool) (best x : Nat × Nat) : Nat × Nat :=
  let F := fmtOf t
  let nan (v : Nat) : Bool := t.isFloat && F.isNan v
  let first (a b : Nat × Nat) : Nat × Nat := if b.2 < a.2 then b else a
  match nan best.1, nan x.1 with
  | true, true => first best x
  | true, false => best
  | false, true => x
  | false, false =>
    let p := imageOf t best.1
    let q := imageOf t x.1
    if p = q then first best x else if decide (q < p) != maxi then x else best

/-- R220, R221: REDM. -/
def execRedm (f : Fields) (s : State) : Out :=
  crossOp f s fun wid w s =>
    let F := fmtOf f.ty
    let v := f.var.toNat
    if v < 4 then s.fixed wid w f .y (tyRegs f.ty) fun i =>
      perElem f.ty fun e => reduceMinmax F (v % 2 == 1) (decide (2 ≤ v)) ((w.supplySet i).map fun j => e (w.rawA f j))
    else s.fixed wid w f .y 2 fun i =>
      let idx (j : Nat) : Nat := match f.args with
        | .regs _ b _ => (w.reg b.reg.toNat j).toNat
        | .imm _ imm => (imm.toNat + j) % 2 ^ 32
      match (w.supplySet i).map fun j => (w.rawA f j, idx j) with
      | [] => 0
      | c :: r =>
        let (x, k) := r.foldl (argBetter f.ty (v == 5)) c
        (if f.ty.isFloat && F.isNan x then F.quiet x else x) + 2 ^ 32 * k

/-- R222: SCAN. -/
def execScan (f : Fields) (s : State) : Out :=
  crossOp f s fun wid w s => s.fixed wid w f .y (tyRegs f.ty) fun i =>
    let v := f.var.toNat
    let x := w.supplySet i
    let excl := decide (8 ≤ v)
    if f.ty.isFloat then
      let F := fmtOf f.ty
      perElem f.ty fun e =>
        let l := floatLeaves F x fun j => e (w.rawA f j)
        let l := if excl then (F.signed true 0 :: l).take 32 else l
        (([1, 2, 4, 8, 16].foldl (scanStep (F.add (v % 8))) l)[i]?).getD 0
    else reduceInt f.ty (v % 8) ((x.filter fun j => if excl then decide (j < i) else decide (j ≤ i)).map (w.rawA f))

/-- R223: COMPACT. -/
def execCompact (f : Fields) (s : State) : Out :=
  crossOp f s fun wid w s => s.fixed wid w f .y (tyRegs f.ty) fun i =>
    let x := w.supplySet i
    let p := (x.takeWhile (· != i)).length
    let kept := x.filter fun j => (w.reg f.b.reg.toNat j).getLsbD 0
    w.rawA f ((kept[p]?).getD i)

end Sys2Proof.Machine
end

