-- ==== Sys2Proof/Machine/Ed25519.lean ====
section
/-! DEFINITION. Ed25519 (RFC 8032), which R442 names: signatures and their check. Keys and signatures are numbers whose byte k is at
bits [8 k + 7 : 8 k], as the device stores them (R5). -/
namespace Sys2Proof.Machine
open Sys2Proof

/-- The field's prime. -/
def edP : Nat := 2 ^ 255 - 19
/-- The order of the group. -/
def edL : Nat := 2 ^ 252 + 27742317777372353535851937790883648493
/-- The constant d of the curve. -/
def edD : Nat := 37095705934669439343138083508754565189542113879843219016388785533085940283555
/-- A difference in the field. -/
def edSub (a b : Nat) : Nat := (a + edP - b % edP) % edP
/-- A power in the field, over the `n` low bits of the exponent. -/
def edPow : Nat → Nat → Nat → Nat → Nat
  | 0, _, _, acc => acc
  | n + 1, e, b, acc => edPow n (e / 2) (b * b % edP) (if e % 2 = 1 then acc * b % edP else acc)
/-- The inverse in the field. -/
def edInv (x : Nat) : Nat := edPow 255 (edP - 2) x 1

/-- The sum of two points in extended coordinates X, Y, Z, T. -/
def edAdd (p q : Nat × Nat × Nat × Nat) : Nat × Nat × Nat × Nat :=
  let (x1, y1, z1, t1) := p
  let (x2, y2, z2, t2) := q
  let a := edSub y1 x1 * edSub y2 x2 % edP
  let b := (y1 + x1) * (y2 + x2) % edP
  let c := t1 * 2 * edD % edP * t2 % edP
  let d := z1 * 2 * z2 % edP
  let e := edSub b a
  let f := edSub d c
  let g := (d + c) % edP
  let h := (b + a) % edP
  (e * f % edP, g * h % edP, f * g % edP, e * h % edP)
/-- A multiple of a point, over the `n` low bits of the factor. -/
def edMul : Nat → Nat → Nat × Nat × Nat × Nat → Nat × Nat × Nat × Nat → Nat × Nat × Nat × Nat
  | 0, _, _, acc => acc
  | n + 1, k, p, acc => edMul n (k / 2) (edAdd p p) (if k % 2 = 1 then edAdd acc p else acc)
/-- The neutral point. -/
def edZero : Nat × Nat × Nat × Nat := (0, 1, 1, 0)
/-- The base point. -/
def edBase : Nat × Nat × Nat × Nat :=
  let x := 15112221349535400772501151409588531511454012693041857206046113283949847762202
  let y := 46316835694926478169428394003475163141307993866256225615783033603165251855960
  (x, y, 1, x * y % edP)
/-- The encoding of a point. -/
def edEncode (p : Nat × Nat × Nat × Nat) : Nat :=
  let i := edInv p.2.2.1
  p.2.1 * i % edP + (p.1 * i % edP % 2) * 2 ^ 255
/-- The point of an encoding; none for one that is not canonical or names no point. -/
def edDecode (v : Nat) : Option (Nat × Nat × Nat × Nat) :=
  let y := v % 2 ^ 255
  let odd := v / 2 ^ 255 % 2
  if edP ≤ y then none else
  let u := edSub (y * y % edP) 1
  let w := (edD * (y * y % edP) + 1) % edP
  let x2 := u * edInv w % edP
  let r := edPow 255 ((edP + 3) / 8) x2 1
  let x := if r * r % edP = x2 then r else r * edPow 255 ((edP - 1) / 4) 2 1 % edP
  if x * x % edP != x2 || (x = 0 && odd = 1) then none
  else
    let x := if x % 2 = odd then x else edP - x
    some (x, y, 1, x * y % edP)
/-- The number of a hash of bytes, modulo the group order. -/
def edHash (bs : List (BitVec 8)) : Nat := (sha512 bs).toNat % edL

/-- The secret scalar of a seed. -/
def edScalar (seed : BitVec 256) : Nat := ((sha512 (leBytes seed.toNat 32)).toNat % 2 ^ 254) / 8 * 8 + 2 ^ 254
/-- The public key of a seed. -/
def edPublic (seed : BitVec 256) : Nat := edEncode (edMul 256 (edScalar seed) edBase edZero)
/-- The signature of a message under a seed. -/
def edSign (seed : BitVec 256) (msg : List (BitVec 8)) : BitVec 512 :=
  let a := edScalar seed
  let pre := leBytes ((sha512 (leBytes seed.toNat 32)).toNat / 2 ^ 256) 32
  let pub := edPublic seed
  let r := edHash (pre ++ msg)
  let R := edEncode (edMul 256 r edBase edZero)
  let k := edHash (leBytes R 32 ++ leBytes pub 32 ++ msg)
  BitVec.ofNat 512 (R + (r + k * a) % edL * 2 ^ 256)
/-- Whether a signature of a message verifies under a public key: by the cofactored equation, S below the group order. -/
def edVerify (pub sig : Nat) (msg : List (BitVec 8)) : Bool :=
  let S := sig / 2 ^ 256
  let R := sig % 2 ^ 256
  if edL ≤ S then false else
  match edDecode pub, edDecode R with
  | some a, some r =>
    let k := edHash (leBytes R 32 ++ leBytes pub 32 ++ msg)
    let l := edMul 256 (8 * S) edBase edZero
    let q := edMul 4 8 (edAdd r (edMul 256 k a edZero)) edZero
    edSub (l.1 * q.2.2.1) (q.1 * l.2.2.1) == 0 && edSub (l.2.1 * q.2.2.1) (q.2.1 * l.2.2.1) == 0
  | _, _ => false

end Sys2Proof.Machine
end

