-- ==== Sys2Proof/Machine/Root.lean ====
section
/-! DEFINITION. The root-world instructions (R433, R436 to R443) and the events that serve every kind of operation, theirs among
them: the end of walks (R98) and the application at a home (R252). -/
namespace Sys2Proof.Machine
open Sys2Proof

/-! ## What the five instructions share (R436) -/

/-- R436: a root-world instruction acts once for the warp: `v` gives a lane's operands, which must be equal. Where it may not run it traps,
lanes or none. -/
def rootInstr {α : Type} [BEq α] (f : Fields) (s : State) (v : Warp → Nat → α) (k : Nat → Warp → α → State → State) : Out :=
  s.issue f fun wid w s =>
    let m := w.exec f
    if w.pdk != 0 then s.trapAt wid w 0x1B
    else if w.timed then s.trapAt wid w 0x19
    else if m == 0 then s.simpleOp wid w f 1
    else match uniform m (v w) with
      | none => s.trapAt wid w 0x15
      | some x => k wid w x s
/-- A status that lands when the flag counts down, in the cycle after the issue. -/
def State.status (s : State) (wid : Nat) (w : Warp) (f : Fields) (v : Nat) : State :=
  (s.addOp { opOf wid w f .simple with nregs := 1, bytes := v, due := some (s.now w + 1) }).2

/-! ## Memory operands (R439, R441, R442) -/

/-- A memory operand: whether it is written, its bytes, its alignment and its pointer. Only what R439 and R441 name is bound to an
alignment (log 25). -/
def rootRanges (what var : Nat) (a : Acc) : List (Bool × Nat × Nat × DWord) :=
  match what, var with
  | 0, 0 => [(false, 64, 64, a.addr)]
  | 0, 1 => [(true, 64, 64, a.addr)]
  | 0, _ => []
  | 1, _ => [(true, 64, 64, a.addr), (false, a.data.toNat, 1, a.cmp)]
  | _, 2 => [(false, 64, 1, a.addr), (false, 64, 1, a.cmp), (false, 32, 1, a.data.truncate 64)]
  | _, _ => [(true, 64, 1, a.addr), (false, 64, 1, a.cmp)]
/-- R105, R441: the faults of one lane that need no translation. -/
def State.rootFault (s : State) (w : Warp) (x : Op) (what : Nat) (a : Acc) : Option LaneFault :=
  let fault (code va : Nat) (write : Bool) : LaneFault := { lane := a.lane, code, va := BitVec.ofNat 64 va, write }
  if what == 1 && decide (2 ^ 24 < a.data.toNat) then some (fault 2 a.cmp.toNat false)
  else (rootRanges what x.var a).findSome? fun r =>
    match s.rangeOf w a.lane r.2.1 false r.2.2.2 with
    | .bad va => some (fault 2 va r.1)
    | .pad _ _ => some (fault 2 r.2.2.2.toNat r.1)
    | .glob va => if va % r.2.2.1 != 0 then some (fault 3 va r.1) else none
/-- R105: the pages of one lane's operands, without (`perm` false) or with their permissions: their translations, a fault, or a miss. -/
def State.rootPages (s : State) (w : Warp) (a : Acc) (perm walks : Bool) :
    List (Bool × Nat × Nat × DWord) → (List (Nat × Nat × Bool) × Option LaneFault × Bool) × State
  | [] => (([], none, false), s)
  | r :: rest =>
    match s.findPages w a.asid (perm && !r.1) (perm && r.1) walks (pagesOf r.2.2.2.toNat r.2.1) with
    | (.fault code va ft, s) => (([], some { lane := a.lane, code, va := BitVec.ofNat 64 va, write := r.1, ft }, false), s)
    | (.miss, s) => (([], none, true), s)
    | (.ok l, s) =>
      match s.rootPages w a perm walks rest with
      | ((m, f, miss), s) => ((l ++ m, f, miss), s)
/-- One lane's translations: its access with its place, its fault, or a miss. -/
def State.rootLane (s : State) (w : Warp) (x : Op) (what : Nat) (a : Acc) (walks : Bool) : (Acc × Option LaneFault × Bool) × State :=
  match s.rootFault w x what a with
  | some f => ((a, some f, false), s)
  | none =>
    let rs := rootRanges what x.var a
    match s.rootPages w a false walks rs with
    | ((_, some f, _), s) => ((a, some f, false), s)
    | ((_, none, true), s) => ((a, none, true), s)
    | ((_, none, false), s) =>
      match s.rootPages w a true walks rs with
      | ((_, some f, _), s) => ((a, some f, false), s)
      | ((l, none, miss), s) => ((if miss then a else { a with stage := .ready, spages := l }, none, miss), s)
/-- A root-world instruction with memory operands enters. -/
def State.rootOp (s : State) (wid : Nat) (w : Warp) (f : Fields) (what : Nat) (v : Nat × Nat × Nat) (nregs : Nat) : State :=
  let x := { opOf wid w f (.root what) with nregs }
  let mk (i : Nat) : Acc := { lane := i, asid := w.asidOf i, addr := BitVec.ofNat 64 v.1, cmp := BitVec.ofNat 64 v.2.1, data := BitVec.ofNat 128 v.2.2 }
  let qs := (lanesOf (w.exec f)).map fun i => (s.rootLane w x what (mk i) false).1
  if w.lockOpen && qs.any (·.2.2) then s.trapAt wid w 0x1A
  else (s.enterOp wid w f x (qs.map fun q => (q.1, q.2.1))).2

/-- R439: MEXT. -/
def execMext (f : Fields) (s : State) : Out :=
  rootInstr f s (fun w i => if f.var == 2 then 0 else (w.src64 f.a i).toNat) fun wid w v s =>
    s.rootOp wid w f 0 (v, 0, f.immVal.toNat % 8) 0
/-- R441: SHAB. -/
def execShab (f : Fields) (s : State) : Out :=
  rootInstr f s (fun w i => ((w.src64 f.a i).toNat, (w.src64 f.b i).toNat, (w.src f.c i).toNat)) fun wid w v s => s.rootOp wid w f 1 v 0
/-- R442: EDSIGN. -/
def execEdsign (f : Fields) (s : State) : Out :=
  rootInstr f s (fun w i => ((w.src64 f.a i).toNat, (w.src64 f.b i).toNat, if f.var == 2 then (w.src64 f.c i).toNat else 0)) fun wid w v s =>
    s.rootOp wid w f 2 v 1

/-- The walks of some lanes of a root-world instruction end. -/
def State.rootWalk (s : State) (o : Nat) (m : Lanes) (what : Nat) : State :=
  match s.op? o with
  | none => s
  | some x =>
    if s.frozen x.before.core then s else
    let (fs, s) := (x.accs.filter fun a => a.stage == .walk && m.getLsbD a.lane).foldl (fun (r : List LaneFault × State) a =>
      let ((a', fault, _), t) := r.2.rootLane x.before x what a true
      (r.1 ++ fault.toList, t.updAcc o a.lane fun _ => a')) ([], s)
    if fs.isEmpty then s else s.laneFaults x.wid o x.pc x.before fs

/-! ## Their effect (R439, R441, R442) -/

/-- The bytes of a range, or the address of a poisoned line (R13); a failed line of a speculative page reads as ones (R374). -/
def State.rootRead (s : State) (x : Op) (a : Acc) : List (Nat × Nat) → Except Nat (List (BitVec 8)) × State
  | [] => (.ok [], s)
  | (va, n) :: r =>
    let (pa, spec) := pageAddr a.spages va
    let (ok, s) := s.ecc (some x.before.core) x.before.pdk pa n spec
    if !ok && !spec then (.error va, s)
    else
      let (bs, s) := if ok then s.loadBytes (dieOfCore x.before.core) pa n else (List.replicate n 0xFF, s)
      match s.rootRead x a r with
      | (.ok l, s) => (.ok (bs ++ l), s)
      | e => e
/-- Bytes are written to a range; or the cause and the address of what bars it: an executable frame (R62), a poisoned line (R13). -/
def State.rootWrite (s : State) (x : Op) (a : Acc) (stamp : SMap 48) : List (Nat × Nat) → List (BitVec 8) → Option (Nat × Nat) × State
  | [], _ => (none, s)
  | (va, n) :: r, bs =>
    let (pa, spec) := pageAddr a.spages va
    if s.pdks.any fun q => s.execDev q.no pa then (some (2, va), s) else
    let (ok, s) := s.eccWrite (some x.before.core) x.before.pdk pa n spec
    if !ok && !spec then (some (4, va), s)
    else (if ok then s.applyWrite x.before.pdk pa (bs.take n) stamp else s).rootWrite x a stamp r (bs.drop n)
/-- Every operand that is read, one after another. -/
def State.rootInputs (s : State) (x : Op) (a : Acc) : List (Bool × Nat × Nat × DWord) → Except Nat (List (List (BitVec 8))) × State
  | [] => (.ok [], s)
  | r :: rest =>
    if r.1 then s.rootInputs x a rest
    else match s.rootRead x a (linePieces r.2.2.2.toNat r.2.1) with
      | (.error va, s) => (.error va, s)
      | (.ok bs, s) => match s.rootInputs x a rest with
        | (.ok l, s) => (.ok (bs :: l), s)
        | e => e
/-- What an instruction computes from its inputs: the 64 bytes it writes to memory, if any; MEASk's new value; its status. -/
def State.rootResult (s : State) (what var k : Nat) (ins : List (List (BitVec 8))) : BitVec 512 × Option (BitVec 512) × Nat :=
  let inp (i : Nat) : List (BitVec 8) := (ins[i]?).getD []
  match what, var with
  | 0, 0 => (0, some (sha512 (digestBytes (s.measReg k) ++ inp 0)), 0)
  | 0, 1 => (s.measReg k, none, 0)
  | 0, _ => (0, some 0, 0)
  | 1, _ => (sha512 (inp 0), none, 0)
  | _, 0 => (edSign Config.identitySeed (inp 0), none, 0)
  | _, 1 => (edSign s.aliasSeed (inp 0), none, 0)
  | _, _ => (0, none, if edVerify (ofLe (inp 2)) (ofLe (inp 0)) (inp 1) then 0 else 1)
/-- R436: what an instruction does, once for the warp: by its lowest lane that is left. A poisoned line, or a frame that no path writes, is a
fault of every lane (R62, R374). -/
def State.rootAct (s : State) (x : Op) (what : Nat) (a : Acc) : State :=
  let rs := rootRanges what x.var a
  let faults (code va : Nat) (write : Bool) (s : State) : State := s.laneFaults x.wid x.id x.pc x.before
    ((x.accs.filter (·.stage == .ready)).map fun b => { lane := b.lane, code, va := BitVec.ofNat 64 va, write })
  match s.rootInputs x a rs with
  | (.error va, s) => faults 4 va false s
  | (.ok ins, s) =>
    let k := a.data.toNat
    let (out, meas, status) := s.rootResult what x.var k ins
    let (bad, s) := match rs.find? (·.1) with
      | some r =>
        let (st, s) := s.stampAt (dieOfCore x.before.core)
        s.rootWrite x a st (linePieces r.2.2.2.toNat 64) (digestBytes out)
      | none => (none, s)
    match bad with
    | some (code, va) => faults code va true s
    | none =>
      let s := match meas with | some v => s.setMeas k v | none => s
      (s.updOp x.id fun x => x.mapAccs fun b =>
        if b.stage == .ready then { b with stage := .done, old := BitVec.ofNat 128 status } else b).settle x.id
/-- R263, R436: the lines an instruction reads and writes, by its lanes. -/
def State.rootKeys (s : State) (x : Op) (what : Nat) : List (Nat × DetKind) :=
  x.accs.flatMap fun a => if a.stage != .ready then [] else
    (rootRanges what x.var a).flatMap fun r =>
      ((linePieces r.2.2.2.toNat r.2.1).map fun p => s.lineKey (pageAddr a.spages p.1).1).eraseDups.map (·, if r.1 then .write else .read)
/-- R439: an instruction acts once its lanes have found their places, the earlier accesses of its warp and the earlier MEXTs are
done, and all that its die has stamped is applied. -/
def State.rootReady (s : State) (x : Op) : Bool :=
  match x.kind with
  | .root what =>
    !s.frozen x.before.core && s.quiet (dieOfCore x.before.core) && (x.accs.any (·.stage == .ready)) &&
      x.accs.all (fun a => a.stage != .walk && a.stage != .touch) &&
      s.ops.all fun y => decide (x.id ≤ y.id) ||
        (!(y.wid == x.wid && ((y.kind.queued && !y.accs.all Acc.over) || y.kind.fences)) && !(what == 0 && y.kind == .root 0))
  | _ => false
/-- The action of a root-world instruction, after the deterministic check. -/
def State.rootApply (s : State) (x : Op) (what : Nat) : State :=
  if !s.rootReady x then s
  else match (if x.before.det && !x.checked then s.detCheck (s.warp x.wid) (s.rootKeys x what) else some s) with
    | none => s.warpTrap x.wid 0x18 x.pc x.before x.id
    | some s => match x.accs.find? (·.stage == .ready) with
      | some a => (s.updOp x.id fun x => { x with checked := true }).rootAct x what a
      | none => s

/-- `PAGE_WALK_COMPLETE` (R98, R239, R372): walks of some lanes of an operation end. -/
def execPageWalkComplete (op : Nat) (lanes : Lanes) (s : State) : Out :=
  .next (match s.op? op with
    | none => s
    | some x =>
      match x.kind with
      | .copy _ => s.copyWalk op lanes
      | .page k => s.pageInstrWalk op lanes k
      | .select => s.selWalk op lanes
      | .root what => s.rootWalk op lanes what
      | .matrix _ => s.updOp op fun x => x.mapAccs fun a => if a.stage == .walk && lanes.getLsbD a.lane then { a with stage := .ready } else a
      | _ => s.pageWalk op lanes)

/-- `HOME_APPLY` (R252, R279): a stamped access, a BITSET's word, or a root-world instruction. -/
def execHomeApply (op lane : Nat) (s : State) : Out :=
  .next (match s.op? op with
    | none => s
    | some x =>
      match x.kind, x.acc? lane with
      | .bitset _, some a => s.detGate op fun s => s.bitsetWord x a
      | .root what, _ => s.rootApply x what
      | _, _ => s.homeApply op lane)

/-! ## Scrubs and the interface (R433 to R437, R443) -/

/-- R437: a scrub is refused; so is one while a stop, or the end of the paddock, is under way (log 26). -/
def State.scrubRefused (s : State) (p : Nat) : Bool :=
  (s.pdk p).ifstate != 0 || (s.pdk p).stopping || !(s.children p).isEmpty || s.warps.any (·.pdk == p) || s.rreg p 0x058 != s.rreg p 0x060
/-- R437: a scrub starts; `o` is the operation whose flag counts down at its end. That of a reset keeps the ring header (R466). -/
def State.startScrub (s : State) (p : Nat) (o : Option Nat) (stop : Bool) : State :=
  let g := s.ringOf p
  let s := (s.updPdk p fun q => { q with scrubbing := o, stopping := stop }).scrubWorld p
  if stop && o.isNone then s.updRing p fun x => { x with header := g.header, copy := g.copy } else s
/-- R437: SCRUB. -/
def execScrub (f : Fields) (s : State) : Out :=
  rootInstr f s (fun w i => (w.src f.a i).toNat) fun wid w p s =>
    if !s.hasPdk p then s.status wid w f 2
    else if s.scrubRefused p then s.status wid w f 1
    else
      let (o, s) := s.addOp { opOf wid w f (.scrub p) with nregs := 1 }
      s.startScrub p (some o) false

/-- IFSTATE takes a value. -/
def State.setIf (s : State) (p v : Nat) : State := s.updPdk p fun q => q.setReg 0x0DC (BitVec.ofNat 64 v)
/-- R443: the transitions of R433 that LOCKIF may make: 0 `.lock`, 1 `.run`, 2 `.stop`, 3 `.err`. No transition starts while a stop is
under way. -/
def Pdk.admits (q : Pdk) (v : Nat) : Bool :=
  !q.stopping && match v with
    | 0 => q.ifstate == 0 && !q.halted
    | 1 => q.ifstate == 1
    | 2 => q.ifstate != 0 || q.halted
    | _ => q.ifstate != 3
/-- R434: the interface is locked: every RL word is watched. -/
def State.lockIf (s : State) (p : Nat) : State :=
  s.updPdk p fun q => { (q.setReg 0x0DC (BitVec.ofNat 64 (setFld (q.reg 0x0DC).toNat 0 2 1))) with watch := watchOffsets }
/-- R443: `.err`; a halted paddock takes the new cause. -/
def State.errIf (s : State) (p : Nat) : State :=
  if (s.pdk p).ifstate == 0 && (s.pdk p).stalled then s.setIf p 0x604 else s.ifError p 6
/-- R437, R443, R449: a paddock that is closed is scrubbed, at once where every record could be written, else once they are (R12, log 26). -/
def State.scrubClosed (s : State) (p : Nat) (o : Option Nat) : State :=
  if (s.ringOf p).cmds.isEmpty then s.startScrub p o true else s.updPdk p fun q => { q with scrubbing := o, stopping := true }
/-- R443: a stop: the warps stop; the outstanding commands are reported failed with 0x0B; the scrub follows. -/
def State.stopIf (s : State) (p : Nat) (o : Option Nat) : State := (s.closePdk p).scrubClosed p o
/-- R443: LOCKIF. -/
def execLockif (f : Fields) (s : State) : Out :=
  rootInstr f s (fun w i => (w.src f.a i).toNat) fun wid w p s =>
    if !s.hasPdk p then s.status wid w f 2
    else if !(s.pdk p).admits f.var.toNat then s.status wid w f 1
    else match f.var.toNat with
      | 0 => (s.lockIf p).status wid w f 0
      | 1 => (s.setIf p 2).status wid w f 0
      | 2 =>
        let (o, s) := s.addOp { opOf wid w f (.scrub p) with nregs := 1 }
        s.stopIf p (some o)
      | _ => (s.errIf p).status wid w f 0

/-- R443: a stop whose records have all been written goes on to its scrub. -/
def State.stopScrubs (s : State) (q : Pdk) : Bool := q.stopping && !q.zeroing && q.ring.cmds.isEmpty && !s.torn q.no
/-- R437: a scrub that may end: the moment the model gives its operation has come (log 9). -/
def State.scrubOver (s : State) (q : Pdk) : Bool :=
  q.zeroing && s.ops.all fun x => x.kind != .scrub q.no || decide (x.wall + Config.latency x.id ≤ s.wall)
/-- R445: a STOP_INTERFACE_REQUEST whose scrub is over is answered. -/
def State.answerStop (s : State) (p : Nat) : State :=
  if s.spdm.busy == some p then { s with spdm := { s.spdm with busy := none, reply := .response } } else s
/-- R437, R443: a scrub ends: the interface of a stop is CONFIG_UNLOCKED, the flags count down with status 0, and the request is answered. -/
def State.endScrub (s : State) (q : Pdk) : State :=
  let p := q.no
  let s := s.updPdk p fun q => { q with scrubbing := none, stopping := false, zeroing := false, watch := if q.stopping then [] else q.watch }
  let s := if q.stopping then s.setIf p 0 else s
  let s := (s.ops.filter fun x => x.kind == .scrub p).foldl (fun t x => (t.landRegs x.wid x.id x.lastWrites).endOp x.id) s
  s.answerStop p
/-- `SCRUB_COMPLETE` (R428, R437, R443): scrubs whose records are written start, PDDESTROYs end, and scrubs end. -/
def execScrubComplete (s : State) : Out :=
  let s := (s.pdks.filter s.stopScrubs).foldl (fun t q => t.startScrub q.no q.scrubbing true) s
  let s := s.endDestroys
  .next ((s.pdks.filter s.scrubOver).foldl State.endScrub s)

end Sys2Proof.Machine
end

