-- ==== Sys2Proof/Machine/Spdm.lean ====
section
/-! DEFINITION. The SPDM responder and the TDISP requests (R433, R444, R445). The key schedule and the encryption are not computed: the
events say whether a request's fields are valid and whether a record fails decryption (log 7). -/
namespace Sys2Proof.Machine
open Sys2Proof

/-- The state with the responder changed. -/
def State.updSpdm (s : State) (f : Spdm → Spdm) : State := { s with spdm := f s.spdm }
/-- R445: a reply that changes nothing else of the responder. -/
def State.spdmReply (s : State) (r : SpdmReply) : State := s.updSpdm fun x => { x with reply := r }
/-- R444: the version of the responder, 1.3. -/
def spdmVersion : BitVec 8 := 0x13
/-- R445: while a request is in progress every other is answered Busy. -/
def State.spdmFree (s : State) (k : State → State) : Out := .next (if s.spdm.busy.isSome then s.spdmReply (.error 0x03) else k s)
/-- R445: the order of the requests, the version, then the fields; `k` answers a request that passes, with its reply. -/
def State.spdmRequest (s : State) (inOrder : Bool) (ver : BitVec 8) (ok : Bool) (k : State → SpdmReply × State) : Out :=
  s.spdmFree fun s =>
    if !inOrder then s.spdmReply (.error 0x04)
    else if ver != spdmVersion then s.spdmReply (.error 0x41)
    else if !ok then s.spdmReply (.error 0x01)
    else (k s).2.spdmReply (k s).1

/-! ## What the responder says (R444) -/

/-- R444: its capabilities: no PSK and no mutual authentication. -/
def spdmCaps : List SpdmCap := [.cert, .chal, .measSigned, .keyEx, .encrypt, .mac, .keyUpd]
/-- R444: its algorithms. -/
def spdmAlgs : List SpdmAlg := [.signEd25519, .hashSha512, .measSha512, .dheP384, .aeadAes256Gcm]
/-- R442, R444: the chain of slot 0: the Ronhild root, the identity certificate, the alias certificate. -/
def State.spdmChain (s : State) : List SpdmCert :=
  [.root Config.rootKey, .identity (BitVec.ofNat 256 (edPublic Config.identitySeed)), .alias_ (BitVec.ofNat 256 (edPublic s.aliasSeed))]
/-- R444: the alias key's signature over the transcript that a response with some contents covers (log 27). -/
def State.signed (s : State) (content : List (BitVec 8)) : BitVec 512 × State :=
  (edSign s.aliasSeed (Config.transcript s.fresh content), { s with fresh := s.fresh + 1 })
/-- R444: the measurement blocks that a request names: block k carries MEAS(k - 1); 0 asks for their number alone, 0xFF for all (log 27). -/
def State.spdmBlocks (s : State) (block : Nat) : List (Nat × BitVec 512) :=
  ((List.range 8).filter fun k => block == 0xFF || block == k + 1).map fun k => (k + 1, s.measReg k)
/-- R444: the signed response to GET_MEASUREMENTS. -/
def State.spdmMeasurements (s : State) (block : Nat) : SpdmReply × State :=
  let bs := s.spdmBlocks block
  let (sig, s) := s.signed (bs.flatMap fun b => digestBytes b.2)
  (.measurements 8 bs sig, s)

/-- R445, R433: a session ends: a locked or running interface moves to ERROR with ERRCAUSE 0x05; the ring that used its key waits for
another session (log 23). -/
def State.endSession (s : State) (id : Nat) : State :=
  match s.spdm.sessions.find? (·.id == id) with
  | none => s
  | some x =>
    let s := s.updSpdm fun r => { r with sessions := r.sessions.filter (·.id != id) }
    let p := x.iface
    let s := if (s.ringOf p).session == some id then s.updRing p fun g => { g with session := none } else s
    if p != 0 && ((s.pdk p).ifstate == 1 || (s.pdk p).ifstate == 2) then s.ifError p 5 else s

/-- `GET_VERSION` (R445): VERSION; every session ends. -/
def execGetVersion (s : State) : Out :=
  s.spdmFree fun s =>
    let s := (s.spdm.sessions.map (·.id)).foldl State.endSession s
    s.updSpdm fun r => { r with stage := 1, version := spdmVersion, reply := .version spdmVersion }
/-- `GET_CAPABILITIES` (R444, R445). -/
def execGetCapabilities (ver : BitVec 8) (ok : Bool) (s : State) : Out :=
  s.spdmRequest (decide (1 ≤ s.spdm.stage)) ver ok fun s => (.capabilities spdmCaps, s.updSpdm fun r => { r with stage := Nat.max r.stage 2 })
/-- `NEGOTIATE_ALGORITHMS` (R444, R445). -/
def execNegotiateAlgorithms (ver : BitVec 8) (ok : Bool) (s : State) : Out :=
  s.spdmRequest (decide (2 ≤ s.spdm.stage)) ver ok fun s => (.algorithms spdmAlgs, s.updSpdm fun r => { r with stage := Nat.max r.stage 3 })
/-- A request that comes after NEGOTIATE_ALGORITHMS (R445). -/
def State.negotiated (s : State) : Bool := decide (3 ≤ s.spdm.stage)
/-- `GET_CERTIFICATE` (R444): slot 0 alone. -/
def execGetCertificate (ver : BitVec 8) (slot : Nat) (s : State) : Out :=
  s.spdmRequest s.negotiated ver (slot == 0) fun s => (.certificate s.spdmChain, s)
/-- `CHALLENGE` (R444). -/
def execChallenge (ver : BitVec 8) (slot : Nat) (s : State) : Out :=
  s.spdmRequest s.negotiated ver (slot == 0) fun s => (.challengeAuth (s.signed []).1, (s.signed []).2)
/-- `GET_MEASUREMENTS` (R444): blocks 1 to 8; 0 asks for their number and 0xFF for all of them (log 27). -/
def execGetMeasurements (ver : BitVec 8) (block : Nat) (s : State) : Out :=
  s.spdmRequest s.negotiated ver (decide (block ≤ 8) || block == 0xFF) fun s => s.spdmMeasurements block
/-- `KEY_EXCHANGE` (R444): a session with a paddock, or with the root world. -/
def execKeyExchange (ver : BitVec 8) (iface : Nat) (s : State) : Out :=
  s.spdmRequest s.negotiated ver (iface == 0 || s.hasPdk iface) fun s =>
    let (sig, s) := s.signed []
    (.keyExchange s.spdm.next sig, s.updSpdm fun r => { r with sessions := r.sessions ++ [{ id := r.next, iface }], next := r.next + 1 })
/-- `FINISH` (R352, R444, R445): the session is bound to its ring, whose halt ends; IFSTATE.HALT stays (R433). -/
def execFinish (ver : BitVec 8) (session : Nat) (s : State) : Out :=
  s.spdmRequest (s.negotiated && s.spdm.sessions.any fun x => x.id == session && !x.done) ver true fun s =>
    (.response, match s.spdm.sessions.find? (·.id == session) with
      | none => s
      | some x =>
        let s := s.updSpdm fun r => { r with sessions := r.sessions.map fun y => if y.id == session then { y with done := true } else y }
        (s.updRing x.iface fun g => { g with session := some session, rekeys := 0 }).crstat x.iface 2 false)
/-- A session whose handshake is complete. -/
def State.open? (s : State) (session : Nat) : Option Session := s.spdm.sessions.find? fun x => x.id == session && x.done
/-- `KEY_UPDATE` (R444). -/
def execKeyUpdate (ver : BitVec 8) (session : Nat) (s : State) : Out :=
  s.spdmRequest (s.negotiated && (s.open? session).isSome) ver true fun s =>
    (.response, s.updSpdm fun r => { r with sessions := r.sessions.map fun y => if y.id == session then { y with keys := y.keys + 1 } else y })
/-- `SPDM_DECRYPT_FAIL` (R445): the session ends. -/
def execSpdmDecryptFail (session : Nat) (s : State) : Out := .next ((s.endSession session).spdmReply (.error 0x06))
/-- `SPDM_UNSUPPORTED_REQUEST` (R445). -/
def execSpdmUnsupportedRequest (_code : BitVec 8) (s : State) : Out := s.spdmFree fun s => s.spdmReply (.error 0x07)

/-! ## TDISP (R433, R443) -/

/-- A TDISP request under a session: outside one it is unexpected; the root world, and a transition that R433 does not admit, give
TDISP_ERROR. -/
def State.tdisp (s : State) (session v : Nat) (k : Nat → State → State) : Out :=
  s.spdmFree fun s => (match s.open? session with
    | none => s.spdmReply (.error 0x04)
    | some x =>
      if x.iface == 0 || !s.hasPdk x.iface || !(s.pdk x.iface).admits v then s.spdmReply .tdispError
      else
        let t := k x.iface s
        t.spdmReply (if t.spdm.busy.isSome then .none else .response))
/-- `LOCK_INTERFACE_REQUEST` (R433), through LOCKIF `.lock`. -/
def execLockInterfaceRequest (session : Nat) (s : State) : Out := s.tdisp session 0 fun p s => s.lockIf p
/-- `START_INTERFACE_REQUEST` (R433), through LOCKIF `.run`. -/
def execStartInterfaceRequest (session : Nat) (s : State) : Out := s.tdisp session 1 fun p s => s.setIf p 2
/-- R445: a stop is in progress until its scrub is over: it has no answer before (log 27). -/
def State.beginStop (s : State) (p : Nat) : State := (s.stopIf p none).updSpdm fun r => { r with busy := some p }
/-- `STOP_INTERFACE_REQUEST` (R433), through LOCKIF `.stop`. -/
def execStopInterfaceRequest (session : Nat) (s : State) : Out := s.tdisp session 2 fun p s => s.beginStop p

end Sys2Proof.Machine
end

