-- ==== Sys2Proof/Machine/Pcie.lean ====
section
/-! DEFINITION. What the host and the platform do: memory requests (R432, R435, R447), configuration requests, resets (R449, R466),
power, boot and cooling (R454, R459, R460). -/
namespace Sys2Proof.Machine
open Sys2Proof

/-! ## Memory requests (R432, R435, R447) -/

/-- Where a host request to one line goes: a device-physical address with the paddock it belongs to (0 for none), a completion
without effect, or a wait for a running scrub (R437). -/
inductive HostAt where
  | at_ (pa p : Nat)
  | reply (r : HostReply)
  | waits
  deriving DecidableEq, Repr, Inhabited

/-- R424, R447, R403: the memory behind a function's BAR2: the device's, or a paddock's, through its second stage, or its share. -/
def State.bar2 (s : State) (fn addr : Nat) : Option Nat :=
  if fn = 0 then inDevice addr
  else if s.hasPdk fn then (s.s2 fn addr).filter fun a => s.s2On fn || inShare ((s.pdk fn).reg 0x0C8).toNat a
  else none
/-- R432, R433, R435, R437, R447, R454, R460: the address of a host request through a function's BAR2. -/
def State.hostAt (s : State) (via : Via) (addr : Nat) : HostAt :=
  if !s.powered then .reply .linkDown else
  match s.bar2 via.fn addr with
  | none => .reply .unsupported
  | some pa =>
    let p := if via.fn = 0 then s.ownerOf pa else via.fn
    let q := s.pdk p
    if !s.booted || q.shuts via then .reply .unsupported
    else if p != 0 && (q.ifstate == 3 || q.halted) then .reply .abort
    else if q.zeroing then .waits
    else .at_ pa p

/-- The first line of a request that is not served, or the addresses of all. -/
def State.hostAll (s : State) (via : Via) (wr : Bool) : List (Nat × Nat) → Except (Option HostReply) (List (Nat × Nat × Nat))
  | [] => .ok []
  | (a, n) :: r =>
    match s.hostAt via a with
    | .reply x => .error (some x)
    | .waits => .error none
    | .at_ pa p =>
      if wr && s.execDev p pa then .error (some .unsupported)
      else match s.hostAll via wr r with
        | .ok l => .ok ((pa, p, n) :: l)
        | e => e
/-- R250, R374, R431: one line of a host write, which die 0 makes. -/
def State.hostPoke (s : State) (pa p : Nat) (bs : List (BitVec 8)) : State :=
  let (ok, s) := s.eccWrite none p pa bs.length (s.specDev p pa)
  if ok then s.devStore p 0 pa bs else { s with reply := .abort }
/-- `HOST_MEMORY_WRITE` (R250, R252, R437, R447): it waits for a scrub, until all that die 0 has stamped is applied, and until nothing that became
applicable before stands ahead of it at its homes. Memory that fails gives completer abort (log 28). -/
def execHostMemoryWrite (via : Via) (addr : Nat) (bytes : List (BitVec 8)) (s : State) : Out :=
  let own := Instr.hostMemoryWrite via addr bytes
  .next (match s.hostAll via true (linePieces addr bytes.length) with
    | .error none => s.hold own
    | .error (some r) => { s.unhold own with reply := r }
    | .ok l =>
      if !s.quiet 0 || !l.all fun x => s.homeFree 0 x.1 x.2.2 then s.hold own
      else (l.foldl (fun (r : List (BitVec 8) × State) x => (r.1.drop x.2.2, r.2.hostPoke x.1 x.2.1 (r.1.take x.2.2)))
        (bytes, { s.unhold own with reply := .ok [] })).2)
/-- R432, R447: a host read of a function's BAR0: the register page of its paddock; for function 0 the management page, then those of the
paddocks that are not sealed. -/
def State.bar0Read (s : State) (via : Via) (off len : Nat) : HostReply :=
  if via.fn != 0 then s.pageRead via via.fn off len else s.pageRead via (off / 0x1000) (off % 0x1000) len
/-- `HOST_MEMORY_READ` (R437, R447): the bytes as they stand at their homes; it waits for a scrub. BAR0 stands behind the 1 TiB of BAR2
(log 28). -/
def execHostMemoryRead (via : Via) (addr len : Nat) (s : State) : Out :=
  let own := Instr.hostMemoryRead via addr len
  .next (if 2 ^ 40 ≤ addr then { s with reply := s.bar0Read via (addr - 2 ^ 40) len } else
    match s.hostAll via false (linePieces addr len) with
    | .error none => s.hold own
    | .error (some r) => { s.unhold own with reply := r }
    | .ok l =>
      let (bs, ok, s) := l.foldl (fun (r : List (BitVec 8) × Bool × State) x =>
        let (good, t) := r.2.2.ecc none x.2.1 x.1 x.2.2 (r.2.2.specDev x.2.1 x.1)
        (r.1 ++ t.peek x.1 x.2.2, r.2.1 && good, t)) (([] : List (BitVec 8)), true, s.unhold own)
      { s with reply := if ok then .ok bs else .abort })
/-- R454, R460: the completion of a request to a device that is not up. -/
def State.downReply (s : State) (r : HostReply) : HostReply := if s.powered then r else .linkDown
/-- `PCIE_CONFIG_REQUEST` (R454, R460): retry status before STAGE 4. -/
def execPcieConfigRequest (s : State) : Out := .next { s with reply := if s.booted then .ok [] else s.downReply .retry }

/-! ## Resets (R363, R449, R466) -/

/-- R449, R466: a paddock reset: its warps stop, its ring restarts from a header, its world is scrubbed once the records are written. -/
def State.resetPdk (s : State) (p : Nat) (h : DWord × DWord) : State :=
  let s : State := { s with warps := s.warps.map fun w => if w.pdk == p then { w with stopped := true } else w }
  (s.restartRing p h).scrubClosed p none
/-- R449: a reset waits for a LOCKIF, or another reset, of the paddock that is under way. -/
def State.resetWaits (s : State) (p : Nat) : Bool := (s.pdk p).scrubs
/-- `FLR_VF` (R449). -/
def execFlrVf (p : Nat) (s : State) : Out :=
  let own := Instr.flrVf p
  .next (if !s.hasPdk p then s.unhold own
    else if s.resetWaits p then s.hold own
    else (s.unhold own).resetPdk p (s.ringOf p).header)
/-- The paddocks with a slice on a die. -/
def State.pdksOn (s : State) (die : Nat) : List Pdk := s.pdks.filter fun q => (List.range 8).any fun k => bitAt (q.reg 0x0C8).toNat (8 * die + k)
/-- `DIE_RESET` (R466): a paddock reset of every paddock on the die; a header that lay there is taken from its copy. -/
def execDieReset (die : Nat) (s : State) : Out :=
  let ps := s.pdksOn die
  let own := Instr.dieReset die
  .next (if ps.any fun q => s.resetWaits q.no then s.hold own
    else ps.foldl (fun (t : State) q =>
      let g := t.ringOf q.no
      let lost := match s.s2 q.no (s.ringBase q.no - 64) with | some a => homeOf a == die | none => false
      t.resetPdk q.no (if lost then g.copy else g.header)) (s.unhold own))

/-- R12, R466: the headers that a device reset or a trip saves: of every ring whose restart is over, the root world's too (log 61); and those still
held. -/
def State.savedHeaders (s : State) : List SavedHeader :=
  let of (p : Nat) : SavedHeader :=
    let reg (o : Nat) : DWord := BitVec.ofNat 64 (s.rreg p o)
    { no := p, crbase := reg 0x040, crhost := reg 0x048, ack := reg 0x058, done := reg 0x060 }
  s.flash ++ ((0 :: s.pdks.map (·.no)).filter fun p => !s.flash.any (·.no == p)).map of
/-- R466: the state after a reset of the whole device: what it keeps, and what is no part of it: what the host has received, storage
that fails, the model's own fields. -/
def State.coldBoot (s : State) (flash : List SavedHeader) (powered : Bool) : State :=
  let r := State.reset
  { r with flash, powered, redirect := s.redirect, mgmt := mset r.mgmt 0x01C (mget s.mgmt 0x01C), marks := s.marks.filter (·.2 == .lasting)
           hostmem := s.hostmem, agenda := s.agenda, nextId := s.nextId, fresh := s.fresh, draws := s.draws
           reply := if powered then r.reply else .linkDown }
/-- `DEVICE_RESET` (R449, R462, R466): the write, or the reset of function 0, finds the device only once it is up (R454). -/
def execDeviceReset (s : State) : Out :=
  .next (if s.booted then s.coldBoot s.savedHeaders true else { s with reply := s.downReply .unsupported })
/-- `THERMAL_TRIP` (R460): the headers are saved, then every die loses power. -/
def execThermalTrip (s : State) : Out := .next (if !s.powered then s else s.coldBoot s.savedHeaders false)
/-- `POWER_LOSS` (R466): nothing is saved. -/
def execPowerLoss (s : State) : Out := .next { s.coldBoot [] false with redirect := [], mgmt := State.reset.mgmt }

/-! ## Boot (R442, R454) -/

/-- R442: the alias key's seed: the first 32 bytes of SHA-512(identity seed ‖ MEAS0). -/
def State.deriveAlias (s : State) : State :=
  { s with aliasSeed := (sha512 (leBytes Config.identitySeed.toNat 32 ++ digestBytes (s.measReg 0))).truncate 256 }
/-- DEVSTAT takes STAGE and FAILCODE. -/
def State.setStage (s : State) (stage fail : Nat) : State := { s with mgmt := mset s.mgmt 0x004 (BitVec.ofNat 64 (fail * 256 + stage)) }
/-- R454: the images that the root firmware verifies: the fabric's, the memory controllers', the SerDes', the power manager's. -/
def otherImages : Nat := 4
/-- R454: the FAILCODE of a boot in which some other images have verified: the third stage fails unless all have. -/
def failCode (fail verified : Nat) : Nat := if fail = 1 || fail = 2 || otherImages ≤ verified then fail else 3
/-- `POWER_GOOD` (R454): steps 1 to 5. `fail` is the FAILCODE of the stage that fails, or 0; `others` are the other images that
verified, in order. -/
def execPowerGood (rootImage : List (BitVec 8)) (others : List (List (BitVec 8))) (fail : Nat) (s : State) : Out :=
  .next (if s.powered && fld (mget s.mgmt 0x004).toNat 0 4 != 0 then s
    else
      let s : State := { s with powered := true }
      if fail = 1 || fail = 2 then s.setStage 0xF fail
      else
        let others := others.take (if fail = 3 then otherImages - 1 else otherImages)
        let fail := failCode fail others.length
        let s := (s.extend 0 (sha512 rootImage)).deriveAlias
        let s := others.foldl (fun (t : State) im => t.extend 1 (sha512 im)) s
        if fail = 0 then s.setStage 3 0 else s.setStage 0xF fail)
/-- `BOOT_READY` (R454): STAGE 4. The saved headers wait for their paddocks and sessions (R466). -/
def execBootReady (s : State) : Out :=
  .next (if s.powered && fld (mget s.mgmt 0x004).toNat 0 4 == 3 then s.setStage 4 0 else s)

/-! ## Throttling (R459) -/

/-- `THROTTLE_START` (R459): outside timed mode, a core's cycles freeze. -/
def execThrottleStart (core : Nat) (s : State) : Out :=
  .next (if s.holdsTimed core then s
    else { s.updCore core fun k => { k with throttled := true } with mgmt := mset s.mgmt 0x014 (mget s.mgmt 0x014 ||| 1) })
/-- `THROTTLE_END` (R459). -/
def execThrottleEnd (core : Nat) (s : State) : Out :=
  .next (s.updCore core fun k => { k with throttled := false })

end Sys2Proof.Machine
end

