-- ==== Sys2Proof/Machine/Ethernet.lean ====
section
/-! DEFINITION. Scale-out ports and Ethernet queues (R450 to R453). A frame is its bytes without VLAN tag and FCS where software sees it,
and with both where it is on the wire. -/
namespace Sys2Proof.Machine
open Sys2Proof

/-! ## Ports (R450, R452) -/

/-- The state with one port changed; a port is listed once it differs from an idle one. -/
def State.updPort (s : State) (n : Nat) (f : Port → Port) : State :=
  { s with ports := f ((s.ports.find? (·.no == n)).getD { no := n }) :: s.ports.filter (·.no != n) }
/-- R450: a port whose link is up in Ethernet mode. -/
def State.ethPort (s : State) (n : Nat) : Bool := s.ports.any fun x => x.no == n && x.up && !x.rink
/-- `PORT_LINK_DOWN` (R420, R422, R450): a port, 0 to 7, in rink mode loses its rink link. -/
def execPortLinkDown (port : Nat) (s : State) : Out :=
  .next (if 8 ≤ port then s else
    let wasUp := s.ports.any fun x => x.no == port && x.up
    let s := if wasUp && s.rink.formed && s.rinkPort port then s.memberFault 6 else s
    s.updPort port fun x => { x with up := false, paused := [], asked := [] })
/-- `PORT_LINK_UP` (R450): the link of a port, 0 to 7, comes up in the mode that RKCTL gives. -/
def execPortLinkUp (port : Nat) (s : State) : Out :=
  .next (if 8 ≤ port || s.ports.any fun x => x.no == port && x.up then s
    else s.updPort port fun x => { x with up := true, rink := bitAt s.rkctl (8 + port), paused := [], asked := [] })
/-- `FLOW_CONTROL_FRAME_RECEIVE` (R452). -/
def execFlowControlFrameReceive (port prio : Nat) (pause : Bool) (s : State) : Out :=
  .next (if !s.ethPort port || 8 ≤ prio then s
    else s.updPort port fun x => { x with paused := (if pause then [prio] else []) ++ x.paused.filter (· != prio) })

/-! ## Queue registers (R451) -/

/-- NQCTL of a queue pair. -/
def Pdk.nqctl (q : Pdk) (k : Nat) : Nat := (q.reg (0x200 + 0x20 * k)).toNat
/-- VLAN ID. -/
def nqVlan (c : Nat) : Nat := fld c 36 12
/-- The port. -/
def nqPort (c : Nat) : Nat := fld c 30 3
/-- The priority. -/
def nqPrio (c : Nat) : Nat := fld c 33 3
/-- ASID of the rings and buffers. -/
def nqAsid (c : Nat) : Nat := fld c 48 16
/-- The entries of a ring. -/
def nqSize (c : Nat) : Nat := 2 ^ fld c 26 4
/-- A queue pair works: ENABLE without ERROR, its fields in the ranges of R451 (log 29). -/
def nqOn (c : Nat) : Bool :=
  bitAt c 0 && !bitAt c 1 && decide (4 ≤ fld c 26 4) && decide (fld c 26 4 ≤ 12) && decide (1 ≤ nqVlan c) && decide (nqVlan c ≤ 4094)
/-- The queue pairs of the device. -/
def State.nqAll (s : State) : List (Nat × Nat × Nat) := s.pdks.flatMap fun q => (List.range 8).map fun k => (q.no, k, q.nqctl k)
/-- R451, R452: ERROR with its cause. -/
def State.nqError (s : State) (p k cause : Nat) : State :=
  s.updPdk p fun q =>
    let o := 0x200 + 0x20 * k
    (q.setReg o (q.reg o ||| 2)).setReg (o + 0x18) (BitVec.ofNat 64 (setFld (q.reg (o + 0x18)).toNat 32 8 cause))
/-- R434, R451: NQCTL of a queue pair is written. -/
def State.putNqctl (s : State) (p q : Nat) (val : DWord) : State :=
  if !s.hasPdk p then s
  else if (s.pdk p).watch.contains (0x200 + 0x20 * q) then s.ifError p 1
  else
    let v := val.toNat &&& (bits 63 26 + bits 1 0)
    let twice := bitAt v 0 && s.nqAll.any fun x => (x.1 != p || x.2.1 != q) && bitAt x.2.2 0 && nqPort x.2.2 == nqPort v && nqVlan x.2.2 == nqVlan v
    if twice then s.nqError p q 4 else s.updPdk p fun r => r.setReg (0x200 + 0x20 * q) (BitVec.ofNat 64 v)

/-! ## Rings (R451, R452) -/

/-- What a ring of a queue pair holds: PROD, CONS and the descriptor at CONS with its address; or the cause of an ERROR (log 29: a
descriptor that cannot be reached counts as the ring's header does). -/
def State.nqRing (s : State) (p asid base size : Nat) : Except Nat (Nat × Nat × Nat × Nat) :=
  if !s.mappedRW p asid base then .error 1
  else match s.vget p asid base 16 with
    | none => .error 2
    | some h =>
      let prod := fld h 0 64
      let cons := fld h 64 64
      if prod ≤ cons then .ok (prod, cons, 0, 0)
      else
        let at_ := base + 64 + 32 * (cons % size)
        if !s.mappedRW p asid at_ then .error 1
        else match s.vget p asid at_ 32 with
          | none => .error 2
          | some d => .ok (prod, cons, at_, d)
/-- A ring's header and, where one is posted, its descriptor, as ranges. -/
def State.nqTouches (s : State) (p asid base size : Nat) : List (Nat × Nat) :=
  let at_ := match s.nqRing p asid base size with | .ok (_, _, a, _) => a | .error _ => 0
  (base, 16) :: (if at_ = 0 then [] else [(at_, 32)])
/-- R13: the device's reads of them. -/
def State.nqNote (s : State) (p asid base size : Nat) : State := s.noteGets p asid (s.nqTouches p asid base size)
/-- R252: nothing that became applicable before stands ahead of a store of the device to some ranges. -/
def State.nqFree (s : State) (p asid : Nat) (l : List (Nat × Nat)) : Bool :=
  l.all fun r => (linePieces r.1 r.2).all fun x => match s.vaddr p asid x.1 true with | some a => s.homeFree (homeOf a) a x.2 | none => true
/-- The device stores bytes of a ring or a buffer, line by line, at their homes. -/
def State.nqStore (s : State) (p asid va : Nat) (bs : List (BitVec 8)) : State :=
  ((linePieces va bs.length).foldl (fun (r : List (BitVec 8) × State) x =>
    (r.1.drop x.2, match r.2.vaddr p asid x.1 true with | some a => r.2.devStore p (homeOf a) a (r.1.take x.2) | none => r.2)) (bs, s)).2
/-- R452: STATUS of a descriptor, then CONS + 1. -/
def State.nqDone (s : State) (p asid base at_ cons status : Nat) : State :=
  (s.nqStore p asid (at_ + 19) [BitVec.ofNat 8 status]).nqStore p asid (base + 8) (leBytes (cons + 1) 8)
/-- Every die may store at once (R252). -/
def State.allQuiet (s : State) : Bool := (List.range 8).all s.quiet

/-! ## Flow control (R450, R453) -/

/-- R453: the port pauses a priority: a queue of it has no buffer posted. -/
def State.pausing (s : State) (port prio : Nat) : Bool :=
  s.nqAll.any fun x => nqOn x.2.2 && nqPort x.2.2 == port && nqPrio x.2.2 == prio &&
    match s.nqRing x.1 (nqAsid x.2.2) ((s.pdk x.1).reg (0x210 + 0x20 * x.2.1)).toNat (nqSize x.2.2) with
    | .ok (prod, cons, _, _) => decide (prod ≤ cons)
    | .error _ => false
/-- What a port has asked its link partner to pause. -/
def State.askedOn (s : State) (port : Nat) : List Nat := ((s.ports.find? (·.no == port)).map (·.asked)).getD []
/-- R453: the port sends an IEEE 802.1Qbb frame where what it asks of a priority changes: a pause, or its end (log 29). -/
def State.notePause (s : State) (port prio : Nat) : State :=
  let want := s.pausing port prio
  if !s.ethPort port || want == (s.askedOn port).contains prio then s
  else { (s.updPort port fun x => { x with asked := (if want then [prio] else []) ++ x.asked.filter (· != prio) }) with
         pauses := (port, prio, want) :: s.pauses }

/-! ## Sending (R452) -/

/-- R426: the scale-out budget of a paddock, in Gb/s. -/
def State.netBudget (s : State) (p : Nat) : Nat := fld ((s.pdk p).reg 0x0D0).toNat 16 16
/-- R426, R450: a paddock has a slot of its scale-out budget (log 9). -/
def State.netOpen (s : State) (p : Nat) : Bool := s.netBudget p != 0 && decide ((s.pdk p).netFree ≤ s.wall)
/-- R426: a frame of some bytes takes the slots of its budget: at 800 MHz, 5/4 bits a cycle for each Gb/s. -/
def State.netTake (s : State) (p len : Nat) : State :=
  s.updPdk p fun q => { q with netFree := s.wall + cdiv (8 * len * 4) (5 * s.netBudget p) }

/-- One bit of the FCS's register. -/
def crcBit (c : Nat) : Nat := if c % 2 = 1 then c / 2 ^^^ 0xEDB88320 else c / 2
/-- IEEE 802.3: the FCS of a frame, as the bytes appended to it. -/
def fcs (bs : List (BitVec 8)) : List (BitVec 8) :=
  let r := bs.foldl (fun c b => (List.range 8).foldl (fun c _ => crcBit c) (c ^^^ b.toNat)) 0xFFFFFFFF
  leBytes (r ^^^ 0xFFFFFFFF) 4
/-- R452: a frame with its IEEE 802.1Q tag and FCS. -/
def tagged (prio vlan : Nat) (bs : List (BitVec 8)) : List (BitVec 8) :=
  let t := prio * 2 ^ 13 + vlan
  let w := bs.take 12 ++ [0x81, 0x00, BitVec.ofNat 8 (t / 256), BitVec.ofNat 8 t] ++ bs.drop 12
  w ++ fcs w
/-- A send ring with something to do: a descriptor that the paddock's budget admits (R426), or an ERROR to report. -/
def State.nqSends (s : State) (p k : Nat) : Bool :=
  let q := s.pdk p
  let c := q.nqctl k
  nqOn c && s.ethPort (nqPort c) && !(s.ports.any fun x => x.no == nqPort c && x.paused.contains (nqPrio c)) &&
    match s.nqRing p (nqAsid c) (q.reg (0x208 + 0x20 * k)).toNat (nqSize c) with
    | .ok (prod, cons, _, _) => decide (cons < prod) && s.netOpen p
    | .error _ => true
/-- When a queue was last served. -/
def State.servedAt (s : State) (p k : Nat) : Nat := (((s.pdk p).queues.find? (·.no == k)).map (·.served)).getD 0
/-- R452: a queue's turn on its port: the highest priority, 7 first, then the queue served longest ago (log 29). -/
def State.ethDue (s : State) (p k : Nat) : Bool :=
  let c := (s.pdk p).nqctl k
  s.nqSends p k && s.allQuiet && s.nqFree p (nqAsid c) (s.nqTouches p (nqAsid c) ((s.pdk p).reg (0x208 + 0x20 * k)).toNat (nqSize c)) &&
    s.nqAll.all fun x => nqPort x.2.2 != nqPort c || !s.nqSends x.1 x.2.1 ||
      decide (nqPrio x.2.2 < nqPrio c) || (nqPrio x.2.2 == nqPrio c && decide (s.servedAt p k ≤ s.servedAt x.1 x.2.1))
/-- R450: the longest frame, without tag and FCS: 9,216 bytes on the wire. -/
def maxFrame : Nat := 9208
/-- `ETH_SEND_DESCRIPTOR` (R452), after what the queue's port asks of its priority (R453). -/
def execEthSendDescriptor (p q : Nat) (s : State) : Out :=
  let c := (s.pdk p).nqctl q
  let s := s.notePause (nqPort c) (nqPrio c)
  .next (if !s.ethDue p q then s
    else
      let asid := nqAsid c
      let base := ((s.pdk p).reg (0x208 + 0x20 * q)).toNat
      let ring := s.nqRing p asid base (nqSize c)
      let s := s.nqNote p asid base (nqSize c)
      match ring with
      | .error cause => s.nqError p q cause
      | .ok (_, cons, at_, d) =>
        let len := fld d 176 16
        let s := s.updPdk p fun r => { r with queues := { no := q, served := s.wall } :: r.queues.filter (·.no != q) }
        if len < 60 || maxFrame < len then s.nqDone p asid base at_ cons 2
        else
          let read := s.vgetBytes p asid (fld d 192 64) len
          let s := s.noteGets p asid [(fld d 192 64, len)]
          match read with
          | none => s.nqDone p asid base at_ cons 1
          | some bs =>
            let frame := tagged (nqPrio c) (nqVlan c) bs
            (({ s with sentFrames := (nqPort c, frame) :: s.sentFrames } : State).netTake p frame.length).nqDone p asid base at_ cons 0)

/-! ## Receiving (R453) -/

/-- R453: the queue pair that a frame is steered to. -/
def State.nqFor (s : State) (port vlan : Nat) : Option (Nat × Nat × Nat) :=
  s.nqAll.find? fun x => nqOn x.2.2 && nqPort x.2.2 == port && nqVlan x.2.2 == vlan
/-- R453: a frame goes into the buffer of a receive descriptor, with the received length, STATUS and CONS + 1; where the buffer does not
translate with WR nothing of it is written. -/
def State.nqReceive (s : State) (p asid base at_ cons d : Nat) (bs : List (BitVec 8)) : State :=
  let size := fld d 176 16
  let buf := fld d 192 64
  let part := bs.take size
  let ok := decide (buf + part.length ≤ 2 ^ 57) && (linePieces buf part.length).all fun x => (s.vaddr p asid x.1 true).isSome
  let s := if ok then s.nqStore p asid buf part else s
  let s := s.nqStore p asid (at_ + 20) (leBytes bs.length 2)
  s.nqDone p asid base at_ cons (if !ok then 2 else if size < bs.length then 1 else 0)
/-- R453: a frame that finds no buffer posted is dropped and counted in NQSTAT. -/
def State.nqDrop (s : State) (p k : Nat) : State :=
  s.updPdk p fun q =>
    let o := 0x218 + 0x20 * k
    q.setReg o (BitVec.ofNat 64 (setFld (q.reg o).toNat 0 32 (Nat.min 0xFFFFFFFF (fld (q.reg o).toNat 0 32 + 1))))
/-- R453: a frame that is steered to a queue pair. -/
def State.nqDeliver (s : State) (p k c : Nat) (bytes : List (BitVec 8)) : State :=
  let asid := nqAsid c
  let base := ((s.pdk p).reg (0x210 + 0x20 * k)).toNat
  let ring := s.nqRing p asid base (nqSize c)
  let s := s.nqNote p asid base (nqSize c)
  let s := match ring with
    | .error cause => s.nqError p k cause
    | .ok (prod, cons, at_, d) => if cons < prod then s.nqReceive p asid base at_ cons d bytes else s.nqDrop p k
  s.notePause (nqPort c) (nqPrio c)
/-- R252: a frame steered to a queue pair may be written now: every die may store, and nothing stands ahead at the places it is written to. -/
def State.nqMay (s : State) (p k c len : Nat) : Bool :=
  let asid := nqAsid c
  let base := ((s.pdk p).reg (0x210 + 0x20 * k)).toNat
  let buf := match s.nqRing p asid base (nqSize c) with | .ok (_, _, _, d) => [(fld d 192 64, Nat.min (fld d 176 16) len)] | .error _ => []
  s.allQuiet && s.nqFree p asid (s.nqTouches p asid base (nqSize c) ++ buf)
/-- `ETH_FRAME_RECEIVE` (R453): `bytes` are the frame's without tag and FCS; `vlan` is that of its tag, if it carries one. One that is longer than
the port takes counts as one whose FCS fails (log 29); one that may not be written yet waits (R252). -/
def execEthFrameReceive (port : Nat) (fcsOk : Bool) (vlan : Option Nat) (bytes : List (BitVec 8)) (s : State) : Out :=
  let own := Instr.ethFrameReceive port fcsOk vlan bytes
  .next (if !s.ethPort port then s.unhold own
    else match (if fcsOk && decide (bytes.length ≤ maxFrame) then vlan.bind (s.nqFor port) else none) with
      | none => (s.unhold own).mgmtCount 0x028
      | some (p, k, c) => if s.nqMay p k c bytes.length then (s.unhold own).nqDeliver p k c bytes else s.hold own)

end Sys2Proof.Machine
end

