-- ==== Sys2Proof/Machine/FloatOps.lean ====
section
/-! DEFINITION. Floating-point and narrow dot instructions, conversions, the divide unit and the f64 pace (R167 to R189). -/
namespace Sys2Proof.Machine
open Sys2Proof

/-- R173: a paired variant. -/
def pairedVar (f : Fields) : Bool := decide (4 ≤ f.var.toNat) && f.ty != .f64
/-- R132: the rounding mode of a variant. -/
def modeOf (f : Fields) : Nat := f.var.toNat % 4

/-- R173: a floating source of one lane: for f64 the pair, else register `h` of the source, with its modifiers. -/
def Warp.fsrc (w : Warp) (t : Ty) (x : Src) (i h : Nat) : Nat :=
  if t == .f64 then w.opnd t x i else applyMods t x (w.reg (x.reg.toNat + h) (w.srcLane x i)).toNat
/-- R174: source b, or the immediate, which for f64 is an f32 code widened. -/
def Warp.fsrcB (w : Warp) (f : Fields) (i h : Nat) : Nat :=
  match f.args with
  | .regs _ b _ => w.fsrc f.ty b i h
  | .imm _ imm => if f.ty == .f64 then convert .f32 .f64 0 imm.toNat else imm.toNat

/-- R176: whether the slot's float pipeline is blocked in this cycle by an f64 word of the previous one. -/
def State.f64Blocked (s : State) (w : Warp) : Bool := alist (s.core w.core).f64Next w.slot == some (s.now w)
/-- R176: an f64 FADD, FSUB, FMUL or FFMA blocks the next cycle. -/
def State.f64Block (s : State) (w : Warp) (f : Fields) : State :=
  if f.ty == .f64 then s.updCore w.core fun k => { k with f64Next := aput k.f64Next w.slot (s.now w + 1) } else s

/-- A word of the float pipeline (OP 0x40 to 0x4C): TIMING in timed mode where the pace forbids its cycle (R176). -/
def floatIssue (f : Fields) (s : State) (k : Nat → Warp → State → State) : Out :=
  s.issue f fun wid w s => if w.timed && s.f64Blocked w then s.trapAt wid w 0x19 else k wid w s

/-- A floating instruction on one or both registers of its sources, element by element (R173, R175, R177). -/
def floatOp (f : Fields) (s : State) (block : Bool) (g : Nat → Nat → Nat → Nat) : Out :=
  floatIssue f s fun wid w s =>
    let one (i h : Nat) : Nat := zipElems3 f.ty g (w.fsrc f.ty f.a i h) (w.fsrcB f i h) (w.fsrc f.ty f.c i h)
    let s := if block then s.f64Block w f else s
    if pairedVar f then s.fixed wid w f .m 2 fun i => one i 0 + 2 ^ 32 * one i 1
    else s.fixed wid w f .m (tyRegs f.ty) fun i => one i 0

/-- R177: FADD. -/
def execFadd (f : Fields) (s : State) : Out := floatOp f s true fun x y _ => (fmtOf f.ty).add (modeOf f) x y
/-- R177: FSUB. -/
def execFsub (f : Fields) (s : State) : Out := floatOp f s true fun x y _ => (fmtOf f.ty).sub (modeOf f) x y
/-- R177: FMUL. -/
def execFmul (f : Fields) (s : State) : Out := floatOp f s true fun x y _ => (fmtOf f.ty).mul (modeOf f) x y
/-- R177: FFMA. -/
def execFfma (f : Fields) (s : State) : Out := floatOp f s true fun x y z => (fmtOf f.ty).fma (modeOf f) x y z
/-- R179: FMIN. -/
def execFmin (f : Fields) (s : State) : Out := floatOp f s false fun x y _ => (fmtOf f.ty).minmax false false x y
/-- R179: FMAX. -/
def execFmax (f : Fields) (s : State) : Out := floatOp f s false fun x y _ => (fmtOf f.ty).minmax true false x y
/-- R179: FMINP. -/
def execFminp (f : Fields) (s : State) : Out := floatOp f s false fun x y _ => (fmtOf f.ty).minmax false true x y
/-- R179: FMAXP. -/
def execFmaxp (f : Fields) (s : State) : Out := floatOp f s false fun x y _ => (fmtOf f.ty).minmax true true x y
/-- R180: FCMP. -/
def execFcmp (f : Fields) (s : State) : Out :=
  floatIssue f s fun wid w s => s.fixed wid w f .m 1 fun i =>
    cmpBits f.ty ((fmtOf f.ty).cond f.var.toNat) (w.fsrc f.ty f.a i 0) (w.fsrcB f i 0)
/-- R181: FCLASS. -/
def execFclass (f : Fields) (s : State) : Out :=
  floatIssue f s fun wid w s => s.fixed wid w f .m 1 fun i =>
    cmpBits f.ty (fun x _ => bitAt (w.wordB f i).toNat ((fmtOf f.ty).cls x)) (w.fsrc f.ty f.a i 0) 0
/-- R182: FRND. -/
def execFrnd (f : Fields) (s : State) : Out := floatOp f s false fun x _ _ => (fmtOf f.ty).rnd (modeOf f) x
/-- R183: FSCALE: b is one register or the immediate, a signed integer. -/
def execFscale (f : Fields) (s : State) : Out :=
  floatIssue f s fun wid w s => s.fixed wid w f .m (tyRegs f.ty) fun i =>
    mapElems f.ty (fun x => (fmtOf f.ty).scale (modeOf f) x (sx 32 (w.wordB f i).toNat)) (w.fsrc f.ty f.a i 0)
/-- R184: FEXP: `.exp` gives one register even for f64. -/
def execFexp (f : Fields) (s : State) : Out :=
  floatIssue f s fun wid w s =>
    let F := fmtOf f.ty
    if f.var == 0 then
      if f.ty == .f64 then s.fixed wid w f .m 1 fun i => F.expPart 32 (w.fsrc f.ty f.a i 0)
      else s.fixed wid w f .m 1 fun i => mapElems f.ty (F.expPart F.bits) (w.fsrc f.ty f.a i 0)
    else s.fixed wid w f .m (tyRegs f.ty) fun i => mapElems f.ty F.manPart (w.fsrc f.ty f.a i 0)

/-! ## The divide unit (R178) -/

/-- The cycles an instruction occupies the unit, and those from its acceptance to its landing. -/
def divCost (t : Ty) : Nat × Nat := if t == .f64 then (16, 56) else (4, 28)
/-- Operations of a slot that wait for the unit, in issue order. -/
def State.divWaiting (s : State) (core slot : Nat) : List Op :=
  s.ops.filter fun x => (match x.kind with | .divide _ => true | _ => false) && x.due.isNone &&
    x.before.core == core && x.before.slot == slot
/-- The unit of a slot is free in this cycle. -/
def State.divIdle (s : State) (core slot : Nat) : Bool :=
  decide ((alist (s.core core).divFree slot).getD 0 ≤ s.ucyc core)
/-- The unit accepts an operation now. -/
def State.divAccept (s : State) (x : Op) : State :=
  let (busy, lat) := divCost x.ty
  let c := x.before.core
  let now := s.ucyc c
  let s := s.updCore c fun k => { k with divFree := aput k.divFree x.before.slot (now + busy) }
  s.updOp x.id fun x => { x with due := some (now + lat) }

/-- FDIV and FSQRT: the results are formed from what the lanes read at issue, and land when the unit gives them. One that no lane executes
occupies the unit as any other does (R178); its flag counts down in the cycle after its issue (R41). -/
def divideOp (f : Fields) (s : State) (root : Bool) (g : Nat → Nat → Nat) : Out :=
  s.issue f fun wid w s =>
    let m := w.exec f
    let free := s.divIdle w.core w.slot && (s.divWaiting w.core w.slot).isEmpty
    if w.timed && !free then s.trapAt wid w 0x19
    else
      let accs := (lanesOf m).map fun i =>
        { lane := i, stage := .ready,
          old := BitVec.ofNat 128 (zipElems f.ty g (w.fsrc f.ty f.a i 0) (w.fsrcB f i 0)) : Acc }
      let s := if m == 0 then s.simpleOp wid w f 1 else s
      let (o, s) := s.addOp { opOf wid w f (.divide root) with nregs := tyRegs f.ty, accs, flag := if m == 0 then none else f.flag }
      if free then (match s.op? o with | some x => s.divAccept x | none => s) else s

/-- R178: FDIV. -/
def execFdiv (f : Fields) (s : State) : Out := divideOp f s false fun x y => (fmtOf f.ty).div (modeOf f) x y
/-- R178: FSQRT. -/
def execFsqrt (f : Fields) (s : State) : Out := divideOp f s true fun x _ => (fmtOf f.ty).sqrt (modeOf f) x

/-- The next operation that the divide unit of its slot can take now. -/
def State.divNext (s : State) : Option Op :=
  s.ops.find? fun x => (match x.kind with | .divide _ => true | _ => false) && x.due.isNone && !s.frozen x.before.core &&
    s.divIdle x.before.core x.before.slot && ((s.divWaiting x.before.core x.before.slot).head?.map (·.id)) == some x.id
/-- `DIVIDE_UNIT_ACCEPT` (R178). -/
def execDivideUnitAccept (s : State) : Out :=
  .next (match s.divNext with | some x => s.divAccept x | none => s)

/-- A division whose landing has come. -/
def State.divDone (s : State) : Option Op :=
  s.ops.find? fun x => (match x.kind with | .divide _ => true | _ => false) && !s.frozen x.before.core &&
    (match x.due with | some d => decide (d ≤ s.ucyc x.before.core) | none => false)
/-- `DIVIDE_COMPLETE` (R178, R52): the results land in the lanes that are still the operation's, and the flag counts down. -/
def execDivideComplete (s : State) : Out :=
  .next (match s.divDone with
    | none => s
    | some x =>
      let ws := (x.accs.filter (·.stage == .ready)).flatMap fun a => regWrites x.dst a.lane x.nregs a.old.toNat
      (s.landRegs x.wid x.id ws).endOp x.id)

/-! ## Narrow dot products (R187 to R189) -/

/-- R187: the accumulator plus the exact sum of the element products. -/
def dotInt (f : Fields) (s : State) : Out :=
  s.issue f fun wid w s => s.fixed wid w f .m 1 fun i =>
    let n := elemCount f.ty
    let b := elemBits f.ty
    let x := elems b n (w.opA f.ty f i)
    let y := elems b n (w.opB f.ty f i)
    let acc : Int := if f.ty.isSigned then sx 32 (w.reg f.dst.toNat i).toNat else ((w.reg f.dst.toNat i).toNat : Int)
    let r := (List.zipWith (fun p q => intVal f.ty p * intVal f.ty q) x y).foldl (· + ·) acc
    intOut (if f.ty.isSigned then .i32 else .n32) (satVar f) r
/-- R187: DOT4. -/
def execDot4 (f : Fields) (s : State) : Out := dotInt f s
/-- R187: DOT8. -/
def execDot8 (f : Fields) (s : State) : Out := dotInt f s

/-- R188, R189: the dot product of element values and NaN codes: `xs` and `ys` hold a value and, for a NaN, its f32 code. -/
def dotFloat (mode : Nat) (scale : Int) (xs ys : List (FVal × Nat)) (acc : Nat) : Nat :=
  let F := fmtOf .f32
  match ((xs ++ ys).find? (·.1 == .nan)).map (·.2) with
  | some c => c
  | none =>
    if F.isNan acc then F.quiet acc else
    let ps := List.zipWith (fun x y => mulVal x.1 y.1) xs ys
    if ps.any (·.isNone) then F.cnan else
    let ps := ps.filterMap fun p => p.map fun v => match v with | .fin n m e => .fin n m (e + scale) | v => v
    F.sum mode (F.val acc :: ps)

/-- An element's value with its NaN's f32 code. -/
def dotElem (t : Ty) (x : Nat) : FVal × Nat := ((fmtOf t).val x, nanTo (fmtOf t) (fmtOf .f32) x)
/-- R188: the elements of a scaled source; code 255 makes each the canonical NaN, and q4 code 0b1000 reads XV. -/
def dotScaled (t : Ty) (v code xv : Nat) : List (FVal × Nat) :=
  (elems (elemBits t) (elemCount t) v).map fun x =>
    if code = 255 then (.nan, (fmtOf .f32).cnan)
    else if t == .q4x8 && x == 8 then
      (match (fmtOf .f16x2).val xv with | .fin n m e => (.fin n m e, 0) | _ => (.nan, (fmtOf .f32).cnan))
    else dotElem t x

/-- R188: the scaled dot products. -/
def dotScaledOp (f : Fields) (s : State) : Out :=
  s.issue f fun wid w s => s.fixed wid w f .m 1 fun i =>
    let c := (w.src f.c i).toNat
    let sa := fld c 0 8
    let sb := fld c 8 8
    dotFloat (modeOf f) ((sa : Int) - 127 + (sb - 127)) (dotScaled f.ty (w.opA f.ty f i) sa (fld c 16 16))
      (dotScaled f.ty (w.opB f.ty f i) sb (fld c 16 16)) (w.reg f.dst.toNat i).toNat
/-- R188: DOTF8. -/
def execDotf8 (f : Fields) (s : State) : Out := dotScaledOp f s
/-- R188: DOTF4. -/
def execDotf4 (f : Fields) (s : State) : Out := dotScaledOp f s
/-- R189: DOT2H. -/
def execDot2h (f : Fields) (s : State) : Out :=
  s.issue f fun wid w s => s.fixed wid w f .m 1 fun i =>
    dotFloat (modeOf f) 0 ((elems 16 2 (w.opA f.ty f i)).map (dotElem f.ty)) ((elems 16 2 (w.opB f.ty f i)).map (dotElem f.ty))
      (w.reg f.dst.toNat i).toNat

/-! ## Conversions (R167 to R170) -/

/-- R168: CVT: the source type stands in the immediate. -/
def execCvt (f : Fields) (s : State) : Out :=
  s.issue f fun wid w s => s.fixed wid w f .m (tyRegs f.ty) fun i =>
    let S := Ty.ofCode (f.immVal.truncate 4)
    let n := elemCount f.ty
    unelems (elemBits f.ty) ((elems (elemBits S) n (w.opnd S f.a i)).map (convert S f.ty f.var.toNat))

/-- R169: the wider type of a packed type. -/
def widerOf (t : Ty) : Ty :=
  match t with
  | .f16x2 | .bf16x2 => .f32
  | .i16x2 => .i32 | .n16x2 => .n32
  | .q8ax4 | .q8bx4 => .f16x2
  | .i8x4 => .i16x2 | .n8x4 => .n16x2
  | .q4x8 => .q8ax4
  | .i4x8 => .i8x4
  | t => t

/-- R169: PACK: a gives the low elements, b the high ones. -/
def execPack (f : Fields) (s : State) : Out :=
  s.issue f fun wid w s => s.fixed wid w f .m 1 fun i =>
    let S := widerOf f.ty
    let n := elemCount f.ty / 2
    let half (v : Nat) : List Nat := (elems (elemBits S) n v).map (convert S f.ty f.var.toNat)
    unelems (elemBits f.ty) (half (w.opnd S f.a i) ++ half (w.opnd S f.b i))
/-- R169: UNPK: the low elements go to vD, the high ones to vD + 1. -/
def execUnpk (f : Fields) (s : State) : Out :=
  s.issue f fun wid w s => s.fixed wid w f .m 2 fun i =>
    let T := widerOf f.ty
    unelems (elemBits T) ((elems (elemBits f.ty) (elemCount f.ty) (w.opA f.ty f i)).map (convert f.ty T 0))

end Sys2Proof.Machine
end

