-- ==== Sys2Proof/Machine/Fetch.lean ====
section
/-! DEFINITION. Fetching the word at a warp's PC (R62, R205) and decoding it; and the place a word is put for the next fetch
(log 4). -/
namespace Sys2Proof.Machine
open Sys2Proof

/-- R62, R205: where the word at the PC of a warp stands: through an executable leaf under the ASID of its image's code (log 11),
whose frame is in the executable-frame table; none gives PROT. -/
def State.fetchAt (s : State) (w : Warp) : Option Nat :=
  match (s.pdk w.pdk).image w.image with
  | none => none
  | some im =>
    match s.walk w.pdk im.asid w.pc.toNat with
    | .fault .. => none
    | .leaf e =>
      let pa := e.addr w.pc.toNat
      if e.ex && s.execFrame w.pdk pa then s.s2 w.pdk pa else none
/-- R5, R205: the word at the PC of a warp. -/
def State.fetch (s : State) (w : Warp) : Option IWord := (s.fetchAt w).map fun a => wordOfBytes (s.peek a 16)

/-- R205, R465: PROT in every lane that is LIVE and not PARK, at the word. In an open region the word counts as one of it, and lanes in
which it does not act take no fault. -/
def State.fetchFault (s : State) (wid : Nat) : State :=
  let w := s.warp wid
  let fs := (lanesOf (w.alive &&& w.undoomed)).map fun i => { lane := i, code := 2, va := w.pc }
  let blank : Fields := { (default : Fields) with sched := { (default : Sched) with setf := 15 } }
  let t := if w.leftAt != 0 then s.noteIssue wid blank else { s with issuing := none }
  t.laneFaults wid t.nextId w.pc w fs

/-! ## A program put into the machine (log 4) -/

/-- The frame for the tables of a context that is put into the machine; its code frame is the next one. -/
def tableFrame : Nat := 2 ^ 21
/-- R5: bytes at a device-physical address that the environment loads; no store of the device. -/
def State.load64 (s : State) (pa v : Nat) : State := s.poke pa (leBytes v 8)
/-- R95, R96: an ASID table of one ASID, its five levels of tables for address 0, and an executable leaf of one code frame. -/
def State.loadTables (s : State) : State :=
  let b := tableFrame * 2 ^ 18
  let next (k : Nat) : Nat := 2 ^ 63 + 2 ^ 62 + b + 2 ^ 12 * k
  let s := (s.load64 b (b + 2 ^ 12 + 1)).load64 (b + 2 ^ 12) (next 2)
  let s := ((s.load64 (b + 2 ^ 13) (next 3)).load64 (b + 3 * 2 ^ 12) (next 4)).load64 (b + 4 * 2 ^ 12) (next 5)
  s.load64 (b + 5 * 2 ^ 12) (2 ^ 63 + 2 ^ 62 + 2 ^ 61 + 2 ^ 60 + 2 ^ 58 + b + 2 ^ 18)
/-- A number that no paddock has. -/
def State.newPdk (s : State) : Nat := (s.pdks.map (·.no)).foldl Nat.max 0 + 1
/-- A paddock with one image of one code frame, and a warp of 32 lanes at its first word, on the first core that holds no warp; the
warp is the one whose word issues next. -/
def State.loadContext (s : State) : State :=
  let p := s.newPdk
  let img : Image := { handle := 1, len := 2 ^ 18, n := 256, frames := [tableFrame + 1] }
  let q : Pdk := { no := p, regs := [(0x008, BitVec.ofNat 64 (tableFrame * 2 ^ 18))], images := [img], exframes := [tableFrame + 1] }
  let core := (s.warps.map fun w => w.core + 1).foldl Nat.max 0
  let all : Lanes := BitVec.allOnes 32
  let w : Warp := { id := s.nextId, pdk := p, image := 1, n := 256, core, exm := all, live := all, plive := all, pexm := all }
  { s.loadTables with pdks := s.pdks ++ [q], warps := s.warps ++ [w], issuing := some s.nextId, nextId := s.nextId + 1 }
/-- Where the word that issues next stands, if a warp has been chosen and its word can be fetched. -/
def State.issueAt (s : State) : Option Nat := s.issuing.bind fun wid => s.fetchAt (s.warp wid)
/-- The state with a word where the next fetch finds it: at the chosen warp's PC, or in a context put in for it. -/
def State.putWord (s : State) (x : IWord) : State :=
  let s := { s with agenda := [] }
  let s := if s.issueAt.isSome then s else s.loadContext
  match s.issueAt, s.issuing with
  | some a, some wid => (s.poke a (leBytes x.toNat 16)).updWarp wid fun w => { w with n := 256 }
  | _, _ => s

end Sys2Proof.Machine
end

