-- ==== Sys2Proof/Machine/Issue.lean ====
section
/-! DEFINITION. The slot scheduler (R40, R176, R203, R239, R244, R272, R286, R359 to R361, R383, R411): which word may issue, and which one
a slot issues; and the register writes that wait for a lock of the same cycle (R434). -/
namespace Sys2Proof.Machine
open Sys2Proof

/-! ## What stands at a warp's PC -/

/-- The word at a warp's PC: it cannot be fetched, the scanner does not admit it, or its OP and fields. -/
inductive Look where
  | fault
  | bad
  | word (op : Nat) (f : Fields)
  deriving DecidableEq, Repr, Inhabited

/-- The word that a warp would issue. -/
def State.look (s : State) (w : Warp) : Look :=
  match s.fetch w with
  | none => .fault
  | some x =>
    match decodeWord w.n x with
    | .error _ => .bad
    | .ok i => match i.opFields with | some (op, f) => .word op f | none => .bad
/-- DIST of a word, at least 1. -/
def Look.dist : Look → Nat
  | .word _ f => Nat.max f.sched.dist.toNat 1
  | _ => 1

/-! ## Eligibility -/

/-- R381, R106: the warp waits for a handler, or its handler runs. The words of an open region issue first (R203). -/
def State.warpHeld (s : State) (w : Warp) : Bool :=
  w.heldBy.isSome || (!w.inRegion && (s.ops.any (fun x => x.wid == w.id && x.held) || s.pending.any (·.wid == w.id)))
/-- What any word of a warp needs before its own conditions: a warp that is left, not held or stopped (R390: words of an open region
still issue), its launch started (R361), its selection unit restored (R305), its core not frozen. -/
def State.warpRuns (s : State) (w : Warp) : Bool :=
  !s.frozen w.core && !w.gone && !w.ended && (w.alive ||| w.held) != 0 && !s.warpHeld w && s.pdkRuns w.pdk &&
    (w.inRegion || (!w.stopped && !s.taskStopped w)) && (!w.timed || (s.launchRec w.launch).started) &&
    !((s.core w.core).selWait.any fun u => u.holder == some w.id) && !s.deferred.any (fun d => d.wid == w.id && !w.inRegion)
/-- R40, R195, R206, R413: the cycle from which a word may issue has come. -/
def State.wordDue (s : State) (w : Warp) (x : Look) : Bool :=
  (match w.last with | some t => decide (t + x.dist ≤ s.now w) | none => true) && decide (w.ready ≤ s.now w) &&
    (match w.atc with | some g => !w.timed || decide (g.toNat ≤ (s.taskc w).toNat) | none => true)
/-- R40: the flags of WAIT are zero, and that of SETF below 63, at the end of the previous cycle. -/
def Warp.flagsOk (w : Warp) (f : Fields) : Bool :=
  (List.range 12).all (fun k => !f.sched.wait.getLsbD k || mget w.pflags k == 0) &&
    (match f.flag with | some k => decide ((mget w.pflags k).toNat < 63) | none => true)

/-- R203: the words of a region that a HOLD opens name each flag no more often than it can still count, from its present value on (DESIGN
CHOICE, log 64: R203 does not say which moment's value counts). -/
def State.holdFlags (s : State) (w : Warp) (n : Nat) : Bool :=
  let named := (List.range n).filterMap fun k =>
    match s.look { w with pc := w.pc + BitVec.ofNat 64 (16 * (k + 1)) } with | .word _ g => g.flag | _ => none
  (List.range 12).all fun k => decide (w.flag k + (named.filter (· == k)).length ≤ 63)
/-- R203: no other warp of the slot has a region open. -/
def State.slotClosed (s : State) (w : Warp) : Bool :=
  !s.warps.any fun v => v.id != w.id && v.core == w.core && v.slot == w.slot && v.region.isSome
/-- R239: the copies of lanes in a core's queue. DESIGN CHOICE (log 64): a lane whose page is still walked, or waits for its first touch, takes an
entry too. -/
def State.copiesOn (s : State) (c : Nat) : Nat :=
  (s.ops.map fun x => match x.kind with
    | .copy _ => if x.before.core == c then (x.accs.filter fun a => a.stage != .done && a.stage != .gone).length else 0
    | _ => 0).foldl (· + ·) 0
/-- R244: no active lane has 16 sealed batches that have not completed. -/
def State.mayClose (s : State) (w : Warp) : Bool :=
  (lanesOf w.active).all fun i =>
    decide (((s.openBatches w.id i).filter fun m => batchUpTo (mget w.batch i).toNat m).length < 16)
/-- R272, R275: the warp's earlier arrival has been applied, and its phase has completed. -/
def State.mayArrive (s : State) (w : Warp) (nb : Bool) (g : Nat) : Bool :=
  let m := (w.members.filter (·.group == if nb then (s.boundGroup w g).getD 256 else g)).getLast?
  let last := if nb then m.bind fun x => alist x.nbarr g else m.bind (·.lastarr)
  !(s.ops.any fun x => x.wid == w.id && (match x.kind with | .arrive b h _ => b == nb && h == g | _ => false)) &&
    (last.isNone || last != (s.barrier? w nb g).map (·.phase))
/-- R286, R305: the selection unit is free for a warp, from the cycle after a release on. -/
def State.selFree (s : State) (w : Warp) : Bool :=
  let k := s.core w.core
  ((k.sel.holder.isNone && decide (k.selFreed ≤ s.wall)) || k.sel.holder == some w.id) && k.selWait.isEmpty
/-- R203: an f64 word would keep the next word of another warp's region from its float pipeline. -/
def State.f64Clash (s : State) (w : Warp) (op : Nat) (f : Fields) : Bool :=
  decide (0x40 ≤ op) && decide (op ≤ 0x43) && f.ty == .f64 && s.warps.any fun v =>
    v.id != w.id && v.core == w.core && v.slot == w.slot && v.inRegion &&
      (match s.look v, v.last with
       | .word o g, some t => decide (0x40 ≤ o) && decide (o ≤ 0x4C) && t + Nat.max g.sched.dist.toNat 1 == s.now v + 1
       | _, _ => false)
/-- What a word of an operation code needs beside its cycle and its flags, other than a QSBIND's turn. In deterministic mode a later word that
may touch the scratchpad stays behind an LD or ST whose lanes there wait for its check (R112, R117, log 37). -/
def State.opReady (s : State) (w : Warp) (op : Nat) (f : Fields) : Bool :=
  (w.reopen = 0 || s.slotClosed w) && !(decide (0x40 ≤ op) && decide (op ≤ 0x4C) && s.f64Blocked w) && !s.f64Clash w op f &&
    !(decide (0x70 ≤ op) && decide (op ≤ 0xBF) && s.padsHeld w) &&
    match op with
    | 0x09 => s.slotClosed w && s.holdFlags w (f.immVal.toNat % 64)
    | 0x80 | 0x81 | 0x82 | 0x83 => decide (s.copiesOn w.core + (lanesOf w.active).length ≤ 256)
    | 0x84 => s.mayClose w
    | 0x96 | 0x97 => s.mayArrive w false (f.immVal.toNat % 256)
    | 0x99 => f.var == 2 || s.mayArrive w true (f.immVal.toNat % 16)
    | 0xB0 => s.selFree w
    | 0xB8 | 0xB9 => !w.spans w.alive
    | 0xC0 => w.pend.isEmpty && s.ops.all (·.wid != w.id)
    | _ => true
/-- A word's conditions but for a QSBIND's turn. A word of an open region issues at its cycle (R203); only a QSBIND outside timed mode
still waits for the unit (R286, log 65). -/
def State.wordReady (s : State) (w : Warp) (x : Look) : Bool :=
  match x with
  | .word op f => if w.inRegion then op != 0xB0 || w.timed || s.selFree w else w.flagsOk f && s.opReady w op f
  | _ => true
/-- R286: a QSBIND of a lower slot, or a lower index of the slot, goes first. -/
def State.bindTurn (s : State) (w : Warp) (x : Look) : Bool :=
  match x with
  | .word 0xB0 _ => (w.inRegion && w.timed) || !s.warps.any fun v => v.core == w.core && decide (v.index < w.index) && s.warpRuns v &&
      (match s.look v with | .word 0xB0 g => s.wordDue v (.word 0xB0 g) && s.wordReady v (.word 0xB0 g) | _ => false)
  | _ => true
/-- R40: the next word of a warp may issue. -/
def State.eligible (s : State) (w : Warp) : Bool :=
  s.warpRuns w && (let x := s.look w; s.wordDue w x && s.wordReady w x && s.bindTurn w x)

/-! ## The slot's choice (R359, R361) -/

/-- R359: the order of eligible warps in a slot. -/
def Warp.ahead (a b : Warp) : Bool :=
  let starved (w : Warp) : Nat := if Config.starved ≤ w.waitcnt then w.waitcnt else 0
  if a.cls != b.cls then decide (a.cls < b.cls)
  else if starved a != starved b then decide (starved b < starved a)
  else if a.age != b.age then decide (a.age < b.age)
  else decide (a.index < b.index)
/-- The first of some warps. -/
def firstWarp (ws : List Warp) : Option Warp :=
  ws.foldl (fun r w => match r with | none => some w | some v => if w.ahead v then some w else some v) none
/-- A slot has issued in this cycle. -/
def State.slotUsed (s : State) (c slot : Nat) : Bool := alist (s.core c).issued slot == some (s.wall + 1)
/-- R361: the warps of a slot whose timed word is due, by WARPID. -/
def State.timedWords (s : State) (c slot : Nat) : List Warp :=
  sortBy Warp.index ((s.inSlot c slot).filter fun w => w.timed && !w.inRegion && s.warpRuns w && s.wordDue w (s.look w))
/-- What a slot does next in a cycle: a warp traps TIMING, a warp issues, or nothing. -/
inductive Pick where
  | trap (w : Warp)
  | issue (w : Warp)
  | idle
  deriving DecidableEq, Repr, Inhabited
/-- R359, R361: what a slot does next. -/
def State.pick (s : State) (c slot : Nat) : Pick :=
  if s.frozen c then .idle
  else if s.slotUsed c slot then (match s.timedWords c slot with | w :: _ => .trap w | [] => .idle)
  else match (s.inSlot c slot).find? fun w => w.inRegion && s.eligible w with
    | some w => .issue w
    | none =>
      match s.timedWords c slot with
      | w :: _ => if s.eligible w then .issue w else .trap w
      | [] => match firstWarp ((s.inSlot c slot).filter s.eligible) with | some w => .issue w | none => .idle
/-- R359: a warp that could have issued when its slot chose another. -/
def State.pass (s : State) (w v : Warp) : Warp :=
  if v.id != w.id && v.core == w.core && v.slot == w.slot && s.eligible v then { v with passed := true } else v
/-- `SLOT_ISSUE` (R359): the slot chooses a warp, whose word issues next. -/
def execSlotIssue (core slot : Nat) (s : State) : Out :=
  .next (match s.pick core slot with
    | .issue w => { s with issuing := some w.id, warps := s.warps.map (s.pass w) }
    | .trap w => s.trapAt w.id w 0x19
    | .idle => s)

/-! ## Timed starts (R361) -/

/-- R361: a launch's first start: every warp issues its first word in this cycle, alone on its slot. A later start (R423) binds none of them. -/
def State.startsNow (s : State) (l : Launch) : Bool :=
  let t := s.startLaunch l
  l.startAt != l.desc.tstart || t.warps.all fun w => w.launch != l.id ||
    ((match t.look w with | .word .. => true | _ => false) && t.eligible w && !t.slotUsed w.core w.slot &&
      (t.inSlot w.core w.slot).all fun v => v.id == w.id || v.launch != l.id)
/-- R422: a launch starts; the warps of a task that has ended take TIMING. -/
def State.beginLaunch (s : State) (l : Launch) : State :=
  let s := s.startLaunch l
  if s.rink.aborted.contains l.desc.tstart then s.trapTask l.desc.tstart else s
/-- `TIMED_LAUNCH_START` (R361): the warps of a timed launch that is resident whole issue from this cycle on. -/
def execTimedLaunchStart (s : State) : Out :=
  .next ((s.launches.filter s.startDue).foldl (fun (t : State) l =>
    if l.startAt.toNat == t.rink.rinkc.toNat && (l.clusters.all fun c => c.state == .resident || c.state == .retired) && t.startsNow l then t.beginLaunch l
    else (t.missStart l).sweep) s)

/-! ## Register writes (R434) -/

/-- A word is LOCKIF `.lock`. -/
def Look.locks : Look → Bool
  | .word 0xC8 f => f.var == 0
  | _ => false
/-- R434: a LOCKIF `.lock` issues in the present cycle: a write of the host that comes in it waits for it. -/
def State.lockSoon (s : State) : Bool :=
  s.warps.any fun w => w.pdk == 0 && (s.look w).locks &&
    (s.issuing == some w.id || match s.pick w.core w.slot with | .issue v => v.id == w.id | _ => false)
/-- R434: a host write to a register page is done, after a LOCKIF `.lock` of the same cycle. -/
def State.pageWrite (s : State) (own : Instr) (at_ : PageAt) (k : State → State) : State :=
  if s.lockSoon then s.hold own else (s.unhold own).hostPage at_.via at_.page k
/-- `REGISTER_WRITE` (R8, R434, R447). -/
def execRegisterWrite (at_ : PageAt) (off : Nat) (val : DWord) (s : State) : Out :=
  .next (s.pageWrite (.registerWrite at_ off val) at_ fun s => s.putReg at_.page off val)
/-- `NQCTL_WRITE` (R434, R451). -/
def execNqctlWrite (at_ : PageAt) (q : Nat) (val : DWord) (s : State) : Out :=
  .next (if 8 ≤ q then s else s.pageWrite (.nqctlWrite at_ q val) at_ fun s => s.putNqctl at_.page q val)

end Sys2Proof.Machine
end

