-- ==== Sys2Proof/Machine/Sfu.lean ====
section
/-! DEFINITION. The special functions (R185, R186), correctly rounded: the exact value lies between two rationals, and once both
round to one code that code is the result. The precision rises until they do (log 13). -/
namespace Sys2Proof.Machine
open Sys2Proof

/-! ## Enclosures in fixed point: an integer `v` stands for v / 2^P. An enclosure is a lower and an upper bound. -/

/-- The sum of y^(2k+1) / ((2k+1) d^(2k)), rounded down term by term: `t` is the running power, `q` what it is multiplied by. -/
def atanhSum (P q : Nat) (alt : Bool) : Nat → Nat → Nat → Int
  | 0, _, _ => 0
  | n + 1, k, t =>
    let term : Int := (t / (2 * k + 1) : Nat)
    (if alt && k % 2 == 1 then -term else term) + atanhSum P q alt n (k + 1) (t * q / 2 ^ P)

/-- ln 2 = 2 artanh(1/3). -/
def ln2 (P : Nat) : Nat × Nat :=
  let v := 2 * (atanhSum P (2 ^ P / 9) false (P / 3 + 8) 0 (2 ^ P / 3)).toNat
  (v - 2 * P, v + 2 * P + 64)

/-- arctan(1/d), within P units. -/
def atanInv (P d : Nat) : Int := atanhSum P (2 ^ P / (d * d)) true (P / 4 + 8) 0 (2 ^ P / d)

/-- π/2 = 8 arctan(1/5) - 2 arctan(1/239), with 32 bits to spare. -/
def halfPi (P : Nat) : Nat × Nat :=
  let Q := P + 32
  let v := (8 * atanInv Q 5 - 2 * atanInv Q 239).toNat / 2 ^ 32
  (v - 1, v + 2)

/-- The sum of r^k / k!, rounded down term by term. -/
def expSum (P r : Nat) : Nat → Nat → Nat → Nat
  | 0, _, _ => 0
  | n + 1, k, t => t + expSum P r n (k + 1) (t * r / 2 ^ P / (k + 1))

/-- e^r for r from 0 to 1, from bounds of r. -/
def expEnc (P lo hi : Nat) : Nat × Nat :=
  let n := P / 3 + 16
  (expSum P lo n 0 (2 ^ P), expSum P hi n 0 (2 ^ P) + 2 * n + 8)

/-- The alternating sum of r^(2k+j) / (2k+j)! from its first term `t` on, within 2 n units. -/
def trigSum (P rr j : Nat) : Nat → Nat → Nat → Int
  | 0, _, _ => 0
  | n + 1, k, t =>
    (if k % 2 = 0 then (t : Int) else -(t : Int)) +
      trigSum P rr j n (k + 1) (t * rr / 2 ^ P / ((2 * k + j + 1) * (2 * k + j + 2)))

/-- sin r or cos r for r from 0 to π/2, from bounds of r. -/
def trigEnc (P : Nat) (cos : Bool) (lo hi : Nat) : Int × Int :=
  let n := P / 6 + 16
  let r := lo
  let v := if cos then trigSum P (r * r / 2 ^ P) 0 n 0 (2 ^ P) else trigSum P (r * r / 2 ^ P) 1 n 0 r
  let err : Int := (hi - lo + 4 * n + 8 : Nat)
  (v - err, v + err)

/-- The fixed-point value of m · 2^e, rounded down. -/
def fixedOf (P m : Nat) (e : Int) : Nat :=
  if 0 ≤ e + P then m * 2 ^ (e + P).toNat else m / 2 ^ (-(e + P)).toNat

/-- The first code on which both bounds agree, at rising precision; the lower one of the last where they never do (log 13). -/
def agree (g : Nat → Nat × Nat) : List Nat → Nat
  | [] => 0
  | [P] => (g P).1
  | P :: r => let (a, b) := g P; if a = b then a else agree g r

/-- The precisions tried. -/
def precisions : List Nat := [96, 192, 384, 768, 1536]

/-- The quotient of two positive integers times 2^e, rounded (R132: RNE). -/
def Fmt.roundQuot (F : Fmt) (neg : Bool) (a b : Nat) (e : Int) : Nat :=
  let (q, k, st) := quot F.work a e b 0
  F.round 0 neg q k st

/-- Bounds of a signed value v / 2^P, rounded. -/
def Fmt.roundEnc (F : Fmt) (P : Nat) (x : Int × Int) : Nat × Nat :=
  (F.roundInt 0 false x.1 (-(P : Int)), F.roundInt 0 false x.2 (-(P : Int)))

/-! ## The functions of finite, non-zero arguments m · 2^e -/

/-- 1/√(m · 2^e). -/
def Fmt.rsqFin (F : Fmt) (m : Nat) (e : Int) : Nat :=
  let K := 2 * F.work + bitLen m
  let K := if (e + K) % 2 = 0 then K else K + 1
  let r := isqrt (2 ^ K / m)
  F.round 0 false r (-(K + e) / 2) (r * r * m != 2 ^ K)

/-- 2^x for x = ± m · 2^e. Beyond 2^11 the result overflows, or rounds to +0. -/
def Fmt.ex2Fin (F : Fmt) (neg : Bool) (m : Nat) (e : Int) : Nat :=
  if 12 ≤ e + bitLen m then F.round 0 false 1 (if neg then -4096 else 4096) false
  else if 0 ≤ e ∨ m % 2 ^ (-e).toNat = 0 then
    F.round 0 false 1 (signInt neg (if 0 ≤ e then m * 2 ^ e.toNat else m / 2 ^ (-e).toNat)) false
  else
    agree (fun P =>
      let v := signInt neg (fixedOf P m e)
      let n := (if neg then v - 1 else v) / (2 ^ P : Nat)      -- the integer below x
      let lo := ((if neg then v - 1 else v) - n * (2 ^ P : Nat)).toNat
      let (a, b) := ln2 P
      let (p, q) := expEnc P (lo * a / 2 ^ P) ((lo + 1) * b / 2 ^ P + 1)
      (F.round 0 false p (n - P) false, F.round 0 false q (n - P) false)) precisions

/-- log2 (m · 2^e). -/
def Fmt.lg2Fin (F : Fmt) (m : Nat) (e : Int) : Nat :=
  let L := bitLen m
  let E := e + L - 1
  if m = 2 ^ (L - 1) then F.roundInt 0 false E 0
  else
    agree (fun P =>
      -- ln of m / 2^(L-1) as 2 artanh((m - c) / (m + c))
      let c := 2 ^ (L - 1)
      let y := 2 ^ P * (m - c) / (m + c)
      let n := P / 3 + 8
      let v := 2 * (atanhSum P (y * y / 2 ^ P) false n 0 y).toNat
      let (a, b) := ln2 P
      let lo : Int := ((v * 2 ^ P / b : Nat) : Int)
      let hi : Int := (((v + 8 * n + 16) * 2 ^ P / a + 1 : Nat) : Int)
      F.roundEnc P (lo + E * (2 ^ P : Nat), hi + E * (2 ^ P : Nat))) precisions

/-- sin or cos of ± m · 2^e: the argument less whole quarter turns (R185: an exact reduction). -/
def Fmt.trigFin (F : Fmt) (cos neg : Bool) (m : Nat) (e : Int) : Nat :=
  agree (fun P0 =>
    let P := P0 + (-(e + bitLen m)).toNat
    -- π/2 to as many more bits as the argument has before the point
    let X := (e + bitLen m).toNat + 8
    let (a, b) := halfPi (P + X)
    let x := fixedOf (P + X) m e
    let k := x / a
    let lo := (x - k * b) / 2 ^ X
    let hi := (x + 1 - k * a) / 2 ^ X + 1
    let lo := if x < k * b then 0 else lo
    let quarter := if cos then k + 1 else k
    let (p, q) := trigEnc P (quarter % 2 == 1) lo hi
    let minus := (quarter / 2 % 2 == 1) != (neg && !cos)
    F.roundEnc P (if minus then (-q, -p) else (p, q))) precisions

/-- e^(-x) for x = m · 2^e below 2^10: f · 2^(-P-k) with bounds of f. -/
def expNeg (P m : Nat) (e : Int) : Nat × Nat × Nat :=
  let (a, b) := ln2 (P + 12)
  let x := fixedOf (P + 12) m e
  let k := x / a + 1
  let lo := (k * a - Nat.min (k * a) (x + 1)) / 2 ^ 12
  let hi := (k * b - x) / 2 ^ 12 + 1
  let (p, q) := expEnc P lo hi
  (k, p, q)

/-- tanh of ± m · 2^e, as (1 - E) / (1 + E) with E = e^(-2|x|). -/
def Fmt.tanhFin (F : Fmt) (neg : Bool) (m : Nat) (e : Int) : Nat :=
  if 8 ≤ e + bitLen m then F.round 0 neg (2 ^ 200 - 1) (-200) false
  else
    agree (fun P0 =>
      let P := P0 + (-(e + bitLen m)).toNat
      let (k, p, q) := expNeg P m (e + 1)
      let one := 2 ^ (P + k)
      (F.roundQuot neg (one - Nat.min one q) (one + q) 0, F.roundQuot neg (one - Nat.min one p) (one + p) 0)) precisions

/-- 1/(1 + e^-x) of ± m · 2^e: 1/(1 + E) or E/(1 + E) with E = e^(-|x|). -/
def Fmt.sigmFin (F : Fmt) (neg : Bool) (m : Nat) (e : Int) : Nat :=
  if 10 ≤ e + bitLen m then (if neg then F.round 0 false 1 (-4096) false else F.round 0 false (2 ^ 200 - 1) (-200) false)
  else
    agree (fun P =>
      let (k, p, q) := expNeg P m e
      let one := 2 ^ (P + k)
      if neg then (F.roundQuot false p (one + p) 0, F.roundQuot false q (one + q) 0)
      else (F.roundQuot false one (one + q) 0, F.roundQuot false one (one + p) 0)) precisions

/-! ## The whole functions, with the special values of R186 -/

/-- A function of a code: a NaN is quietened (R136); `inf` and `zero` give the special values by sign. -/
def Fmt.special (F : Fmt) (inf zero : Bool → Nat) (g : Bool → Nat → Int → Nat) (x : Nat) : Nat :=
  match F.val x with
  | .nan => F.quiet x
  | .inf n => inf n
  | .fin n m e => if m = 0 then zero n else g n m e

/-- The code of +1, and with an exponent less of a half. -/
def Fmt.pow2 (F : Fmt) (e : Int) : Nat := F.round 0 false 1 e false

/-- RCP. -/
def Fmt.rcp (F : Fmt) : Nat → Nat :=
  F.special (fun n => F.signed n 0) (fun n => F.signed n F.infCode) fun n m e => F.roundQuot n 1 m (-e)
/-- RSQ. -/
def Fmt.rsq (F : Fmt) : Nat → Nat :=
  F.special (fun n => if n then F.cnan else 0) (fun n => F.signed n F.infCode) fun n m e => if n then F.cnan else F.rsqFin m e
/-- EX2. -/
def Fmt.ex2 (F : Fmt) : Nat → Nat :=
  F.special (fun n => if n then 0 else F.infCode) (fun _ => F.pow2 0) F.ex2Fin
/-- LG2. -/
def Fmt.lg2 (F : Fmt) : Nat → Nat :=
  F.special (fun n => if n then F.cnan else F.infCode) (fun _ => F.signed true F.infCode) fun n m e =>
    if n then F.cnan else F.lg2Fin m e
/-- FSIN. -/
def Fmt.fsin (F : Fmt) : Nat → Nat := F.special (fun _ => F.cnan) (fun n => F.signed n 0) (F.trigFin false)
/-- FCOS. -/
def Fmt.fcos (F : Fmt) : Nat → Nat := F.special (fun _ => F.cnan) (fun _ => F.pow2 0) (F.trigFin true)
/-- TANH. -/
def Fmt.tanh (F : Fmt) : Nat → Nat := F.special (fun n => F.signed n (F.pow2 0)) (fun n => F.signed n 0) F.tanhFin
/-- SIGM. -/
def Fmt.sigm (F : Fmt) : Nat → Nat :=
  F.special (fun n => if n then 0 else F.pow2 0) (fun _ => F.pow2 (-1)) F.sigmFin

/-- A special function, element by element (R185). -/
def sfuOp (f : Fields) (s : State) (g : Fmt → Nat → Nat) : Out :=
  laneOp s f .s fun w i => mapElems f.ty (g (fmtOf f.ty)) (w.opA f.ty f i)

/-- R185: RCP. -/
def execRcp (f : Fields) (s : State) : Out := sfuOp f s Fmt.rcp
/-- R185: RSQ. -/
def execRsq (f : Fields) (s : State) : Out := sfuOp f s Fmt.rsq
/-- R185: EX2. -/
def execEx2 (f : Fields) (s : State) : Out := sfuOp f s Fmt.ex2
/-- R185: LG2. -/
def execLg2 (f : Fields) (s : State) : Out := sfuOp f s Fmt.lg2
/-- R185: FSIN. -/
def execFsin (f : Fields) (s : State) : Out := sfuOp f s Fmt.fsin
/-- R185: FCOS. -/
def execFcos (f : Fields) (s : State) : Out := sfuOp f s Fmt.fcos
/-- R185: TANH. -/
def execTanh (f : Fields) (s : State) : Out := sfuOp f s Fmt.tanh
/-- R185: SIGM. -/
def execSigm (f : Fields) (s : State) : Out := sfuOp f s Fmt.sigm

end Sys2Proof.Machine
end

