-- ==== Sys2Proof/Machine/Dispatch.lean ====
section
/-! DEFINITION. The dispatch: one arm for each constructor of `Instr`, in the order of spec/opcode_table.json. -/
namespace Sys2Proof.Machine
open Sys2Proof

def exec (i : Instr) (s : State) : Host.Outcome State Fault Refusal :=
  match i with
  | .nop f => Sys2Proof.Machine.execNop f s
  | .prep f => Sys2Proof.Machine.execPrep f s
  | .prepv f => Sys2Proof.Machine.execPrepv f s
  | .xfer f => Sys2Proof.Machine.execXfer f s
  | .xfers f => Sys2Proof.Machine.execXfers f s
  | .join f => Sys2Proof.Machine.execJoin f s
  | .call f => Sys2Proof.Machine.execCall f s
  | .ret f => Sys2Proof.Machine.execRet f s
  | .loop f => Sys2Proof.Machine.execLoop f s
  | .hold f => Sys2Proof.Machine.execHold f s
  | .icinv f => Sys2Proof.Machine.execIcinv f s
  | .sleep f => Sys2Proof.Machine.execSleep f s
  | .exit f => Sys2Proof.Machine.execExit f s
  | .trap f => Sys2Proof.Machine.execTrap f s
  | .iadd f => Sys2Proof.Machine.execIadd f s
  | .isub f => Sys2Proof.Machine.execIsub f s
  | .iaddc f => Sys2Proof.Machine.execIaddc f s
  | .isubb f => Sys2Proof.Machine.execIsubb f s
  | .imul f => Sys2Proof.Machine.execImul f s
  | .imulh f => Sys2Proof.Machine.execImulh f s
  | .imad f => Sys2Proof.Machine.execImad f s
  | .imadw f => Sys2Proof.Machine.execImadw f s
  | .ineg f => Sys2Proof.Machine.execIneg f s
  | .iabs f => Sys2Proof.Machine.execIabs f s
  | .imin f => Sys2Proof.Machine.execImin f s
  | .imax f => Sys2Proof.Machine.execImax f s
  | .iclamp f => Sys2Proof.Machine.execIclamp f s
  | .icmp f => Sys2Proof.Machine.execIcmp f s
  | .iset f => Sys2Proof.Machine.execIset f s
  | .sel f => Sys2Proof.Machine.execSel f s
  | .shl f => Sys2Proof.Machine.execShl f s
  | .shr f => Sys2Proof.Machine.execShr f s
  | .sar f => Sys2Proof.Machine.execSar f s
  | .rotl f => Sys2Proof.Machine.execRotl f s
  | .rotr f => Sys2Proof.Machine.execRotr f s
  | .andOp f => Sys2Proof.Machine.execAndOp f s
  | .orOp f => Sys2Proof.Machine.execOrOp f s
  | .xorOp f => Sys2Proof.Machine.execXorOp f s
  | .andn f => Sys2Proof.Machine.execAndn f s
  | .logt f => Sys2Proof.Machine.execLogt f s
  | .popc f => Sys2Proof.Machine.execPopc f s
  | .clz f => Sys2Proof.Machine.execClz f s
  | .fnsb f => Sys2Proof.Machine.execFnsb f s
  | .brev f => Sys2Proof.Machine.execBrev f s
  | .bfx f => Sys2Proof.Machine.execBfx f s
  | .bfi f => Sys2Proof.Machine.execBfi f s
  | .bperm f => Sys2Proof.Machine.execBperm f s
  | .mov f => Sys2Proof.Machine.execMov f s
  | .movi f => Sys2Proof.Machine.execMovi f s
  | .movx f => Sys2Proof.Machine.execMovx f s
  | .movxw f => Sys2Proof.Machine.execMovxw f s
  | .movs f => Sys2Proof.Machine.execMovs f s
  | .movsw f => Sys2Proof.Machine.execMovsw f s
  | .cvt f => Sys2Proof.Machine.execCvt f s
  | .pack f => Sys2Proof.Machine.execPack f s
  | .unpk f => Sys2Proof.Machine.execUnpk f s
  | .fadd f => Sys2Proof.Machine.execFadd f s
  | .fsub f => Sys2Proof.Machine.execFsub f s
  | .fmul f => Sys2Proof.Machine.execFmul f s
  | .ffma f => Sys2Proof.Machine.execFfma f s
  | .fmin f => Sys2Proof.Machine.execFmin f s
  | .fmax f => Sys2Proof.Machine.execFmax f s
  | .fminp f => Sys2Proof.Machine.execFminp f s
  | .fmaxp f => Sys2Proof.Machine.execFmaxp f s
  | .fcmp f => Sys2Proof.Machine.execFcmp f s
  | .fclass f => Sys2Proof.Machine.execFclass f s
  | .frnd f => Sys2Proof.Machine.execFrnd f s
  | .fscale f => Sys2Proof.Machine.execFscale f s
  | .fexp f => Sys2Proof.Machine.execFexp f s
  | .fdiv f => Sys2Proof.Machine.execFdiv f s
  | .fsqrt f => Sys2Proof.Machine.execFsqrt f s
  | .rcp f => Sys2Proof.Machine.execRcp f s
  | .rsq f => Sys2Proof.Machine.execRsq f s
  | .ex2 f => Sys2Proof.Machine.execEx2 f s
  | .lg2 f => Sys2Proof.Machine.execLg2 f s
  | .fsin f => Sys2Proof.Machine.execFsin f s
  | .fcos f => Sys2Proof.Machine.execFcos f s
  | .tanh f => Sys2Proof.Machine.execTanh f s
  | .sigm f => Sys2Proof.Machine.execSigm f s
  | .dot4 f => Sys2Proof.Machine.execDot4 f s
  | .dot8 f => Sys2Proof.Machine.execDot8 f s
  | .dotf8 f => Sys2Proof.Machine.execDotf8 f s
  | .dotf4 f => Sys2Proof.Machine.execDotf4 f s
  | .dot2h f => Sys2Proof.Machine.execDot2h f s
  | .shfl f => Sys2Proof.Machine.execShfl f s
  | .shflx f => Sys2Proof.Machine.execShflx f s
  | .shflu f => Sys2Proof.Machine.execShflu f s
  | .shfld f => Sys2Proof.Machine.execShfld f s
  | .bcast f => Sys2Proof.Machine.execBcast f s
  | .vote f => Sys2Proof.Machine.execVote f s
  | .ballot f => Sys2Proof.Machine.execBallot f s
  | .matchOp f => Sys2Proof.Machine.execMatchOp f s
  | .redi f => Sys2Proof.Machine.execRedi f s
  | .redf f => Sys2Proof.Machine.execRedf f s
  | .redm f => Sys2Proof.Machine.execRedm f s
  | .scan f => Sys2Proof.Machine.execScan f s
  | .compact f => Sys2Proof.Machine.execCompact f s
  | .ld f => Sys2Proof.Machine.execLd f s
  | .st f => Sys2Proof.Machine.execSt f s
  | .ldro f => Sys2Proof.Machine.execLdro f s
  | .pref f => Sys2Proof.Machine.execPref f s
  | .tlock f => Sys2Proof.Machine.execTlock f s
  | .tfree f => Sys2Proof.Machine.execTfree f s
  | .lds f => Sys2Proof.Machine.execLds f s
  | .sts f => Sys2Proof.Machine.execSts f s
  | .sptag f => Sys2Proof.Machine.execSptag f s
  | .spset f => Sys2Proof.Machine.execSpset f s
  | .spclr f => Sys2Proof.Machine.execSpclr f s
  | .cpy f => Sys2Proof.Machine.execCpy f s
  | .cpym f => Sys2Proof.Machine.execCpym f s
  | .cpyg f => Sys2Proof.Machine.execCpyg f s
  | .cscat f => Sys2Proof.Machine.execCscat f s
  | .cseal f => Sys2Proof.Machine.execCseal f s
  | .cwait f => Sys2Proof.Machine.execCwait f s
  | .rng f => Sys2Proof.Machine.execRng f s
  | .trnode f => Sys2Proof.Machine.execTrnode f s
  | .pgspec f => Sys2Proof.Machine.execPgspec f s
  | .pgcmt f => Sys2Proof.Machine.execPgcmt f s
  | .pgdrop f => Sys2Proof.Machine.execPgdrop f s
  | .atom f => Sys2Proof.Machine.execAtom f s
  | .atoms f => Sys2Proof.Machine.execAtoms f s
  | .cas f => Sys2Proof.Machine.execCas f s
  | .cass f => Sys2Proof.Machine.execCass f s
  | .red f => Sys2Proof.Machine.execRed f s
  | .fence f => Sys2Proof.Machine.execFence f s
  | .bar f => Sys2Proof.Machine.execBar f s
  | .bara f => Sys2Proof.Machine.execBara f s
  | .barw f => Sys2Proof.Machine.execBarw f s
  | .nbar f => Sys2Proof.Machine.execNbar f s
  | .cwt f => Sys2Proof.Machine.execCwt f s
  | .bitset f => Sys2Proof.Machine.execBitset f s
  | .bitwait f => Sys2Proof.Machine.execBitwait f s
  | .gjoin f => Sys2Proof.Machine.execGjoin f s
  | .gleave f => Sys2Proof.Machine.execGleave f s
  | .mres f => Sys2Proof.Machine.execMres f s
  | .mrel f => Sys2Proof.Machine.execMrel f s
  | .mldb f => Sys2Proof.Machine.execMldb f s
  | .mlda f => Sys2Proof.Machine.execMlda f s
  | .mma f => Sys2Proof.Machine.execMma f s
  | .mspr f => Sys2Proof.Machine.execMspr f s
  | .mzero f => Sys2Proof.Machine.execMzero f s
  | .mmov f => Sys2Proof.Machine.execMmov f s
  | .mput f => Sys2Proof.Machine.execMput f s
  | .mstat f => Sys2Proof.Machine.execMstat f s
  | .qsbind f => Sys2Proof.Machine.execQsbind f s
  | .qsrank f => Sys2Proof.Machine.execQsrank f s
  | .qsstep f => Sys2Proof.Machine.execQsstep f s
  | .qsrun f => Sys2Proof.Machine.execQsrun f s
  | .qsmask f => Sys2Proof.Machine.execQsmask f s
  | .qsres f => Sys2Proof.Machine.execQsres f s
  | .keyf f => Sys2Proof.Machine.execKeyf f s
  | .keyr f => Sys2Proof.Machine.execKeyr f s
  | .tsnd f => Sys2Proof.Machine.execTsnd f s
  | .trcv f => Sys2Proof.Machine.execTrcv f s
  | .atc f => Sys2Proof.Machine.execAtc f s
  | .drft f => Sys2Proof.Machine.execDrft f s
  | .tret f => Sys2Proof.Machine.execTret f s
  | .pgmap f => Sys2Proof.Machine.execPgmap f s
  | .pgunmap f => Sys2Proof.Machine.execPgunmap f s
  | .eject f => Sys2Proof.Machine.execEject f s
  | .scrub f => Sys2Proof.Machine.execScrub f s
  | .mext f => Sys2Proof.Machine.execMext f s
  | .shab f => Sys2Proof.Machine.execShab f s
  | .edsign f => Sys2Proof.Machine.execEdsign f s
  | .lockif f => Sys2Proof.Machine.execLockif f s
  | .fixedResultLand => Sys2Proof.Machine.execFixedResultLand s
  | .waitFlagCountDown => Sys2Proof.Machine.execWaitFlagCountDown s
  | .divideUnitAccept => Sys2Proof.Machine.execDivideUnitAccept s
  | .divideComplete => Sys2Proof.Machine.execDivideComplete s
  | .targetFetchReady => Sys2Proof.Machine.execTargetFetchReady s
  | .holdOverrun => Sys2Proof.Machine.execHoldOverrun s
  | .holdDeferredTrap => Sys2Proof.Machine.execHoldDeferredTrap s
  | .slotIssue core slot => Sys2Proof.Machine.execSlotIssue core slot s
  | .warpRetire => Sys2Proof.Machine.execWarpRetire s
  | .scratchAccessCycle => Sys2Proof.Machine.execScratchAccessCycle s
  | .coreFreezeEnd => Sys2Proof.Machine.execCoreFreezeEnd s
  | .pageWalkComplete op lanes => Sys2Proof.Machine.execPageWalkComplete op lanes s
  | .tlbLeaseExpire => Sys2Proof.Machine.execTlbLeaseExpire s
  | .unmapComplete => Sys2Proof.Machine.execUnmapComplete s
  | .parkedRecordWrite => Sys2Proof.Machine.execParkedRecordWrite s
  | .handlerStart => Sys2Proof.Machine.execHandlerStart s
  | .handlerFail => Sys2Proof.Machine.execHandlerFail s
  | .faultReplay => Sys2Proof.Machine.execFaultReplay s
  | .privateSlotRetry => Sys2Proof.Machine.execPrivateSlotRetry s
  | .portStamp op lanes => Sys2Proof.Machine.execPortStamp op lanes s
  | .frontierBroadcast die => Sys2Proof.Machine.execFrontierBroadcast die s
  | .homeApply op lane => Sys2Proof.Machine.execHomeApply op lane s
  | .loadComplete op lanes => Sys2Proof.Machine.execLoadComplete op lanes s
  | .copySourceReadDone op => Sys2Proof.Machine.execCopySourceReadDone op s
  | .copyDestWrite op lane off count => Sys2Proof.Machine.execCopyDestWrite op lane off count s
  | .batchComplete => Sys2Proof.Machine.execBatchComplete s
  | .barrierArrivalApply op => Sys2Proof.Machine.execBarrierArrivalApply op s
  | .barrierNotify op => Sys2Proof.Machine.execBarrierNotify op s
  | .cwtPeriodicEval => Sys2Proof.Machine.execCwtPeriodicEval s
  | .matrixCommandStart => Sys2Proof.Machine.execMatrixCommandStart s
  | .matrixCommandComplete => Sys2Proof.Machine.execMatrixCommandComplete s
  | .matrixStatusUpdate cmd => Sys2Proof.Machine.execMatrixStatusUpdate cmd s
  | .selectCommandStart => Sys2Proof.Machine.execSelectCommandStart s
  | .selectCommandComplete => Sys2Proof.Machine.execSelectCommandComplete s
  | .pageOpApply op frame => Sys2Proof.Machine.execPageOpApply op frame s
  | .shareRecompute wid => Sys2Proof.Machine.execShareRecompute wid s
  | .quantumExpire => Sys2Proof.Machine.execQuantumExpire s
  | .preemptRequest p lid clid => Sys2Proof.Machine.execPreemptRequest p lid clid s
  | .coreSeal => Sys2Proof.Machine.execCoreSeal s
  | .clusterSave => Sys2Proof.Machine.execClusterSave s
  | .clusterRestore p idx => Sys2Proof.Machine.execClusterRestore p idx s
  | .clusterPlace p => Sys2Proof.Machine.execClusterPlace p s
  | .yardFormTimeout => Sys2Proof.Machine.execYardFormTimeout s
  | .timedLaunchStart => Sys2Proof.Machine.execTimedLaunchStart s
  | .doorbellWrite p seq => Sys2Proof.Machine.execDoorbellWrite p seq s
  | .ringEntryRead p => Sys2Proof.Machine.execRingEntryRead p s
  | .completionRecordWrite p => Sys2Proof.Machine.execCompletionRecordWrite p s
  | .crheadWrite p seq => Sys2Proof.Machine.execCrheadWrite p seq s
  | .registerWrite page off val => Sys2Proof.Machine.execRegisterWrite page off val s
  | .launch p seq payload => Sys2Proof.Machine.execLaunch p seq payload s
  | .yardpost p seq payload => Sys2Proof.Machine.execYardpost p seq payload s
  | .rekey p seq payload => Sys2Proof.Machine.execRekey p seq payload s
  | .pdcreate p seq payload => Sys2Proof.Machine.execPdcreate p seq payload s
  | .pddestroy p seq payload => Sys2Proof.Machine.execPddestroy p seq payload s
  | .pdbudget p seq payload => Sys2Proof.Machine.execPdbudget p seq payload s
  | .yardcreate p seq payload => Sys2Proof.Machine.execYardcreate p seq payload s
  | .yarddestroy p seq payload => Sys2Proof.Machine.execYarddestroy p seq payload s
  | .tmplset p seq payload => Sys2Proof.Machine.execTmplset p seq payload s
  | .shgrant p seq payload => Sys2Proof.Machine.execShgrant p seq payload s
  | .presume p seq payload => Sys2Proof.Machine.execPresume p seq payload s
  | .preempt p seq payload => Sys2Proof.Machine.execPreempt p seq payload s
  | .cresume p seq payload => Sys2Proof.Machine.execCresume p seq payload s
  | .xmap p seq payload => Sys2Proof.Machine.execXmap p seq payload s
  | .xmapLeaseDrained => Sys2Proof.Machine.execXmapLeaseDrained s
  | .xunmap p seq payload => Sys2Proof.Machine.execXunmap p seq payload s
  | .rkform p seq payload => Sys2Proof.Machine.execRkform p seq payload s
  | .rinkStartFlit port fails => Sys2Proof.Machine.execRinkStart port fails s
  | .htest p seq payload => Sys2Proof.Machine.execHtest p seq payload s
  | .htestComplete p report => Sys2Proof.Machine.execHtestComplete p report s
  | .scrubComplete => Sys2Proof.Machine.execScrubComplete s
  | .bgzeroLine p line => Sys2Proof.Machine.execBgzeroLine p line s
  | .bgzeroPassEnd => Sys2Proof.Machine.execBgzeroPassEnd s
  | .getVersion => Sys2Proof.Machine.execGetVersion s
  | .getCapabilities ver ok => Sys2Proof.Machine.execGetCapabilities ver ok s
  | .negotiateAlgorithms ver ok => Sys2Proof.Machine.execNegotiateAlgorithms ver ok s
  | .getCertificate ver slot => Sys2Proof.Machine.execGetCertificate ver slot s
  | .challenge ver slot => Sys2Proof.Machine.execChallenge ver slot s
  | .getMeasurements ver block => Sys2Proof.Machine.execGetMeasurements ver block s
  | .keyExchange ver iface => Sys2Proof.Machine.execKeyExchange ver iface s
  | .finish ver session => Sys2Proof.Machine.execFinish ver session s
  | .keyUpdate ver session => Sys2Proof.Machine.execKeyUpdate ver session s
  | .spdmDecryptFail session => Sys2Proof.Machine.execSpdmDecryptFail session s
  | .lockInterfaceRequest session => Sys2Proof.Machine.execLockInterfaceRequest session s
  | .startInterfaceRequest session => Sys2Proof.Machine.execStartInterfaceRequest session s
  | .stopInterfaceRequest session => Sys2Proof.Machine.execStopInterfaceRequest session s
  | .hostMemoryWrite via addr bytes => Sys2Proof.Machine.execHostMemoryWrite via addr bytes s
  | .hostMemoryRead via addr len => Sys2Proof.Machine.execHostMemoryRead via addr len s
  | .pcieConfigRequest => Sys2Proof.Machine.execPcieConfigRequest s
  | .flrVf p => Sys2Proof.Machine.execFlrVf p s
  | .deviceReset => Sys2Proof.Machine.execDeviceReset s
  | .ringRestart p => Sys2Proof.Machine.execRingRestart p s
  | .powerGood rootImage others fail => Sys2Proof.Machine.execPowerGood rootImage others fail s
  | .bootReady => Sys2Proof.Machine.execBootReady s
  | .powerLoss => Sys2Proof.Machine.execPowerLoss s
  | .thermalTrip => Sys2Proof.Machine.execThermalTrip s
  | .throttleStart core => Sys2Proof.Machine.execThrottleStart core s
  | .throttleEnd core => Sys2Proof.Machine.execThrottleEnd core s
  | .plannedSkidAnnounce => Sys2Proof.Machine.execPlannedSkidAnnounce s
  | .skidAnnounceReceive port origin stamp index planned => Sys2Proof.Machine.execSkidAnnounceReceive port origin stamp index planned s
  | .skidTake => Sys2Proof.Machine.execSkidTake s
  | .unplannedSkid core => Sys2Proof.Machine.execUnplannedSkid core s
  | .skidEnd => Sys2Proof.Machine.execSkidEnd s
  | .timingFlitReceive port member count taken phase => Sys2Proof.Machine.execTimingFlitReceive port member count taken phase s
  | .driftobsRefresh => Sys2Proof.Machine.execDriftobsRefresh s
  | .drftPhaseStep => Sys2Proof.Machine.execDrftPhaseStep s
  | .rinkFrameArrive port frame => Sys2Proof.Machine.execRinkFrameArrive port frame s
  | .rinkFrameRelay => Sys2Proof.Machine.execRinkFrameRelay s
  | .rinkFrameExpire => Sys2Proof.Machine.execRinkFrameExpire s
  | .timingFault cause tstart => Sys2Proof.Machine.execTimingFault cause tstart s
  | .timingAbortReceive port member cause tstart => Sys2Proof.Machine.execTimingAbortReceive port member cause tstart s
  | .rinkLinkLost port => Sys2Proof.Machine.execRinkLinkLost port s
  | .rinkPreemptAnnounce p lid => Sys2Proof.Machine.execRinkPreemptAnnounce p lid s
  | .timedStop => Sys2Proof.Machine.execTimedStop s
  | .nqctlWrite p q val => Sys2Proof.Machine.execNqctlWrite p q val s
  | .ethSendDescriptor p q => Sys2Proof.Machine.execEthSendDescriptor p q s
  | .ethFrameReceive port fcsOk vlan bytes => Sys2Proof.Machine.execEthFrameReceive port fcsOk vlan bytes s
  | .portLinkDown port => Sys2Proof.Machine.execPortLinkDown port s
  | .portLinkUp port => Sys2Proof.Machine.execPortLinkUp port s
  | .sequenceFork p parent child f pages streams => Sys2Proof.Machine.execSequenceFork p parent child f pages streams s
  | .dieReset die => Sys2Proof.Machine.execDieReset die s
  | .flowControlFrameReceive port prio pause => Sys2Proof.Machine.execFlowControlFrameReceive port prio pause s
  | .spdmUnsupportedRequest code => Sys2Proof.Machine.execSpdmUnsupportedRequest code s
  | .preemptionAnnouncementReceive port tstart stop => Sys2Proof.Machine.execPreemptionAnnouncementReceive port tstart stop s

end Sys2Proof.Machine
end

