-- ==== Sys2Proof/Machine/Schedule.lean ====
section
/-! DEFINITION. The model's own order of steps (log 3): which event comes next in a cycle, and the passing of a cycle. -/
namespace Sys2Proof.Machine
open Sys2Proof

/-! ## Events of the present cycle -/

/-- The stage of an operation in flight that the model's own order takes now (log 9): no sooner than some cycles after its issue,
unless the cycle is fixed. -/
def State.ripe (s : State) (x : Op) : Bool := x.due.isSome || decide (x.wall + Config.latency x.id ≤ s.wall)
/-- The lanes of an operation whose accesses outside the scratchpad stand at a stage. -/
def Op.lanesAt (x : Op) (st : Stage) : List Nat := (x.accs.filter fun a => a.stage == st && !a.pad).map (·.lane)
/-- The walks of an operation that may end. -/
def Op.walks (x : Op) : List Instr := if x.accs.any (·.stage == .walk) then [.pageWalkComplete x.id (BitVec.allOnes 32)] else []
/-- The events that may take an operation further. -/
def Op.events (x : Op) : List Instr :=
  let all : Lanes := BitVec.allOnes 32
  x.walks ++
  (match x.kind with
   | .load _ => if (x.lanesAt .ready).isEmpty && !x.padsHeld then [] else [.loadComplete x.id all]
   | .store | .atomic .. | .cas =>
     (if (x.lanesAt .ready).isEmpty && !x.padsHeld then [] else [.portStamp x.id all]) ++
       (x.lanesAt .stamped ++ x.lanesAt .left).map fun l => .homeApply x.id l
   | .tlock => if x.accs.any fun a => a.stage == .walk || a.stage == .touch then [] else [.pageWalkComplete x.id all]
   | .bitset _ => (x.lanesAt .ready).map fun l => .homeApply x.id l
   | .root _ => ((x.lanesAt .ready).take 1).map fun l => .homeApply x.id l
   | .copy _ =>
     (if x.applied then [] else [.copySourceReadDone x.id]) ++
       ((x.accs.filter (·.stage == .ready)).map fun a => .copyDestWrite x.id a.lane 0 (2 ^ 22))
   | .await .. => [.barrierNotify x.id]
   | .page _ => (x.accs.filter (·.stage == .ready)).map fun a => .pageOpApply x.id a.len
   | .bitwait _ | .cwt => [.cwtPeriodicEval]
   | _ => [])

/-- R273, R275: the arrivals, joins and leaves that may be applied, by die, core and slot; those at named barriers by slot and core. -/
def State.arrivals (s : State) : List Instr :=
  (sortBy (fun x => x.turn) ((s.ops.filter s.ripe).filter (·.kind.changes))).map fun x => .barrierArrivalApply x.id

/-- R352: the accepted command of a ring that starts next, as a step. -/
def Cmd.step (p : Nat) (c : Cmd) : List Instr :=
  match c.opc with
  | 0x01 => [.launch p c.seq c.payload] | 0x02 => [.yardpost p c.seq c.payload] | 0x0F => [.rekey p c.seq c.payload]
  | 0x10 => [.pdcreate p c.seq c.payload] | 0x11 => [.pddestroy p c.seq c.payload] | 0x12 => [.pdbudget p c.seq c.payload]
  | 0x20 => [.yardcreate p c.seq c.payload] | 0x21 => [.yarddestroy p c.seq c.payload] | 0x22 => [.tmplset p c.seq c.payload]
  | 0x23 => [.shgrant p c.seq c.payload] | 0x24 => [.presume p c.seq c.payload] | 0x25 => [.preempt p c.seq c.payload]
  | 0x26 => [.cresume p c.seq c.payload] | 0x28 => [.xmap p c.seq c.payload] | 0x29 => [.xunmap p c.seq c.payload]
  | 0x30 => [.rkform p c.seq c.payload] | 0x31 => [.htest p c.seq c.payload]
  | _ => []
/-- The events of a ring. -/
def State.ringEvents (s : State) (p : Nat) : List Instr :=
  (if s.flash.any (·.no == p) then [.ringRestart p] else []) ++ [.ringEntryRead p] ++
    (match (s.ringOf p).cmds.find? (!·.started) with | some c => c.step p | none => []) ++ [.completionRecordWrite p]
/-- The events of a paddock beside those of its ring. -/
def State.pdkEvents (s : State) (q : Pdk) : List Instr :=
  (match s.placeDue q.no with
   | some cl => (match cl.state, cl.room with | .saved, some r => [.clusterRestore q.no r] | _, _ => [.clusterPlace q.no])
   | none => []) ++
  (if q.bgwall ≤ s.wall then ((s.nextOld q.no).toList.map fun x => .bgzeroLine q.no x.1) else []) ++
  ((List.range 8).filter fun k => bitAt (q.nqctl k) 0).map fun k => .ethSendDescriptor q.no k
/-- The slots that hold a warp, by core and slot. -/
def State.busySlots (s : State) : List (Nat × Nat) :=
  sortBy (fun x => 4 * x.1 + x.2) ((s.warps.map fun w => (w.core, w.slot)).eraseDups)

/-- R434: a write of a register page waits for the issues of its cycle; what else waits is tried first. -/
def lateWrite : Instr → Bool
  | .registerWrite .. | .nqctlWrite .. => true
  | _ => false

/-- The events that a cycle may hold, in the model's order: requests that wait, completions, the machine's own engines, the rings, the
rink, the slots, the scratchpads' access cycles (R303), writes that wait for the issues. -/
def State.candidates (s : State) : List Instr :=
  [ s.held.filter (!lateWrite ·),
    [.timedLaunchStart, .skidEnd, .coreFreezeEnd, .tlbLeaseExpire, .fixedResultLand, .waitFlagCountDown, .divideComplete, .divideUnitAccept,
     .matrixCommandComplete, .matrixCommandStart],
    (s.jobs.filter (·.finished)).map fun j => .matrixStatusUpdate j.id,
    [.selectCommandComplete, .selectCommandStart, .faultReplay],
    -- R465: walks of a region's words end first
    (s.ops.filter (·.before.inHold)).flatMap Op.walks,
    (s.ops.filter s.ripe).flatMap Op.events,
    s.arrivals,
    (List.range 8).map Instr.frontierBroadcast,
    [.batchComplete, .unmapComplete, .xmapLeaseDrained, .holdDeferredTrap, .holdOverrun, .handlerFail, .handlerStart,
     .parkedRecordWrite, .warpRetire],
    s.shareDue.toList.map Instr.shareRecompute,
    [.quantumExpire, .timedStop, .coreSeal, .clusterSave, .privateSlotRetry, .yardFormTimeout, .scrubComplete, .bgzeroPassEnd],
    s.ringEvents 0,
    s.pdks.flatMap (fun q => List.append (s.ringEvents q.no) (s.pdkEvents q)),
    [.drftPhaseStep, .driftobsRefresh, .skidTake, .rinkFrameRelay, .rinkFrameExpire],
    s.busySlots.map fun x => .slotIssue x.1 x.2,
    [.scratchAccessCycle],
    s.held.filter lateWrite ].flatten

/-- An event does something in the present state. -/
def State.moves (s : State) (i : Instr) : Bool := match exec i s with | .next t => t != s | _ => false
/-- The event that comes next in the present cycle, if any. -/
def State.dueEvent (s : State) : Option Instr := s.candidates.find? s.moves

/-! ## A cycle passes -/

/-- R359: WAITCNT of a warp that could have issued in this cycle and did not. -/
def Warp.countWait (w : Warp) : Warp := if w.passed then { w with waitcnt := w.waitcnt + 1, passed := false } else w
/-- R7: every frozen core has one frozen cycle more. -/
def State.countFrozen (s : State) : State :=
  (((s.cores.map (·.id)) ++ (s.warps.map (·.core))).eraseDups.filter s.frozen).foldl
    (fun t c => t.updCore c fun k => { k with frozen := k.frozen + 1 }) s
/-- R89, R409, R412: what reads of the next cycle find; RINKC, and the schedule cycles of a correction, pass unless the next cycle belongs to
a skid. -/
def Rink.tick (r : Rink) (wall : Nat) : Rink :=
  let r := { r with pdrift := if r.formed then r.driftobs else 0, was := none }
  if r.formed && !r.skidAt (wall + 1) then { r with rinkc := r.rinkc + 1, drftk := r.drftk + 1 } else r
/-- R408: RKSTAT and RKSKIDS. -/
def State.rinkRegs (s : State) : State :=
  let n := s.rink.skids.length
  let v := (if s.inSkid then 1 else 0) + (if n = 0 then 0 else 2) + Nat.min n 255 * 256
  if s.rink.formed then { s with mgmt := msetAll s.mgmt [(0x108, BitVec.ofNat 64 v), (0x10C, BitVec.ofNat 64 (s.rink.taken % 2 ^ 32))] } else s
/-- A wall cycle passes: TSC advances (R87, R362), frozen cores count a frozen cycle (R7). -/
def State.tick (s : State) : State :=
  let t : State := { s with warps := s.warps.map fun (w : Warp) => w.countWait.endCycle }.countFrozen
  { t with wall := s.wall + 1, rink := s.rink.tick s.wall }.rinkRegs

end Sys2Proof.Machine
end

