-- ==== Sys2Proof/Machine/Step.lean ====
section
/-! DEFINITION. One step: the head of the agenda; else the word of the warp that a slot chose; else the event that is due; else
the passing of a cycle (log 3). -/
namespace Sys2Proof.Machine
open Sys2Proof

/-- One step of the part. -/
def step (s : State) : Host.Outcome State Fault Refusal :=
  match s.agenda with
  | i :: r => exec i { s with agenda := r }
  | [] =>
    match s.issuing with
    | some wid =>
      match s.fetch (s.warp wid) with
      | none => .next (s.fetchFault wid)
      | some x =>
        match decodeWord (s.warp wid).n x with
        | .ok i => exec i s
        | .error r => .fault (.undecodable r)
    | none =>
      match s.dueEvent with
      | some i => exec i s
      | none => .next s.tick

/-- The fixed name of the host: the state with a table word where the next step fetches it, as 16 bytes, the lowest first (R5, R37);
bits above `nbits` are zero. See log 4. -/
def State.withFetchWord (s : State) (nbits w : Nat) : State := s.putWord (BitVec.ofNat 128 (w % 2 ^ nbits))

end Sys2Proof.Machine
end

