-- ==== Sys2Proof/Safety.lean ====
section
/-! DEFINITION. What the statements are written in: a chosen warp, what the issue of a word leaves as it was, results on their way, the
canonical form of memory (R5), and a safe run. -/
namespace Sys2Proof.Safety
open Sys2Proof Sys2Proof.Machine

/-! ## A word that issues -/

/-- R359: a slot has chosen a resident warp, whose word issues in the present step. -/
abbrev Chosen (s : State) (wid : Nat) : Prop := s.issuing = some wid ∧ s.hasWarp wid = true

/-- What stands after a word of warp `wid` has issued: the warp is what every issue makes of it (R37, R40, R41), changed by `g`; the
operations `ops` are in flight behind those that were; the warp's core is changed by `h` and marked as having issued; the rest of the
state is changed by `u`. Every other warp and core, every byte of memory and every other register is as before. -/
structure Issues (s t : State) (wid : Nat) (f : Fields) (g : Warp → Warp := id) (ops : List Op := []) (h : Core → Core := id)
    (u : State → State := id) : Prop where
  has : t.hasWarp wid = true
  warp : t.warp wid = g (s.issuedWarp f (s.warp wid))
  others : ∀ v, v ≠ wid → t.warp v = s.warp v
  inFlight : t.ops = s.ops ++ ops
  nextId : t.nextId = s.nextId + ops.length
  core : { t.core (s.warp wid).core with issued := (s.core (s.warp wid).core).issued } = h (s.core (s.warp wid).core)
  cores : ∀ c, c ≠ (s.warp wid).core → t.core c = s.core c
  issuing : t.issuing = none
  rest : { t with warps := s.warps, ops := s.ops, cores := s.cores, nextId := s.nextId, issuing := s.issuing } = u s

/-- R51: a result of a fixed class on its way to `n` registers from DST on, in every lane that executes the word. -/
def landing (s : State) (wid : Nat) (f : Fields) (cycles n : Nat) (v : Nat → Nat) : Landing :=
  { due := s.now (s.warp wid) + cycles
    writes := (lanesOf ((s.warp wid).exec f)).flatMap fun i => regWrites f.dst.toNat i n (v i), flag := f.flag }
/-- A result is put behind those on their way. -/
def putLanding (l : Landing) (w : Warp) : Warp := { w with pend := w.pend ++ [l] }

/-- The word issues, and its only effect is a result after some cycles (R51) in `n` registers. -/
def Lands (s t : State) (wid : Nat) (f : Fields) (cycles n : Nat) (v : Nat → Nat) (h : Core → Core := id) : Prop :=
  Issues s t wid f (putLanding (landing s wid f cycles n v)) [] h

/-- A word that completes on every chosen warp for which `ok` holds, with a result of a class in `n` registers. -/
def Gives (i : Fields → Instr) (c : Cls) (n : Fields → Nat) (v : Warp → Fields → Nat → Nat)
    (ok : State → Warp → Fields → Prop := fun _ _ _ => True) : Prop :=
  ∀ s wid f, Chosen s wid → ok s (s.warp wid) f →
    ∃ t, exec (i f) s = .next t ∧ Lands s t wid f (lambda f c) (n f) (v (s.warp wid) f)

/-- R212: a word between lanes, whose only effect beside its issue is a result in the lanes that execute it by the masks as the previous cycle
left them. -/
def LandsPrev (s t : State) (wid : Nat) (f : Fields) (cycles n : Nat) (v : Nat → Nat) : Prop :=
  Issues s t wid f (putLanding
    { due := s.now (s.warp wid) + cycles
      writes := (lanesOf ((s.warp wid).prev.exec f)).flatMap fun i => regWrites f.dst.toNat i n (v i), flag := f.flag })
/-- R210 to R212: a word between lanes that completes on every chosen warp for which `ok` holds. -/
def GivesPrev (i : Fields → Instr) (c : Cls) (n : Fields → Nat) (v : Warp → Fields → Nat → Nat) (ok : Warp → Fields → Prop := fun _ _ => True) : Prop :=
  ∀ s wid f, Chosen s wid → ok (s.warp wid).prev f →
    ∃ t, exec (i f) s = .next t ∧ LandsPrev s t wid f (lambda f c) (n f) (v (s.warp wid).prev f)

/-- R125: element `j` of a value of a type. -/
def elem (t : Ty) (v j : Nat) : Nat := fld v (elemBits t * j) (elemBits t)
/-- R144: element `j` of operand a, b or c of a lane as an integer. -/
def intA (w : Warp) (f : Fields) (i j : Nat) : Int := intVal f.ty (elem f.ty (w.opA f.ty f i) j)
def intB (w : Warp) (f : Fields) (i j : Nat) : Int := intVal f.ty (elem f.ty (w.opB f.ty f i) j)
def intC (w : Warp) (f : Fields) (i j : Nat) : Int := intVal f.ty (elem f.ty (w.opC f.ty f i) j)

/-- A word whose result is formed element by element: `e` gives element j in lane i. -/
def GivesElems (i : Fields → Instr) (c : Cls) (e : Warp → Fields → Nat → Nat → Nat) : Prop :=
  ∀ s wid f, Chosen s wid → ∃ t v, exec (i f) s = .next t ∧ Lands s t wid f (lambda f c) (tyRegs f.ty) v ∧
    ∀ l j, j < elemCount f.ty → elem f.ty (v l) j = e (s.warp wid) f l j

/-- A well-formed word of class A whose result is stated bit by bit: `b` gives bit j in lane l. -/
def GivesBits (i : Fields → Instr) (n width : Fields → Nat) (b : Warp → Fields → Nat → Nat → Bool) : Prop :=
  ∀ s wid f, Chosen s wid → (i f).wf 256 = true → ∃ t v, exec (i f) s = .next t ∧ Lands s t wid f (lambda f .a) (n f) v ∧
    ∀ l j, j < width f → bitAt (v l) j = b (s.warp wid) f l j

/-- A word whose only effect beside its issue is a change of its warp. -/
def Changes (i : Fields → Instr) (g : State → Warp → Fields → Warp → Warp)
    (ok : State → Warp → Fields → Prop := fun _ _ _ => True) : Prop :=
  ∀ s wid f, Chosen s wid → ok s (s.warp wid) f →
    ∃ t, exec (i f) s = .next t ∧ Issues s t wid f (g s (s.warp wid) f)

/-- A word that takes a warp trap, with the pc of the word itself (R378, R380). -/
def Traps (i : Fields → Instr) (code : Nat) (ok : State → Warp → Fields → Prop) : Prop :=
  ∀ s wid f, Chosen s wid → ok s (s.warp wid) f → exec (i f) s = .next ((s.noteIssue wid f).trapAt wid (s.warp wid) code)

/-! ## Control transfer -/

/-- R193, R194, R198, R199: a branch-target register prepared at a cycle. -/
def prepared (target : BitVec 32) (count : BitVec 16) (now : Nat) : BReg :=
  { valid := true, stale := false, count, target, prep := now }
/-- R195: where and when a transferred warp goes on: the image's base plus the offset; 20 cycles after the transfer, and no sooner than a
cycle `least`. -/
def goesTo (s : State) (w0 : Warp) (off : BitVec 32) (least : Nat) (w : Warp) : Warp :=
  { w with pc := s.imageVa w0 + off.setWidth 64, ready := max (s.now w0 + 20) least, target := true }
/-- R196: a register that a taken transfer may use. -/
def usable (w : Warp) (b : Nat) : Prop := (w.bregP b).valid = true ∧ (w.bregP b).stale = false

/-! ## Words that put an operation in flight -/

/-- The fields that every operation in flight takes at its issue. -/
def enters (s : State) (wid : Nat) (x : Op) : Op := { x with id := s.nextId, issued := s.now (s.warp wid), wall := s.wall }
/-- No operation in flight has the next identifier; every state that the machine reaches is such (`IdsBelow`). -/
abbrev FreshId (s : State) : Prop := ∀ x ∈ s.ops, x.id ≠ s.nextId
/-- R41: an operation with nothing left to do but to count its flag down after some cycles. -/
def quietOp (s : State) (wid : Nat) (f : Fields) (n : Nat) : Op :=
  enters s wid { opOf wid (s.warp wid) f .simple with due := some (s.now (s.warp wid) + n) }
/-- A word that puts one operation in flight, and does nothing else. -/
def Enters (i : Fields → Instr) (x : State → Nat → Fields → Op) (ok : State → Warp → Fields → Prop := fun _ _ _ => True)
    (g : State → Warp → Fields → Warp → Warp := fun _ _ _ w => w) : Prop :=
  ∀ s wid f, Chosen s wid → ok s (s.warp wid) f →
    ∃ t, exec (i f) s = .next t ∧ Issues s t wid f (g s (s.warp wid) f) [enters s wid (x s wid f)]
/-- A word that no lane executes counts its flag down in the next cycle (R41). -/
def IdleEnters (i : Fields → Instr) : Prop :=
  Enters i (fun s wid f => quietOp s wid f 1) (fun _ w f => w.exec f = 0)

/-- A memory word: its operation before the lanes are known, a lane's access and what its pointer denotes (R90, R105), the rights it
needs, whether it is timed, and its kind of scratchpad access. -/
structure MemWord where
  op    : Nat → Warp → Fields → Op
  acc   : State → Warp → Fields → Nat → Acc
  spot  : State → Warp → Fields → Nat → Spot
  rd    : Bool
  wr    : Bool
  timed : Warp → Fields → Bool := fun _ _ => false
  pad   : Fields → Option PadKind := fun _ => none

/-- R105: the accesses of the executing lanes as the issue finds them, and their faults. -/
def MemWord.found (m : MemWord) (s : State) (w : Warp) (f : Fields) : List (Acc × Option LaneFault) :=
  (lanesOf (w.exec f)).map fun i => s.probe w (m.acc s w f i) m.rd m.wr (m.op 0 w f).write (m.spot s w f i)
/-- R117: the cycles to the completion of a timed access. -/
def MemWord.land (m : MemWord) (s : State) (w : Warp) (f : Fields) : Nat := timedCycles (dieOfCore w.core) ((m.found s w f).map (·.1))
/-- R229: the cycles to the landing of a scratchpad lane. -/
def padLand (f : Fields) : Nat := 16 + (if f.patterned then 2 else 0)
/-- R118, R263: in deterministic mode the scratchpad lanes of a load or store that has other lanes too wait for the check of all of them. -/
def MemWord.mixed (m : MemWord) (s : State) (w : Warp) (f : Fields) : Bool :=
  w.det && (m.pad f).isSome && (m.found s w f).any fun p => !p.1.pad
/-- R229: scratchpad lanes note their landing cycle, or, held back, the cycles to it. -/
def MemWord.lanes (m : MemWord) (s : State) (w : Warp) (f : Fields) : List Acc :=
  (m.found s w f).map fun p =>
    if p.1.pad then { p.1 with len := if (m.pad f).isSome && !m.mixed s w f then s.now w + padLand f else padLand f } else p.1
/-- R104, R105, R117, R464: the word runs on: some lane executes it, no lane faults, a locked region's lanes need no walk, a timed access
stands in one and stays in the SRAM tier. -/
def MemWord.runs (m : MemWord) (s : State) (w : Warp) (f : Fields) : Prop :=
  w.exec f ≠ 0 ∧ (∀ p ∈ m.found s w f, p.2 = none) ∧
    ((w.lockOpen = true ∨ m.timed w f = true) → ∀ p ∈ m.found s w f, p.1.stage ≠ .walk) ∧
    (m.timed w f = true → w.lockOpen = true ∧ ∀ i ∈ lanesOf (w.exec f), ∀ pa, s.seen w i (m.spot s w f i) = some pa → inSramTier pa = true)
/-- R263: the deterministic records after the word's scratchpad lanes are checked, where they do not conflict. -/
def MemWord.checked (m : MemWord) (s : State) (w : Warp) (f : Fields) (wid : Nat) (d : List DetRec) : Prop :=
  let x := m.op wid w f
  let keys := (((m.found s w f).map (·.1)).filter (·.pad)).flatMap fun a => (detKinds x.kind x.ty).map fun k => (padKey w.core a.pa, k)
  (if w.det && !m.mixed s w f then s.detCheck w keys else some s) = some { s with det := d }
/-- R263: the deterministic records after accesses of a warp are checked in order, where none conflicts; outside deterministic mode they
stand as they were. -/
def Checked (s : State) (w : Warp) (keys : List (Nat × DetKind)) (d : List DetRec) : Prop :=
  (if w.det then s.detCheck w keys else some s) = some { s with det := d }
/-- R229: what the scratchpad lanes put into the core's pipeline. -/
def MemWord.queued (m : MemWord) (s : State) (wid : Nat) (f : Fields) (k : Core) : Core :=
  let w := s.warp wid
  let x := m.op wid w f
  let accs := (((m.found s w f).map (·.1)).filter fun a => a.pad && a.stage == .ready).map fun a => { a with len := padLand f }
  match m.pad f with
  | none => k
  | some pk => if accs = [] ∨ m.mixed s w f = true then k else
      { k with padq := k.padq ++ [{ wid, slot := w.slot, kind := pk, due := s.now w + 8, land := s.now w + padLand f, bytes := x.bytes,
                                    ty := x.ty, var := x.var, dst := x.dst, nregs := x.nregs, op := some s.nextId, pc := x.pc, accs,
                                    before := w }] }
/-- The word completes its issue: its operation is in flight with a lane for every executing lane, and nothing else changes. -/
def MemWord.Completes (m : MemWord) (i : Fields → Instr) (ok : State → Warp → Fields → Prop := fun _ _ _ => True) : Prop :=
  ∀ s wid f d, Chosen s wid → FreshId s → ok s (s.warp wid) f → m.runs s (s.warp wid) f → m.checked s (s.warp wid) f wid d →
    ∃ t, exec (i f) s = .next t ∧
      Issues s t wid f id
        [enters s wid { m.op wid (s.warp wid) f with
          accs := m.lanes s (s.warp wid) f
          due := if m.timed (s.warp wid) f then some (s.now (s.warp wid) + m.land s (s.warp wid) f) else none
          checked := (s.warp wid).det && (m.found s (s.warp wid) f).any (·.1.pad) && !m.mixed s (s.warp wid) f }]
        (m.queued s wid f) fun s => { s with det := d }

/-! ### The memory words of the statements -/

/-- R90 to R93, R115 to R117: LD, LDRO and ST. -/
def accessWord (k : OpKind) : MemWord :=
  { op := fun wid w f =>
      { opOf wid w f k with
        bytes := (accessShape f.ty f.var.toNat).1, nregs := if k.stores then 0 else (accessShape f.ty f.var.toNat).2, write := k.stores }
    acc := fun _ w f i =>
      { lane := i, asid := w.asidOf i, addr := w.effAddr f i
        data := if k.stores then BitVec.ofNat 128 (w.regsVal f.dst.toNat i (accessShape f.ty f.var.toNat).2) else 0 }
    spot := fun s w f i =>
      let n := (accessShape f.ty f.var.toNat).1
      s.spot w i n n (k != .load true) (k != .load true) (w.effAddr f i)
    rd := !k.stores, wr := k.stores
    timed := fun w f => decide (8 ≤ f.var.toNat) && w.timed
    pad := fun _ => some (if k.stores then .write else .read) }
/-- R235: LDS and STS. -/
def padWord (store : Bool) : MemWord :=
  { op := fun wid w f =>
      { opOf wid w f (if store then .store else .load false) with
        bytes := (accessShape f.ty f.var.toNat).1, nregs := if store then 0 else (accessShape f.ty f.var.toNat).2, write := store
        classL := true }
    acc := fun _ w f i =>
      { lane := i, asid := w.asidOf i, addr := BitVec.ofNat 64 (padPtr (w.padOff f i))
        data := if store then BitVec.ofNat 128 (w.regsVal f.dst.toNat i (accessShape f.ty f.var.toNat).2) else 0 }
    spot := fun s w f i =>
      let n := (accessShape f.ty f.var.toNat).1
      padSpot (s.window? w.core w (w.asidOf i)) (w.padOff f i) n n (padPtr (w.padOff f i))
    rd := true, wr := store, pad := fun _ => some (if store then .write else .read) }
/-- R269: ATOMS and CASS. -/
def padAtomWord (k : Fields → OpKind) (pk : Fields → PadKind) (data cmp : Warp → Fields → Nat → Nat) : MemWord :=
  { op := fun wid w f => { opOf wid w f (k f) with bytes := 4 * tyRegs f.ty, nregs := tyRegs f.ty, write := true }
    acc := fun _ w f i =>
      { lane := i, asid := w.asidOf i, addr := BitVec.ofNat 64 (padPtr (w.src f.a i).toNat)
        data := BitVec.ofNat 128 (data w f i), cmp := BitVec.ofNat 64 (cmp w f i) }
    spot := fun s w f i =>
      padSpot (s.window? w.core w (w.asidOf i)) (w.src f.a i).toNat (4 * tyRegs f.ty) (4 * tyRegs f.ty) (padPtr (w.src f.a i).toNat)
    rd := true, wr := true, pad := fun f => some (pk f) }
/-- R265 to R268: ATOM, RED and CAS. -/
def atomWord (k : Fields → OpKind) (ea : Warp → Fields → Nat → DWord) (data cmp : Warp → Fields → Nat → Nat) (result : Bool) : MemWord :=
  { op := fun wid w f => { opOf wid w f (k f) with bytes := 4 * tyRegs f.ty, nregs := if result then tyRegs f.ty else 0, write := true }
    acc := fun _ w f i =>
      { lane := i, asid := w.asidOf i, addr := ea w f i, data := BitVec.ofNat 128 (data w f i), cmp := BitVec.ofNat 64 (cmp w f i) }
    spot := fun s w f i => s.spot w i (4 * tyRegs f.ty) (4 * tyRegs f.ty) false true (ea w f i), rd := true, wr := true }
/-- R280: CWT. -/
def cwtWord : MemWord :=
  { op := fun wid w f => { opOf wid w f .cwt with bytes := 4 * tyRegs f.ty }
    acc := fun _ w f i => { lane := i, asid := w.asidOf i, addr := w.src64 f.a i, cmp := BitVec.ofNat 64 (w.whole f.ty f.b i) }
    spot := fun s w f i => s.spot w i (4 * tyRegs f.ty) (4 * tyRegs f.ty) true true (w.src64 f.a i), rd := true, wr := false }
/-- R278: the group number of an immediate, the group, and the byte of its bitmap that a lane's bit lies in. -/
def groupOf (f : Fields) : Nat := f.immVal.toNat % 256
def mapOf (s : State) (w : Warp) (f : Fields) : Group := ((s.pdk w.pdk).group (groupOf f)).getD {}
def mapByte (s : State) (w : Warp) (f : Fields) (i : Nat) : Nat := (mapOf s w f).mapaddr + (w.src f.a i).toNat / 8
/-- R278, R279: BITSET and BITWAIT. -/
def bitsWord (set : Bool) : MemWord :=
  { op := fun wid w f => { opOf wid w f (if set then .bitset (groupOf f) else .bitwait (groupOf f)) with bytes := 1, write := set }
    acc := fun s w f i =>
      { lane := i, asid := w.asidOf i, addr := BitVec.ofNat 64 (mapByte s w f i), data := BitVec.ofNat 128 ((w.src f.a i).toNat % 8)
        cmp := BitVec.ofNat 64 (w.src f.a i).toNat }
    spot := fun s w f i =>
      if (mapOf s w f).mapbits ≤ (w.src f.a i).toNat then .fault 2 (mapByte s w f i)
      else s.spot w i 1 1 false false (BitVec.ofNat 64 (mapByte s w f i))
    rd := true, wr := true }

/-! ## What happens in its cycle -/

/-- What an event does in every state in which it is due. -/
def Does (i : Instr) (ok : State → Prop) (eff : State → State → Prop) : Prop := ∀ s, ok s → ∃ t, exec i s = .next t ∧ eff s t
/-- An operation in flight of a warp that is there. -/
def Flies (s : State) (x : Op) : Prop := s.op? x.id = some x ∧ s.hasWarp x.wid = true
/-- An operation has left, its flag counted down, with these values in its warp's registers (R15, R41). -/
def Ended (s t : State) (x : Op) (ws : List (Nat × Word)) : Prop :=
  t.op? x.id = none ∧ (t.warp x.wid).regs = msetAll (s.warp x.wid).regs ws ∧
    (t.warp x.wid).flags = ((s.warp x.wid).flagDown x.flag).flags
/-- The bytes at a device-physical address. -/
def bytesAt (s : State) (pa n : Nat) : List (BitVec 8) := (List.range n).map fun k => mget s.mem (s.home (pa + k))

/-- R13, R431: nothing in memory is poisoned, and no line fails that a paddock reads, or that holds its second-stage tables. -/
def Clean (s : State) (p : Nat) : Prop := s.poison = [] ∧ ∀ pa, s.markOf p pa = none ∧ s.markOf (s.ownerOf pa) pa = none
/-- R397: clusters, each with its launch's record and its number, are asked to be saved, for a reason: their launches note it, and their warps, but
for handlers, issue no more. -/
def requested (s : State) (cls : List (Nat × Nat)) (why : Nat) : State :=
  { s with warps := s.warps.map fun w =>
             if cls.contains (w.launch, w.clno) && w.kind != .handler then { w with stopped := true } else w
           launches := s.launches.map fun l =>
             { l with clusters := l.clusters.map fun c => if cls.contains (l.id, c.no) then { c with preempt := some why } else c } }

/-- A warp whose region's last word has issued with faults put off to here (R465). -/
def holdDue (s : State) (w : Warp) : Bool := w.region.any (·.left == 0) && s.deferred.any (·.wid == w.id)
/-- The registers of the management page and of every paddock's page are in the canonical form. -/
abbrev SoundRegs (s : State) : Prop := rising 0 s.mgmt = true ∧ ∀ q ∈ s.pdks, rising 0 q.regs = true

/-! ## Commands -/

/-- R352: a command has started. -/
def began (s : State) (p seq : Nat) : State := s.updCmd p seq fun c => { c with started := true }
/-- R353: a command is reported, with a status and a reason. -/
def Reported (t : State) (p seq status reason : Nat) : Prop :=
  ∃ c ∈ (t.ringOf p).cmds, c.seq = seq ∧ ∃ r, c.report = some r ∧ r.status = status ∧ r.reason = reason
/-- What a command does in every state in which it is the next to start: `ok` is of the state with the command started. -/
def Command (i : Nat → Nat → BitVec 256 → Instr) (opc : Nat) (ok : State → Nat → Nat → BitVec 256 → Prop)
    (eff : State → State → Nat → Nat → BitVec 256 → Prop) : Prop :=
  ∀ s p seq x, s.toStart p seq opc x = true → ok (began s p seq) p seq x → ∃ t, exec (i p seq x) s = .next t ∧ eff s t p seq x
/-- R432, R435, R447, R454: a host request to a page that is served; 0 is the management page. -/
abbrev served (s : State) (via : Via) (p : Nat) : Prop := s.pageShut via p = none ∧ (p = 0 ∨ (s.pdk p).ifstate ≠ 3)

/-! ## Safe runs -/

/-- R56, R62: the machine has not stopped: no word was fetched that the scanner would not have admitted. -/
def Goes (s : State) : Prop := ∃ t, step s = .next t
/-- Every warp that the state holds: those of the machine, and those kept with operations, records, faults and saved contexts. -/
def allWarps (s : State) : List Warp :=
  s.warps ++ s.ops.map (·.before) ++ s.deferred.map (·.before) ++ s.parked.map (·.before) ++
    s.cores.flatMap (fun k => k.padq.map (·.before)) ++
    s.launches.flatMap (fun l => l.clusters.flatMap fun c => c.warps ++ c.waits.map (·.before)) ++
    s.pdks.flatMap (fun q => q.rooms.filterMap fun r => r.park.map (·.before))
/-- R5, R6: memory, of the device and of the host, is in its canonical form. -/
def MemoryCanonical (s : State) : Prop := Memory.wf s.mem = true ∧ rising 0 s.hostmem = true
/-- The registers of the pages and of every warp, the clocks, the frontiers and the templates are in the canonical form. -/
def MapsCanonical (s : State) : Prop :=
  SoundRegs s ∧ rising 0 s.clocks = true ∧ rising 0 s.frontier = true ∧ (∀ q ∈ s.pdks, rising 0 q.templates = true) ∧
    ∀ w ∈ allWarps s, rising 0 w.regs = true
/-- Every operation in flight, or saved with a cluster, has an identifier below the next one. -/
def IdsBelow (s : State) : Prop :=
  (∀ x ∈ s.ops, x.id < s.nextId) ∧ ∀ l ∈ s.launches, ∀ c ∈ l.clusters, ∀ x ∈ c.waits, x.id < s.nextId
/-- What every step keeps of a property. -/
def Kept (p : State → Prop) : Prop := ∀ s t, p s → step s = .next t → p t

/-! ## Words written out -/

/-- R40 to R42: a word without a predicate: its distance, the flags it waits for and the flag that it counts. -/
def sched (dist : BitVec 4) (wait : BitVec 12) (setf : BitVec 4) : Sched :=
  { dist := dist, wait := wait, setf := setf, pen := false, psense := false, preg := 0, pbit := 0 }
/-- The same with the predicate `?` (or `?!`) of a bit of a register (R43). -/
def guarded (q : Sched) (sense : Bool) (r : BitVec 8) (b : BitVec 5) : Sched :=
  { q with pen := true, psense := sense, preg := r, pbit := b }
/-- R45: a source without modifiers. -/
def src (r : BitVec 8) : Src := { reg := r, pat := .id, k := 0, neg := false, abs := false, half := .none }
/-- The fields of a word, in the order in which it holds them. -/
def fieldsOf (q : Sched) (t : Ty) (v : BitVec 4) (d : BitVec 8) (a : Args) : Fields :=
  { sched := q, ty := t, var := v, dst := d, args := a }
/-- The word reads as the instruction, under the largest declared count. -/
def Reads (w : IWord) (i : Instr) : Prop := decodeWord 256 w = .ok i

end Sys2Proof.Safety
end

