-- ==== Sys2Proof/Certificates/Slice0/Obligations.lean ====
section
/-! DEFINITION. The statements for the provers, in the terms of Sys2Proof/Safety.lean. -/
open Sys2Proof Sys2Proof.Machine Sys2Proof.Safety

/-! ## Integers, logic, bit fields and moves -/

/-- R149, R152: IADD, ISUB, IMUL, IMULH, IMAD, INEG, IABS, IMIN, IMAX, ICLAMP and ISET complete on every chosen warp; each element of
the result is the integer function of the operands' elements, saturated by variant 1 or reduced modulo 2^w. Nothing else changes. -/
def Obligations.IntegerElements : Prop :=
  GivesElems .iadd .a (fun w f i j => intOut f.ty (satVar f) (intA w f i j + intB w f i j)) ∧
  GivesElems .isub .a (fun w f i j => intOut f.ty (satVar f) (intA w f i j - intB w f i j)) ∧
  GivesElems .imul .m (fun w f i j => intOut f.ty (satVar f) (intA w f i j * intB w f i j)) ∧
  GivesElems .imulh .m (fun w f i j => intOut f.ty false (intA w f i j * intB w f i j / (2 ^ elemBits f.ty : Nat))) ∧
  GivesElems .imad .m (fun w f i j => intOut f.ty (satVar f) (intA w f i j * intB w f i j + intC w f i j)) ∧
  GivesElems .ineg .a (fun w f i j => intOut f.ty (satVar f) (-intA w f i j)) ∧
  GivesElems .iabs .a (fun w f i j => intOut f.ty (satVar f) (intA w f i j).natAbs) ∧
  GivesElems .imin .a (fun w f i j => intOut f.ty false (min (intA w f i j) (intB w f i j))) ∧
  GivesElems .imax .a (fun w f i j => intOut f.ty false (max (intA w f i j) (intB w f i j))) ∧
  GivesElems .iclamp .a (fun w f i j => intOut f.ty false (min (max (intA w f i j) (intB w f i j)) (intC w f i j))) ∧
  GivesElems .iset .a (fun w f i j =>
    if intCond f.var.toNat (intA w f i j) (intB w f i j) then 2 ^ elemBits f.ty - 1 else 0)

/-- R150 to R153: IADDC, ISUBB and IMADW give a pair; ICMP gives one bit for each element; SEL picks each bit of a or b by c. -/
def Obligations.IntegerWide : Prop :=
  Gives .iaddc .a (fun _ => 2) (fun w f i => w.opA .n32 f i + w.opB .n32 f i + w.opC .n32 f i % 2) ∧
  Gives .isubb .a (fun _ => 2) (fun w f i =>
    let r : Int := (w.opA .n32 f i : Int) - w.opB .n32 f i - (w.opC .n32 f i % 2 : Nat)
    (r % 2 ^ 32).toNat + (if r < 0 then 2 ^ 32 else 0)) ∧
  Gives .imadw .m (fun _ => 2) (fun w f i =>
    let z := (w.src64 f.c i).toNat
    ((intVal f.ty (w.opA f.ty f i) * intVal f.ty (w.opB f.ty f i) + (if f.ty.isSigned then sx 64 z else z)) % 2 ^ 64).toNat) ∧
  GivesBits .icmp (fun _ => 1) (fun _ => 32) (fun w f i j =>
    decide (j < elemCount f.ty) && intCond f.var.toNat (intA w f i j) (intB w f i j)) ∧
  GivesBits .sel (fun f => tyRegs f.ty) (fun f => elemBits f.ty) (fun w f i j =>
    if bitAt (w.opC f.ty f i) j then bitAt (w.opA f.ty f i) j else bitAt (w.opB f.ty f i) j)

/-- R154: a shift of a value of width w by s: SHL and SHR give zeros beyond the width, SAR copies of the sign bit; the rotates take s
modulo w. Each bit of the result is named. -/
def Obligations.Shifts : Prop :=
  let A (w : Warp) (f : Fields) (i j : Nat) : Bool := bitAt (w.opA f.ty f i) j
  let W (f : Fields) : Nat := elemBits f.ty
  let S (w : Warp) (f : Fields) (i : Nat) : Nat := (w.wordB f i).toNat
  GivesBits .shl (fun f => tyRegs f.ty) W (fun w f i j => decide (S w f i ≤ j) && A w f i (j - S w f i)) ∧
  GivesBits .shr (fun f => tyRegs f.ty) W (fun w f i j => decide (j + S w f i < W f) && A w f i (j + S w f i)) ∧
  GivesBits .sar (fun f => tyRegs f.ty) W (fun w f i j => A w f i (min (j + S w f i) (W f - 1))) ∧
  GivesBits .rotl (fun f => tyRegs f.ty) W (fun w f i j => A w f i ((j + W f - S w f i % W f) % W f)) ∧
  GivesBits .rotr (fun f => tyRegs f.ty) W (fun w f i j => A w f i ((j + S w f i) % W f))

/-- R155: AND, OR and XOR give a & b, a | b and a ^ b; ANDN gives a & ~b, bit by bit. -/
def Obligations.Logic : Prop :=
  let A (w : Warp) (f : Fields) (i j : Nat) : Bool := bitAt (w.opA f.ty f i) j
  let B (w : Warp) (f : Fields) (i j : Nat) : Bool := bitAt (w.opB f.ty f i) j
  let W (f : Fields) : Nat := elemBits f.ty
  GivesBits .andOp (fun f => tyRegs f.ty) W (fun w f i j => A w f i j && B w f i j) ∧
  GivesBits .orOp (fun f => tyRegs f.ty) W (fun w f i j => A w f i j || B w f i j) ∧
  GivesBits .xorOp (fun f => tyRegs f.ty) W (fun w f i j => A w f i j != B w f i j) ∧
  GivesBits .andn (fun f => tyRegs f.ty) W (fun w f i j => A w f i j && !B w f i j)

/-- R156, R159, R160: LOGT reads bit j from the truth table in MOD at the index a + 2 b + 4 c; BFX, BFI and BPERM move fields and bytes:
a field of `len` bits at `pos`, cut at the width; a byte of b above a by the nibbles of c. -/
def Obligations.FieldMoves : Prop :=
  let A (w : Warp) (f : Fields) (i j : Nat) : Bool := bitAt (w.opA f.ty f i) j
  let pos (w : Warp) (f : Fields) (i : Nat) : Nat := fld (w.wordB f i).toNat 0 8
  let len (w : Warp) (f : Fields) (i : Nat) : Nat := min (fld (w.wordB f i).toNat 8 8) (elemBits f.ty - pos w f i)
  let ab (w : Warp) (f : Fields) (i k : Nat) : Nat :=
    let n := elemBits f.ty / 8
    if k < n then fld (w.opA f.ty f i) (8 * k) 8 else fld (w.opB f.ty f i) (8 * (k - n)) 8
  GivesBits .logt (fun _ => 1) (fun _ => 32) (fun w f i j =>
    bitAt (f.ty.code.toNat * 16 + f.var.toNat) ((bitAt (w.opA .n32 f i) j).toNat + 2 * (bitAt (w.opB .n32 f i) j).toNat +
      4 * (bitAt (w.opC .n32 f i) j).toNat)) ∧
  GivesBits .bfx (fun f => tyRegs f.ty) (fun f => elemBits f.ty) (fun w f i j =>
    if j < len w f i then A w f i (pos w f i + j)
    else f.ty.isSigned && decide (0 < len w f i) && A w f i (pos w f i + len w f i - 1)) ∧
  GivesBits .bfi (fun f => tyRegs f.ty) (fun f => elemBits f.ty) (fun w f i j =>
    if pos w f i ≤ j ∧ j < pos w f i + len w f i then A w f i (j - pos w f i) else bitAt (w.opC f.ty f i) j) ∧
  GivesBits .bperm (fun f => tyRegs f.ty) (fun f => elemBits f.ty) (fun w f i j =>
    let nib := fld (w.src f.c i).toNat (4 * (j / 8)) 4
    if f.ty.is64 then bitAt (ab w f i nib) (j % 8) else nib < 8 && bitAt (ab w f i nib) (j % 8))

/-- R157: POPC gives the number of set bits of a; CLZ the number of leading zero bits, w for 0; BREV moves bit j to bit w - 1 - j. -/
def Obligations.BitCounts : Prop :=
  Gives .popc .a (fun _ => 1) (fun w f i => ((List.range (elemBits f.ty)).filter fun j => bitAt (w.opA f.ty f i) j).length) ∧
  (∀ s wid f, Chosen s wid → ∃ t v, exec (.clz f) s = .next t ∧ Lands s t wid f (lambda f .a) 1 v ∧
    ∀ i, v i ≤ elemBits f.ty ∧
      (∀ j, j < elemBits f.ty → elemBits f.ty - v i ≤ j → bitAt ((s.warp wid).opA f.ty f i) j = false) ∧
      (v i < elemBits f.ty → bitAt ((s.warp wid).opA f.ty f i) (elemBits f.ty - 1 - v i) = true)) ∧
  GivesBits .brev (fun f => tyRegs f.ty) (fun f => elemBits f.ty) (fun w f i j => bitAt (w.opA f.ty f i) (elemBits f.ty - 1 - j))

/-- R158: FNSB gives the position p of set bit number n, counted from bit 0 by variant 0 and from bit w - 1 by variant 1: bit p is set
and n set bits stand before it; 0xFFFFFFFF where a has no more than n set bits. -/
def Obligations.FindSetBit : Prop :=
  ∀ s wid f, Chosen s wid → ∃ t v, exec (.fnsb f) s = .next t ∧ Lands s t wid f (lambda f .a) 1 v ∧
    ∀ i,
      let w := elemBits f.ty
      let bit (j : Nat) : Bool := bitAt ((s.warp wid).opA f.ty f i) j
      let n := ((s.warp wid).wordB f i).toNat
      let before (p j : Nat) : Bool := if f.var == 1 then decide (p < j) else decide (j < p)
      if ((List.range w).filter bit).length ≤ n then v i = 0xFFFFFFFF
      else v i < w ∧ bit (v i) = true ∧ ((List.range w).filter fun j => bit j && before (v i) j).length = n

/-- R161 to R163, R166: MOV and MOVI give their operand unchanged; MOVX and MOVXW the register that a lane's index names, where every
executing lane's index lies in the declared registers; MOVS and MOVSW a special register as R87 gives it; MOVS `.put` a new EXM. -/
def Obligations.Moves : Prop :=
  let idx (w : Warp) (f : Fields) (i : Nat) : Nat := f.a.reg.toNat + (w.wordB f i).toNat
  let timing : List Nat := [0x01, 0x02, 0x0C, 0x0E, 0x0F, 0x10]
  Gives .mov .a (fun f => tyRegs f.ty) (fun w f i => w.opA f.ty f i) ∧
  Gives .movi .a (fun f => tyRegs f.ty) (fun _ f _ => if f.ty = .i64 then ((f.immVal.toInt : Int) % 2 ^ 64).toNat else f.immVal.toNat) ∧
  Gives .movx .a (fun _ => 1) (fun w f i => (w.reg (idx w f i) i).toNat) (fun _ w f => ∀ i ∈ lanesOf (w.exec f), idx w f i < w.n) ∧
  Gives .movxw .a (fun _ => 2) (fun w f i => (w.reg64 (idx w f i) i).toNat)
    (fun _ w f => ∀ i ∈ lanesOf (w.exec f), idx w f i % 2 = 0 ∧ idx w f i + 1 < w.n) ∧
  (∀ s wid f, Chosen s wid → f.var = 0 → ((s.warp wid).det = true → f.a.reg.toNat ∉ timing) →
    ∃ t, exec (.movs f) s = .next t ∧ Lands s t wid f (lambda f .a) 1 fun i => s.sreg (s.warp wid) f.a.reg.toNat i) ∧
  (∀ s wid f, Chosen s wid → ((s.warp wid).det = true → f.a.reg.toNat ∉ timing) →
    ∃ t, exec (.movsw f) s = .next t ∧ Lands s t wid f (lambda f .a) 2 fun i => s.sreg64 (s.warp wid) f.a.reg.toNat i) ∧
  (∀ s wid f, Chosen s wid → f.var ≠ 0 → (s.warp wid).exec f = 0 →
    ∃ t, exec (.movs f) s = .next t ∧ Lands s t wid f (lambda f .a) 0 fun _ => 0) ∧
  (∀ s wid f v, Chosen s wid → f.var ≠ 0 → (s.warp wid).exec f ≠ 0 →
    (∀ i ∈ lanesOf ((s.warp wid).exec f), (if f.isImm then f.immVal else (s.warp wid).src f.a i) = v) →
    ∃ t, exec (.movs f) s = .next t ∧
      Issues s t wid f (putLanding { due := s.now (s.warp wid) + lambda f .a, exm := some v, flag := f.flag }))

/-! ## Floating point, conversions, dot products, special functions -/

/-- R173, R176, R177, R179, R182: the float pipeline's element instructions complete on every chosen warp whose cycle the f64 pace does not
forbid: one register, a pair for f64, or the registers of a paired variant. An f64 FADD, FSUB, FMUL or FFMA blocks the slot's next
cycle. -/
def Obligations.FloatElements : Prop :=
  let free (s : State) (w : Warp) : Prop := ¬(w.timed = true ∧ s.f64Blocked w = true)
  let pace (s : State) (w : Warp) (f : Fields) (k : Core) : Core :=
    if f.ty = .f64 then { k with f64Next := aput k.f64Next w.slot (s.now w + 1) } else k
  let one (g : Fields → Nat → Nat → Nat → Nat) (w : Warp) (f : Fields) (i h : Nat) : Nat :=
    zipElems3 f.ty (g f) (w.fsrc f.ty f.a i h) (w.fsrcB f i h) (w.fsrc f.ty f.c i h)
  let gives (i : Fields → Instr) (block : Bool) (g : Fields → Nat → Nat → Nat → Nat) : Prop :=
    ∀ s wid f, Chosen s wid → free s (s.warp wid) → ∃ t, exec (i f) s = .next t ∧
      Lands s t wid f (lambda f .m) (if pairedVar f then 2 else tyRegs f.ty)
        (fun l => one g (s.warp wid) f l 0 + (if pairedVar f then 2 ^ 32 * one g (s.warp wid) f l 1 else 0))
        (if block then pace s (s.warp wid) f else id)
  gives .fadd true (fun f x y _ => (fmtOf f.ty).add (modeOf f) x y) ∧
  gives .fsub true (fun f x y _ => (fmtOf f.ty).sub (modeOf f) x y) ∧
  gives .fmul true (fun f x y _ => (fmtOf f.ty).mul (modeOf f) x y) ∧
  gives .ffma true (fun f x y z => (fmtOf f.ty).fma (modeOf f) x y z) ∧
  gives .fmin false (fun f x y _ => (fmtOf f.ty).minmax false false x y) ∧
  gives .fmax false (fun f x y _ => (fmtOf f.ty).minmax true false x y) ∧
  gives .fminp false (fun f x y _ => (fmtOf f.ty).minmax false true x y) ∧
  gives .fmaxp false (fun f x y _ => (fmtOf f.ty).minmax true true x y) ∧
  gives .frnd false (fun f x _ _ => (fmtOf f.ty).rnd (modeOf f) x)

/-- R180, R181, R183, R184: FCMP and FCLASS give a bit for each element, FSCALE a scaled element, FEXP the exponent (one register even for
f64) or the mantissa. -/
def Obligations.FloatTests : Prop :=
  let free (s : State) (w : Warp) (_ : Fields) : Prop := ¬(w.timed = true ∧ s.f64Blocked w = true)
  Gives .fcmp .m (fun _ => 1) (fun w f i =>
    cmpBits f.ty ((fmtOf f.ty).cond f.var.toNat) (w.fsrc f.ty f.a i 0) (w.fsrcB f i 0)) free ∧
  Gives .fclass .m (fun _ => 1) (fun w f i =>
    cmpBits f.ty (fun x _ => bitAt (w.wordB f i).toNat ((fmtOf f.ty).cls x)) (w.fsrc f.ty f.a i 0) 0) free ∧
  Gives .fscale .m (fun f => tyRegs f.ty) (fun w f i =>
    mapElems f.ty (fun x => (fmtOf f.ty).scale (modeOf f) x (sx 32 (w.wordB f i).toNat)) (w.fsrc f.ty f.a i 0)) free ∧
  Gives .fexp .m (fun f => if f.var = 0 then 1 else tyRegs f.ty) (fun w f i =>
    let x := w.fsrc f.ty f.a i 0
    let F := fmtOf f.ty
    if f.var = 0 then (if f.ty = .f64 then F.expPart 32 x else mapElems f.ty (F.expPart F.bits) x) else mapElems f.ty F.manPart x) free

/-- R167 to R169, R185, R187 to R189: CVT, PACK and UNPK convert element by element; the dot products add the exact sum of the element
products to DST; the special functions give their function of each element. -/
def Obligations.ConvertAndDot : Prop :=
  let dot (w : Warp) (f : Fields) (i : Nat) : Nat :=
    let acc : Int := if f.ty.isSigned then sx 32 (w.reg f.dst.toNat i).toNat else ((w.reg f.dst.toNat i).toNat : Int)
    intOut (if f.ty.isSigned then .i32 else .n32) (satVar f)
      (((List.range (elemCount f.ty)).map fun j => intA w f i j * intB w f i j).foldl (· + ·) acc)
  let scaled (w : Warp) (f : Fields) (i : Nat) : Nat :=
    let c := (w.src f.c i).toNat
    dotFloat (modeOf f) ((fld c 0 8 : Int) + fld c 8 8 - 254) (dotScaled f.ty (w.opA f.ty f i) (fld c 0 8) (fld c 16 16))
      (dotScaled f.ty (w.opB f.ty f i) (fld c 8 8) (fld c 16 16)) (w.reg f.dst.toNat i).toNat
  let sfu (i : Fields → Instr) (g : Fmt → Nat → Nat) : Prop :=
    GivesElems i .s (fun w f l j => g (fmtOf f.ty) (elem f.ty (w.opA f.ty f l) j) % 2 ^ elemBits f.ty)
  Gives .cvt .m (fun f => tyRegs f.ty) (fun w f i =>
    let S := Ty.ofCode (f.immVal.truncate 4)
    unelems (elemBits f.ty) ((List.range (elemCount f.ty)).map fun j => convert S f.ty f.var.toNat (elem S (w.opnd S f.a i) j))) ∧
  Gives .pack .m (fun _ => 1) (fun w f i =>
    let S := widerOf f.ty
    let n := elemCount f.ty / 2
    unelems (elemBits f.ty) ((List.range (2 * n)).map fun j =>
      convert S f.ty f.var.toNat (if j < n then elem S (w.opnd S f.a i) j else elem S (w.opnd S f.b i) (j - n)))) ∧
  Gives .unpk .m (fun _ => 2) (fun w f i =>
    unelems (elemBits (widerOf f.ty)) ((List.range (elemCount f.ty)).map fun j =>
      convert f.ty (widerOf f.ty) 0 (elem f.ty (w.opA f.ty f i) j))) ∧
  Gives .dot4 .m (fun _ => 1) dot ∧ Gives .dot8 .m (fun _ => 1) dot ∧
  Gives .dotf8 .m (fun _ => 1) scaled ∧ Gives .dotf4 .m (fun _ => 1) scaled ∧
  Gives .dot2h .m (fun _ => 1) (fun w f i =>
    dotFloat (modeOf f) 0 ((elems 16 2 (w.opA f.ty f i)).map (dotElem f.ty)) ((elems 16 2 (w.opB f.ty f i)).map (dotElem f.ty))
      (w.reg f.dst.toNat i).toNat) ∧
  sfu .rcp Fmt.rcp ∧ sfu .rsq Fmt.rsq ∧ sfu .ex2 Fmt.ex2 ∧ sfu .lg2 Fmt.lg2 ∧
  sfu .fsin Fmt.fsin ∧ sfu .fcos Fmt.fcos ∧ sfu .tanh Fmt.tanh ∧ sfu .sigm Fmt.sigm

/-! ## Between lanes -/

/-- R210, R215, R216: the exchanges complete on every chosen warp: a lane takes source a of the lane that b names where that lane
supplies it, its own otherwise. BCAST `.lane` needs one lane number, and lands nothing where no lane executes it; `.first` and `.last` take the
ends of the supplying set. -/
def Obligations.Exchanges : Prop :=
  let own (w : Warp) (f : Fields) (i j : Nat) : Nat := if j ∈ w.supplySet i then w.rawA f j else w.rawA f i
  let b (w : Warp) (f : Fields) (i : Nat) : Nat := (w.wordB f i).toNat
  let R (f : Fields) : Nat := tyRegs f.ty
  GivesPrev .shfl .x R (fun w f i => own w f i (b w f i)) ∧
  GivesPrev .shflx .x R (fun w f i => own w f i (i ^^^ (b w f i % 32))) ∧
  GivesPrev .shflu .x R (fun w f i => if b w f i ≤ i then own w f i (i - b w f i) else w.rawA f i) ∧
  GivesPrev .shfld .x R (fun w f i => own w f i (i + b w f i)) ∧
  (∀ k, GivesPrev .bcast .x R (fun w f i => own w f i k)
    (fun w f => f.var = 0 ∧ w.exec f ≠ 0 ∧ ∀ i ∈ lanesOf (w.exec f), b w f i = k)) ∧
  (∀ s wid f, Chosen s wid → f.var = 0 → (s.warp wid).prev.exec f = 0 → ∃ t, exec (.bcast f) s = .next t ∧
    LandsPrev s t wid f (lambda f .x) 0 fun _ => 0) ∧
  GivesPrev .bcast .x R (fun w f i => own w f i (((if f.var = 1 then (w.supplySet i).head? else (w.supplySet i).getLast?)).getD i))
    (fun _ f => f.var ≠ 0)

/-- R217 to R223: votes, reductions, scans and COMPACT complete on every chosen warp, over the lanes that supply the reader. REDM's argument forms
give the least or greatest value with the lowest index that holds it; where a lane holds a NaN, the NaN of the lowest index, quietened. -/
def Obligations.VotesAndReductions : Prop :=
  let bit (w : Warp) (f : Fields) (j : Nat) : Bool := bitAt (w.reg f.a.reg.toNat j).toNat (f.immVal.toNat % 32)
  GivesPrev .vote .x (fun _ => 1) (fun w f i =>
    let x := w.supplySet i
    let all := x.all (bit w f)
    let any := x.any (bit w f)
    if (if f.var = 0 then all else if f.var = 1 then any else all || !any) then 1 else 0) ∧
  GivesPrev .ballot .x (fun _ => 1) (fun w f i => (maskOf fun j => (w.supplySet i).contains j && bit w f j).toNat) ∧
  GivesPrev .matchOp .x (fun _ => 1) (fun w f i => (maskOf fun j => (w.supplySet i).contains j && w.rawA f j == w.rawA f i).toNat) ∧
  GivesPrev .redi .y (fun f => tyRegs f.ty) (fun w f i => reduceInt f.ty f.var.toNat ((w.supplySet i).map (w.rawA f))) ∧
  GivesPrev .redf .y (fun f => tyRegs f.ty) (fun w f i =>
    perElem f.ty fun e => treeSum ((fmtOf f.ty).add f.var.toNat) (floatLeaves (fmtOf f.ty) (w.supplySet i) fun j => e (w.rawA f j))) ∧
  GivesPrev .redm .y (fun f => tyRegs f.ty) (fun w f i =>
    perElem f.ty fun e => reduceMinmax (fmtOf f.ty) (f.var.toNat % 2 == 1) (decide (2 ≤ f.var.toNat))
      ((w.supplySet i).map fun j => e (w.rawA f j))) (fun _ f => f.var.toNat < 4) ∧
  (∀ s wid f, Chosen s wid → 4 ≤ f.var.toNat → ∃ t v, exec (.redm f) s = .next t ∧ LandsPrev s t wid f (lambda f .y) 2 v ∧
    let w := (s.warp wid).prev
    ∀ i ∈ lanesOf (w.exec f),
      let x := w.supplySet i
      let idx (j : Nat) : Nat := if f.isImm then (f.immVal.toNat + j) % 2 ^ 32 else (w.reg f.b.reg.toNat j).toNat
      let key (j : Nat) := imageOf f.ty (w.rawA f j)
      let nan (j : Nat) : Bool := f.ty.isFloat && (fmtOf f.ty).isNan (w.rawA f j)
      ∃ j ∈ x, v i = (if nan j then (fmtOf f.ty).quiet (w.rawA f j) else w.rawA f j) + 2 ^ 32 * idx j ∧ (nan j = true → ∀ k ∈ x, nan k = true → idx j < idx k ∨ (idx j = idx k ∧ j ≤ k)) ∧
        (nan j = false → ∀ k ∈ x, nan k = false ∧
          (if f.var = 5 then key k ≤ key j else key j ≤ key k) ∧ (key k = key j → idx j ≤ idx k))) ∧
  GivesPrev .scan .y (fun f => tyRegs f.ty) (fun w f i =>
    reduceInt f.ty (f.var.toNat % 8) (((w.supplySet i).filter fun j =>
      if 8 ≤ f.var.toNat then decide (j < i) else decide (j ≤ i)).map (w.rawA f))) (fun _ f => f.ty.isFloat = false) ∧
  GivesPrev .scan .y (fun f => tyRegs f.ty) (fun w f i =>
    let F := fmtOf f.ty
    perElem f.ty fun e =>
      let l := floatLeaves F (w.supplySet i) fun j => e (w.rawA f j)
      let l := if 8 ≤ f.var.toNat then (F.signed true 0 :: l).take 32 else l
      (([1, 2, 4, 8, 16].foldl (scanStep (F.add (f.var.toNat % 8))) l)[i]?).getD 0) (fun _ f => f.ty.isFloat = true) ∧
  GivesPrev .compact .y (fun f => tyRegs f.ty) (fun w f i =>
    let x := w.supplySet i
    w.rawA f (((x.filter fun j => (w.reg f.b.reg.toNat j).getLsbD 0)[(x.takeWhile (· != i)).length]?).getD i))

/-! ## Control transfer -/

/-- R193, R194, R202, R203, R205 to R207: the words that change their warp alone complete on every chosen warp: NOP changes nothing more;
PREP and PREPV prepare a register, PREPV with one target that its image admits, and unset VALID for one it does not; HOLD opens a
region; ICINV makes registers STALE; SLEEP puts off the next word; EXIT clears LIVE. -/
def Obligations.StraightControl : Prop :=
  Changes .nop (fun _ _ _ w => w) ∧
  Changes .prep (fun s w0 f w => w.setBreg f.dst.toNat (prepared f.immVal 0 (s.now w0))) ∧
  Changes .prepv (fun _ _ _ w => w) (fun _ w f => w.exec f = 0) ∧
  (∀ (v : Word) (n : BitVec 16), Changes .prepv
    (fun s w0 f w => w.setBreg f.dst.toNat
      (if s.admitsTarget w0 v.toNat then prepared v n (s.now w0) else { w.breg f.dst.toNat with valid := false }))
    (fun _ w f => w.exec f ≠ 0 ∧ ∀ i ∈ lanesOf (w.exec f), w.src f.a i = v ∧ (w.wordB f i).truncate 16 = n)) ∧
  Changes .hold (fun s _ f w => { w with region := some { left := f.immVal.toNat % 64, opened := s.wall, last := s.wall } }) ∧
  Changes .icinv (fun s w0 f w =>
    let base := (s.imageVa w0).toNat
    { w with bregs := w.bregs.map fun b =>
        if b.valid ∧ (f.immVal = 0xFFFFFFFF ∨ (base + b.target.toNat) / 2 ^ 18 = (base + f.immVal.toNat) / 2 ^ 18)
        then { b with stale := true } else b }) ∧
  Changes .sleep (fun s w0 f w => { w with ready := s.now w0 + max f.immVal.toNat 1, target := true }) ∧
  Changes .exit (fun _ w0 f w => { w with live := w.live &&& ~~~w0.exec f }) (fun _ _ f => f.sched.pen = true) ∧
  Changes .exit (fun _ _ _ w => { w with live := w.live &&& w.park, held := 0, ended := true }) (fun _ _ f => f.sched.pen = false)

/-- R195 to R199: XFER is taken by its predicate (variant 1: some active lane, else every one), CALL also prepares the return register,
RET and LOOP complete on every chosen warp whose register is valid and not stale; a transfer not taken falls through. -/
def Obligations.Transfers : Prop :=
  let B (f : Fields) : Nat := f.a.reg.toNat
  let jump (s : State) (w0 : Warp) (f : Fields) (w : Warp) : Warp := goesTo s w0 (w0.bregP (B f)).target (s.prepOf w0 (B f) + 32) w
  let taken (w : Warp) (f : Fields) : Prop := f.sched.pen = false ∨
    (if f.var = 1 then w.active &&& w.predMask f ≠ 0 else w.active ≠ 0 ∧ w.active &&& w.predMask f = w.active)
  Changes .xfer jump (fun _ w f => taken w f ∧ usable w (B f)) ∧
  Changes .xfer (fun _ _ _ w => w) (fun _ w f => ¬taken w f ∧ (f.var = 0 → w.active &&& w.predMask f = 0)) ∧
  Changes .call (fun s w0 f w =>
    jump s w0 f (w.setBreg f.dst.toNat (prepared ((w0.pc + 16 - s.imageVa w0).truncate 32) 0 (s.now w0)))) (fun _ w f => usable w (B f)) ∧
  Changes .ret jump (fun _ w f => usable w (B f)) ∧
  Changes .loop (fun _ _ f w => w.setBreg (B f) { w.breg (B f) with count := 0 }) (fun _ w f => (w.breg (B f)).count.toNat < 2) ∧
  Changes .loop (fun s w0 f w => jump s w0 f (w.setBreg (B f) { w.breg (B f) with count := (w0.breg (B f)).count - 1 }))
    (fun _ w f => 2 ≤ (w.breg (B f)).count.toNat ∧ usable w (B f))

/-- R200, R201: XFERS pushes an entry for the lanes it leaves, and JOIN runs the pending path or pops the entry and restores EXM. -/
def Obligations.Divergence : Prop :=
  let rest (w : Warp) (f : Fields) : Lanes := w.active &&& ~~~(w.active &&& w.predMask f)
  let entry (s : State) (w0 : Warp) (f : Fields) (phase : Bool) : StackEntry :=
    { saved := w0.exm, pend := rest w0 f, joinoff := offBits f.immVal, resume := offBits (s.nextOff w0), phase }
  Changes .xfers (fun s w0 f w => { w with stack := entry s w0 f false :: w.stack })
    (fun _ w f => w.stack.length ≠ 16 ∧ f.sched.pen = true ∧ w.active &&& w.predMask f = 0) ∧
  Changes .xfers (fun s w0 f w =>
      goesTo s w0 (w0.bregP f.a.reg.toNat).target (s.prepOf w0 f.a.reg.toNat + 32)
        ({ w with stack := entry s w0 f true :: w.stack }.setExm (w.exm &&& ~~~rest w0 f)))
    (fun _ w f => w.stack.length ≠ 16 ∧ ¬(f.sched.pen = true ∧ w.active &&& w.predMask f = 0) ∧ usable w f.a.reg.toNat) ∧
  (∀ e r, Changes .join (fun s w0 _ w => goesTo s w0 (offOf e.resume) 0 ({ w with stack := { e with phase := false } :: r }.setExm e.pend))
    (fun _ w _ => w.stack = e :: r ∧ e.phase = true ∧ e.pend ≠ 0)) ∧
  (∀ e r, Changes .join (fun s w0 _ w => goesTo s w0 (offOf e.joinoff) 0 ({ w with stack := r }.setExm e.saved))
    (fun _ w _ => w.stack = e :: r ∧ ¬(e.phase = true ∧ e.pend ≠ 0)))

/-! ## Memory -/

/-- R90 to R93, R105, R115 to R117: LD, ST and LDRO, timed or not, complete their issue where no lane faults: an operation in flight with
each lane's address, place and store data, scratchpad lanes in the core's pipeline. A word that no lane executes only counts down. The order of checks in
deterministic mode is the model's (log 37, DEDUCED): the scratchpad lanes of a word without other lanes are checked at issue, those of a mixed word
are held for one check of all its lanes. -/
def Obligations.LoadsAndStores : Prop :=
  (accessWord (.load false)).Completes .ld ∧ (accessWord .store).Completes .st ∧ (accessWord (.load true)).Completes .ldro ∧
  (let idle (_ : State) (w : Warp) (f : Fields) : Prop := w.exec f = 0 ∧ (8 ≤ f.var.toNat → w.timed = true → w.lockOpen = true)
   Enters .ld (fun s wid f => quietOp s wid f 1) idle ∧ Enters .st (fun s wid f => quietOp s wid f 1) idle ∧
   Enters .ldro (fun s wid f => quietOp s wid f 1) idle)

/-- R229, R235, R269: LDS, STS, ATOMS and CASS complete their issue where every lane's offset lies in its window. Without lanes LDS and STS
land nothing and count their flag down at the landing cycle, ATOMS and CASS in the next cycle. -/
def Obligations.Scratchpad : Prop :=
  let idle (i : Fields → Instr) : Prop := ∀ s wid f, Chosen s wid → (s.warp wid).exec f = 0 → ∃ t, exec (i f) s = .next t ∧
    Lands s t wid f (16 + (if f.patterned then 2 else 0)) 0 fun _ => 0
  (padWord false).Completes .lds ∧ (padWord true).Completes .sts ∧
  (padAtomWord (fun f => .atomic (atomOfVar f.var.toNat) true) (fun f => .atomic (atomOfVar f.var.toNat) f.ty true)
    (fun w f i => w.whole f.ty f.b i) fun _ _ _ => 0).Completes .atoms ∧
  (padAtomWord (fun _ => .cas) (fun _ => .cas) (fun w f i => w.whole f.ty f.c i) fun w f i => w.whole f.ty f.b i).Completes .cass ∧
  idle .lds ∧ idle .sts ∧ IdleEnters .atoms ∧ IdleEnters .cass

/-- R265 to R270, R278 to R280: ATOM, RED, CAS, CWT, BITSET and BITWAIT complete their issue where no lane faults, the last two for a
member of a group with a bitmap that holds every lane's bit; FENCE of cluster scope or above waits for what it orders, any other counts
down in the next cycle. -/
def Obligations.Atomics : Prop :=
  let member (s : State) (w : Warp) (f : Fields) : Prop :=
    ((s.pdk w.pdk).group (groupOf f)).isSome = true ∧ s.isMember w (groupOf f) = true ∧ (mapOf s w f).mapaddr ≠ 0
  (atomWord (fun f => .atomic (atomOfVar f.var.toNat) true) (fun w f i => w.effAddr f i) (fun w f i => w.whole f.ty f.c i)
    (fun _ _ _ => 0) true).Completes .atom ∧
  (atomWord (fun f => .atomic (atomOfVar f.var.toNat) false) (fun w f i => w.effAddr f i) (fun w f i => w.whole f.ty f.c i)
    (fun _ _ _ => 0) false).Completes .red ∧
  (atomWord (fun _ => .cas) (fun w f i => w.src64 f.a i) (fun w f i => w.whole f.ty f.c i) (fun w f i => w.whole f.ty f.b i) true).Completes .cas ∧
  cwtWord.Completes .cwt ∧ (bitsWord true).Completes .bitset member ∧ (bitsWord false).Completes .bitwait member ∧
  Enters .fence (fun s wid f => quietOp s wid f 1) (fun _ w f => w.exec f = 0 ∨ f.var.toNat < 2) ∧
  Enters .fence (fun s wid f => opOf wid (s.warp wid) f (.fence (scopeOf f.var.toNat))) (fun _ w f => w.exec f ≠ 0 ∧ 2 ≤ f.var.toNat) ∧
  IdleEnters .atom ∧ IdleEnters .red ∧ IdleEnters .cas ∧ IdleEnters .cwt ∧ IdleEnters .bitset ∧ IdleEnters .bitwait

/-- R103, R119 to R121: PREF brings lines to the read-only cache where no lane needs a walk, and puts an operation in flight for those that
do; TLOCK opens a locked region and locks the translation of every lane; TFREE releases the warp's entries. -/
def Obligations.PrefetchAndLocks : Prop :=
  let acc (w : Warp) (f : Fields) (i : Nat) : Acc := { lane := i, asid := w.asidOf i, addr := w.effAddr f i }
  let ps (s : State) (w : Warp) (f : Fields) : List (Acc × Option LaneFault) :=
    (lanesOf (w.exec f)).map fun i => s.probe w (acc w f i) true false false (s.spot w i 1 1 true true (w.effAddr f i))
  let walks (w : Warp) (p : Acc × Option LaneFault) : Prop := p.2 = none ∧ p.1.stage = .walk ∧ w.lockOpen = false
  let fill (s : State) (w : Warp) (f : Fields) (k : Core) : Core :=
    if f.var = 1 then ((ps s w f).filter fun p => p.2.isNone && p.1.stage == .ready && !p.1.pad).foldl
      (fun k p => { k with ro := ((p.1.pa / 64) :: k.ro.filter (· != p.1.pa / 64)).take Config.roLines }) k else k
  (∀ s wid f, Chosen s wid → (∀ p ∈ ps s (s.warp wid) f, ¬walks (s.warp wid) p) →
    ∃ t, exec (.pref f) s = .next t ∧ Issues s t wid f id [quietOp s wid f 1] (fill s (s.warp wid) f)) ∧
  (∀ s wid f, Chosen s wid → (∃ p ∈ ps s (s.warp wid) f, walks (s.warp wid) p) →
    ∃ t accs, exec (.pref f) s = .next t ∧
      Issues s t wid f id [enters s wid { opOf wid (s.warp wid) f (.pref (f.var == 1)) with bytes := 1, accs }] (fill s (s.warp wid) f) ∧
      accs.map (·.lane) = lanesOf ((s.warp wid).exec f) ∧ ∀ a ∈ accs, a.stage = .walk ∨ a.stage = .done ∨ a.stage = .gone) ∧
  (∀ s wid f, Chosen s wid → FreshId s → (∀ p ∈ ps s (s.warp wid) f, p.2 = none) → (∃ p ∈ ps s (s.warp wid) f, p.1.stage = .walk) →
    ∃ t, exec (.tlock f) s = .next t ∧
      Issues s t wid f (fun w => { w with lockOpen := true })
        [enters s wid { opOf wid (s.warp wid) f .tlock with bytes := 1, accs := (ps s (s.warp wid) f).map (·.1) }]) ∧
  (∀ s wid f, Chosen s wid → FreshId s → (s.warp wid).exec f ≠ 0 →
    (s.lockedIn (s.warp wid).core (s.warp wid).slot).length + (lanesOf ((s.warp wid).exec f)).length ≤ 16 →
    (∀ i ∈ lanesOf ((s.warp wid).exec f), ∃ va pa spec, s.spot (s.warp wid) i 1 1 true true ((s.warp wid).effAddr f i) = .glob va ∧
      s.lookup (s.warp wid).core (s.warp wid).pdk ((s.warp wid).asidOf i) va true false = .hit pa spec) →
    ∃ t, exec (.tlock f) s = .next t ∧ (t.warp wid).lockOpen = true ∧ t.mem = s.mem ∧
      ∀ i ∈ lanesOf ((s.warp wid).exec f), ∀ va, s.spot (s.warp wid) i 1 1 true true ((s.warp wid).effAddr f i) = .glob va →
        ∃ e, s.tlbHit (s.warp wid).core (s.warp wid).pdk ((s.warp wid).asidOf i) va = some e ∧ lockKeyOf e ∈ (t.warp wid).locks) ∧
  (∀ s wid f, Chosen s wid → ∃ t, exec (.tfree f) s = .next t ∧
    Issues s t wid f (fun w => { w with locks := [], lockOpen := false }) [quietOp s wid f 1]
      fun k => { k with tlb := k.tlb.map fun e => { e with locks := e.locks.filter (·.2 != wid) } })

/-- R231, R232, R236 to R238, R246: SPTAG lands the slot of the entry with the key, 0xFFFFFFFF without one; SPSET and SPCLR queue the update of the
slots that the lanes name, where each lies in its window. In deterministic mode each runs so where its check does not conflict: SPTAG reads every
entry of the windows, SPCLR of whole windows writes them, SPSET and SPCLR of slots write the entries they change. -/
def Obligations.Tags : Prop :=
  let win (s : State) (w : Warp) (i : Nat) : Option Window := s.window? w.core w (w.asidOf i)
  let whole (s : State) (w : Warp) (f : Fields) (k : DetKind) : List (Nat × DetKind) :=
    (((w.asids (w.exec f)).filterMap (s.window? w.core w)).flatMap Window.list).map fun n => (tagKey w.core n, k)
  let named (s : State) (w : Warp) (f : Fields) (tag : Nat → Tag) : List (Nat × DetKind) :=
    (lanesOf (w.exec f)).flatMap fun i =>
      let x := (win s w i).getD {}
      let n := x.base + (w.wordB f i).toNat
      let same (y : Nat × Tag) : Bool := x.list.contains y.1 && y.1 != n && y.2.asid == (tag i).asid && y.2.tag == (tag i).tag
      (n :: if (tag i).valid then (((s.core w.core).tagsAt (s.now w + 16)).filter same).map (·.1) else []).map fun n => (tagKey w.core n, .write)
  let setTo (w : Warp) (f : Fields) (i : Nat) : Tag :=
    { valid := true, dirty := f.var == 1, asid := BitVec.ofNat 16 (w.asidOf i), tag := keyTag (w.src64 f.a i) }
  let inside (s : State) (w : Warp) (f : Fields) : Prop :=
    ∀ i ∈ lanesOf (w.exec f), ∃ x, win s w i = some x ∧ (w.wordB f i).toNat < x.slots
  let recs (d : List DetRec) (s : State) : State := { s with det := d }
  let update (s : State) (w : Warp) (f : Fields) (tag : Nat → Tag) (k : Core) : Core :=
    { k with tagq := k.tagq ++ (lanesOf (w.exec f)).map fun i =>
        let x := (win s w i).getD {}
        { due := s.now w + 16, slot := w.slot, base := x.base, slots := x.slots, sets := [(x.base + (w.wordB f i).toNat, tag i)] } }
  let none_ (s : State) (wid : Nat) (f : Fields) : Landing := landing s wid f (lambda f .l) 0 fun _ => 0
  (∀ s wid f d, Chosen s wid → Checked s (s.warp wid) (whole s (s.warp wid) f .read) d → ∃ t, exec (.sptag f) s = .next t ∧
    Issues s t wid f (putLanding (landing s wid f (lambda f .l) 1 fun i =>
      let w := s.warp wid
      match win s w i with
      | none => 0xFFFFFFFF
      | some x =>
        match ((s.core w.core).tagsAt (s.now w)).find? fun y =>
          x.list.contains y.1 && y.2.valid && y.2.asid.toNat == w.asidOf i && y.2.tag == keyTag (w.src64 f.a i) with
        | some y => (y.1 - x.base) % 256 + (if y.2.dirty then 256 else 0)
        | none => 0xFFFFFFFF)) [] id (recs d)) ∧
  (∀ s wid f d, Chosen s wid → inside s (s.warp wid) f → Checked s (s.warp wid) (named s (s.warp wid) f (setTo (s.warp wid) f)) d →
    ∃ t, exec (.spset f) s = .next t ∧
      Issues s t wid f (putLanding (none_ s wid f)) [] (update s (s.warp wid) f (setTo (s.warp wid) f)) (recs d)) ∧
  (∀ s wid f d, Chosen s wid → f.var = 0 → inside s (s.warp wid) f → Checked s (s.warp wid) (named s (s.warp wid) f fun _ => {}) d →
    ∃ t, exec (.spclr f) s = .next t ∧
      Issues s t wid f (putLanding (none_ s wid f)) [] (update s (s.warp wid) f fun _ => {}) (recs d)) ∧
  (∀ s wid f d, Chosen s wid → f.var ≠ 0 → Checked s (s.warp wid) (whole s (s.warp wid) f .write) d → ∃ t, exec (.spclr f) s = .next t ∧
    Issues s t wid f (putLanding (none_ s wid f)) [] (fun k =>
      { k with tagq := k.tagq ++ (((s.warp wid).asids ((s.warp wid).exec f)).filterMap (s.window? (s.warp wid).core (s.warp wid))).map fun x =>
          { due := s.now (s.warp wid) + 16, slot := (s.warp wid).slot, base := x.base, slots := x.slots, sets := x.list.map fun n => (n, {}) } })
      (recs d))

/-- R233, R239 to R241, R244 to R246: a copy whose lanes pass their checks is in flight with their ranges; in deterministic mode, once each lane has
its pages, the lines it reads and writes are checked first, and do not conflict; CSEAL closes each executing lane's batch and lands its number; CWAIT
waits for batches. -/
def Obligations.Copies : Prop :=
  let goes (i : Fields → Instr) (form : Nat) (mk : Fields → Warp → Nat → Acc)
      (lane : Fields → State → Warp → Nat → Range × Range × Nat × Nat × Bool) : Prop :=
    ∀ s wid f d, Chosen s wid → (s.warp wid).exec f ≠ 0 →
      let qs := (lanesOf ((s.warp wid).exec f)).map (s.copyProbe (s.warp wid) form (mk f) (lane f))
      let x := enters s wid { opOf wid (s.warp wid) f (.copy form) with write := true, accs := qs.map (·.1) }
      let found := (s.warp wid).det && x.accs.all fun a => a.stage != .walk && a.stage != .touch
      (∀ q ∈ qs, q.2.1 = none ∧ ((s.warp wid).lockOpen = true → q.2.2 = false)) → FreshId s →
      Checked s (s.warp wid) (if found then s.copyKeys x else []) d →
      ∃ t, exec (i f) s = .next t ∧ Issues s t wid f id [{ x with checked := found }] id fun s => { s with det := d }
  let len (w : Warp) (f : Fields) (i : Nat) : Nat := (w.src f.c i).toNat
  goes .cpy 0 (fun f w i => { addr := w.src64 f.a i }) (fun f s w i =>
    (s.rangeOf w i (len w f i) true (w.src64 f.a i), s.rangeOf w i (len w f i) true (w.src64 f.b i), len w f i, 4, true)) ∧
  goes .cpym 1 (fun f w i => { addr := (w.src f.a i).setWidth 64, data := ((w.src f.c i) >>> 24 &&& 0xF).setWidth 128 }) (fun f s w i =>
    let n := fld (len w f i) 0 24
    let inWin (k : Nat) : Bool := match (((s.clusterOf w).map (·.cores)).getD [])[k]? with
      | some core => (match padSpot (s.window? core w (w.asidOf i)) ((w.src f.a i).toNat : Int) n 1 0 with | .pad _ => true | _ => false)
      | none => false
    (.pad (w.src f.a i).toNat (padPtr (w.src f.a i).toNat), s.rangeOf w i n false (w.src64 f.b i), n, 4,
      fld (len w f i) 28 4 == 0 && (List.range 4).all fun k => !bitAt (len w f i) (24 + k) || inWin k)) ∧
  goes .cpyg 2 (fun f w i => { addr := (w.src f.a i).setWidth 64 }) (fun f s w i =>
    (s.rangeAt w i (elemSize f) (w.src f.a i).toNat, s.rangeOf w i (elemSize f) false (w.src64 f.b i), elemSize f, elemSize f, true)) ∧
  goes .cscat 3 (fun f w i => { addr := w.src64 f.a i }) (fun f s w i =>
    (s.rangeOf w i (elemSize f) false (w.src64 f.a i), s.rangeAt w i (elemSize f) (w.src f.b i).toNat, elemSize f, elemSize f, true)) ∧
  (∀ s wid f, Chosen s wid → ∃ t, exec (.cseal f) s = .next t ∧
    Issues s t wid f (fun w => putLanding (landing s wid f (lambda f .a) 1 fun i => (mget (s.warp wid).batch i + 1).toNat)
      { w with batch := msetAll w.batch ((lanesOf ((s.warp wid).exec f)).map fun i => (i, mget (s.warp wid).batch i + 1)) })) ∧
  Enters .cwait (fun s wid f => { opOf wid (s.warp wid) f (.cwait (f.var == 1)) with
      accs := (lanesOf ((s.warp wid).exec f)).map fun i =>
        let c := (mget (s.warp wid).batch i).setWidth 64
        { lane := i, stage := .ready, cmp := if f.var == 0 then ((s.warp wid).src f.a i).setWidth 64 else c, addr := c } })
    (fun _ w f => w.exec f ≠ 0) ∧
  IdleEnters .cwait

/-- R367, R369, R371, R372: RNG lands the four words of a Philox block, or their floats; TRNODE a tree node's word, zero for none; PGSPEC,
PGCMT and PGDROP are in flight with the page of each executing lane. -/
def Obligations.Drafting : Prop :=
  let pages (i : Fields → Instr) (op : PageOp) : Prop :=
    (∀ s wid f, Chosen s wid → (s.warp wid).timed = false → (s.warp wid).exec f ≠ 0 →
      let qs := (lanesOf ((s.warp wid).exec f)).map fun i =>
        (s.pageLane (s.warp wid) op { lane := i, asid := (s.warp wid).asidOf i, addr := (s.warp wid).src64 f.a i } false).1
      (∀ q ∈ qs, q.2.1 = none ∧ ((s.warp wid).lockOpen = true → q.2.2 = false)) →
      ∃ t, exec (i f) s = .next t ∧ Issues s t wid f id
        [enters s wid { opOf wid (s.warp wid) f (.page op) with write := true, accs := qs.map (·.1) }]) ∧
    Enters i (fun s wid f => quietOp s wid f 1) (fun _ w f => w.timed = false ∧ w.exec f = 0)
  Gives .rng .s (fun _ => 4) (fun w f i =>
    let c (k : Nat) : Nat := (w.reg (f.a.reg.toNat + k) (w.srcLane f.a i)).toNat
    let key := (w.src64 f.b i).toNat
    let r := philox (c 0, c 1, c 2, c 3) (fld key 0 32) (fld key 32 32)
    unelems 32 (if f.var == 1 then r.map rngFloat else r)) ∧
  (∀ s wid f, Chosen s wid → ∃ t, exec (.trnode f) s = .next t ∧ Lands s t wid f (lambda f .m) 1 fun i =>
    let w := s.warp wid
    let q := s.pdk w.pdk
    let j := (w.src f.a i).toNat
    let n := (w.src f.b i).toNat
    if 64 ≤ j ∨ 32 ≤ n ∨ bitAt (q.node n j) 15 = false then 0
    else (if q.nodeKept n (w.src64 f.c i).toNat 64 j then 2 ^ 31 else 0) + fld (q.node n j) 6 3 * 2 ^ 6 + fld (q.node n j) 0 6) ∧
  pages .pgspec .spec ∧ pages .pgcmt .cmt ∧ pages .pgdrop .drop

/-! ## Groups -/

/-- R83, R84, R272 to R276: BAR, BARA, BARW, NBAR and GLEAVE of a member, and GJOIN of a warp that may join, put the arrival, wait, join or
leave in flight; GJOIN takes its member slot at once. A word that no lane executes only counts down. -/
def Obligations.Groups : Prop :=
  let G (f : Fields) : Nat := f.immVal.toNat % 256
  let N (f : Fields) : Nat := f.immVal.toNat % 16
  let op (k : OpKind) (s : State) (wid : Nat) (f : Fields) : Op := { opOf wid (s.warp wid) f k with nregs := 1 }
  let member (s : State) (w : Warp) (f : Fields) : Prop := w.exec f ≠ 0 ∧ s.isMember w (G f) = true
  let bound (s : State) (w : Warp) (f : Fields) : Prop :=
    w.exec f ≠ 0 ∧ ∃ g, s.boundGroup w (N f) = some g ∧ s.isMember w g = true
  let same (w : Warp) (f : Fields) (v : Word) : Prop := ∀ i ∈ lanesOf (w.exec f), w.src f.a i = v
  Enters .bar (fun s wid f => op (.arrive false (G f) true) s wid f) member ∧
  Enters .bara (fun s wid f => op (.arrive false (G f) false) s wid f) member ∧
  (∀ v, Enters .barw (fun s wid f => op (.await false (G f) v) s wid f) (fun s w f => member s w f ∧ same w f v)) ∧
  Enters .nbar (fun s wid f => op (.arrive true (N f) (f.var == 0)) s wid f) (fun s w f => bound s w f ∧ f.var ≠ 2) ∧
  (∀ v, Enters .nbar (fun s wid f => op (.await true (N f) v) s wid f) (fun s w f => bound s w f ∧ f.var = 2 ∧ same w f v)) ∧
  Enters .gjoin (fun s wid f => op (.join (G f)) s wid f) (fun s w f => w.exec f ≠ 0 ∧ s.joinBad w (G f) = false)
    (fun _ _ f w => { w with members := w.members ++ [{ group := G f }] }) ∧
  Enters .gleave (fun s wid f => op (.leave (G f)) s wid f) (fun s w f => member s w f ∧
    ¬((s.launchRec w.launch).desc.det = true ∧ (s.launchRec w.launch).desc.phaseg = G f)) ∧
  IdleEnters .bar ∧ IdleEnters .bara ∧ IdleEnters .barw ∧ IdleEnters .nbar ∧ IdleEnters .gjoin ∧ IdleEnters .gleave

/-! ## The matrix and selection units -/

/-- R330, R334, R336 to R340, R347: a matrix word of a warp with 32 active lanes of one share set, which supply equal operands and belong to a group
with matrix commands, is accepted: its job stands behind the others, with the command of its operands and, for an `.at` form in timed mode, its
start cycle. In deterministic mode the group's reservation must be the warp's own, and the lines of a load are checked as reads. A word that no
lane executes only counts down in the next cycle (R41). -/
def Obligations.MatrixWords : Prop :=
  let goes (i : Fields → Instr) (at_ : Bool) (g : Fields → Warp → Nat → List Nat) (cmd : Fields → List Nat → MatCmd)
      (data : Fields → Warp → Nat → List (Nat × DWord)) : Prop :=
    ∀ s wid f v d, Chosen s wid →
      let w := s.warp wid
      let isAt := at_ && f.var == 1
      let off := (w.reg f.dst.toNat 0).setWidth 64
      let grp := f.immVal.toNat % 256
      let idle := w.exec f == 0
      w.active = BitVec.allOnes 32 → w.spans (BitVec.allOnes 32) = false →
      (∀ l < 32, g f w l ++ (if isAt && w.timed then [(w.reg f.dst.toNat l).toNat] else []) = v) →
      (w.lockOpen = true → (cmd f v).isStat = true →
        (s.tlbHit w.core w.pdk (s.statusWord w.pdk grp).2 (s.statusWord w.pdk grp).1).isSome = true) →
      s.isMember w grp = true → (((s.pdk w.pdk).group grp).map (·.msw)).getD false = true →
      (w.timed = true → (cmd f v).isStat = false ∧ (isAt = true → (s.taskc w).toNat < off.toNat)) →
      (w.det = true → (cmd f v).isStat = false → ∀ o, s.resOwner w grp = some o → o = wid) →
      Checked s w (s.loadKeys w grp (cmd f v)) d →
      ∃ t, exec (i f) s = .next t ∧
        Issues s t wid f id
          [if idle then quietOp s wid f 1 else enters s wid { opOf wid w f (.matrix ((cmd f v).op - 0xA0)) with
            accs := if (cmd f v).isStat then (lanesOf (w.exec f)).map fun l => { lane := l, asid := w.asidOf l, stage := .ready } else [] }]
          id fun s =>
            { s with det := d, jobs := s.jobs ++ if idle then [] else
                [{ id := s.nextId, core := w.core, wid, pdk := w.pdk, launch := w.launch, group := grp, cmd := cmd f v, asid := w.asidOf 0
                   at? := if isAt && w.timed then some off else none, accepted := s.acceptCycle w.core
                   data := msetAll [] ((lanesOf (w.exec f)).flatMap (data f w)) }] }
  let word (v : List Nat) (k : Nat) : Word := BitVec.ofNat 32 (nth v k)
  let src (f : Fields) (w : Warp) (i : Nat) : List Nat := [(w.src f.a i).toNat]
  let plain (_ : Fields) (_ : Warp) (_ : Nat) : List Nat := []
  let none_ (_ : Fields) (_ : Warp) (_ : Nat) : List (Nat × DWord) := []
  goes .mres false (fun f w i => (w.src f.a i).toNat ::
      (if f.var == 1 then [(w.reg (f.a.reg.toNat + 1) i).toNat, (w.reg (f.a.reg.toNat + 2) i).toNat] else []))
    (fun f v => .mres (word v 0) (if f.var == 1 then word v 1 else 0) (if f.var == 1 then word v 2 else 0)) none_ ∧
  goes .mrel false plain (fun _ _ => .mrel) none_ ∧
  goes .mldb true src (fun f v => .mldb (immMP f).1 (immMP f).2 (nth v 0)) none_ ∧
  goes .mlda true src (fun f v => .mlda (nth v 0) (fld f.immVal.toNat 8 3 + 1)) none_ ∧
  goes .mma true plain (fun f _ => .mma (immTile f) (fld f.immVal.toNat 16 2) (fld f.immVal.toNat 18 3)) none_ ∧
  goes .mspr true plain (fun f _ => .mspr (immMP f).1 (immMP f).2) none_ ∧
  goes .mzero true plain (fun f _ => .mzero (immTile f)) none_ ∧
  goes .mmov false plain (fun f _ => .mmov (immTile f) 0 f.ty) (fun f w i => [(64 + i, BitVec.ofNat 64 (w.src f.a i).toNat)]) ∧
  goes .mput false plain (fun f _ => .mput (immTile f) 0 f.ty) (fun f w i =>
    [(64 + i, BitVec.ofNat 64 (w.src f.a i).toNat), (i, BitVec.ofNat 64 (w.regsVal f.dst.toNat i (tyRegs f.ty)))]) ∧
  goes .mstat false plain (fun f _ => .mstat (f.var == 1)) none_

/-- R286, R293 to R300, R304: a command of the warp that holds its core's selection unit, with one operand value and one ASID in the
executing lanes, stands last in the unit's queue and in flight; QSBIND, of a range in the lanes' window or, streamed, of pages that each lane may
read, also takes a free unit, in deterministic mode where the lines that it reads do not conflict (R304), and enters as a bad one where its range
is not such; another warp's QSRES answers all ones and its other commands set its own QSSTAT to ORDER, in the next cycle; KEYF and
KEYR map each element to its unsigned image and back. -/
def Obligations.SelectionWords : Prop :=
  let queued (i : Fields → Instr) (ok : State → Warp → Fields → Prop) (cmd : State → Warp → Fields → Nat → SelCmd)
      (accs : State → Warp → Fields → Nat → List Acc := fun _ _ _ _ => []) (found : State → Warp → Fields → Nat → Bool := fun _ _ _ _ => false)
      (keys : State → Warp → Fields → Nat → List (Nat × DetKind) := fun _ _ _ _ => []) : Prop :=
    ∀ s wid f l d, Chosen s wid →
      let w := s.warp wid
      let u := (s.core w.core).sel
      l ∈ lanesOf (w.exec f) → (∀ k ∈ lanesOf (w.exec f), w.asidOf k = w.asidOf l) → (w.timed = true → u.queue = []) → ok s w f →
      Checked s w (keys s w f l) d →
      ∃ t, exec (i f) s = .next t ∧ t.det = d ∧
        t.ops = s.ops ++ [enters s wid { opOf wid w f .select with accs := accs s w f l, checked := found s w f l }] ∧
        (t.core w.core).sel.holder = some wid ∧ (t.core w.core).sel.queue = (if u.holder = some wid then u.queue else []) ++ [(cmd s w f l, s.nextId)] ∧
        (t.warp wid).pc = w.pc + 16 ∧ (t.warp wid).regs = w.regs ∧ (t.warp wid).pend = w.pend ∧ t.mem = s.mem ∧
        (∀ v, v ≠ wid → t.warp v = s.warp v) ∧ ∀ c, c ≠ w.core → t.core c = s.core c
  let holds (s : State) (w : Warp) : Prop := (s.core w.core).sel.holder = some w.id
  let alone (s : State) (w : Warp) (f : Fields) (g : Warp → Fields → Nat → Nat × Nat) : Prop :=
    w.exec f ≠ 0 ∧ (s.core w.core).sel.holder ≠ some w.id ∧ (w.timed = true → (s.core w.core).sel.holder = none ∧ (s.core w.core).sel.queue = []) ∧
      ∀ k ∈ lanesOf (w.exec f), ∀ l ∈ lanesOf (w.exec f), w.asidOf k = w.asidOf l ∧ g w f k = g w f l
  let order (i : Fields → Instr) (g : Warp → Fields → Nat → Nat × Nat) : Prop :=
    Enters i (fun s wid f => quietOp s wid f 1) (fun s w f => alone s w f g) fun _ _ _ w => w.selOrder
  let one (g : Warp → Fields → Nat → Nat) (w : Warp) (f : Fields) : Prop :=
    ∀ k ∈ lanesOf (w.exec f), ∀ l ∈ lanesOf (w.exec f), g w f k = g w f l
  let rank (w : Warp) (f : Fields) (i : Nat) : Nat :=
    if f.isImm then f.immVal.toNat else if f.var = 1 then (w.src64 f.a i).toNat else (w.src f.a i).toNat
  let vals (w : Warp) (f : Fields) (i : Nat) : Nat := (w.src f.a i).toNat
  let count (w : Warp) (f : Fields) (i : Nat) : Nat := (w.wordB f i).toNat
  let wts (w : Warp) (f : Fields) (i : Nat) : Nat := if f.var.toNat % 2 = 1 then (w.src f.c i).toNat else 0
  let base (s : State) (w : Warp) (i : Nat) : Nat := ((s.window? w.core w (w.asidOf i)).map fun x => 2048 * x.base).getD 0
  let weighted (f : Fields) : Bool := f.var.toNat % 2 == 1
  let vlen (w : Warp) (f : Fields) (i : Nat) : Nat := count w f i * elemBits f.ty / 8
  let wlen (w : Warp) (f : Fields) (i : Nat) : Nat := if weighted f then 4 * count w f i else 0
  let sized (w : Warp) (f : Fields) (i v x : Nat) : Bool := decide (1 ≤ count w f i ∧ count w f i ≤ 2 ^ 20 ∧ v % 4 = 0 ∧ x % 4 = 0)
  let sound (s : State) (w : Warp) (f : Fields) (i : Nat) : Bool :=
    sized w f i (vals w f i) (wts w f i) &&
      match s.window? w.core w (w.asidOf i) with
      | some x => decide (vals w f i + vlen w f i ≤ x.slots * 2048) && (!weighted f || decide (wts w f i + wlen w f i ≤ x.slots * 2048))
      | none => false
  let head (w : Warp) (f : Fields) : Nat := ((lanesOf (w.exec f)).head?).getD 0
  let free (s : State) (w : Warp) : Prop := ((s.core w.core).sel.holder = none ∨ holds s w) ∧
    (w.timed = true → (s.core w.core).sel.holder = none → (s.core w.core).selFreed ≤ s.wall)
  let vals64 (w : Warp) (f : Fields) (i : Nat) : Nat := (w.src64 f.a i).toNat
  let wts64 (w : Warp) (f : Fields) (i : Nat) : Nat := if weighted f then (w.src64 f.c i).toNat else 0
  let glob (s : State) (w : Warp) (f : Fields) (va n : Nat) : Bool :=
    match s.rangeOf w (head w f) n false (BitVec.ofNat 64 va) with | .glob _ => true | _ => false
  let soundAt (s : State) (w : Warp) (f : Fields) (i : Nat) : Bool :=
    sized w f i (vals64 w f i) (wts64 w f i) && glob s w f (vals64 w f i) (vlen w f i) && (!weighted f || glob s w f (wts64 w f i) (wlen w f i))
  let pages (s : State) (w : Warp) (f : Fields) (l : Nat) : List (Acc × Option LaneFault × Bool) := (lanesOf (w.exec f)).map fun i =>
    (s.selPages w { lane := i, asid := w.asidOf l, va := vals64 w f l, len := vlen w f l, addr2 := wts64 w f l
                    data := BitVec.ofNat 128 (wlen w f l) } false).1
  let streamed (s : State) (w : Warp) (f : Fields) (l : Nat) : List Acc := if soundAt s w f l then (pages s w f l).map (·.1) else []
  let found (s : State) (w : Warp) (f : Fields) (l : Nat) : Bool := soundAt s w f l && w.det && (streamed s w f l).all (·.stage == .ready)
  let lines (w : Warp) (a n : Nat) : List (Nat × DetKind) :=
    (List.range (cdiv (a % 64 + n) 64)).map fun k => (padKey w.core (a / 64 * 64 + 64 * k), .read)
  queued .qsrank (fun s w f => holds s w ∧ one rank w f) (fun _ w f l => .rank (f.var == 0) (BitVec.ofNat 64 (rank w f l))) ∧
  queued .qsstep (fun s w _ => holds s w) (fun _ _ f _ => .step f.immVal.toNat) ∧
  queued .qsrun (fun s w _ => holds s w) (fun _ _ _ _ => .step 32) ∧
  queued .qsmask (fun s w f => holds s w ∧ one vals w f ∧ one count w f)
    (fun _ w f l => .mask (f.var == 1) (w.src f.a l) (w.wordB f l)) ∧
  queued .qsres (fun s w _ => holds s w) (fun _ _ _ _ => .res) ∧
  (∀ s wid f, Chosen s wid → alone s (s.warp wid) f (fun _ _ _ => (0, 0)) → ∃ t, exec (.qsres f) s = .next t ∧
    Issues s t wid f (putLanding
      { due := s.now (s.warp wid) + 1, late := true, flag := f.flag
        writes := (lanesOf ((s.warp wid).exec f)).flatMap fun i => regWrites f.dst.toNat i 2 (2 ^ 64 - 1) })) ∧
  order .qsrank (fun w f i => (rank w f i, 0)) ∧ order .qsmask (fun w f i => (vals w f i, count w f i)) ∧
  order .qsstep (fun _ _ _ => (0, 0)) ∧ order .qsrun (fun _ _ _ => (0, 0)) ∧
  queued .qsbind (fun s w f => f.var.toNat < 2 ∧ free s w ∧ one vals w f ∧ one count w f ∧ one wts w f)
    (fun s w f l => .bind f.ty (weighted f) false (count w f l) (base s w l + vals w f l) (base s w l + wts w f l) (w.asidOf l) (!sound s w f l))
    (keys := fun s w f l => if sound s w f l then
      lines w (base s w l + vals w f l) (vlen w f l) ++ lines w (base s w l + wts w f l) (wlen w f l) else []) ∧
  queued .qsbind (fun s w f => 2 ≤ f.var.toNat ∧ w.timed = false ∧ free s w ∧ one vals64 w f ∧ one count w f ∧ one wts64 w f ∧
      ∀ l ∈ lanesOf (w.exec f), soundAt s w f l = true →
        ∀ q ∈ pages s w f l, q.2.1 = none ∧ (w.lockOpen = true → q.2.2 = false))
    (fun s w f l => .bind f.ty (weighted f) true (count w f l) (vals64 w f l) (wts64 w f l) (w.asidOf l) (!soundAt s w f l))
    streamed found (fun s w f l => if found s w f l then s.streamKeys { accs := streamed s w f l } else []) ∧
  GivesElems .keyf .a (fun w f i j => imageOf f.ty (elem f.ty (w.opA f.ty f i) j) % 2 ^ elemBits f.ty) ∧
  GivesElems .keyr .a (fun w f i j => unimageOf f.ty (elem f.ty (w.opA f.ty f i) j) % 2 ^ elemBits f.ty) ∧
  IdleEnters .qsrank ∧ IdleEnters .qsstep ∧ IdleEnters .qsrun ∧ IdleEnters .qsmask ∧ IdleEnters .qsres ∧
  Enters .qsbind (fun s wid f => quietOp s wid f 1) (fun s w f => w.exec f = 0 ∧ (free s w ∨ w.timed = true))

/-! ## The rink -/

/-- R411 to R417: in timed mode on a port that RKCTL.PORTS names, TSND makes a frame with RINKC, the executing lanes' mask and words, where the port
may start one, and counts down after 4 cycles, lanes or none; the link carries it where it is in rink mode (log 12, DESIGN CHOICE); TRCV lands the
frame that it names in 8 cycles, and counts down in the next cycle where no lane executes it (R41, log 47, DEDUCED); ATC holds the next word until its
TASKC; DRFT starts a correction of one value, clamped to ±512. ATC outside timed mode, and DRFT in it without lanes, change nothing. -/
def Obligations.RinkWords : Prop :=
  let port (f : Fields) : Nat := fld f.immVal.toNat 0 3
  let chan (f : Fields) : Nat := fld f.immVal.toNat 8 8
  let hops (f : Fields) : Nat := fld f.immVal.toNat 16 8
  let mine (s : State) (f : Fields) (x : Frame) : Bool := x.port == port f && x.relay.isNone && frameChan x.bits == chan f &&
    frameHops x.bits == hops f && frameStamp x.bits + Config.hop * hops f == s.rink.rinkc.toNat && decide (x.seen < s.wall)
  let named (s : State) (f : Fields) : Prop := bitAt s.rkctl (8 + port f) = true
  (∀ s wid f, Chosen s wid → (s.warp wid).timed = true → named s f → s.rink.portFree (port f) = true →
    ∃ t bits, exec (.tsnd f) s = .next t ∧
      Issues s t wid f id [quietOp s wid f 4] id (fun s =>
        { s with rink := (s.rink.start (port f)).name (chan f) (s.warp wid).tstart
                 rinkSent := if s.rinkPort (port f) then .frame (port f) bits :: s.rinkSent else s.rinkSent }) ∧
      frameStamp bits = s.rink.rinkc.toNat ∧ frameMask bits = (s.warp wid).exec f ∧ frameChan bits = chan f ∧ frameHops bits = 0 ∧
      ∀ i < 32, frameWord bits i = if i ∈ lanesOf ((s.warp wid).exec f) then ((s.warp wid).src f.a i).toNat else 0) ∧
  (∀ s wid f x, Chosen s wid → (s.warp wid).timed = true → named s f → s.rink.frames.find? (mine s f) = some x →
    ∃ t, exec (.trcv f) s = .next t ∧
      Issues s t wid f
        (putLanding
          { due := s.now (s.warp wid) + (if (s.warp wid).exec f = 0 then 1 else 8), late := true, flag := f.flag
            writes := (lanesOf ((s.warp wid).exec f &&& frameMask x.bits)).flatMap fun i => regWrites f.dst.toNat i 1 (frameWord x.bits i) })
        [] id fun s =>
          { s with rink := { (s.rink.name (chan f) (s.warp wid).tstart) with
              frames := s.rink.frames.map fun y => if mine s f y then { y with read := true } else y } }) ∧
  Changes .atc (fun _ _ _ w => w) (fun _ w _ => w.timed = false) ∧
  (∀ s wid f, Chosen s wid → (s.warp wid).timed = true →
    let now := (s.taskc (s.warp wid)).toNat
    let goal := now / 2 ^ 32 * 2 ^ 32 + f.immVal.toNat
    now < goal → ∃ t, exec (.atc f) s = .next t ∧ Issues s t wid f fun w => { w with atc := some (BitVec.ofNat 64 goal) }) ∧
  Changes .drft (fun _ _ _ w => w) (fun _ w f => w.timed = true ∧ w.exec f = 0) ∧
  (∀ s wid f v, Chosen s wid → (s.warp wid).timed = true → (s.warp wid).exec f ≠ 0 →
    (∀ i ∈ lanesOf ((s.warp wid).exec f), (s.warp wid).src f.a i = v) →
    ∃ t, exec (.drft f) s = .next t ∧ Issues s t wid f id [] id fun s =>
      { s with rink := { s.rink with drftx := min (max v.toInt (-512)) 512, drftk := 0, drftn := 0 } })

/-! ## Handlers and the root world -/

/-- R208, R382 to R387: TRAP waits for the supervisor's handler with its executing lanes, or, without a handler, ejects them, and, unpredicated, ends
its warp; one that no lane executes takes no lane along, and one inside a handler ends the handler; TRET lets the served warp go on, has its held
lanes replayed 4 cycles later and leaves the machine; EJECT ejects the named lanes of the served warp; PGMAP and PGUNMAP act on the page of a lane.
The model's own are the record of a TRAPI and the ejection at it (log 14, DEDUCED), and that PGMAP acts as it issues and lands after a free number
of cycles, 1 at least (log 9, DESIGN CHOICE). -/
def Obligations.HandlerWords : Prop :=
  let serves (w : Warp) : Prop := w.kind = .handler ∧ w.holds.isSome = true
  let faults (w : Warp) (f : Fields) : List LaneFault :=
    (lanesOf (w.exec f)).map fun i => { lane := i, code := 5, va := (f.immVal.truncate 16).setWidth 64 }
  (∀ s wid f, Chosen s wid → ¬serves (s.warp wid) → (s.warp wid).exec f ≠ 0 → (s.pdk (s.warp wid).pdk).reg 0x080 ≠ 0 →
    ∃ t, exec (.trap f) s = .next t ∧ Issues s t wid f id [] id fun s =>
      { s with pending := s.pending ++ [{ wid, pc := (s.warp wid).pc, faults := faults (s.warp wid) f, found := s.now (s.warp wid)
                                          trapEnd := !f.sched.pen }] }) ∧
  (∀ s wid f, Chosen s wid → ¬serves (s.warp wid) → (s.warp wid).exec f ≠ 0 → (s.pdk (s.warp wid).pdk).reg 0x080 = 0 →
    let t := (s.noteIssue wid f).ejectServed wid s.nextId (s.warp wid).pc ((s.warp wid).pc + 16) ((s.noteIssue wid f).warp wid) (!f.sched.pen)
      (faults (s.warp wid) f)
    exec (.trap f) s = .next (if f.sched.pen then t else t.updWarp wid Warp.exitAll)) ∧
  Changes .trap (fun _ _ f w => if f.sched.pen then w else w.exitAll) (fun _ w f => w.exec f = 0) ∧
  Changes .trap (fun _ _ _ w => w.exitAll) (fun _ w f => serves w ∧ w.exec f ≠ 0) ∧
  (∀ s wid f v, Chosen s wid → serves (s.warp wid) → (s.warp wid).holds = some v → v ≠ wid → s.hasWarp v = true →
    (s.warp wid).trapEnd = false → ∃ t, exec (.tret f) s = .next t ∧ t.hasWarp wid = false ∧
      (t.warp v).heldBy = none ∧ (t.warp v).regs = (s.warp v).regs ∧ (t.warp v).pc = (s.warp v).pc ∧ t.mem = s.mem ∧
      (∀ x ∈ s.ops, (s.warp wid).handop = some x.id → x.held = true →
        ∃ y ∈ t.ops, y.id = x.id ∧ y.replay = some (s.now (s.warp wid) + 4) ∧ y.accs = x.accs)) ∧
  (∀ s wid f, Chosen s wid → serves (s.warp wid) →
    exec (.eject f) s = .next ((s.noteIssue wid f).ejectLanes (s.warp wid) ((s.warp wid).exec f))) ∧
  (∀ s wid f i, Chosen s wid → serves (s.warp wid) → lanesOf ((s.warp wid).exec f) = [i] →
    let w := s.warp wid
    let r := (s.noteIssue wid f).mapLane w.pdk (w.fasid i) (w.src64 f.a i).toNat
    let x := r.2.takeId
    exec (.pgmap f) s = .next (x.2.landIn wid (max 1 (Config.latency x.1))
      { late := true, writes := regWrites f.dst.toNat i 1 r.1, flag := f.flag })) ∧
  (∀ s wid f i, Chosen s wid → serves (s.warp wid) → lanesOf ((s.warp wid).exec f) = [i] →
    let w := s.warp wid
    let r := (s.noteIssue wid f).unmapLane w.pdk (w.fasid i) (w.src64 f.a i).toNat (f.var == 1)
    let x := r.2.addOp { opOf wid w f (.pgunmap (f.var == 1)) with nregs := 1 }
    exec (.pgunmap f) s = .next (x.2.addDrain w.pdk x.1
      (.unmap (some x.1) [(i, BitVec.ofNat 32 r.1.result)] r.1.free r.1.exec r.1.page.toList none))) ∧
  Enters .pgmap (fun s wid f => quietOp s wid f 1) (fun _ w f => serves w ∧ w.exec f = 0) ∧
  Enters .pgunmap (fun s wid f => quietOp s wid f 1) (fun _ w f => serves w ∧ w.exec f = 0)

/-- R384: PGMAP of a page whose level-4 entry is in the first-touch state, without EX, takes the first pool frame that may be written (R62): the frame
reads as zero and the entry becomes present with the same rights and that frame; result 0. Without such a frame the result is 2, with a present
entry 1, and nothing changes. -/
def Obligations.PageMapping : Prop :=
  ∀ (s : State) (p asid va at_ e : Nat), Clean s p → s.leafEntry p asid va = some (at_, e) →
    (fld e 62 2 = 3 → s.mapLane p asid va = (1, s)) ∧
    (fld e 62 2 = 1 → bitAt e 58 = false → s.spareFrame p (s.pdk p).pool = none → s.mapLane p asid va = (2, s)) ∧
    (∀ f r dev, fld e 62 2 = 1 → bitAt e 58 = false → s.hasPdk p = true → s.spareFrame p (s.pdk p).pool = some (f, dev, r) →
      (s.mapLane p asid va).1 = 0 ∧ ((s.mapLane p asid va).2.pdk p).pool = r ∧
      (s.mapLane p asid va).2 = ((s.updPdk p fun q => { q with pool := r }).zeroFrame dev).devWrite p at_
        (leBytes (3 * 2 ^ 62 + 2 ^ 61 + (if bitAt e 60 then 2 ^ 60 else 0) + (if bitAt e 59 then 2 ^ 59 else 0) +
          (if bitAt e 57 then 2 ^ 57 else 0) + f * 2 ^ 18) 8) ∧
      ∀ a, a / 2 ^ 18 = dev → mget (((s.updPdk p fun q => { q with pool := r }).zeroFrame dev).mem) a = 0)

/-- R436, R437, R439, R441 to R443: in the root world, outside timed mode, with equal operands: SCRUB starts the scrub of a paddock that may
be scrubbed, status 1 for one that may not, 2 for an unknown one; LOCKIF moves the interface by a transition of R433 with status 0, 1 for
another, 2 for an unknown paddock; MEXT, SHAB and EDSIGN are in flight with their operands; a word that no lane executes counts down in the next cycle.
The model's own are: that a scrub zeroes as it starts (log 9, DESIGN CHOICE), the order of a stop, and what is refused while one is under way (log 26,
DEDUCED), and that a status lands in the cycle after the issue (log 9). -/
def Obligations.RootWords : Prop :=
  let ok (s : State) (wid : Nat) (f : Fields) : Prop :=
    Chosen s wid ∧ (s.warp wid).pdk = 0 ∧ (s.warp wid).timed = false ∧ (s.warp wid).exec f ≠ 0
  let all (s : State) (wid : Nat) (f : Fields) (g : Warp → Nat → Nat) (v : Nat) : Prop :=
    ∀ i ∈ lanesOf ((s.warp wid).exec f), g (s.warp wid) i = v
  let status (s : State) (wid : Nat) (f : Fields) (v : Nat) : Op :=
    enters s wid { opOf wid (s.warp wid) f .simple with nregs := 1, bytes := v, due := some (s.now (s.warp wid) + 1) }
  let a (f : Fields) (w : Warp) (i : Nat) : Nat := (w.src f.a i).toNat
  let told (i : Fields → Instr) (bad : State → Nat → Fields → Nat → Option Nat) : Prop :=
    ∀ s wid f p v, ok s wid f → all s wid f (a f) p → bad s wid f p = some v → ∃ t, exec (i f) s = .next t ∧ Issues s t wid f id [status s wid f v]
  let scrubOp (s : State) (wid : Nat) (f : Fields) (p : Nat) : State :=
    ((s.noteIssue wid f).addOp { opOf wid (s.warp wid) f (.scrub p) with nregs := 1 }).2
  let rooted (i : Fields → Instr) (what nregs : Nat) (g : Fields → Warp → Nat → Nat × Nat × Nat) : Prop :=
    ∀ s wid f v, ok s wid f → (∀ l ∈ lanesOf ((s.warp wid).exec f), g f (s.warp wid) l = v) →
      let x := { opOf wid (s.warp wid) f (.root what) with nregs }
      let qs := (lanesOf ((s.warp wid).exec f)).map fun l => (s.rootLane (s.warp wid) x what
        { lane := l, asid := (s.warp wid).asidOf l, addr := BitVec.ofNat 64 v.1, cmp := BitVec.ofNat 64 v.2.1, data := BitVec.ofNat 128 v.2.2 } false).1
      (∀ q ∈ qs, q.2.1 = none ∧ ((s.warp wid).lockOpen = true → q.2.2 = false)) →
      ∃ t, exec (i f) s = .next t ∧ Issues s t wid f id [enters s wid { x with accs := qs.map (·.1) }]
  told .scrub (fun s _ _ p => if s.hasPdk p = false then some 2 else if s.scrubRefused p then some 1 else none) ∧
  (∀ s wid f p, ok s wid f → all s wid f (a f) p → s.hasPdk p = true → s.scrubRefused p = false →
    exec (.scrub f) s = .next ((scrubOp s wid f p).startScrub p (some s.nextId) false)) ∧
  told .lockif (fun s _ f p => if s.hasPdk p = false then some 2 else if (s.pdk p).admits f.var.toNat then none else some 1) ∧
  (∀ s wid f p, ok s wid f → all s wid f (a f) p → s.hasPdk p = true → (s.pdk p).admits f.var.toNat = true →
    exec (.lockif f) s = .next (
      if f.var = 2 then (scrubOp s wid f p).stopIf p (some s.nextId)
      else (if f.var = 0 then (s.noteIssue wid f).lockIf p else if f.var = 1 then (s.noteIssue wid f).setIf p 2
            else (s.noteIssue wid f).errIf p).status wid (s.warp wid) f 0)) ∧
  rooted .mext 0 0 (fun f w i => (if f.var = 2 then 0 else (w.src64 f.a i).toNat, 0, f.immVal.toNat % 8)) ∧
  rooted .shab 1 0 (fun f w i => ((w.src64 f.a i).toNat, (w.src64 f.b i).toNat, (w.src f.c i).toNat)) ∧
  rooted .edsign 2 1 (fun f w i => ((w.src64 f.a i).toNat, (w.src64 f.b i).toNat, if f.var = 2 then (w.src64 f.c i).toNat else 0)) ∧
  ∀ i ∈ [Instr.scrub, .mext, .shab, .edsign, .lockif],
    Enters i (fun s wid f => quietOp s wid f 1) fun _ w f => w.pdk = 0 ∧ w.timed = false ∧ w.exec f = 0

/-! ## Results and memory, in their cycle -/

/-- R51, R41, R270: the results of a cycle land in the registers and count their flag down, on every core that is not frozen; an operation
whose flag is due ends. Where none is due the event changes nothing, which is the model's choice (log 6, DESIGN CHOICE). -/
def Obligations.ResultsLand : Prop :=
  (∀ wid l, Does .fixedResultLand
    (fun s => (∀ c, s.padsDue c = []) ∧ s.hasWarp wid = true ∧ s.frozen (s.warp wid).core = false ∧ l.exm = none ∧
      (s.warp wid).pend.filter (fun l => decide (l.due ≤ s.now (s.warp wid))) = [l])
    fun s t => t.warp wid = { ((s.warp wid).flagDown l.flag) with
        regs := msetAll (s.warp wid).regs l.writes
        pend := (s.warp wid).pend.filter fun l => !decide (l.due ≤ s.now (s.warp wid)) } ∧ t.mem = s.mem ∧ t.ops = s.ops) ∧
  (∀ wid, Does .fixedResultLand
    (fun s => (∀ c, s.padsDue c = []) ∧ s.hasWarp wid = true ∧
      (s.frozen (s.warp wid).core = true ∨ ∀ l ∈ (s.warp wid).pend, s.now (s.warp wid) < l.due))
    fun s t => t.warp wid = s.warp wid) ∧
  (∀ x, Does .waitFlagCountDown (fun s => Flies s x ∧ s.ops.filter s.flagDue = [x]) fun s t =>
    Ended s t x x.lastWrites ∧ t.mem = s.mem ∧ t.cores = s.cores) ∧
  Does .waitFlagCountDown (fun s => s.ops.filter s.flagDue = []) (fun s t => t = s)

/-- R178: FDIV and FSQRT put an operation with each lane's result in flight; the divide unit of the slot takes it at once where it is free
and nothing waits, 28 cycles to the landing and 4 to the next, 56 and 16 for f64; else it waits its turn, or traps TIMING in timed mode. A word that no lane
executes counts its flag down in the next cycle (R41), and that it occupies the unit like another is the model's reading (log 47, DEDUCED). -/
def Obligations.Divide : Prop :=
  let lat (t : Ty) : Nat := if t = .f64 then 56 else 28
  let busy (t : Ty) : Nat := if t = .f64 then 16 else 4
  let free (s : State) (w : Warp) : Prop := s.divIdle w.core w.slot = true ∧ s.divWaiting w.core w.slot = []
  let word (i : Fields → Instr) (root : Bool) (g : Fields → Nat → Nat → Nat) : Prop :=
    let op (s : State) (wid : Nat) (f : Fields) : Op :=
      let w := s.warp wid
      { opOf wid w f (.divide root) with
        nregs := tyRegs f.ty
        accs := (lanesOf (w.exec f)).map fun i =>
          { lane := i, stage := .ready, old := BitVec.ofNat 128 (zipElems f.ty (g f) (w.fsrc f.ty f.a i 0) (w.fsrcB f i 0)) } }
    (∀ s wid f, Chosen s wid → FreshId s → (s.warp wid).exec f ≠ 0 → free s (s.warp wid) → ∃ t, exec (i f) s = .next t ∧
      Issues s t wid f id [enters s wid { op s wid f with due := some (s.now (s.warp wid) + lat f.ty) }]
        fun k => { k with divFree := aput k.divFree (s.warp wid).slot (s.now (s.warp wid) + busy f.ty) }) ∧
    Enters i op (fun s w f => w.exec f ≠ 0 ∧ w.timed = false ∧ ¬free s w) ∧
    (∀ s wid f, Chosen s wid → FreshId s → (∀ x ∈ s.ops, x.id ≠ s.nextId + 1) → (s.warp wid).exec f = 0 → free s (s.warp wid) →
      ∃ t, exec (i f) s = .next t ∧ Issues s t wid f id
        [quietOp s wid f 1, { enters s wid (op s wid f) with id := s.nextId + 1, flag := none, due := some (s.now (s.warp wid) + lat f.ty) }]
        fun k => { k with divFree := aput k.divFree (s.warp wid).slot (s.now (s.warp wid) + busy f.ty) }) ∧
    (∀ s wid f, Chosen s wid → (s.warp wid).exec f = 0 → (s.warp wid).timed = false → ¬free s (s.warp wid) →
      ∃ t, exec (i f) s = .next t ∧ Issues s t wid f id
        [quietOp s wid f 1, { enters s wid (op s wid f) with id := s.nextId + 1, flag := none }]) ∧
    (∀ s wid f, Chosen s wid → (s.warp wid).timed = true → ¬free s (s.warp wid) →
      exec (i f) s = .next ((s.noteIssue wid f).trapAt wid (s.warp wid) 0x19))
  word .fdiv false (fun f x y => (fmtOf f.ty).div (modeOf f) x y) ∧
  word .fsqrt true (fun f x _ => (fmtOf f.ty).sqrt (modeOf f) x) ∧
  (∀ x, Does .divideUnitAccept (fun s => s.divNext = some x ∧ s.op? x.id = some x) fun s t =>
    t.op? x.id = some { x with due := some (s.ucyc x.before.core + lat x.ty) } ∧
      alist (t.core x.before.core).divFree x.before.slot = some (s.ucyc x.before.core + busy x.ty) ∧ t.warps = s.warps ∧ t.mem = s.mem) ∧
  (∀ x, Does .divideComplete (fun s => s.divDone = some x ∧ Flies s x) fun s t =>
    Ended s t x ((x.accs.filter (·.stage == .ready)).flatMap fun a => regWrites x.dst a.lane x.nregs a.old.toNat) ∧ t.mem = s.mem)

/-- R362, R100, R252, R117, R251, R253: a core's freeze ends in its cycle; translations leave with their lease; a die's broadcast frontier
is the least that no stamped access of it has passed; a store lane that reaches its die's port takes the die's next stamp and stands in
the outbound table; a load lane lands what memory holds. -/
def Obligations.MemoryEvents : Prop :=
  Does .coreFreezeEnd (fun _ => True) (fun s t => { t with cores := s.cores } = s ∧
    ∀ c, t.core c = if (s.core c).until_ ≤ s.wall ∧ (s.core c).from_ < (s.core c).until_ then { s.core c with from_ := 0, until_ := 0 } else s.core c) ∧
  Does .tlbLeaseExpire (fun _ => True) (fun s t => { t with cores := s.cores, stlb := s.stlb } = s ∧
    (∀ c, t.core c = { s.core c with tlb := (s.core c).tlb.filter fun e => decide (s.ucyc c < e.ends) }) ∧
    t.stlb = s.stlb.filter fun x => decide (s.wall < x.2.ends)) ∧
  (∀ d, Does (.frontierBroadcast d) (fun s => d < 8 ∧ rising 0 s.frontier = true) fun s t =>
    let own := (mget s.clocks (8 * d + d)).toNat
    let F := (mget t.frontier d).toNat
    let waits (v : Nat) : Prop := ∃ x ∈ s.ops, dieOfCore x.before.core = d ∧
      ∃ a ∈ x.accs, (a.stage = .stamped ∨ a.stage = .left) ∧ a.pad = false ∧ v = (mget a.stamp d).toNat
    let bare (u : State) : List Op := u.ops.map fun x => x.mapAccs fun a => { a with since := none }
    F ≤ own ∧ (∀ v, waits v → F ≤ v - 1) ∧ (F = own ∨ ∃ v, waits v ∧ F = v - 1) ∧
      { t with frontier := s.frontier, ops := s.ops } = s ∧ bare t = bare s) ∧
  (∀ x a m, Does (.portStamp x.id m)
    (fun s => s.op? x.id = some x ∧ x.kind = .store ∧ x.due = none ∧ x.before.det = false ∧ s.frozen x.before.core = false ∧
      stampOrder x m = [a.lane] ∧ x.acc? a.lane = some a ∧ a.stage = .ready ∧ a.pad = false ∧ s.blocked x a = false ∧ rising 0 s.clocks = true)
    fun s t =>
      let die := dieOfCore x.before.core
      let own := mget s.clocks (8 * die + die) + 1
      mget t.clocks (8 * die + die) = own ∧ (∀ k, k ≠ 8 * die + die → mget t.clocks k = mget s.clocks k) ∧
      (∃ y b, t.op? x.id = some y ∧ y.acc? a.lane = some b ∧ b.stage = .stamped ∧ ∀ e < 8, mget b.stamp e = mget t.clocks (8 * die + e)) ∧
      t.outbound = s.outbound ++ [{ die, op := x.id, lane := a.lane, pa := a.pa, bytes := leBytes a.data.toNat x.bytes }] ∧
      t.mem = s.mem ∧ t.warps = s.warps) ∧
  (∀ x a m, Does (.loadComplete x.id m)
    (fun s => Flies s x ∧ x.kind = .load false ∧ x.due = none ∧ x.before.det = false ∧ s.frozen x.before.core = false ∧ lanesOf m = [a.lane] ∧
      x.acc? a.lane = some a ∧ a.stage = .ready ∧ a.pad = false ∧ s.blocked x a = false ∧ s.markOf x.before.pdk a.pa = none ∧
      s.poisoned a.pa x.bytes = false ∧ ∀ k < x.bytes, s.outByte (dieOfCore x.before.core) (a.pa + k) = none)
    fun s t =>
      (t.warp x.wid).regs =
        msetAll (s.warp x.wid).regs (regWrites x.dst a.lane x.nregs (loadValue x.ty x.var (ofLe (bytesAt s a.pa x.bytes)))) ∧
      t.mem = s.mem ∧ ∀ v, v ≠ x.wid → t.warp v = s.warp v)


/-- R98, R252, R253, R255, R269, R279: a walk that finds the page makes its lane ready at the place found; a home that may apply a stamped
store, before which no other access stands, writes its bytes, those of a vector word by word, and after the last one ends the lane and takes
it out of the outbound table; it applies an atomic's operation to what memory holds, and sets
the bits of a BITSET. -/
def Obligations.WalksAndHomes : Prop :=
  let lane (s : State) (x : Op) (a : Acc) : Prop := Flies s x ∧ x.acc? a.lane = some a ∧ s.frozen x.before.core = false
  let sound (s : State) (x : Op) (pa n : Nat) : Prop :=
    s.execDev x.before.pdk pa = false ∧ s.markOf x.before.pdk pa = none ∧ s.poisoned pa n = false
  let first (s : State) (x : Op) (a : Acc) (n : Nat) : Prop :=
    let die := dieOfCore x.before.core
    s.applicable die a.stamp = true ∧ s.firstAt (a.pa + a.put) n (a.since.getD s.wall) die (mget a.stamp die).toNat = true
  (∀ x a m c pa spec, Does (.pageWalkComplete x.id m)
    (fun s => lane s x a ∧ x.kind = .load c ∧ Clean s x.before.pdk ∧ x.accs.filter (fun a => a.stage == .walk && m.getLsbD a.lane) = [a] ∧
      (s.search x.before.core x.before.pdk a.asid a.va x.kind.needs.1 x.kind.needs.2).1 = .hit pa spec)
    fun s t => (∃ y b, t.op? x.id = some y ∧ y.acc? a.lane = some b ∧ b = { a with stage := .ready, pa, spec }) ∧ t.mem = s.mem) ∧
  (∀ x a, Does (.homeApply x.id a.lane)
    (fun s =>
      let n := min x.piece (x.bytes - a.put)
      lane s x a ∧ x.kind = .store ∧ (a.stage = .stamped ∨ a.stage = .left) ∧ a.pad = false ∧ sound s x (a.pa + a.put) n ∧ first s x a n)
    fun s t =>
      let n := min x.piece (x.bytes - a.put)
      t.mem = (s.poke (a.pa + a.put) (((leBytes a.data.toNat x.bytes).drop a.put).take n)).mem ∧
      (a.put + n < x.bytes → t.op? x.id = some (x.mapAccs fun b => if b.lane == a.lane then { b with put := b.put + n } else b)) ∧
      (x.bytes ≤ a.put + n → (∀ e ∈ t.outbound, ¬(e.op = x.id ∧ e.lane = a.lane)) ∧ (x.accs = [a] → t.op? x.id = none))) ∧
  (∀ x a op r, Does (.homeApply x.id a.lane)
    (fun s => lane s x a ∧ x.kind = .atomic op r ∧ x.accs = [a] ∧ a.stage = .stamped ∧ a.pad = false ∧ sound s x a.pa x.bytes ∧ first s x a x.bytes)
    fun s t =>
      let old := ofLe (s.peek a.pa x.bytes)
      t.mem = (match atomWrite x.kind x.ty old a.data.toNat a.cmp.toNat with
        | some v => (s.poke a.pa (leBytes v x.bytes)).mem
        | none => s.mem) ∧
      t.op? x.id = none ∧
      (t.warp x.wid).regs = msetAll (s.warp x.wid).regs
        (regWrites x.dst a.lane x.nregs (BitVec.ofNat 128 (atomResult x.before.det x.kind x.ty old)).toNat)) ∧
  (∀ x a g, Does (.homeApply x.id a.lane)
    (fun s => lane s x a ∧ x.kind = .bitset g ∧ x.before.det = false ∧ x.accs = [a] ∧ a.stage = .ready ∧ s.quiet (dieOfCore x.before.core) = true ∧
      s.blocked x a = false ∧ sound s x (a.pa / 8 * 8) 8 ∧ s.firstAt (a.pa / 8 * 8) 8 s.wall 8 0 = true)
    fun s t => t.mem = (s.poke (a.pa / 8 * 8)
      (leBytes (ofLe (s.peek (a.pa / 8 * 8) 8) ||| 2 ^ (8 * (a.pa % 8) + a.data.toNat)) 8)).mem ∧ t.op? x.id = none)

/-! ## Copies, pages and waits, in their cycle -/

/-- R242, R244, R245, R252: a copy whose source words are read counts its flag down; a word read is written to its place, in global memory where no
access stands before it; a CWAIT ends when its batches are complete. -/
def Obligations.CopyEvents : Prop :=
  let runs (s : State) (x : Op) : Prop := Flies s x ∧ copyRuns x = true ∧ s.frozen x.before.core = false
  (∀ x, Does (.copySourceReadDone x.id)
    (fun s => runs s x ∧ Clean s x.before.pdk ∧ x.applied = false ∧ ∀ a ∈ x.accs, a.stage ≠ .walk ∧ a.stage ≠ .touch)
    fun s t => t.mem = s.mem ∧ (t.warp x.wid).flags = ((s.warp x.wid).flagDown x.flag).flags ∧ (t.warp x.wid).regs = (s.warp x.wid).regs ∧
      ∀ y, t.op? x.id = some y → y.flag = none ∧ y.applied = true) ∧
  (∀ x a off v, Does (.copyDestWrite x.id a.lane off 1)
    (fun s => runs s x ∧ x.kind = .copy 0 ∧ x.acc? a.lane = some a ∧ a.stage = .ready ∧ a.pad = false ∧ s.quiet (dieOfCore x.before.core) = true ∧
      Clean s x.before.pdk ∧ s.execDev x.before.pdk (pageAddr a.dpages (a.va + off)).1 = false ∧
      s.homeFree (dieOfCore x.before.core) (pageAddr a.dpages (a.va + off)).1 4 = true ∧
      a.words.filter (fun o => decide (off ≤ o) && decide (o < off + 4)) = [off] ∧ (x.before.core, off) ∉ a.moved ∧
      a.srcs.find? (·.1 == off) = some (off, v) ∧ v.getLsbD 32 = false)
    fun s t => t.mem = (s.poke (pageAddr a.dpages (a.va + off)).1 (leBytes (v.toNat % 2 ^ 32) 4)).mem ∧ t.warps.map (·.regs) = s.warps.map (·.regs)) ∧
  (∀ x a off v, Does (.copyDestWrite x.id a.lane off 1)
    (fun s => runs s x ∧ x.kind = .copy 0 ∧ x.acc? a.lane = some a ∧ a.stage = .ready ∧ a.pad = true ∧
      a.words.filter (fun o => decide (off ≤ o) && decide (o < off + 4)) = [off] ∧ (x.before.core, off) ∉ a.moved ∧
      a.srcs.find? (·.1 == off) = some (off, v) ∧ v.getLsbD 32 = false)
    fun s t => (t.core x.before.core).pad = putBytes (s.core x.before.core).pad (a.pa + off) (leBytes (v.toNat % 2 ^ 32) 4) ∧ t.mem = s.mem) ∧
  (∀ x, Does .batchComplete (fun s => Flies s x ∧ s.ops.filter s.cwaitDue = [x]) fun s t => Ended s t x [] ∧ t.mem = s.mem)

/-- R371, R372, R374, R375, R377: once every lane has found its page, and where every line of both frames reads, PGCMT makes a frame's committed copy
what the frame holds, PGDROP the frame what its committed copy holds, and its lanes are done; a fork gives the child's page what the parent's
committed page holds, and does nothing, but to report so, where it cannot. That it takes two pool frames at once, and how it reports, is the model's
choice (log 17, DESIGN CHOICE). -/
def Obligations.PageEvents : Prop :=
  let moves (k : PageOp) (src dst : Nat → Nat → Nat) : Prop :=
    ∀ x frame com d c, Does (.pageOpApply x.id frame)
      (fun s => s.op? x.id = some x ∧ x.kind = .page k ∧ x.before.det = false ∧ s.frozen x.before.core = false ∧
        s.quiet (dieOfCore x.before.core) = true ∧ (∀ y ∈ s.ops, y.wid = x.wid → y.id < x.id → y.kind.fences = false) ∧
        (∃ a ∈ x.accs, a.stage = .ready ∧ a.len = frame) ∧ (∀ a ∈ x.accs, a.stage ≠ .walk ∧ a.stage ≠ .touch) ∧
        s.codeFrame x.before.pdk frame = false ∧ s.codeFrame x.before.pdk com = false ∧ (s.pdk x.before.pdk).committed frame = some com ∧
        s.devFrame x.before.pdk frame = some d ∧ s.devFrame x.before.pdk com = some c ∧
        s.badLines x.before.pdk d = [] ∧ s.badLines x.before.pdk c = [] ∧ Memory.wf s.mem = true)
      fun s t => (∀ j < 2 ^ 18, mget t.mem (dst d c * 2 ^ 18 + j) = mget s.mem (src d c * 2 ^ 18 + j)) ∧
        (∀ at_, at_ / 2 ^ 18 ≠ dst d c → mget t.mem at_ = mget s.mem at_) ∧
        ∀ y, t.op? x.id = some y → ∀ b ∈ y.accs, b.stage = .ready → b.len ≠ frame
  moves .cmt (fun d _ => d) (fun _ c => c) ∧ moves .drop (fun _ c => c) (fun d _ => d) ∧
  (∀ p parent child f pg streams, Does (.sequenceFork p parent child f [pg] streams)
    (fun s => s.forkPage p parent child (pg * 2 ^ 18) = none) fun s t => t = { s with fork := some false }) ∧
  (∀ p parent child f pg e tbl pres com rest r src at_ old, Does (.sequenceFork p parent child f [pg] [])
    (fun s => s.walk p parent (pg * 2 ^ 18) = .leaf e ∧ s.rootTable p child = some tbl ∧
      s.spareFrame p (s.pdk p).pool = some (pres, pres, rest) ∧ s.spareFrame p rest = some (com, com, r) ∧
      (s.pdk p).committed (e.addr (pg * 2 ^ 18) / 2 ^ 18) = some src ∧ s.walkEnd p (pg * 2 ^ 18) tbl 0 5 = .entry at_ 4 old ∧
      fld old 62 2 ≠ 3 ∧ bitAt ((s.pdk p).reg 0x0B0).toNat 0 = false ∧ s.badLines p src = [] ∧ s.redirect = [] ∧
      (∀ k ∈ [pres, com, src], k < Config.frames) ∧ Memory.wf s.mem = true)
    fun s t => t.fork = some true ∧ (t.pdk p).pool = r ∧ (t.pdk p).spec = (pres, com) :: (s.pdk p).spec ∧
      ∀ j < 2 ^ 18, ¬(at_ ≤ pres * 2 ^ 18 + j ∧ pres * 2 ^ 18 + j < at_ + 8) →
        mget t.mem (pres * 2 ^ 18 + j) = mget s.mem (src * 2 ^ 18 + j))

/-- R272 to R274, R276, R280: an arrival applied counts in its group's barrier and completes the phase where it is the last; it then waits for
the phase, or lands its number; a join counts the member, a leave takes it out; a wait ends with its phase, and a CWT with its word. -/
def Obligations.WaitEvents : Prop :=
  let at_ (s : State) (x : Op) (g : Nat) (b : Barrier) : Prop :=
    Flies s x ∧ s.arriveReady x = true ∧ (∀ y ∈ s.ops, y.kind.waits = false) ∧ ∃ y a, (s.pdk (s.warp x.wid).pdk).group g = some y ∧ y.bar = b ∧
      s.vaddrRW (s.warp x.wid).pdk (s.launchRec y.launch).asid y.baraddr = some a
  let bar (s t : State) (x : Op) (g : Nat) (b : Barrier) : Prop :=
    ((t.pdk (s.warp x.wid).pdk).group g).map (·.bar) = some b
  let stamped (s : State) (turn : Nat) (b : Barrier) : Barrier := { b with cycle := s.wall + 1, turn }
  let arrived (s : State) (x : Op) (b : Barrier) : Barrier := stamped s x.turn
    (if b.count ≤ b.arrived + 1 then { b with phase := b.phase + 1, arrived := 0 } else { b with arrived := b.arrived + 1 })
  (∀ x g b, Does (.barrierArrivalApply x.id) (fun s => at_ s x g b ∧ x.kind = .arrive false g false) fun s t =>
    bar s t x g (arrived s x b) ∧ Ended s t x ((lanesOf x.mask).flatMap fun i => regWrites x.dst i 1 b.phase.toNat)) ∧
  (∀ x g b, Does (.barrierArrivalApply x.id) (fun s => at_ s x g b ∧ x.kind = .arrive false g true) fun s t =>
    bar s t x g (arrived s x b) ∧ t.op? x.id = some { x with kind := .await false g b.phase, applied := true }) ∧
  (∀ x g b, Does (.barrierArrivalApply x.id) (fun s => at_ s x g b ∧ x.kind = .join g) fun s t =>
    bar s t x g (stamped s (s.warp x.wid).turn { b with count := b.count + 1 }) ∧ Ended s t x []) ∧
  (∀ x g b, Does (.barrierArrivalApply x.id) (fun s => at_ s x g b ∧ x.kind = .leave g) fun s t =>
    bar s t x g (stamped s (s.warp x.wid).turn (b.leave ((((s.warp x.wid).members.find? (·.group == g)).getD {}).lastarr))) ∧ Ended s t x []) ∧
  (∀ x nb g k, Does (.barrierNotify x.id) (fun s => Flies s x ∧ s.awaitDone x = true ∧ x.kind = .await nb g k) fun s t =>
    Ended s t x [] ∧ t.mem = s.mem) ∧
  (∀ x, Does .cwtPeriodicEval
    (fun s => Flies s x ∧ x.kind = .cwt ∧ s.ops.filter (·.kind.waits) = [x] ∧ s.frozen x.before.core = false ∧
      ∀ a ∈ x.accs, a.stage = .ready ∧ s.blocked x a = false ∧ s.waitHolds x a = true)
    fun s t => Ended s t x [] ∧ t.mem = s.mem)

/-! ## The units of a core, in their cycle -/

/-- R229, R298, R302, R328, R332, R338, R346: an access cycle writes or reads the scratchpad; a matrix command that may start starts; one that has run
its cycles leaves, MREL with its reservation; a report waits for the status word, which takes it. The selection unit starts its first
command, for as many cycles as it takes (R302); one that has run them leaves, and a release frees the unit (R286), unless, by the model's choice
(log 59, DESIGN CHOICE), a QSBIND stands behind it; QSRES lands the image and the lowest index (R298). -/
def Obligations.UnitEvents : Prop :=
  let due (s : State) (k : Core) (p : PadAccess) (x : Op) (a : Acc) : Prop :=
    s.cores.filter s.padDue = [k] ∧ s.core k.id = k ∧ k.sel.running = false ∧ s.jobs = [] ∧ k.padq.filter (fun p => decide (p.due ≤ s.ucyc k.id)) = [p] ∧
      p.op = some x.id ∧ s.op? x.id = some x ∧ x.accs = [a] ∧ a.stage = .ready ∧ a.pad = true ∧ p.accs = [a] ∧ p.before.core = k.id ∧
      k.padBad a.pa p.bytes = false
  let sel (s : State) (k : Core) (c : SelCmd) (x : Op) (rest : List (SelCmd × Nat)) : Prop :=
    s.core k.id = k ∧ k.sel.queue = (c, x.id) :: rest ∧ Flies s x
  (∀ k p x a, Does .scratchAccessCycle (fun s => due s k p x a ∧ p.kind = .write) fun s t =>
    (t.core k.id).pad = putBytes k.pad a.pa (leBytes a.data.toNat p.bytes) ∧ t.mem = s.mem) ∧
  (∀ k p x a, Does .scratchAccessCycle (fun s => due s k p x a ∧ p.kind = .read) fun s t =>
    (t.core k.id).pad = k.pad ∧ t.mem = s.mem ∧
      t.op? x.id = some { x with accs := [{ a with stage := .stamped, old := BitVec.ofNat 128 (ofLe (getBytes k.pad a.pa p.bytes)) }] }) ∧
  (∀ j, Does .matrixCommandStart (fun s => s.jobs = [j] ∧ s.jobStartDue j = true ∧ (s.op? j.id).isSome = true ∧ j.at? = none) fun s t =>
    ∃ k, t.jobs = [k] ∧ k.id = j.id ∧ k.cmd = j.cmd ∧ k.started = some (s.ucyc j.core) ∧ t.mem = s.mem) ∧
  (∀ j u, Does .matrixCommandComplete
    (fun s => s.jobs = [j] ∧ j.cmd.isStat = false ∧ s.jobEndDue j = true ∧ j.report ≠ 0 ∧ s.statusCheck j = some u)
    fun _ t => t = { u with jobs := [{ j with finished := true }] }) ∧
  (∀ j r x, Does .matrixCommandComplete
    (fun s => s.jobs = [j] ∧ j.cmd = .mrel ∧ s.jobEndDue j = true ∧ j.report = 0 ∧ s.heldRes j = some r ∧ x.id = j.id ∧ Flies s x)
    fun s t => t.jobs = [] ∧ t.op? j.id = none ∧
      (∀ y ∈ (t.core j.core).res, y.id ≠ r.id) ∧
      (t.warp x.wid).flags = ((s.warp x.wid).flagDown x.flag).flags) ∧
  (∀ j a, Does (.matrixStatusUpdate j.id)
    (fun s => s.jobs.find? (·.id == j.id) = some j ∧ j.finished = true ∧ s.frozen j.core = false ∧ s.quiet (dieOfCore j.core) = true ∧
      s.vaddrRW j.pdk (s.statusWord j.pdk j.group).2 (s.statusWord j.pdk j.group).1 = some a ∧ s.execDev j.pdk a = false ∧
      s.homeFree (homeOf a) a 8 = true)
    fun s t => t.jobs = s.jobs.filter (·.id != j.id) ∧ t.op? j.id = none ∧
      t.mem = (s.poke a (leBytes (statusAfter (ofLe (s.peek a 8)) j.report.toNat j.cmd.op j.cmd.firstTile
        (fld (s.warp j.wid).clshape.toNat 16 2)) 8)).mem) ∧
  (∀ k c x rest, Does .selectCommandStart
    (fun s => sel s k c x rest ∧ s.cores.filter s.selReturnDue = [] ∧ s.cores.filter s.selStartDue = [k] ∧ x.accs = [])
    fun s t => (t.core k.id).sel.running = true ∧ (t.core k.id).sel.ends = s.ucyc k.id + (k.sel.cost c).1 ∧
      (t.core k.id).sel.left = (k.sel.cost c).2 ∧ (t.core k.id).sel.queue = k.sel.queue ∧ t.ops = s.ops ∧ t.mem = s.mem) ∧
  (∀ k c x rest, Does .selectCommandComplete
    (fun s => sel s k c x rest ∧ s.cores.filter s.streamDue = [] ∧ s.cores.filter s.selEndDue = [k])
    fun s t =>
      let e := k.sel.effect c x.foundPages
      let freed := e.released = true ∧ ∀ q ∈ rest, ∀ ty wt st n v w a bad, q.1 ≠ .bind ty wt st n v w a bad
      (freed → k.sel.holder.isSome = true → (t.core k.id).sel = {} ∧ (t.core k.id).selFreed = s.wall + 1) ∧
      (¬freed → (t.core k.id).sel.queue = rest ∧ (t.core k.id).sel.running = false) ∧ t.op? x.id = none ∧
      (t.warp x.wid).flags = ((s.warp x.wid).flagDown x.flag).flags ∧ t.mem = s.mem) ∧
  (∀ k x rest, Does .selectCommandComplete
    (fun s => sel s k .res x rest ∧ s.cores.filter s.streamDue = [] ∧ s.cores.filter s.selEndDue = [k] ∧ k.sel.released = false ∧ k.sel.state = 4)
    fun s t => (t.warp x.wid).regs = msetAll (s.warp x.wid).regs ((lanesOf x.mask).flatMap fun i =>
      [(32 * x.dst + i, BitVec.ofNat 32 k.sel.prefixBits.toNat), (32 * (x.dst + 1) + i, BitVec.ofNat 32 ((k.sel.list.head?).getD 0xFFFFFFFF))]))

/-! ## Slots, regions, handlers -/

/-- R359, R203, R204, R465, R64: a slot lets an eligible warp of its own issue, and notes which others could have; a frozen core's slot does nothing. After a region's last
word the traps put off to there are taken, and a region of more than 512 cycles ends its warp with HOLDOVR. A warp with nothing left
retires. The fetch at a branch target changes nothing. -/
def Obligations.SlotsAndRegions : Prop :=
  (∀ c k w, Does (.slotIssue c k) (fun s => s.pick c k = .issue w) fun s t =>
    t = { s with issuing := some w.id, warps := s.warps.map (s.pass w) } ∧ w ∈ s.warps ∧ w.core = c ∧ w.slot = k ∧ s.eligible w = true ∧ s.frozen c = false) ∧
  (∀ c k, Does (.slotIssue c k) (fun s => s.frozen c = true) fun s t => t = s) ∧
  Does .targetFetchReady (fun _ => True) (fun s t => t = s) ∧
  (∀ w r, Does .holdOverrun
    (fun s => s.regionDone = some w ∧ s.warp w.id = w ∧ w.region = some r ∧ (∀ d ∈ s.deferred, d.wid ≠ w.id) ∧ r.last - r.opened ≤ 512)
    fun s t => t.warp w.id = { w with region := none } ∧ (∀ v, v ≠ w.id → t.warp v = s.warp v) ∧ t.ops = s.ops ∧ t.mem = s.mem) ∧
  (∀ w r, Does .holdOverrun
    (fun s => s.regionDone = some w ∧ s.warp w.id = w ∧ w.region = some r ∧ (∀ d ∈ s.deferred, d.wid ≠ w.id) ∧ 512 < r.last - r.opened ∧
      w.kind ≠ .handler)
    fun _ t => (t.warp w.id).ended = true ∧ (t.warp w.id).region = none) ∧
  (∀ w, Does .holdDeferredTrap (fun s => s.warps.find? (holdDue s) = some w ∧ s.warp w.id = w ∧ w.kind ≠ .handler) fun s t =>
    (∀ d ∈ t.deferred, d.wid ≠ w.id) ∧
      ∀ d code, s.deferred.filter (·.wid == w.id) = [d] → d.trap = some code → (t.warp w.id).ended = true) ∧
  (∀ w, Does .warpRetire (fun s => (sortBy Warp.turn s.warps).find? s.mayRetire = some w ∧ s.warp w.id = w) fun _ t =>
    (∀ x ∈ t.ops, x.wid ≠ w.id) ∧ ∀ v ∈ t.warps, v.id = w.id → w.det = true ∧ v.gone = true)

/-- R381, R383, R387, R385, R389: a fault that waits becomes a handler warp, which starts at HNDENTRY with the lanes that wait and holds
their warp; one that ends without a TRET leaves, and its warp goes on; a replay walks again; an unmap whose leases have run out gives its
frames to the pool; a parked record goes into its room. -/
def Obligations.HandlerEvents : Prop :=
  (∀ c x im slot, Does .handlerStart
    (fun s =>
      let w := s.warp c.wid
      let q := s.pdk w.pdk
      s.cases.head? = some c ∧ c.op = some x ∧ (∃ f ∈ c.faults, w.alive.getLsbD f.lane = true) ∧ q.reg 0x080 ≠ 0 ∧
        q.handlerImage = some im ∧ (w.slot :: List.range 4).find? (fun k => s.slotHolds w.core k im.n 1) = some slot)
    fun s t =>
      let w := s.warp c.wid
      (∃ h ∈ t.warps, h.kind = .handler ∧ h.holds = some c.wid ∧ h.handop = some x.id ∧ h.core = w.core ∧ h.slot = slot ∧ h.n = im.n ∧
        h.pc = (s.pdk w.pdk).reg 0x080 ∧ (t.warp c.wid).heldBy = some h.id ∧
        h.live = maskOf fun i => c.faults.any fun f => f.lane == i && w.alive.getLsbD f.lane) ∧ t.mem = s.mem) ∧
  (∀ h, Does .handlerFail (fun s => s.failedHandler = some h) fun _ t =>
    t.hasWarp h.id = false ∧ ∀ v ∈ t.warps, h.holds = some v.id → v.heldBy = none) ∧
  (∀ x, Does .faultReplay
    (fun s => s.op? x.id = some x ∧ s.ops.filter s.replayDue = [x] ∧ x.accs ≠ [] ∧
      ∀ a ∈ x.accs, a.stage = .touch ∧ (s.warp x.wid).alive.getLsbD a.lane = true)
    fun s t => t.op? x.id = some { x with accs := x.accs.map fun a => { a with stage := .walk, fault := none }, replay := none } ∧
      t.warps = s.warps ∧ t.mem = s.mem) ∧
  (∀ q j op lanes free exe pages, Does .unmapComplete
    (fun s => s.pdks = [q] ∧ s.unmapDue q = some j ∧ j.what = .unmap op lanes free exe pages none)
    fun s t => (t.pdk q.no).pool = q.pool ++ free ∧ (t.pdk q.no).jobs = (q.jobs.filter (·.id != j.id)).map (fun k => k.without pages exe) ∧
      (t.pdk q.no).exframes = dropFrames q.exframes exe ∧ t.mem = s.mem ∧
      ∀ x, op = some x.id → Flies s x → x.kind.waits = false →
        Ended s t x ((lanes.filter fun l => x.mask.getLsbD l.1).map fun l => (32 * x.dst + l.1, l.2))) ∧
  (∀ r idx y, Does .parkedRecordWrite
    (fun s => s.parked.find? s.parkReady = some r ∧ r.room = some idx ∧ (s.pdk r.pdk).rooms.find? (·.idx == idx) = some y ∧ y.idx = idx)
    fun s t => t.parked = s.parked.filter (·.id != r.id) ∧
      ∃ z, (t.pdk r.pdk).rooms.find? (·.idx == idx) = some z ∧ z = { y with kind := 3, asid := r.asid, park := some r, lid := r.before.lid, yard := r.before.yard })

/-! ## Preemption and placement -/

/-- R68, R70, R93, R357, R390, R391, R393, R397, R426: a warp takes the grants as they stand, and no revocation waits for it any more; a
request, or a quantum that has run out while another context waits, stops the warps of its clusters; a core seals with its reservations and
selection unit, which stand closed until the save (log 42, DEDUCED); a sealed cluster leaves the machine, its warps kept; the head of the queues becomes resident, a new one
with its warps, a saved one with those it was saved with; a wait for private slots tries again after its time. A request for a launch that the
machine does not know changes nothing (log 6, DESIGN CHOICE). -/
def Obligations.PreemptionEvents : Prop :=
  let stands (t : State) (l no : Nat) (ok : Cluster → Prop) : Prop := ∃ m ∈ t.launches, m.id = l ∧ ∃ c ∈ m.clusters, c.no = no ∧ ok c
  (∀ wid, Does (.shareRecompute wid)
    (fun s => s.hasWarp wid = true ∧ (s.warp wid).region = none ∧ s.isSealedWarp (s.warp wid) = false) fun s t =>
      t.warp wid = { s.warp wid with share := s.shareNow (s.warp wid) } ∧ (∀ v, v ≠ wid → t.warp v = s.warp v) ∧
      (∀ p, (t.ringOf p).cmds = (s.ringOf p).cmds.map fun c =>
        if p = (s.warp wid).pdk ∧ c.waitsShare = true then { c with left := c.left.filter (· != wid) } else c) ∧
      { t with warps := s.warps, pdks := s.pdks, root := s.root } = s) ∧
  (∀ p lid clid s l, s.byLid p lid = some l → exec (.preemptRequest p lid clid) s =
    .next (if l.desc.timed = true ∨ s.pdkRuns p = false then s else requested s ((l.named clid).map fun c => (l.id, c.no)) 1)) ∧
  (∀ p lid clid s, s.byLid p lid = none → exec (.preemptRequest p lid clid) s = .next s) ∧
  (∀ s, exec .quantumExpire s = .next (requested s s.expiredQuanta 0)) ∧
  (∀ l cl k c, Does .coreSeal (fun s => s.sealDue = some (l, cl, k, c)) fun s t =>
    let mine (wid : Nat) : Bool := (s.warpsOn l.id cl.no c).any (·.id == wid)
    let own (u : SelUnit) : Bool := u.holder.any mine
    t.core c = { s.core c with
      sel := if own (s.core c).sel then { holder := (s.core c).sel.holder } else (s.core c).sel
      selWait := (s.core c).selWait.filter (!own ·)
      res := (s.core c).res.map fun r => if r.ofCluster l cl then { r with closed := true } else r } ∧
    (∀ d, d ≠ c → t.core d = s.core d) ∧ t.ops = s.ops.filter (!mine ·.wid) ∧
    (∃ z, z.k = k ∧ z.res = ((s.core c).res.filter (·.ofCluster l cl)).map (s.core c).saveRes ∧
      t.launches = s.launches.map fun m => if m.id = l.id then { m with clusters := m.clusters.map fun x =>
        if x.no = cl.no then { x with sealed := x.sealed ++ [z], waits := x.waits ++ s.ops.filter (mine ·.wid) } else x } else m) ∧
    { t with cores := s.cores, ops := s.ops, launches := s.launches } = s) ∧
  (∀ l cl, Does .clusterSave (fun s => s.saveDue = some (l, cl)) fun s t =>
    let ws := s.warpsOf l.id cl.no
    (∀ w ∈ ws, t.hasWarp w.id = false) ∧
    (stands t l.id cl.no fun c => c.state = .saved ∧ c.preempt = none ∧ c.queued = (cl.preempt == some 0) ∧
      ((∀ w ∈ ws, w.timed = false) → c.warps = ws.filter (!·.gone))) ∧
    ∀ k ∈ cl.cores, (∀ r ∈ (t.core k).res, r.ofCluster l cl = false) ∧ ∀ h, (t.core k).sel.holder = some h → ∀ w ∈ ws, w.id ≠ h) ∧
  (∀ p l cl u, Does (.clusterPlace p) (fun s => s.placeHead p = some (l, cl, .done u)) fun s t =>
    (stands t l.id cl.no fun c => c.state = .resident ∧ c.queued = false ∧ c.since = s.wall) ∧
    (l.desc.kind = 0 → l.desc.timed = false → cl.state = .waiting → cl.warps = [] → ∀ k ≤ l.desc.c, ∀ m ≤ l.desc.w,
      t.hasWarp (s.nextId + k * (l.desc.w + 1) + m) = true)) ∧
  (∀ p idx l cl u, Does (.clusterRestore p idx)
    (fun s => s.placeHead p = some (l, cl, .done u) ∧ cl.state = .saved ∧ cl.room = some idx) fun s t =>
    (stands t l.id cl.no fun c => c.state = .resident ∧ c.queued = false ∧ c.since = s.wall) ∧
    ∀ w ∈ cl.warps, w.core ∈ cl.cores → t.hasWarp w.id = true) ∧
  (∀ s, exec .privateSlotRetry s = .next { s with launches := s.launches.map fun l => { l with clusters := l.clusters.map fun c =>
    if c.queued = true ∧ c.retry ≠ 0 ∧ c.retry + 800000 ≤ s.wall then { c with retry := 0 } else c } })

/-! ## Rings and commands -/

/-- R349 to R353, R8, R434, R363: the host's writes of the doorbell, of CRHEAD and of a register under its access code; one of a watched word
(of 8 bytes: log 41) moves the interface to ERROR instead; a ring takes its next entry; the next report goes to the host where there is room; a ring restarts from the header that the flash holds, whose commands are
reported aborted as the host makes room. A host request reaches a page through the functions that R432 and R447 name. -/
def Obligations.RingEvents : Prop :=
  (∀ via p v, Does (.doorbellWrite ⟨via, p⟩ v) (fun s => served s via p ∧ SoundRegs s) fun s t =>
    t.rreg p 0x050 = v.toNat ∧ (t.ringOf p).waitDoor = false ∧ t.reply = .ok [] ∧ t.mem = s.mem) ∧
  (∀ via p v, Does (.crheadWrite ⟨via, p⟩ v) (fun s => served s via p ∧ SoundRegs s) fun s t =>
    t.rreg p 0x070 = v.toNat ∧ t.reply = .ok [] ∧ t.mem = s.mem) ∧
  (∀ via p off v, Does (.registerWrite ⟨via, p⟩ off v)
    (fun s => served s via p ∧ s.lockSoon = false ∧ SoundRegs s ∧ p ≠ 0 ∧ off / 8 * 8 ∉ (s.pdk p).watch ∧ ¬(0x200 ≤ off ∧ off < 0x300))
    fun s t => (t.pdk p).reg off = (match pageAccess off with
        | .rw m | .rl m => BitVec.ofNat 64 (v.toNat &&& m)
        | .w1c m => BitVec.ofNat 64 (((s.pdk p).reg off).toNat - (((s.pdk p).reg off).toNat &&& v.toNat &&& m))
        | .none => (s.pdk p).reg off) ∧ t.mem = s.mem) ∧
  (∀ via p off v, Does (.registerWrite ⟨via, p⟩ off v)
    (fun s => served s via p ∧ s.lockSoon = false ∧ SoundRegs s ∧ p ≠ 0 ∧ off / 8 * 8 ∈ (s.pdk p).watch ∧ ¬(0x200 ≤ off ∧ off < 0x300) ∧
      (s.pdk p).ifstate ≠ 0 ∧ (s.pdk p).halted = false)
    fun s t => (t.pdk p).reg 0x0DC = 0x103 ∧ (off ≠ 0x0DC → (t.pdk p).reg off = (s.pdk p).reg off) ∧ t.mem = s.mem) ∧
  (∀ p x, Does (.ringEntryRead p)
    (fun s =>
      let e := s.rreg p 0x058 + 1
      let g := s.ringOf p
      s.entryDue p = true ∧ SoundRegs s ∧ Clean s p ∧ s.devRead p (s.ringBase p + 64 * (e % s.ringSize p)) 64 = some x ∧ fld x 448 64 = e ∧
        (Config.ringTag (Config.ringKey (g.session.getD 0) g.rekeys) e p (BitVec.ofNat 384 (fld x 128 384))).toNat = fld x 0 128 ∧
        e < 2 ^ 64 - 3 ∧ knownOpc (fld x 440 8) = true ∧ fld x 384 56 = 0)
    fun s t =>
      let e := s.rreg p 0x058 + 1
      t.rreg p 0x058 = e ∧ (t.ringOf p).cmds = (s.ringOf p).cmds ++
        [{ seq := e, opc := fld x 440 8, payload := BitVec.ofNat 256 (fld x 128 256), time := s.wall }]) ∧
  (∀ p c r, Does (.completionRecordWrite p)
    (fun s =>
      let u := s.reportAll p
      u.nextReport p = some (c, r) ∧ u.recordRoom p c.seq = true ∧ SoundRegs u ∧ c.opc ≠ 0x0F)
    fun s t =>
      let u := s.reportAll p
      t.rreg p 0x060 = (BitVec.ofNat 64 c.seq).toNat ∧ (t.ringOf p).cmds = (u.ringOf p).cmds.filter (·.seq != c.seq) ∧
      t.hostmem = putBytes u.hostmem (fld (u.rreg p 0x048) 12 52 * 2 ^ 12 + 32 * (c.seq % u.ringSize p)) (leBytes (recordBits c r) 32)) ∧
  (∀ p h, Does (.ringRestart p)
    (fun s =>
      let host := fld h.crhost.toNat 12 52 * 2 ^ 12
      let done := h.done.toNat
      s.flash.find? (·.no == p) = some h ∧ (p = 0 ∨ s.hasPdk p = true) ∧ (s.ringOf p).session.isSome = true ∧ SoundRegs s ∧ done < h.ack.toNat ∧
        ofLe (getBytes s.hostmem (host + 32 * ((done + 1) % 2 ^ fld h.crbase.toNat 0 5) + 24) 8) ≠ done + 1)
    fun s t =>
      let ack := h.ack.toNat
      let done := h.done.toNat
      let room := s.rreg p 0x070 + 2 ^ fld h.crbase.toNat 0 5
      t.rreg p 0x058 = ack ∧ (t.ringOf p).session = (s.ringOf p).session ∧ (t.ringOf p).cmds = (s.ringOf p).cmds ∧
      (ack ≤ room → t.rreg p 0x060 = ack ∧ t.flash = s.flash.filter (·.no != p)) ∧
      (ack ≤ room → ack = done + 1 → ∃ c r, c.seq = ack ∧ r.status = 2 ∧ r.reason = 0 ∧
        t.hostmem = putBytes s.hostmem (fld h.crhost.toNat 12 52 * 2 ^ 12 + 32 * (ack % 2 ^ fld h.crbase.toNat 0 5)) (leBytes (recordBits c r) 32)) ∧
      (room < done + 1 → t.rreg p 0x060 = done ∧ bitAt (t.rreg p 0x06C) 3 = true ∧ t.flash.find? (·.no == p) = some h ∧
        t.hostmem = s.hostmem))

/-- R352, R424 to R428, R437, R438, R457: REKEY, PDCREATE, PDDESTROY and PDBUDGET of a parent that keeps the rules (PDDESTROY of a paddock
with nothing left to report ends at once; else its warps stop first, R12), a health test of an empty paddock and its end, with the pages
retired in HTSTAT; a scrub, a line of a background pass and the pass end. That a health test and PDDESTROY report what the ring has accepted
before their scrub is log 26 (DEDUCED); that the scrub zeroes at its start, and the pass takes a line a cycle, is log 9 (DESIGN CHOICE). -/
def Obligations.PaddockCommands : Prop :=
  let field (x : BitVec 256) (lo n : Nat) : Nat := fld x.toNat lo n
  Command .rekey 0x0F (fun u p seq x => x = 0 ∧ u.rekeyReady p seq = true) (fun _ t p seq _ => Reported t p seq 0 0) ∧
  Command .pdcreate 0x10
    (fun u p _ x => unusedZero x [(184, 72), (176, 2), (112, 64)] = true ∧
      u.createOk p (field x 184 8) (field x 192 64) (field x 160 16) (field x 144 16) (field x 112 32) (bitAt x.toNat 176) = true ∧
      field x 184 8 ≠ p)
    (fun s t p seq x =>
      let q := t.pdk (field x 184 8)
      t.hasPdk (field x 184 8) = true ∧ (q.reg 0x0C8).toNat = field x 192 64 ∧ (q.reg 0x0D8).toNat = field x 112 32 ∧
        q.parent = p % 256 ∧ (q.reg 0x0D0).toNat = field x 144 16 * 2 ^ 16 + field x 160 16 ∧ q.ifstate = 0 ∧ Reported t p seq 0 0 ∧
        ((∀ k ∈ s.worlds, inShare (field x 192 64) (64 * k.1) = true → inSramTier (64 * k.1) = false) → t.mem = s.mem)) ∧
  Command .pddestroy 0x11
    (fun u p _ x => unusedZero x [(248, 8)] = true ∧ u.ownChild p (field x 248 8) = true ∧ u.children (field x 248 8) = [] ∧ field x 248 8 ≠ p ∧
      (u.pdk (field x 248 8)).scrubs = false ∧ u.destroysOver = [])
    (fun s t p seq x =>
      let no := field x 248 8
      ((s.ringOf no).cmds = [] → t.hasPdk no = false ∧ (∀ w ∈ t.warps, w.pdk ≠ no) ∧ Reported t p seq 0 0) ∧
      ((((began s p seq).closePdk no).ringOf no).cmds ≠ [] → t.hasPdk no = true ∧ (∀ w ∈ t.warps, w.pdk = no → w.stopped = true) ∧
        ∃ c ∈ (t.ringOf p).cmds, c.seq = seq ∧ c.left = [no])) ∧
  Command .pdbudget 0x12
    (fun u p _ x => unusedZero x [(248, 8), (112, 64)] = true ∧ u.ownChild p (field x 248 8) = true ∧ SoundRegs u ∧
      u.budgetOk p (field x 248 8) (field x 160 16) (field x 144 16) (field x 112 32) = true)
    (fun s t p seq x =>
      let q := t.pdk (field x 248 8)
      (q.reg 0x0D0).toNat = field x 144 16 * 2 ^ 16 + field x 160 16 ∧ (q.reg 0x0D8).toNat = field x 112 32 ∧ Reported t p seq 0 0 ∧
        t.mem = s.mem) ∧
  Command .htest 0x31
    (fun u p _ x => unusedZero x [(248, 8)] = true ∧ p = 0 ∧ u.hasPdk (field x 248 8) = true ∧ u.unlocked (field x 248 8) = true ∧
      (∀ w ∈ u.warps, w.pdk ≠ field x 248 8) ∧ (u.pdk (field x 248 8)).scrubs = false)
    (fun s t p seq x => t = ((began s p seq).closePdk (field x 248 8)).updCmd p seq fun c => { c with left := [field x 248 8] }) ∧
  (∀ p report c, Does (.htestComplete p report)
    (fun s => SoundRegs s ∧ (s.tearing 0x31).find? (fun d => d.2.2 == p && (s.ringOf p).cmds.isEmpty) = some (0, c, p))
    fun s t => Reported t 0 c.seq 0 0 ∧ (mget t.mgmt 0x020).toNat = testWord report (s.retireShare p).1 ∧ ∀ w ∈ t.warps, w.pdk ≠ p) ∧
  (∀ q x, Does .scrubComplete
    (fun s => s.pdks = [q] ∧ s.stopScrubs q = false ∧ s.destroysOver = [] ∧ s.scrubOver q = true ∧ s.ops = [x] ∧ x.kind = .scrub q.no ∧ s.hasWarp x.wid = true)
    fun s t => (t.pdk q.no).scrubbing = none ∧ (t.pdk q.no).zeroing = false ∧ (t.pdk q.no).stopping = false ∧
      Ended s t x x.lastWrites ∧ t.mem = s.mem) ∧
  (∀ p line kept, Does (.bgzeroLine p line) (fun s => s.hasPdk p = true ∧ s.nextOld p = some (line, kept)) fun s t =>
    t.pdk p = { s.pdk p with bgptr := some (line + 1), bgleft := (s.pdk p).bgleft - 1 - kept, bgwall := s.wall + 1 } ∧ t.mem = s.mem) ∧
  Does .bgzeroPassEnd (fun _ => True) (fun s t => (∀ q ∈ t.pdks, t.passOver q = false) ∧ t.mem = s.mem)

/-- R72 to R75, R353 to R355, R357, R358, R361: a LAUNCH that passes every check enters with its groups and clusters, one that fails a check is reported with
its reason; yards are made, take requests, form a warp of the oldest ones, and go; a timed launch starts in its cycle. -/
def Obligations.LaunchCommands : Prop :=
  let field (x : BitVec 256) (lo n : Nat) : Nat := fld x.toNat lo n
  (∀ gs l, Command .launch 0x01
    (fun u p seq x => unusedZero x [(144, 112)] = true ∧ u.hasPdk p = true ∧ Clean u p ∧ u.checkLaunch p seq x = .ok (gs, l))
    (fun s t p _ _ => t.launches = s.launches ++ [l] ∧
      (t.pdk p).groups = (s.pdk p).groups ++ gs.map fun g => { g with launch := l.id })) ∧
  (∀ r, Command .launch 0x01
    (fun u p seq x => unusedZero x [(144, 112)] = true ∧ u.hasPdk p = true ∧ Clean u p ∧ u.checkLaunch p seq x = .error r)
    (fun s t p seq _ => Reported t p seq 1 r ∧ t.launches = s.launches ∧ t.mem = s.mem)) ∧
  (∀ yd, Command .yardpost 0x02
    (fun u p _ x => unusedZero x [(168, 88)] = true ∧ field x 176 16 ≠ 0 ∧ (u.pdk p).yard (field x 168 8) = some yd ∧
      yd.pending.length < Config.yardLimit ∧ u.privOk p (field x 176 16) yd.desc.privkb = true)
    (fun s t p seq x =>
      let r : Request := { seq, asid := field x 176 16, arg := BitVec.ofNat 64 (field x 192 64), time := s.wall }
      let u := (began s p seq).updYard p (field x 168 8) fun y => { y with pending := y.pending ++ [r] }
      (u.yardDue (u.pdk p) = false → (t.pdk p).yard (field x 168 8) = some { yd with pending := yd.pending ++ [r] }) ∧
        (u.yardDue (u.pdk p) = true → t = u.formYards p))) ∧
  (∀ no d, Command .yardcreate 0x20
    (fun u p seq x => unusedZero x [(192, 64), (184, 8), (160, 16)] = true ∧ u.named p seq = some no ∧ field x 184 8 < 64 ∧
      (u.pdk no).yard (field x 184 8) = none ∧ u.readDesc no (field x 160 16) (field x 192 64) = some d ∧
      Clean u no ∧ (∀ v ∈ d.nbbind, v = 0xFF) ∧ d.kind = 2 ∧ d.argptr = 0 ∧ d.gridx = 0 ∧ d.gridy = 0 ∧ d.c = 0 ∧ d.w = 0 ∧ d.glist = 0 ∧ d.gcount = 0 ∧ d.timed = false ∧
      u.descFault no d = none)
    (fun s t p seq x => (∃ yd, (t.pdk no).yard (field x 184 8) = some yd ∧ yd.desc = d ∧ yd.pending = []) ∧ Reported t p seq 0 0 ∧ t.mem = s.mem)) ∧
  (∀ yd, Command .yarddestroy 0x21
    (fun u p _ x => unusedZero x [(248, 8)] = true ∧ (u.pdk p).yard (field x 248 8) = some yd)
    (fun s t p seq x => (t.pdk p).yard (field x 248 8) = none ∧ ((∀ r ∈ yd.pending, r.seq ≠ seq) → Reported t p seq 0 0) ∧ t.mem = s.mem)) ∧
  (∀ q yd, Does .yardFormTimeout
    (fun s => s.pdks.filter s.yardDue = [q] ∧ s.pdk q.no = q ∧ q.yards = [yd] ∧ q.isSealed = false)
    fun s t =>
      (∃ l w, t.launches = s.launches ++ [l] ∧ l.yard = some yd.no ∧ l.clusters.map (·.warps) = [[w]] ∧
        w.live = (maskOf fun i => decide (i < (yd.pending.take 32).length)) ∧
        ∀ i < (yd.pending.take 32).length, w.asidOf i = ((yd.pending[i]?).getD {}).asid % 2 ^ 16) ∧
      ∃ y, (t.pdk q.no).yard yd.no = some y ∧ ∀ r ∈ yd.pending.take 32, r ∉ y.pending) ∧
  (∀ l, Does .timedLaunchStart
    (fun s => s.launches.filter s.startDue = [l] ∧ l.startAt.toNat = s.rink.rinkc.toNat ∧
      (∀ c ∈ l.clusters, c.state = .resident ∨ c.state = .retired) ∧ s.startsNow l = true ∧ l.desc.tstart ∉ s.rink.aborted)
    fun s t => (∀ m ∈ t.launches, m.id = l.id → m.started = true) ∧ t.mem = s.mem ∧
      t.warps = s.warps.map fun w => if w.launch = l.id ∧ w.ready ≤ s.now w then { w with ready := s.now w, target := true } else w)

/-- R17, R67, R70, R61, R364, R396 to R398, R407, R456: a parked record resumes as a cluster of one warp; a saved cluster is queued again with the warps
that its context gives (what no byte of it gives is log 19); PREEMPT puts its request on the agenda (log 3); code is mapped once its pages are found
read-only, and scanned once the leases have run out; an unmapped image leaves the table; a template (that its paddock, and YARDCREATE's, is one that
Config names is log 22), a share grant; RKFORM forms a rink of one, else it waits for the start flit, which floods on; it fails, on every member, where
a link's measured transit, a free value (log 5), is beyond its bound (what the flit carries and how a failure travels is log 24). -/
def Obligations.ContextAndCodeCommands : Prop :=
  let field (x : BitVec 256) (lo n : Nat) : Nat := fld x.toNat lo n
  let refid (s : State) : Nat := fld s.rkctl 32 8
  let told (s t : State) (came : Option Nat) (fails : Bool) : Prop :=
    ∀ q < 8, s.rinkPort q = true → came ≠ some q → .start q fails ∈ t.rinkSent
  (∀ r k more, Command .presume 0x24
    (fun u p _ x => unusedZero x [(244, 12)] = true ∧ u.room? p (field x 244 12) 3 = some r ∧ u.readRecord p r = some (k, more) ∧
      ∃ l ∈ u.launches ++ more, l.id = k.before.launch)
    (fun s t _ seq _ => ∃ c w, c.warps = [w] ∧ w.pc = k.pc ∧ w.live = k.lanes ∧ w.exm = k.lanes ∧ w.held = k.held ∧ c.queued = true ∧
      c.state = .waiting ∧ c.room = some r.idx ∧ c.cmd = some seq ∧ c.rank = resumedRank + (s.nextId + more.length) ∧
      t.launches = (s.launches ++ more).map fun l => if l.id = k.before.launch then { l with clusters := l.clusters ++ [c] } else l)) ∧
  (∀ l, Command .preempt 0x25
    (fun u p _ x => unusedZero x [(192, 64)] = true ∧ u.byLid p (field x 224 32) = some l ∧ l.desc.timed = false ∧
      ∃ c ∈ l.clusters, c.state = .resident)
    (fun s t p seq x => t.agenda = s.agenda ++ [.preemptRequest p (field x 224 32) (field x 192 32)] ∧ t.warps = s.warps ∧ t.mem = s.mem ∧
      ∃ c ∈ (t.ringOf p).cmds, c.seq = seq ∧ c.left = s.namedRooms l (field x 192 32))) ∧
  (∀ r l c bs, Command .cresume 0x26
    (fun u p _ x => unusedZero x [(244, 12), (128, 64)] = true ∧ u.room? p (field x 244 12) 2 = some r ∧ u.savedIn p r = some (l, c, bs) ∧
      l.desc.timed = false ∧ field x 128 64 = 0 ∧ Clean u p)
    (fun s t p seq x => ∃ m ∈ t.launches, m.id = l.id ∧ ∃ d ∈ m.clusters, d.no = c.no ∧ d.state = .saved ∧ d.queued = true ∧
      d.cmd = some seq ∧ d.room = some (field x 244 12) ∧ d.warps = ((began s p seq).readCluster l c bs).warps)) ∧
  (∀ va len n entry bs frames, Command .xmap 0x28
    (fun u p _ x => unusedZero x [(176, 80)] = true ∧ u.hasPdk p = true ∧ Clean u p ∧ u.vgetBytes p (field x 176 16) (field x 192 64) 64 = some bs ∧
      parseMap (ofLe bs) = some (va, len, n, entry) ∧ u.codeFrames p (field x 176 16) va len = some frames)
    (fun s t p seq x => (t.pdk p).exframes = (s.pdk p).exframes ++ frames ∧
      (∃ j im, (t.pdk p).jobs = (s.pdk p).jobs ++ [j] ∧ j.what = .xmap seq im ∧ im.va = va ∧ im.len = len ∧ im.n = n ∧ im.entry = entry ∧
        im.frames = frames ∧ im.asid = field x 176 16) ∧ t.mem = s.mem)) ∧
  (∀ q j seq im ws off why, Does .xmapLeaseDrained
    (fun s => s.pdks = [q] ∧ s.xmapDue q = some j ∧ j.what = .xmap seq im ∧ q.no ≠ 0 ∧
      ({ s with pdks := [{ q with jobs := q.jobs.filter (·.id != j.id) }] } : State).codeWords q.no im = some ws ∧
      Clean s q.no ∧ scanImage ws im.n = some (off, why) ∧ ∃ c ∈ q.ring.cmds, c.seq = seq ∧ c.report = none)
    fun s t => Reported t q.no seq 1 0x0D ∧ (t.pdk q.no).images = q.images ∧ (t.pdk q.no).exframes = dropFrames q.exframes im.frames ∧
      t.mem = s.mem) ∧
  (∀ q j seq im ws, Does .xmapLeaseDrained
    (fun s => s.pdks = [q] ∧ s.xmapDue q = some j ∧ j.what = .xmap seq im ∧ q.no ≠ 0 ∧
      ({ s with pdks := [{ q with jobs := q.jobs.filter (·.id != j.id) }] } : State).codeWords q.no im = some ws ∧
      Clean s q.no ∧ scanImage ws im.n = none)
    fun _ t => (t.pdk q.no).images = q.images ++
      [{ im with ident := sha512 (ws.flatMap fun (w : IWord) => leBytes w.toNat 16), holds := holdInteriors ws }]) ∧
  (∀ im, Command .xunmap 0x29
    (fun u p _ x => unusedZero x [(224, 32)] = true ∧ (u.pdk p).image (field x 224 32) = some im)
    (fun s t p _ _ => (t.pdk p).images = (s.pdk p).images.filter (·.handle != im.handle) ∧
      ∃ j, (t.pdk p).jobs = (s.pdk p).jobs ++ [j])) ∧
  (∀ no bs, Command .tmplset 0x22
    (fun u p seq x => unusedZero x [(192, 64), (187, 5), (160, 16)] = true ∧ u.named p seq = some no ∧ Clean u no ∧ rising 0 (u.pdk no).templates = true ∧
      u.vgetBytes no (field x 160 16) (field x 192 64) 128 = some bs ∧
      templateOk ((List.range 64).map fun j => ofLe ((bs.drop (2 * j)).take 2)) = true)
    (fun s t p seq x => Reported t p seq 0 0 ∧ t.mem = s.mem ∧
      ∀ j < 64, mget (t.pdk no).templates (64 * field x 187 5 + j) = BitVec.ofNat 16 (ofLe ((bs.drop (2 * j)).take 2)))) ∧
  Command .shgrant 0x23
    (fun u p _ x => unusedZero x [(215, 41)] = true ∧ u.hasPdk p = true ∧ field x 232 16 ≠ field x 216 16 ∧ bitAt x.toNat 215 = false ∧
      ∀ g ∈ (u.pdk p).grants, g.no = field x 248 8 → g.inA = false ∧ g.inB = false)
    (fun s t p seq x => Reported t p seq 0 0 ∧ t.mem = s.mem ∧
      ∃ g ∈ (t.pdk p).grants, g.no = field x 248 8 ∧ g.a = field x 232 16 ∧ g.b = field x 216 16 ∧ g.inA = true ∧ g.inB = false) ∧
  Command .rkform 0x30
    (fun u p _ x => x = 0 ∧ p = 0 ∧ bitAt u.rkctl 0 = true ∧ u.diam ≠ 0 ∧
      (∀ k ∈ u.rinkPorts, ∃ y ∈ u.ports, y.no = k ∧ y.up = true ∧ y.rink = true) ∧ rising 0 u.mgmt = true)
    (fun s t _ seq _ =>
      if ∃ k < s.rinkPorts.length, 600 < (Config.freeWord (s.fresh + k)).toNat % 1024 then
        Reported t 0 seq 1 2 ∧ t.rink.forming = false ∧ t.rink.formed = false ∧ told s t none true
      else if s.rinkPorts = [] ∧ s.memberId = refid s then t.rink.formed = true ∧ t.rink.rinkc = 0 ∧ Reported t 0 seq 0 0
      else t.rink.forming = true ∧ t.rink.formed = false) ∧
  (∀ port, Does (.rinkStartFlit port false)
    (fun s => s.rink.forming = true ∧ port < 8 ∧ s.rinkPort port = true ∧ s.memberId ≠ refid s) fun s t =>
    t.rink.formed = true ∧ t.rink.forming = false ∧ t.rink.rinkc = BitVec.ofNat 64 ((mget s.rink.hop port).toNat * s.hopsTo (refid s)) ∧
      told s t (some port) false ∧ t.mem = s.mem) ∧
  (∀ port, Does (.rinkStartFlit port false) (fun s => s.rink.forming = true ∧ 8 ≤ port ∧ s.memberId = refid s) fun s t =>
    t.rink.formed = true ∧ t.rink.forming = false ∧ t.rink.rinkc = 0 ∧ told s t none false ∧ t.mem = s.mem) ∧
  (∀ port, Does (.rinkStartFlit port true) (fun s => s.rink.forming = true ∧ port < 8 ∧ s.rinkPort port = true) fun s t =>
    t.rink.formed = false ∧ t.rink.forming = false ∧ told s t (some port) true ∧ t.mem = s.mem)

/-! ## The rink, in its cycle -/

/-- R410, R412, R418 to R420, R422: a member with a timed task announces its planned skid on every rink port; an announcement that comes in
for the first time is kept and goes on to the other ports; a skid is taken in its cycle and ends; a cause in a core of a timed task skids
the whole member; a timing flit tells the phase, and a count off by more than 8, apart from skids that one side has taken or is taking (log
33), is a timing fault; the offset is refreshed and stepped. -/
def Obligations.RinkClock : Prop :=
  let told (t : State) (came : Option Nat) (mk : Nat → RinkSent) : Prop := ∀ p < 8, t.rinkPort p = true → came ≠ some p → mk p ∈ t.rinkSent
  Does .plannedSkidAnnounce
    (fun s => s.rink.formed = true ∧ (∃ w ∈ s.warps, w.timed = true) ∧ (∀ c, s.rink.lastPlanned = some c → c + 256 ≤ s.rink.rinkc.toNat) ∧
      rising 0 s.mgmt = true)
    (fun s t =>
      let at_ := s.rink.rinkc.toNat + Config.skidNotice
      t.rink.skids = s.rink.skids ++ [{ origin := s.memberId, stamp := at_, index := s.rink.index, due := at_, planned := true }] ∧
      t.rink.index = s.rink.index + 1 ∧ t.rink.lastPlanned = some s.rink.rinkc.toNat ∧ mget t.mgmt 0x014 = mget s.mgmt 0x014 ||| 2 ∧
      told t none fun p => .skid p s.memberId at_ s.rink.index true) ∧
  (∀ port origin stamp index planned, Does (.skidAnnounceReceive port origin stamp index planned)
    (fun s => s.rink.formed = true ∧ s.rinkPort port = true ∧ (origin, stamp, index) ∉ s.rink.done ∧
      (∀ x ∈ s.rink.skids, ¬(x.origin = origin ∧ x.stamp = stamp ∧ x.index = index)) ∧
      s.rink.rinkc.toNat ≤ stamp + Config.hop * s.hopsTo origin)
    fun s t => t.rink.skids = s.rink.skids ++ [{ origin, stamp, index, due := stamp + Config.hop * s.hopsTo origin, planned }] ∧
      told t (some port) fun p => .skid p origin stamp index planned) ∧
  (∀ x, Does .skidTake (fun s => s.nextSkid = some x) fun s t =>
    t.rink.taken = s.rink.taken + 1 ∧ t.rink.skids = s.rink.skids.erase x ∧ (x.origin, x.stamp, x.index) ∈ t.rink.done ∧
      t.rink.skidEnds = some (max (s.wall + 1) (s.rink.skidEnds.getD 0) + Config.skid) ∧ t.mem = s.mem) ∧
  (∀ c, Does (.unplannedSkid c) (fun s => s.rink.formed = true ∧ s.holdsTimed c = true ∧ s.rink.skidEnds = none) fun s t =>
    t.rink.taken = s.rink.taken + 1 ∧ t.rink.skidFrom = s.wall + 1 ∧ t.rink.skidEnds = some (s.wall + 1 + Config.skid) ∧
      told t none fun p => .skid p s.memberId s.rink.rinkc.toNat s.rink.index false) ∧
  Does .skidEnd (fun s => s.skidOver = true ∧ s.rink.traps = []) (fun s t =>
    t = { s with rink := { s.rink with skidEnds := none, skidFrom := 0 } }) ∧
  (∀ port member count taken phase, Does (.timingFlitReceive port member count taken phase)
    (fun s => s.rink.formed = true ∧ s.rinkPort port = true) fun s t =>
      let theirs := count + (mget s.rink.hop port).toNat + Config.skid * taken
      let ours := s.rink.passed s.wall
      let more := Config.skid * s.standing count
      t.rink.phase = sx 32 phase ∧
        (theirs ≤ ours + 8 + more → ours ≤ theirs + 8 → t = { s with rink := { s.rink with phase := sx 32 phase } }) ∧
        (¬(theirs ≤ ours + 8 + more ∧ ours ≤ theirs + 8) → rising 0 s.mgmt = true → mget t.mgmt 0x110 ≠ 0)) ∧
  Does .driftobsRefresh (fun s => s.refreshDue = true) (fun s t =>
    t = { s with rink := { s.rink with driftobs := BitVec.ofInt 32 s.offset, refreshed := some s.rink.rinkc } }) ∧
  Does .drftPhaseStep (fun s => s.stepDue = true) (fun s t =>
    t = { s with rink := { s.rink with drftn := s.rink.drftn + 1, phase := s.rink.phase - s.rink.drftx.sign } })

/-- R408, R416, R422, R423: a frame that arrives has crossed one link more and waits for its read or its relay, which sends it on; frames past
their due cycle leave; the first timing fault is kept and ends its task with an abort on every rink port; a stop is learnt once, goes on
to the other ports, and stops the task's warps. Who records RKFAULT, and whom a lost link ends, is log 33 (DEDUCED); a flood without the port of arrival,
and a port in Ethernet mode that carries no frame, are log 12 (DESIGN CHOICE). -/
def Obligations.RinkFrames : Prop :=
  let told (t : State) (came : Option Nat) (mk : Nat → RinkSent) : Prop := ∀ p < 8, t.rinkPort p = true → came ≠ some p → mk p ∈ t.rinkSent
  let kept (s t : State) (member cause : Nat) : Prop := rising 0 s.mgmt = true →
    mget t.mgmt 0x110 = if mget s.mgmt 0x110 = 0 then
      BitVec.ofNat 64 (s.rink.rinkc.toNat % 2 ^ 48 * 2 ^ 16 + member * 2 ^ 8 + cause) else mget s.mgmt 0x110
  (∀ port bits, Does (.rinkFrameArrive port bits)
    (fun s =>
      let chan := frameChan (frameHop bits)
      s.rink.formed = true ∧ s.rinkPort port = true ∧ (∀ k, s.rink.taskOf chan = some k → k ∉ s.rink.aborted) ∧
        (s.relayOf port chan = none → (s.rink.frames.filter fun x => x.port == port && x.relay.isNone).length < 512))
    fun s t => t.rink.frames = s.rink.frames ++
      [{ port, relay := s.relayOf port (frameChan (frameHop bits)), bits := frameHop bits, seen := s.wall }] ∧
      frameHops (frameHop bits) = (frameHops bits + 1) % 256 ∧ t.mem = s.mem) ∧
  (∀ x q, Does .rinkFrameRelay (fun s => s.rink.frames.find? s.relayDue = some x ∧ x.relay = some q ∧ s.rink.portFree q = true) fun s t =>
    t.rink.frames = s.rink.frames.erase x ∧ t.rinkSent = (if s.rinkPort q = true then .frame q x.bits :: s.rinkSent else s.rinkSent) ∧ t.mem = s.mem) ∧
  Does .rinkFrameExpire (fun _ => True) (fun s t => (∀ x ∈ t.rink.frames, s.expired x = false) ∧
    (∀ x ∈ s.rink.frames, s.expired x = false → x ∈ t.rink.frames) ∧ t.mem = s.mem) ∧
  (∀ cause k, Does (.timingFault cause k) (fun _ => True) fun s t =>
    kept s t s.memberId cause ∧ (BitVec.ofNat 64 k : DWord) ∈ t.rink.aborted ∧
      (rising 0 s.mgmt = true → told t none fun p => .abort p s.memberId cause (BitVec.ofNat 64 k : DWord).toNat)) ∧
  (∀ port member cause k, Does (.timingAbortReceive port member cause k) (fun s => s.rink.formed = true ∧ s.rinkPort port = true) fun s t =>
    kept s t member cause ∧ (BitVec.ofNat 64 k : DWord) ∈ t.rink.aborted ∧
      ((BitVec.ofNat 64 k : DWord) ∉ s.rink.aborted → rising 0 s.mgmt = true → told t (some port) fun p => .abort p member cause k)) ∧
  (∀ port, Does (.rinkLinkLost port) (fun s => s.rink.formed = true ∧ s.rinkPort port = true) fun s t =>
    kept s t s.memberId 6 ∧ ∀ l ∈ s.launches, l.desc.timed = true → l.desc.tstart ∈ t.rink.aborted) ∧
  (∀ p lid l, Does (.rinkPreemptAnnounce p lid)
    (fun s => s.byLid p lid = some l ∧ l.desc.timed = true ∧ s.rink.formed = true ∧ ∀ k ∈ s.rink.stops, k.1 ≠ l.desc.tstart) fun s t =>
      let stop := s.rink.rinkc.toNat + Config.skidNotice + Config.hop * s.diam
      t.rink.stops = s.rink.stops ++ [(l.desc.tstart, stop)] ∧ told t none fun p => .stop p l.desc.tstart.toNat stop) ∧
  (∀ port k stop, Does (.preemptionAnnouncementReceive port k stop)
    (fun s => s.rink.formed = true ∧ s.rinkPort port = true ∧ ∀ x ∈ s.rink.stops, x.1 ≠ BitVec.ofNat 64 k) fun s t =>
      t.rink.stops = s.rink.stops ++ [(BitVec.ofNat 64 k, stop)] ∧
        told t (some port) fun p => .stop p (BitVec.ofNat 64 k : DWord).toNat stop) ∧
  Does .timedStop (fun _ => True) (fun s t => (∀ w ∈ t.warps, s.taskStopped w = true → w.stopped = true) ∧ t.mem = s.mem ∧ t.ops = s.ops)

/-! ## The host -/

/-- R433, R443, R444, R445: the responder answers a request in its order, version and fields with what R444 has it say, else with the error that the
first of these names, and with Busy while a stop is in progress; GET_VERSION ends the sessions; KEY_EXCHANGE opens one, FINISH gives its interface's
ring its key; TDISP requests move the interface by the transitions of R433, and a stop has no answer until its scrub is over. The version code 0x13
and the block numbers of GET_MEASUREMENTS are log 27 (PRESUMED), and so is the transcript that is signed, a free value. -/
def Obligations.Responder : Prop :=
  let errs (n : Nat) (s t : State) : Prop := t = { s with spdm := { s.spdm with reply := .error n } }
  let idle (s : State) : Prop := s.spdm.busy = none
  let answers (i : BitVec 8 → Instr) (order fieldOk : State → Prop) (reply : State → SpdmReply) (eff : State → State → Prop) : Prop :=
    (∀ v, Does (i v) (fun s => ¬idle s) (errs 0x03)) ∧ (∀ v, Does (i v) (fun s => idle s ∧ ¬order s) (errs 0x04)) ∧
    (∀ v, Does (i v) (fun s => idle s ∧ order s ∧ v ≠ spdmVersion) (errs 0x41)) ∧
    Does (i spdmVersion) (fun s => idle s ∧ order s ∧ fieldOk s) fun s t => t.spdm.reply = reply s ∧ t.mem = s.mem ∧ eff s t
  let refuses (i : BitVec 8 → Instr) (order fieldOk : State → Prop) : Prop :=
    Does (i spdmVersion) (fun s => idle s ∧ order s ∧ ¬fieldOk s) (errs 0x01)
  let blocks (s : State) (block : Nat) : List (Nat × BitVec 512) :=
    ((List.range 8).filter fun k => decide (block = 0xFF ∨ block = k + 1)).map fun k => (k + 1, s.measReg k)
  let stage (n : Nat) (s : State) : Prop := n ≤ s.spdm.stage
  let same (s t : State) : Prop := t.spdm.sessions = s.spdm.sessions ∧ t.spdm.stage = s.spdm.stage ∧ t.pdks = s.pdks
  let live (s : State) (n : Nat) (x : Session) : Prop := s.spdm.sessions.find? (·.id == n) = some x
  let moves (i : Nat → Instr) (v : Nat) (reply : SpdmReply) (eff : State → State → Nat → Prop) : Prop :=
    (∀ n, Does (i n) (fun s => ¬idle s) (errs 0x03)) ∧ (∀ n, Does (i n) (fun s => idle s ∧ s.open? n = none) (errs 0x04)) ∧
    (∀ n x, Does (i n)
      (fun s => idle s ∧ s.open? n = some x ∧ (x.iface = 0 ∨ s.hasPdk x.iface = false ∨ (s.pdk x.iface).admits v = false)) fun s t =>
      t = { s with spdm := { s.spdm with reply := .tdispError } }) ∧
    (∀ n x, Does (i n)
      (fun s => idle s ∧ s.open? n = some x ∧ x.iface ≠ 0 ∧ s.hasPdk x.iface = true ∧ (s.pdk x.iface).admits v = true ∧ SoundRegs s)
      fun s t => t.spdm.reply = reply ∧ eff s t x.iface)
  Does .getVersion (fun s => ¬idle s) (errs 0x03) ∧
  Does .getVersion idle (fun _ t =>
    t.spdm.stage = 1 ∧ t.spdm.version = spdmVersion ∧ t.spdm.reply = .version spdmVersion ∧ t.spdm.sessions = []) ∧
  answers (.getCapabilities · true) (stage 1) (fun _ => True)
    (fun _ => .capabilities [.cert, .chal, .measSigned, .keyEx, .encrypt, .mac, .keyUpd]) (fun s t => t.spdm.stage = max s.spdm.stage 2) ∧
  refuses (.getCapabilities · false) (stage 1) (fun _ => False) ∧
  answers (.negotiateAlgorithms · true) (stage 2) (fun _ => True)
    (fun _ => .algorithms [.signEd25519, .hashSha512, .measSha512, .dheP384, .aeadAes256Gcm]) (fun s t => t.spdm.stage = max s.spdm.stage 3) ∧
  refuses (.negotiateAlgorithms · false) (stage 2) (fun _ => False) ∧
  answers (.getCertificate · 0) (stage 3) (fun _ => True)
    (fun s => .certificate [.root Config.rootKey, .identity (BitVec.ofNat 256 (edPublic Config.identitySeed)),
      .alias_ (BitVec.ofNat 256 (edPublic s.aliasSeed))]) same ∧
  (∀ slot, refuses (.getCertificate · slot) (stage 3) fun _ => slot = 0) ∧
  answers (.challenge · 0) (stage 3) (fun _ => True) (fun s => .challengeAuth (s.signed []).1) same ∧
  (∀ slot, refuses (.challenge · slot) (stage 3) fun _ => slot = 0) ∧
  (∀ block, answers (.getMeasurements · block) (stage 3) (fun _ => block ≤ 8 ∨ block = 0xFF)
      (fun s => .measurements 8 (blocks s block) (s.signed ((blocks s block).flatMap fun b => digestBytes b.2)).1) same ∧
    refuses (.getMeasurements · block) (stage 3) fun _ => block ≤ 8 ∨ block = 0xFF) ∧
  (∀ iface, answers (.keyExchange · iface) (stage 3) (fun s => iface = 0 ∨ s.hasPdk iface = true)
      (fun s => .keyExchange s.spdm.next (s.signed []).1) (fun s t =>
      t.spdm.sessions = s.spdm.sessions ++ [{ id := s.spdm.next, iface }] ∧ t.spdm.next = s.spdm.next + 1) ∧
    refuses (.keyExchange · iface) (stage 3) fun s => iface = 0 ∨ s.hasPdk iface = true) ∧
  (∀ n x, answers (.finish · n) (fun s => stage 3 s ∧ ∃ y ∈ s.spdm.sessions, y.id = n ∧ y.done = false) (fun _ => True) (fun _ => .response) fun s t =>
    live s n x → (x.iface = 0 ∨ s.hasPdk x.iface = true) →
      (t.ringOf x.iface).session = some n ∧ (t.ringOf x.iface).rekeys = 0 ∧ ∀ y ∈ t.spdm.sessions, y.id = n → y.done = true) ∧
  (∀ n, answers (.keyUpdate · n) (fun s => stage 3 s ∧ (s.open? n).isSome = true) (fun _ => True) (fun _ => .response) fun s t =>
    t.spdm.sessions = s.spdm.sessions.map fun y => if y.id = n then { y with keys := y.keys + 1 } else y) ∧
  (∀ n, Does (.spdmDecryptFail n) (fun s => ∃ x, live s n x) fun _ t =>
    t.spdm.reply = .error 0x06 ∧ ∀ y ∈ t.spdm.sessions, y.id ≠ n) ∧
  (∀ code, Does (.spdmUnsupportedRequest code) (fun s => ¬idle s) (errs 0x03) ∧ Does (.spdmUnsupportedRequest code) idle (errs 0x07)) ∧
  moves .lockInterfaceRequest 0 .response (fun s t p => (t.pdk p).ifstate = 1 ∧ (t.pdk p).watch = watchOffsets ∧ t.mem = s.mem) ∧
  moves .startInterfaceRequest 1 .response (fun s t p => (t.pdk p).ifstate = 2 ∧ t.mem = s.mem) ∧
  moves .stopInterfaceRequest 2 .none (fun _ t p => t.spdm.busy = some p ∧ (t.pdk p).stopping = true ∧ ∀ w ∈ t.warps, w.pdk = p → w.stopped = true)

/-- R250, R252, R435, R437, R447, R449, R454, R459, R460, R466: a host write of one line, once die 0 is quiet and nothing stands ahead of it at its
home, a host read, the reply to one that is not served, and one that waits for a scrub; a read of BAR0 (behind 2^40, log 28); a reset of a paddock,
of a die's paddocks and of the device; power, boot and throttling. A request that waits is kept and tried again (log 30). -/
def Obligations.HostAndResets : Prop :=
  (∀ via addr bytes pa p, Does (.hostMemoryWrite via addr bytes)
    (fun s => s.hostAll via true (linePieces addr bytes.length) = .ok [(pa, p, bytes.length)] ∧ s.quiet 0 = true ∧
      s.homeFree 0 pa bytes.length = true ∧ s.markOf p pa = none ∧ s.poisoned pa bytes.length = false)
    fun s t => t.mem = (s.poke pa bytes).mem ∧ t.reply = .ok []) ∧
  (∀ via addr bytes r, Does (.hostMemoryWrite via addr bytes)
    (fun s => s.hostAll via true (linePieces addr bytes.length) = .error (some r)) fun s t =>
      t = { s.unhold (.hostMemoryWrite via addr bytes) with reply := r }) ∧
  (∀ via addr bytes, Does (.hostMemoryWrite via addr bytes)
    (fun s => s.hostAll via true (linePieces addr bytes.length) = .error none) fun s t => t = s.hold (.hostMemoryWrite via addr bytes)) ∧
  (∀ via addr len pa p, Does (.hostMemoryRead via addr len)
    (fun s => addr < 2 ^ 40 ∧ s.hostAll via false (linePieces addr len) = .ok [(pa, p, len)] ∧ s.markOf p pa = none ∧ s.poisoned pa len = false)
    fun s t => t = { s.unhold (.hostMemoryRead via addr len) with reply := .ok (s.peek pa len) }) ∧
  (∀ via addr len r, Does (.hostMemoryRead via addr len)
    (fun s => addr < 2 ^ 40 ∧ s.hostAll via false (linePieces addr len) = .error (some r)) fun s t =>
      t = { s.unhold (.hostMemoryRead via addr len) with reply := r }) ∧
  (∀ via off len, Does (.hostMemoryRead via (2 ^ 40 + off) len)
    (fun s => served s via via.fn ∧ via.fn ≠ 0 ∧ off + len ≤ 0x1000)
    fun s t => t = { s with reply := .ok ((List.range len).map fun k => s.pageByte via.fn (off + k)) }) ∧
  Does .pcieConfigRequest (fun _ => True) (fun s t =>
    t = { s with reply := if s.booted = true then .ok [] else if s.powered = true then .retry else .linkDown }) ∧
  (∀ p, Does (.flrVf p) (fun s => s.hasPdk p = true ∧ s.resetWaits p = true) fun s t => t = s.hold (.flrVf p)) ∧
  (∀ p, Does (.flrVf p) (fun s => s.hasPdk p = true ∧ p ≠ 0 ∧ s.resetWaits p = false ∧ SoundRegs s) fun s t =>
    (∀ w ∈ t.warps, w.pdk = p → w.stopped = true) ∧ (t.pdk p).stopping = true ∧
    ((s.ringOf p).header.1 = (s.ringOf p).header.2 → (t.ringOf p).cmds = []) ∧
    ((t.ringOf p).cmds = [] → (∀ w ∈ t.warps, w.pdk ≠ p) ∧ (∀ l ∈ t.launches, l.pdk ≠ p) ∧ (t.pdk p).zeroing = true ∧
      ∀ a, inShare ((s.pdk p).reg 0x0C8).toNat a = true → mget t.mem a = 0)) ∧
  (∀ d, Does (.dieReset d) (fun s => ∀ q ∈ s.pdksOn d, q.no ≠ 0 ∧ s.resetWaits q.no = false) fun s t =>
    ∀ q ∈ s.pdksOn d, (t.pdk q.no).stopping = true ∧ (∀ w ∈ t.warps, w.pdk = q.no → w.stopped = true) ∧
      ((t.ringOf q.no).cmds = [] → ∀ w ∈ t.warps, w.pdk ≠ q.no)) ∧
  Does .deviceReset (fun s => s.booted = false) (fun s t =>
    t = { s with reply := if s.powered = true then .unsupported else .linkDown }) ∧
  Does .deviceReset (fun s => s.booted = true) (fun s t =>
    t.warps = [] ∧ t.ops = [] ∧ t.cores = [] ∧ t.pdks = [] ∧ t.mem = [] ∧ t.powered = true ∧ t.redirect = s.redirect ∧ t.flash = s.savedHeaders) ∧
  Does .thermalTrip (fun s => s.powered = true) (fun s t =>
    t.warps = [] ∧ t.ops = [] ∧ t.cores = [] ∧ t.pdks = [] ∧ t.mem = [] ∧ t.powered = false ∧ t.flash = s.savedHeaders ∧
      t.reply = .linkDown) ∧
  Does .powerLoss (fun _ => True) (fun _ t =>
    t.warps = [] ∧ t.ops = [] ∧ t.pdks = [] ∧ t.mem = [] ∧ t.powered = false ∧ t.redirect = [] ∧ t.flash = [] ∧ t.mgmt = State.reset.mgmt ∧
      t.reply = .linkDown) ∧
  (∀ image others, Does (.powerGood image others 0) (fun s => s.powered = false ∧ rising 0 s.mgmt = true ∧ 4 ≤ others.length) fun s t =>
    t.powered = true ∧ mget t.mgmt 0x004 = 3 ∧ t.measReg 0 = sha512 (digestBytes (s.measReg 0) ++ digestBytes (sha512 image))) ∧
  (∀ image others fail, Does (.powerGood image others fail) (fun s => s.powered = false ∧ rising 0 s.mgmt = true ∧ (fail = 1 ∨ fail = 2)) fun _ t =>
    mget t.mgmt 0x004 = BitVec.ofNat 64 (fail * 256 + 0xF)) ∧
  (∀ image others fail, Does (.powerGood image others fail)
    (fun s => s.powered = false ∧ rising 0 s.mgmt = true ∧ (fail = 3 ∨ (fail = 0 ∧ others.length < 4))) fun _ t => mget t.mgmt 0x004 = 0x30F) ∧
  Does .bootReady (fun s => s.powered = true ∧ mget s.mgmt 0x004 = 3 ∧ rising 0 s.mgmt = true) (fun _ t => t.booted = true) ∧
  (∀ c, Does (.throttleStart c) (fun s => s.holdsTimed c = false ∧ rising 0 s.mgmt = true) fun s t =>
    (t.core c).throttled = true ∧ t.frozen c = true ∧ bitAt (mget t.mgmt 0x014).toNat 0 = true ∧ t.mem = s.mem) ∧
  (∀ c, Does (.throttleEnd c) (fun _ => True) fun s t => t.core c = { s.core c with throttled := false } ∧ t.mem = s.mem)

/-- R450 to R453: a queue pair's control takes its value, an error where its port and VLAN are another's; the next frame of a queue goes to
its port with its tag; a frame for no queue is counted, and so is one that its FCS or its length (log 29) spoils; a frame for a queue pair goes into its
posted buffer, cut to it, with its length, STATUS and CONS + 1; without a buffer it is dropped and counted, and the port asks for a pause of the
priority; a ring that does not read is an ERROR; a frame waits until it may be written (R252, log 29); a port's link, and a pause of a priority. -/
def Obligations.Ethernet : Prop :=
  let value (v : DWord) : Nat := v.toNat &&& (bits 63 26 + bits 1 0)
  let clash (s : State) (p q : Nat) (v : DWord) : Prop := bitAt (value v) 0 = true ∧ ∃ x ∈ s.nqAll, (x.1 ≠ p ∨ x.2.1 ≠ q) ∧
    bitAt x.2.2 0 = true ∧ nqPort x.2.2 = nqPort (value v) ∧ nqVlan x.2.2 = nqVlan (value v)
  let open_ (s : State) (via : Via) (p q : Nat) : Prop :=
    q < 8 ∧ p ≠ 0 ∧ served s via p ∧ s.lockSoon = false ∧ SoundRegs s ∧ (0x200 + 0x20 * q) ∉ (s.pdk p).watch
  let ring (s : State) (p k c : Nat) : Except Nat (Nat × Nat × Nat × Nat) :=
    s.nqRing p (nqAsid c) ((s.pdk p).reg (0x210 + 0x20 * k)).toNat (nqSize c)
  let steered (s : State) (port v p k c len : Nat) : Prop := s.ethPort port = true ∧ len ≤ 9208 ∧ s.nqFor port v = some (p, k, c)
  (∀ via p q v, Does (.nqctlWrite ⟨via, p⟩ q v) (fun s => open_ s via p q ∧ ¬clash s p q v) fun s t =>
    (t.pdk p).reg (0x200 + 0x20 * q) = BitVec.ofNat 64 (value v) ∧ t.mem = s.mem) ∧
  (∀ via p q v, Does (.nqctlWrite ⟨via, p⟩ q v) (fun s => open_ s via p q ∧ clash s p q v) fun s t =>
    bitAt ((t.pdk p).reg (0x200 + 0x20 * q)).toNat 1 = true ∧ fld ((t.pdk p).reg (0x218 + 0x20 * q)).toNat 32 8 = 4 ∧ t.mem = s.mem) ∧
  (∀ p q prod cons at_ d bs, Does (.ethSendDescriptor p q)
    (fun s =>
      let c := (s.pdk p).nqctl q
      let u := s.notePause (nqPort c) (nqPrio c)
      u.ethDue p q = true ∧ Clean u p ∧ u.nqRing p (nqAsid c) ((s.pdk p).reg (0x208 + 0x20 * q)).toNat (nqSize c) = .ok (prod, cons, at_, d) ∧
        60 ≤ fld d 176 16 ∧ fld d 176 16 ≤ 9208 ∧
        (u.updPdk p fun r => { r with queues := { no := q, served := s.wall } :: r.queues.filter (·.no != q) }).vgetBytes p (nqAsid c)
          (fld d 192 64) (fld d 176 16) = some bs)
    fun s t =>
      let c := (s.pdk p).nqctl q
      t.sentFrames = (nqPort c, tagged (nqPrio c) (nqVlan c) bs) :: s.sentFrames) ∧
  (∀ port ok vlan bytes, Does (.ethFrameReceive port ok vlan bytes)
    (fun s => s.ethPort port = true ∧ rising 0 s.mgmt = true ∧
      (ok = false ∨ 9208 < bytes.length ∨ vlan = none ∨ ∃ v, vlan = some v ∧ s.nqFor port v = none))
    fun s t => (mget t.mgmt 0x028).toNat = min 0xFFFFFFFF ((mget s.mgmt 0x028).toNat + 1) ∧ t.mem = s.mem ∧ t.pdks = s.pdks) ∧
  (∀ port v bytes p k c prod cons at_ d, Does (.ethFrameReceive port true (some v) bytes)
    (fun s => steered s port v p k c bytes.length ∧ s.nqMay p k c bytes.length = true ∧ Clean s p ∧ ring s p k c = .ok (prod, cons, at_, d) ∧ cons < prod)
    fun s t =>
      let u := s.unhold (.ethFrameReceive port true (some v) bytes)
      let asid := nqAsid c
      let part := bytes.take (fld d 176 16)
      let fits := decide (fld d 192 64 + part.length ≤ 2 ^ 57) && (linePieces (fld d 192 64) part.length).all fun x => (u.vaddr p asid x.1 true).isSome
      let status := if fits = false then 2 else if fld d 176 16 < bytes.length then 1 else 0
      let filled := if fits = true then u.nqStore p asid (fld d 192 64) part else u
      let noted := (filled.nqStore p asid (at_ + 20) (leBytes bytes.length 2)).nqStore p asid (at_ + 19) [BitVec.ofNat 8 status]
      t.mem = (noted.nqStore p asid (((s.pdk p).reg (0x210 + 0x20 * k)).toNat + 8) (leBytes (cons + 1) 8)).mem ∧ t.mgmt = s.mgmt) ∧
  (∀ port v bytes p k c prod cons at_ d, Does (.ethFrameReceive port true (some v) bytes)
    (fun s => steered s port v p k c bytes.length ∧ s.nqMay p k c bytes.length = true ∧ Clean s p ∧ SoundRegs s ∧
      ring s p k c = .ok (prod, cons, at_, d) ∧ prod ≤ cons)
    fun s t =>
      let drops (x : State) : Nat := fld ((x.pdk p).reg (0x218 + 0x20 * k)).toNat 0 32
      drops t = min 0xFFFFFFFF (drops s + 1) ∧ t.mem = s.mem ∧ nqPrio c ∈ t.askedOn port ∧
        (nqPrio c ∉ s.askedOn port → t.pauses = (port, nqPrio c, true) :: s.pauses)) ∧
  (∀ port v bytes p k c cause, Does (.ethFrameReceive port true (some v) bytes)
    (fun s => steered s port v p k c bytes.length ∧ s.nqMay p k c bytes.length = true ∧ Clean s p ∧ SoundRegs s ∧ ring s p k c = .error cause)
    fun s t => bitAt ((t.pdk p).reg (0x200 + 0x20 * k)).toNat 1 = true ∧ fld ((t.pdk p).reg (0x218 + 0x20 * k)).toNat 32 8 = cause ∧ t.mem = s.mem) ∧
  (∀ port v bytes p k c, Does (.ethFrameReceive port true (some v) bytes)
    (fun s => steered s port v p k c bytes.length ∧ s.nqMay p k c bytes.length = false)
    fun s t => t = s.hold (.ethFrameReceive port true (some v) bytes)) ∧
  (∀ port, Does (.portLinkDown port) (fun _ => port < 8) fun s t => (∀ x ∈ t.ports, x.no = port → x.up = false ∧ x.paused = []) ∧
    (∀ x ∈ s.ports, x.no ≠ port → x ∈ t.ports)) ∧
  (∀ port, Does (.portLinkUp port) (fun s => port < 8 ∧ ∀ x ∈ s.ports, x.no = port → x.up = false) fun s t =>
    ∃ x ∈ t.ports, x.no = port ∧ x.up = true ∧ x.rink = bitAt s.rkctl (8 + port)) ∧
  (∀ port prio pause, Does (.flowControlFrameReceive port prio pause) (fun s => s.ethPort port = true ∧ prio < 8) fun s t =>
    ∃ x ∈ t.ports, x.no = port ∧ (prio ∈ x.paused ↔ pause = true) ∧ t.mem = s.mem)

/-! ## Issue, traps, steps -/

/-- R37, R40, R41, R51: an issue moves the pc to the next word, counts the flag up and notes the cycle, and leaves the registers, the lanes,
the results on their way, EXM and the stack as they were; a result that lands counts the flag down, its registers read as its words, and
every other register as before. -/
def Obligations.IssueAndLanding : Prop :=
  (∀ (s : State) f w, rising 0 w.flags = true →
    let v := s.issuedWarp f w
    v.pc = w.pc + 16 ∧ v.last = some (s.now w) ∧ v.waitcnt = 0 ∧ v.regs = w.regs ∧ v.pend = w.pend ∧ v.exm = w.exm ∧ v.live = w.live ∧
      v.park = w.park ∧ v.held = w.held ∧ v.stack = w.stack ∧ v.members = w.members ∧ v.batch = w.batch ∧
      ∀ k, mget v.flags k = mget w.flags k + (if f.flag = some k then 1 else 0)) ∧
  (∀ (w : Warp) due flag r lane n v, rising 0 w.regs = true → rising 0 w.flags = true → lane < 32 →
    let u := w.landOne { due, flag, writes := regWrites r lane n v }
    (∀ k < n, u.reg (r + k) lane = BitVec.ofNat 32 (v / 2 ^ (32 * k))) ∧
      (∀ q i, i < 32 → ¬(i = lane ∧ r ≤ q ∧ q < r + n) → u.reg q i = w.reg q i) ∧
      (∀ k, mget u.flags k = mget w.flags k - (if flag = some k then 1 else 0)) ∧
      u.pc = w.pc ∧ u.exm = w.exm ∧ u.live = w.live ∧ u.park = w.park ∧ u.held = w.held ∧ u.stack = w.stack ∧ u.pend = w.pend)

/-- R162, R194, R196, R197, R201, R216, R274, R330, R376, R382, R411, R436: where words trap: UNPREP and STALE of a taken transfer, REGRANGE, ILLCONV,
MIXOWN, NONUNI, DIVSTK, LOCKMISS, TIMING and PRIV. A root-world word traps outside the root world, or in timed mode, whether or not a lane
executes it, and so does DRFT outside timed mode (that R411 holds there over R412's NOP is log 47, DEDUCED). -/
def Obligations.WordsTrap : Prop :=
  let mixed {α : Type} (w : Warp) (f : Fields) (g : Nat → α) : Prop :=
    ∃ i ∈ lanesOf (w.exec f), ∃ j ∈ lanesOf (w.exec f), g i ≠ g j
  let some_ (w : Warp) (f : Fields) : Prop := w.exec f ≠ 0
  let taken (w : Warp) (f : Fields) : Prop := f.sched.pen = false ∨ (w.active ≠ 0 ∧ w.active &&& w.predMask f = w.active)
  let unprep (i : Fields → Instr) (ok : Warp → Fields → Prop) : Prop :=
    Traps i 0x10 (fun _ w f => ok w f ∧ (w.bregP f.a.reg.toNat).valid = false) ∧
    Traps i 0x11 (fun _ w f => ok w f ∧ (w.bregP f.a.reg.toNat).valid = true ∧ (w.bregP f.a.reg.toNat).stale = true)
  let bad (w : Warp) (f : Fields) (wide : Bool) : Prop := ∃ i ∈ lanesOf (w.exec f),
    let e := f.a.reg.toNat + (w.wordB f i).toNat
    w.n ≤ e ∨ (wide = true ∧ (e % 2 = 1 ∨ w.n ≤ e + 1))
  let matrix (i : Fields → Instr) : Prop := Traps i 0x13 fun _ w _ => w.active ≠ BitVec.allOnes 32
  let spans (i : Fields → Instr) : Prop := Traps i 0x14 fun _ w _ => w.active = BitVec.allOnes 32 ∧ w.spans (BitVec.allOnes 32) = true
  let served (w : Warp) : Prop := w.kind = .handler ∧ w.holds.isSome = true
  let rooted (i : Fields → Instr) : Prop :=
    Traps i 0x1B (fun _ w _ => w.pdk ≠ 0) ∧ Traps i 0x19 fun _ w _ => w.pdk = 0 ∧ w.timed = true
  let outside (i : Fields → Instr) (G : Fields → Nat) : Prop := Traps i 0x1B fun s w f => some_ w f ∧ s.isMember w (G f) = false
  let G (f : Fields) : Nat := f.immVal.toNat % 256
  unprep .xfer taken ∧ unprep .call (fun _ _ => True) ∧ unprep .ret (fun _ _ => True) ∧
  unprep .loop (fun w f => 2 ≤ (w.breg f.a.reg.toNat).count.toNat) ∧
  Traps .movx 0x12 (fun _ w f => bad w f false) ∧ Traps .movxw 0x12 (fun _ w f => bad w f true) ∧
  matrix .mres ∧ matrix .mrel ∧ matrix .mldb ∧ matrix .mlda ∧ matrix .mma ∧ matrix .mspr ∧ matrix .mzero ∧ matrix .mmov ∧ matrix .mput ∧
  matrix .mstat ∧ spans .mrel ∧ spans .mstat ∧
  Traps .prepv 0x15 (fun _ w f => mixed w f (w.src f.a)) ∧
  Traps .xfer 0x15 (fun _ w f => f.sched.pen = true ∧ f.var = 0 ∧ w.active &&& w.predMask f ≠ 0 ∧ w.active &&& w.predMask f ≠ w.active) ∧
  Traps .bcast 0x15 (fun _ w f => f.var = 0 ∧ mixed w.prev f (w.prev.wordB f)) ∧
  Traps .movs 0x15 (fun _ w f => f.var ≠ 0 ∧ f.isImm = false ∧ mixed w f (w.src f.a)) ∧
  Traps .xfers 0x17 (fun _ w _ => w.stack.length = 16) ∧ Traps .join 0x17 (fun _ w _ => w.stack = []) ∧
  Traps .pgspec 0x19 (fun _ w _ => w.timed = true) ∧ Traps .pgcmt 0x19 (fun _ w _ => w.timed = true) ∧
  Traps .pgdrop 0x19 (fun _ w _ => w.timed = true) ∧
  Traps .ld 0x1A (fun _ w f => 8 ≤ f.var.toNat ∧ w.timed = true ∧ w.lockOpen = false) ∧
  Traps .st 0x1A (fun _ w f => 8 ≤ f.var.toNat ∧ w.timed = true ∧ w.lockOpen = false) ∧
  Traps .tret 0x1B (fun _ w _ => ¬served w) ∧ Traps .eject 0x1B (fun _ w _ => ¬served w) ∧ Traps .pgmap 0x1B (fun _ w _ => ¬served w) ∧
  Traps .pgunmap 0x1B (fun _ w _ => ¬served w) ∧
  Traps .tsnd 0x1B (fun _ w _ => w.timed = false) ∧ Traps .trcv 0x1B (fun _ w _ => w.timed = false) ∧
  Traps .drft 0x1B (fun _ w _ => w.timed = false) ∧
  rooted .scrub ∧ rooted .mext ∧ rooted .shab ∧ rooted .edsign ∧ rooted .lockif ∧
  outside .bar G ∧ outside .bara G ∧ outside .barw G ∧ outside .gleave G

/-- R16, R106, R380, R465: a warp trap outside a region, of a warp no lane of which waits for a handler, ends it: for each ASID the lanes that live are
parked at the trapping pc, the active ones as such, with a record that keeps the warp as it stood where nothing of it is in flight, and no lane
runs on; records that stand stay, but for results that land in them (R16); nothing is written to memory where fault records are off. Inside a region
the trap waits for its last word. -/
def Obligations.TakingTraps : Prop :=
  (∀ (s : State) wid code (w0 : Warp), s.hasWarp wid = true → (s.warp wid).kind ≠ .handler → (s.warp wid).region = none → code ≠ 0x19 →
    (∀ x ∈ s.ops, x.wid = wid → ∀ a ∈ x.accs, a.stage ≠ .touch) →
    let w := s.warp wid
    let t := s.trapAt wid w0 code
    (t.warp wid).ended = true ∧ (t.warp wid).alive = 0 ∧ (t.warp wid).held = 0 ∧ t.agenda = s.agenda ∧
      (∀ r ∈ s.parked, ∃ b, { r with before := b } ∈ t.parked) ∧
      (∀ a ∈ w.asids (w.alive ||| w.held), ∃ r ∈ t.parked, r.wid = wid ∧ r.asid = a ∧ r.pc = w0.pc ∧
        r.lanes = w0.active &&& (w.alive &&& w.asidMask a) ∧ ((∀ x ∈ s.ops, x.wid ≠ wid) → r.before = w0.landAll)) ∧
      (bitAt ((s.pdk w.pdk).reg 0x010).toNat 0 = false → t.mem = s.mem)) ∧
  (∀ (s : State) wid code (w0 : Warp) r, s.hasWarp wid = true → (s.warp wid).region = some r → code ≠ 0x19 →
    (∀ x ∈ s.ops, x.id < s.nextId) →
    let t := s.trapAt wid w0 code
    t.warp wid = { s.warp wid with region := some { r with doomed := BitVec.allOnes 32 } } ∧
      t.mem = s.mem ∧ t.ops = s.ops ∧ t.parked = s.parked ∧
      ∃ d, t.deferred = s.deferred ++ [d] ∧ d.wid = wid ∧ d.pc = w0.pc ∧ d.trap = some code)

/-- A step takes the head of the agenda; else the word at the pc of the chosen warp, as the tables translate it, which runs as it decodes,
or faults the machine where the scanner would not admit it, and a pc that cannot be fetched is a PROT fault of the warp's lanes; else the
event that is due; else a cycle passes (the agenda and the order of events are the model's own, log 3). -/
def Obligations.StepRunsDecoded : Prop :=
  (∀ s i r, s.agenda = i :: r → step s = exec i { s with agenda := r }) ∧
  (∀ s wid a i, s.agenda = [] → s.issuing = some wid → s.fetchAt (s.warp wid) = some a →
    decodeWord (s.warp wid).n (wordOfBytes (s.peek a 16)) = .ok i → step s = exec i s) ∧
  (∀ s wid a r, s.agenda = [] → s.issuing = some wid → s.fetchAt (s.warp wid) = some a →
    decodeWord (s.warp wid).n (wordOfBytes (s.peek a 16)) = .error r → step s = .fault (.undecodable r)) ∧
  (∀ s wid, s.agenda = [] → s.issuing = some wid → s.fetchAt (s.warp wid) = none → step s = .next (s.fetchFault wid)) ∧
  (∀ s i, s.agenda = [] → s.issuing = none → s.dueEvent = some i → step s = exec i s) ∧
  (∀ s, s.agenda = [] → s.issuing = none → s.dueEvent = none → step s = .next s.tick ∧ s.tick.wall = s.wall + 1)

/-- R37, R45, R49: decoding and encoding agree: the word of a well-formed instruction decodes to it, with every operand, and a word that the
scanner admits is the word of the instruction it decodes to, which is well-formed. -/
def Obligations.DecodeEncode : Prop :=
  (∀ n i, i.opFields.isSome = true → i.wf n = true → decodeWord n (encode i) = .ok i) ∧
  ∀ n w i, decodeWord n w = .ok i → encode i = w ∧ i.opFields.isSome = true ∧ i.wf n = true

/-- Words that the encoding tables of the chapters write out decode to the instructions they stand for: one of each family of the opcode
table (R37, R45, R49). -/
def Obligations.DecodeWords : Prop :=
  Reads 0x10006000F00000A0A000400000000007 (.iadd (fieldsOf (sched 6 0 15) .i32 0 5 (.imm (src 5) 7))) ∧
  Reads 0x439020053C240141600C030400069000 (.ffma (fieldsOf (guarded (sched 2 5 3) true 9 0) .f32 0 10
    (.regs { src 11 with neg := true, abs := true } { src 12 with pat := .bc } { src 13 with pat := .rot }))) ∧
  Reads 0x04003000F808000000004000000000A0 (.xfers (fieldsOf (guarded (sched 3 0 15) false 2 0) .i32 0 0 (.imm (src 0) 0xA0))) ∧
  Reads 0x11001000F80881008700010000000000 (.isub (fieldsOf (guarded (sched 1 0 15) false 2 4) .i32 0 8
    (.regs { src 4 with pat := .x, k := 16 } (src 4) (src 0)))) ∧
  Reads 0x70111000F00000804000018400000000 (.ld (fieldsOf (sched 1 0 15) .n32 1 4 (.regs (src 2) { src 6 with pat := .bc } (src 0)))) ∧
  Reads 0x61103000F00001208000400000000002 (.shflx (fieldsOf (sched 3 0 15) .n32 0 9 (.imm (src 4) 2))) ∧
  Reads 0x76004000100000C04000400000000008 (.lds (fieldsOf (sched 4 0 1) .i32 0 6 (.imm (src 2) 8))) ∧
  Reads 0x810010002000000280000080000B0000 (.cpym (fieldsOf (sched 1 0 2) .i32 0 0 (.regs (src 20) (src 2) (src 22)))) ∧
  Reads 0x9B00100A300000046000400000000000 (.bitset (fieldsOf (sched 1 0xA 3) .i32 0 0 (.imm (src 35) 0))) ∧
  Reads 0xA4011000100002800000400000050301 (.mma (fieldsOf (sched 1 0 1) .i32 1 20 (.imm (src 0) 0x50301))) ∧
  Reads 0xB4005004200000010000024000000000 (.qsmask (fieldsOf (sched 5 4 2) .i32 0 0 (.regs (src 8) (src 9) (src 0)))) ∧
  Reads 0x88011000F00001008000008000000000 (.rng (fieldsOf (sched 1 0 15) .i32 1 8 (.regs (src 4) (src 2) (src 0)))) ∧
  Reads 0xB9001000300002800000400000020A03 (.trcv (fieldsOf (sched 1 0 3) .i32 0 20 (.imm (src 0) 0x20A03))) ∧
  Reads 0xC0001004F00000000000000000000000 (.tret (fieldsOf (sched 1 4 15) .i32 0 0 (.regs (src 0) (src 0) (src 0)))) ∧
  Reads 0xC7021002200001404000020000060000 (.edsign (fieldsOf (sched 1 2 2) .i32 2 10 (.regs (src 2) (src 8) (src 12))))

/-- R461: what reset leaves: the identity of the part and the throttle limit in the management page, every other register zero, no memory,
warp, paddock or operation (what the spec states no value for is log 1); and every invariant of the statements below holds there. -/
def Obligations.ResetState : Prop :=
  mget State.reset.mgmt 0x000 = 0x00080100 ∧ mget State.reset.mgmt 0x008 = 0x0AF0 ∧
  (∀ k, k ≠ 0x000 → k ≠ 0x008 → mget State.reset.mgmt k = 0) ∧
  State.reset.mem = [] ∧ State.reset.warps = [] ∧ State.reset.pdks = [] ∧ State.reset.ops = [] ∧ State.reset.wall = 0 ∧
  State.reset.rink.formed = false ∧ State.reset.spdm.sessions = [] ∧
  MemoryCanonical State.reset ∧ MapsCanonical State.reset ∧ IdsBelow State.reset

/-- Every step keeps memory, and what the host has received, in the canonical form: no address is listed twice, and none whose byte is what an
unlisted one reads as (log 2). -/
def Obligations.StepKeepsMemory : Prop := Kept MemoryCanonical
/-- Every step keeps the registers of the pages and of every warp, the clocks, the frontiers and the templates in the canonical form. -/
def Obligations.StepKeepsMaps : Prop := Kept MapsCanonical
/-- Every step keeps the identifiers of operations below the next one, so that a new one is never in use. -/
def Obligations.StepKeepsIds : Prop := Kept IdsBelow
end

