-- ==== Sys2Proof/Laws/Bits.lean ====
section
/-! SUPPORT. Bit fields and the elements of a packed value: what each bit and each element of a result is. -/
namespace Sys2Proof.Machine
open Sys2Proof

theorem bitAt_eq (x i : Nat) : bitAt x i = x.testBit i := by
  simp only [bitAt, Nat.testBit_eq_decide_div_mod_eq]
  exact Bool.eq_iff_iff.2 (by simp)

theorem fld_lt (x lo n : Nat) : fld x lo n < 2 ^ n := Nat.mod_lt _ (Nat.two_pow_pos n)

theorem testBit_fld (x lo n i : Nat) : (fld x lo n).testBit i = (decide (i < n) && x.testBit (lo + i)) := by
  simp only [fld, Nat.testBit_mod_two_pow, Nat.testBit_div_two_pow, Nat.add_comm]

theorem bitAt_fld (x lo n i : Nat) : bitAt (fld x lo n) i = (decide (i < n) && bitAt x (lo + i)) := by
  simp only [bitAt_eq, testBit_fld]

theorem unelems_lt (b : Nat) (l : List Nat) : unelems b l < 2 ^ (b * l.length) := by
  induction l with
  | nil => simp [unelems]
  | cons e r ih =>
    have h := Nat.mod_lt e (Nat.two_pow_pos b)
    have hp : (2 : Nat) ^ (b * (r.length + 1)) = 2 ^ b * 2 ^ (b * r.length) := by rw [Nat.mul_succ, Nat.pow_add, Nat.mul_comm]
    simp only [unelems, List.length_cons, hp]
    have : 2 ^ b * (unelems b r + 1) ≤ 2 ^ b * 2 ^ (b * r.length) := Nat.mul_le_mul_left _ ih
    rw [Nat.mul_add] at this
    omega

/-- The elements of a value that is made of elements. -/
theorem fld_unelems (b : Nat) (l : List Nat) (j : Nat) (h : j < l.length) : fld (unelems b l) (b * j) b = l[j] % 2 ^ b := by
  induction l generalizing j with
  | nil => simp at h
  | cons e r ih =>
    have hb := Nat.two_pow_pos b
    cases j with
    | zero => simp [unelems, fld, Nat.add_mul_mod_self_left]
    | succ k =>
      have hk : k < r.length := by simpa using h
      have := ih k hk
      have hp : (2 : Nat) ^ (b * (k + 1)) = 2 ^ b * 2 ^ (b * k) := by rw [Nat.mul_succ, Nat.pow_add, Nat.mul_comm]
      simp only [unelems, fld, hp, ← Nat.div_div_eq_div_mul, List.getElem_cons_succ] at this ⊢
      rw [Nat.add_mul_div_left _ _ hb, Nat.div_eq_of_lt (Nat.mod_lt e hb), Nat.zero_add]
      exact this

/-- The bits of a value that is made of single bits. -/
theorem bitAt_unelems (l : List Nat) (j : Nat) : bitAt (unelems 1 l) j = ((l[j]?).map fun e => e % 2 == 1).getD false := by
  by_cases h : j < l.length
  · have := fld_unelems 1 l j h
    simp only [fld, Nat.one_mul, Nat.pow_one] at this
    simp [bitAt, this, List.getElem?_eq_getElem h]
  · have hl := unelems_lt 1 l
    have : unelems 1 l < 2 ^ j := Nat.lt_of_lt_of_le hl (Nat.pow_le_pow_right (by omega) (by omega))
    simp [bitAt, Nat.div_eq_of_lt this, List.getElem?_eq_none (Nat.le_of_not_lt h)]

theorem length_elems (b n v : Nat) : (elems b n v).length = n := by simp [elems]
theorem getElem_elems (b n v j : Nat) (h : j < (elems b n v).length) : (elems b n v)[j] = fld v (b * j) b := by simp [elems]

theorem elems_mapElems (t : Ty) (g : Nat → Nat) (a j : Nat) (h : j < elemCount t) :
    fld (mapElems t g a) (elemBits t * j) (elemBits t) = g (fld a (elemBits t * j) (elemBits t)) % 2 ^ elemBits t := by
  have hl : j < ((elems (elemBits t) (elemCount t) a).map g).length := by simpa [elems] using h
  rw [mapElems, fld_unelems _ _ _ hl]
  simp [elems]

theorem elems_zipElems (t : Ty) (g : Nat → Nat → Nat) (a b j : Nat) (h : j < elemCount t) :
    fld (zipElems t g a b) (elemBits t * j) (elemBits t) =
      g (fld a (elemBits t * j) (elemBits t)) (fld b (elemBits t * j) (elemBits t)) % 2 ^ elemBits t := by
  have hl : j < (List.zipWith g (elems (elemBits t) (elemCount t) a) (elems (elemBits t) (elemCount t) b)).length := by simpa [elems] using h
  rw [zipElems, fld_unelems _ _ _ hl]
  simp [elems]

theorem elems_zipElems3 (t : Ty) (g : Nat → Nat → Nat → Nat) (a b c j : Nat) (h : j < elemCount t) :
    fld (zipElems3 t g a b c) (elemBits t * j) (elemBits t) =
      g (fld a (elemBits t * j) (elemBits t)) (fld b (elemBits t * j) (elemBits t)) (fld c (elemBits t * j) (elemBits t)) % 2 ^ elemBits t := by
  rw [zipElems3, fld_unelems _ _ _ (by simpa using h)]
  simp

theorem tc_lt (n : Nat) (x : Int) : tc n x < 2 ^ n := by
  have h := Int.emod_lt_of_pos x (by exact_mod_cast Nat.two_pow_pos n : (0 : Int) < (2 ^ n : Nat))
  have h0 := Int.emod_nonneg x (by exact_mod_cast (Nat.two_pow_pos n).ne' : ((2 ^ n : Nat) : Int) ≠ 0)
  unfold tc
  omega
theorem tc_mod (n : Nat) (x : Int) : tc n x % 2 ^ n = tc n x := Nat.mod_eq_of_lt (tc_lt n x)
theorem intOut_mod (t : Ty) (sat : Bool) (r : Int) : intOut t sat r % 2 ^ elemBits t = intOut t sat r := tc_mod _ _

end Sys2Proof.Machine
end

