-- ==== Sys2Proof/Laws/Dispatch.lean ====
section
/-! SUPPORT. One equation for each constructor: the meaning that `exec` runs. -/
namespace Sys2Proof.Machine
open Sys2Proof

@[simp] theorem exec_nop f (s : State) : exec (.nop f) s = execNop f s := rfl
@[simp] theorem exec_prep f (s : State) : exec (.prep f) s = execPrep f s := rfl
@[simp] theorem exec_prepv f (s : State) : exec (.prepv f) s = execPrepv f s := rfl
@[simp] theorem exec_xfer f (s : State) : exec (.xfer f) s = execXfer f s := rfl
@[simp] theorem exec_xfers f (s : State) : exec (.xfers f) s = execXfers f s := rfl
@[simp] theorem exec_join f (s : State) : exec (.join f) s = execJoin f s := rfl
@[simp] theorem exec_call f (s : State) : exec (.call f) s = execCall f s := rfl
@[simp] theorem exec_ret f (s : State) : exec (.ret f) s = execRet f s := rfl
@[simp] theorem exec_loop f (s : State) : exec (.loop f) s = execLoop f s := rfl
@[simp] theorem exec_hold f (s : State) : exec (.hold f) s = execHold f s := rfl
@[simp] theorem exec_icinv f (s : State) : exec (.icinv f) s = execIcinv f s := rfl
@[simp] theorem exec_sleep f (s : State) : exec (.sleep f) s = execSleep f s := rfl
@[simp] theorem exec_exit f (s : State) : exec (.exit f) s = execExit f s := rfl
@[simp] theorem exec_trap f (s : State) : exec (.trap f) s = execTrap f s := rfl
@[simp] theorem exec_iadd f (s : State) : exec (.iadd f) s = execIadd f s := rfl
@[simp] theorem exec_isub f (s : State) : exec (.isub f) s = execIsub f s := rfl
@[simp] theorem exec_iaddc f (s : State) : exec (.iaddc f) s = execIaddc f s := rfl
@[simp] theorem exec_isubb f (s : State) : exec (.isubb f) s = execIsubb f s := rfl
@[simp] theorem exec_imul f (s : State) : exec (.imul f) s = execImul f s := rfl
@[simp] theorem exec_imulh f (s : State) : exec (.imulh f) s = execImulh f s := rfl
@[simp] theorem exec_imad f (s : State) : exec (.imad f) s = execImad f s := rfl
@[simp] theorem exec_imadw f (s : State) : exec (.imadw f) s = execImadw f s := rfl
@[simp] theorem exec_ineg f (s : State) : exec (.ineg f) s = execIneg f s := rfl
@[simp] theorem exec_iabs f (s : State) : exec (.iabs f) s = execIabs f s := rfl
@[simp] theorem exec_imin f (s : State) : exec (.imin f) s = execImin f s := rfl
@[simp] theorem exec_imax f (s : State) : exec (.imax f) s = execImax f s := rfl
@[simp] theorem exec_iclamp f (s : State) : exec (.iclamp f) s = execIclamp f s := rfl
@[simp] theorem exec_icmp f (s : State) : exec (.icmp f) s = execIcmp f s := rfl
@[simp] theorem exec_iset f (s : State) : exec (.iset f) s = execIset f s := rfl
@[simp] theorem exec_sel f (s : State) : exec (.sel f) s = execSel f s := rfl
@[simp] theorem exec_shl f (s : State) : exec (.shl f) s = execShl f s := rfl
@[simp] theorem exec_shr f (s : State) : exec (.shr f) s = execShr f s := rfl
@[simp] theorem exec_sar f (s : State) : exec (.sar f) s = execSar f s := rfl
@[simp] theorem exec_rotl f (s : State) : exec (.rotl f) s = execRotl f s := rfl
@[simp] theorem exec_rotr f (s : State) : exec (.rotr f) s = execRotr f s := rfl
@[simp] theorem exec_andOp f (s : State) : exec (.andOp f) s = execAndOp f s := rfl
@[simp] theorem exec_orOp f (s : State) : exec (.orOp f) s = execOrOp f s := rfl
@[simp] theorem exec_xorOp f (s : State) : exec (.xorOp f) s = execXorOp f s := rfl
@[simp] theorem exec_andn f (s : State) : exec (.andn f) s = execAndn f s := rfl
@[simp] theorem exec_logt f (s : State) : exec (.logt f) s = execLogt f s := rfl
@[simp] theorem exec_popc f (s : State) : exec (.popc f) s = execPopc f s := rfl
@[simp] theorem exec_clz f (s : State) : exec (.clz f) s = execClz f s := rfl
@[simp] theorem exec_fnsb f (s : State) : exec (.fnsb f) s = execFnsb f s := rfl
@[simp] theorem exec_brev f (s : State) : exec (.brev f) s = execBrev f s := rfl
@[simp] theorem exec_bfx f (s : State) : exec (.bfx f) s = execBfx f s := rfl
@[simp] theorem exec_bfi f (s : State) : exec (.bfi f) s = execBfi f s := rfl
@[simp] theorem exec_bperm f (s : State) : exec (.bperm f) s = execBperm f s := rfl
@[simp] theorem exec_mov f (s : State) : exec (.mov f) s = execMov f s := rfl
@[simp] theorem exec_movi f (s : State) : exec (.movi f) s = execMovi f s := rfl
@[simp] theorem exec_movx f (s : State) : exec (.movx f) s = execMovx f s := rfl
@[simp] theorem exec_movxw f (s : State) : exec (.movxw f) s = execMovxw f s := rfl
@[simp] theorem exec_movs f (s : State) : exec (.movs f) s = execMovs f s := rfl
@[simp] theorem exec_movsw f (s : State) : exec (.movsw f) s = execMovsw f s := rfl
@[simp] theorem exec_cvt f (s : State) : exec (.cvt f) s = execCvt f s := rfl
@[simp] theorem exec_pack f (s : State) : exec (.pack f) s = execPack f s := rfl
@[simp] theorem exec_unpk f (s : State) : exec (.unpk f) s = execUnpk f s := rfl
@[simp] theorem exec_fadd f (s : State) : exec (.fadd f) s = execFadd f s := rfl
@[simp] theorem exec_fsub f (s : State) : exec (.fsub f) s = execFsub f s := rfl
@[simp] theorem exec_fmul f (s : State) : exec (.fmul f) s = execFmul f s := rfl
@[simp] theorem exec_ffma f (s : State) : exec (.ffma f) s = execFfma f s := rfl
@[simp] theorem exec_fmin f (s : State) : exec (.fmin f) s = execFmin f s := rfl
@[simp] theorem exec_fmax f (s : State) : exec (.fmax f) s = execFmax f s := rfl
@[simp] theorem exec_fminp f (s : State) : exec (.fminp f) s = execFminp f s := rfl
@[simp] theorem exec_fmaxp f (s : State) : exec (.fmaxp f) s = execFmaxp f s := rfl
@[simp] theorem exec_fcmp f (s : State) : exec (.fcmp f) s = execFcmp f s := rfl
@[simp] theorem exec_fclass f (s : State) : exec (.fclass f) s = execFclass f s := rfl
@[simp] theorem exec_frnd f (s : State) : exec (.frnd f) s = execFrnd f s := rfl
@[simp] theorem exec_fscale f (s : State) : exec (.fscale f) s = execFscale f s := rfl
@[simp] theorem exec_fexp f (s : State) : exec (.fexp f) s = execFexp f s := rfl
@[simp] theorem exec_fdiv f (s : State) : exec (.fdiv f) s = execFdiv f s := rfl
@[simp] theorem exec_fsqrt f (s : State) : exec (.fsqrt f) s = execFsqrt f s := rfl
@[simp] theorem exec_rcp f (s : State) : exec (.rcp f) s = execRcp f s := rfl
@[simp] theorem exec_rsq f (s : State) : exec (.rsq f) s = execRsq f s := rfl
@[simp] theorem exec_ex2 f (s : State) : exec (.ex2 f) s = execEx2 f s := rfl
@[simp] theorem exec_lg2 f (s : State) : exec (.lg2 f) s = execLg2 f s := rfl
@[simp] theorem exec_fsin f (s : State) : exec (.fsin f) s = execFsin f s := rfl
@[simp] theorem exec_fcos f (s : State) : exec (.fcos f) s = execFcos f s := rfl
@[simp] theorem exec_tanh f (s : State) : exec (.tanh f) s = execTanh f s := rfl
@[simp] theorem exec_sigm f (s : State) : exec (.sigm f) s = execSigm f s := rfl
@[simp] theorem exec_dot4 f (s : State) : exec (.dot4 f) s = execDot4 f s := rfl
@[simp] theorem exec_dot8 f (s : State) : exec (.dot8 f) s = execDot8 f s := rfl
@[simp] theorem exec_dotf8 f (s : State) : exec (.dotf8 f) s = execDotf8 f s := rfl
@[simp] theorem exec_dotf4 f (s : State) : exec (.dotf4 f) s = execDotf4 f s := rfl
@[simp] theorem exec_dot2h f (s : State) : exec (.dot2h f) s = execDot2h f s := rfl
@[simp] theorem exec_shfl f (s : State) : exec (.shfl f) s = execShfl f s := rfl
@[simp] theorem exec_shflx f (s : State) : exec (.shflx f) s = execShflx f s := rfl
@[simp] theorem exec_shflu f (s : State) : exec (.shflu f) s = execShflu f s := rfl
@[simp] theorem exec_shfld f (s : State) : exec (.shfld f) s = execShfld f s := rfl
@[simp] theorem exec_bcast f (s : State) : exec (.bcast f) s = execBcast f s := rfl
@[simp] theorem exec_vote f (s : State) : exec (.vote f) s = execVote f s := rfl
@[simp] theorem exec_ballot f (s : State) : exec (.ballot f) s = execBallot f s := rfl
@[simp] theorem exec_matchOp f (s : State) : exec (.matchOp f) s = execMatchOp f s := rfl
@[simp] theorem exec_redi f (s : State) : exec (.redi f) s = execRedi f s := rfl
@[simp] theorem exec_redf f (s : State) : exec (.redf f) s = execRedf f s := rfl
@[simp] theorem exec_redm f (s : State) : exec (.redm f) s = execRedm f s := rfl
@[simp] theorem exec_scan f (s : State) : exec (.scan f) s = execScan f s := rfl
@[simp] theorem exec_compact f (s : State) : exec (.compact f) s = execCompact f s := rfl
@[simp] theorem exec_ld f (s : State) : exec (.ld f) s = execLd f s := rfl
@[simp] theorem exec_st f (s : State) : exec (.st f) s = execSt f s := rfl
@[simp] theorem exec_ldro f (s : State) : exec (.ldro f) s = execLdro f s := rfl
@[simp] theorem exec_pref f (s : State) : exec (.pref f) s = execPref f s := rfl
@[simp] theorem exec_tlock f (s : State) : exec (.tlock f) s = execTlock f s := rfl
@[simp] theorem exec_tfree f (s : State) : exec (.tfree f) s = execTfree f s := rfl
@[simp] theorem exec_lds f (s : State) : exec (.lds f) s = execLds f s := rfl
@[simp] theorem exec_sts f (s : State) : exec (.sts f) s = execSts f s := rfl
@[simp] theorem exec_sptag f (s : State) : exec (.sptag f) s = execSptag f s := rfl
@[simp] theorem exec_spset f (s : State) : exec (.spset f) s = execSpset f s := rfl
@[simp] theorem exec_spclr f (s : State) : exec (.spclr f) s = execSpclr f s := rfl
@[simp] theorem exec_cpy f (s : State) : exec (.cpy f) s = execCpy f s := rfl
@[simp] theorem exec_cpym f (s : State) : exec (.cpym f) s = execCpym f s := rfl
@[simp] theorem exec_cpyg f (s : State) : exec (.cpyg f) s = execCpyg f s := rfl
@[simp] theorem exec_cscat f (s : State) : exec (.cscat f) s = execCscat f s := rfl
@[simp] theorem exec_cseal f (s : State) : exec (.cseal f) s = execCseal f s := rfl
@[simp] theorem exec_cwait f (s : State) : exec (.cwait f) s = execCwait f s := rfl
@[simp] theorem exec_rng f (s : State) : exec (.rng f) s = execRng f s := rfl
@[simp] theorem exec_trnode f (s : State) : exec (.trnode f) s = execTrnode f s := rfl
@[simp] theorem exec_pgspec f (s : State) : exec (.pgspec f) s = execPgspec f s := rfl
@[simp] theorem exec_pgcmt f (s : State) : exec (.pgcmt f) s = execPgcmt f s := rfl
@[simp] theorem exec_pgdrop f (s : State) : exec (.pgdrop f) s = execPgdrop f s := rfl
@[simp] theorem exec_atom f (s : State) : exec (.atom f) s = execAtom f s := rfl
@[simp] theorem exec_atoms f (s : State) : exec (.atoms f) s = execAtoms f s := rfl
@[simp] theorem exec_cas f (s : State) : exec (.cas f) s = execCas f s := rfl
@[simp] theorem exec_cass f (s : State) : exec (.cass f) s = execCass f s := rfl
@[simp] theorem exec_red f (s : State) : exec (.red f) s = execRed f s := rfl
@[simp] theorem exec_fence f (s : State) : exec (.fence f) s = execFence f s := rfl
@[simp] theorem exec_bar f (s : State) : exec (.bar f) s = execBar f s := rfl
@[simp] theorem exec_bara f (s : State) : exec (.bara f) s = execBara f s := rfl
@[simp] theorem exec_barw f (s : State) : exec (.barw f) s = execBarw f s := rfl
@[simp] theorem exec_nbar f (s : State) : exec (.nbar f) s = execNbar f s := rfl
@[simp] theorem exec_cwt f (s : State) : exec (.cwt f) s = execCwt f s := rfl
@[simp] theorem exec_bitset f (s : State) : exec (.bitset f) s = execBitset f s := rfl
@[simp] theorem exec_bitwait f (s : State) : exec (.bitwait f) s = execBitwait f s := rfl
@[simp] theorem exec_gjoin f (s : State) : exec (.gjoin f) s = execGjoin f s := rfl
@[simp] theorem exec_gleave f (s : State) : exec (.gleave f) s = execGleave f s := rfl
@[simp] theorem exec_mres f (s : State) : exec (.mres f) s = execMres f s := rfl
@[simp] theorem exec_mrel f (s : State) : exec (.mrel f) s = execMrel f s := rfl
@[simp] theorem exec_mldb f (s : State) : exec (.mldb f) s = execMldb f s := rfl
@[simp] theorem exec_mlda f (s : State) : exec (.mlda f) s = execMlda f s := rfl
@[simp] theorem exec_mma f (s : State) : exec (.mma f) s = execMma f s := rfl
@[simp] theorem exec_mspr f (s : State) : exec (.mspr f) s = execMspr f s := rfl
@[simp] theorem exec_mzero f (s : State) : exec (.mzero f) s = execMzero f s := rfl
@[simp] theorem exec_mmov f (s : State) : exec (.mmov f) s = execMmov f s := rfl
@[simp] theorem exec_mput f (s : State) : exec (.mput f) s = execMput f s := rfl
@[simp] theorem exec_mstat f (s : State) : exec (.mstat f) s = execMstat f s := rfl
@[simp] theorem exec_qsbind f (s : State) : exec (.qsbind f) s = execQsbind f s := rfl
@[simp] theorem exec_qsrank f (s : State) : exec (.qsrank f) s = execQsrank f s := rfl
@[simp] theorem exec_qsstep f (s : State) : exec (.qsstep f) s = execQsstep f s := rfl
@[simp] theorem exec_qsrun f (s : State) : exec (.qsrun f) s = execQsrun f s := rfl
@[simp] theorem exec_qsmask f (s : State) : exec (.qsmask f) s = execQsmask f s := rfl
@[simp] theorem exec_qsres f (s : State) : exec (.qsres f) s = execQsres f s := rfl
@[simp] theorem exec_keyf f (s : State) : exec (.keyf f) s = execKeyf f s := rfl
@[simp] theorem exec_keyr f (s : State) : exec (.keyr f) s = execKeyr f s := rfl
@[simp] theorem exec_tsnd f (s : State) : exec (.tsnd f) s = execTsnd f s := rfl
@[simp] theorem exec_trcv f (s : State) : exec (.trcv f) s = execTrcv f s := rfl
@[simp] theorem exec_atc f (s : State) : exec (.atc f) s = execAtc f s := rfl
@[simp] theorem exec_drft f (s : State) : exec (.drft f) s = execDrft f s := rfl
@[simp] theorem exec_tret f (s : State) : exec (.tret f) s = execTret f s := rfl
@[simp] theorem exec_pgmap f (s : State) : exec (.pgmap f) s = execPgmap f s := rfl
@[simp] theorem exec_pgunmap f (s : State) : exec (.pgunmap f) s = execPgunmap f s := rfl
@[simp] theorem exec_eject f (s : State) : exec (.eject f) s = execEject f s := rfl
@[simp] theorem exec_scrub f (s : State) : exec (.scrub f) s = execScrub f s := rfl
@[simp] theorem exec_mext f (s : State) : exec (.mext f) s = execMext f s := rfl
@[simp] theorem exec_shab f (s : State) : exec (.shab f) s = execShab f s := rfl
@[simp] theorem exec_edsign f (s : State) : exec (.edsign f) s = execEdsign f s := rfl
@[simp] theorem exec_lockif f (s : State) : exec (.lockif f) s = execLockif f s := rfl
@[simp] theorem exec_fixedResultLand (s : State) : exec .fixedResultLand s = execFixedResultLand s := rfl
@[simp] theorem exec_waitFlagCountDown (s : State) : exec .waitFlagCountDown s = execWaitFlagCountDown s := rfl
@[simp] theorem exec_divideUnitAccept (s : State) : exec .divideUnitAccept s = execDivideUnitAccept s := rfl
@[simp] theorem exec_divideComplete (s : State) : exec .divideComplete s = execDivideComplete s := rfl
@[simp] theorem exec_targetFetchReady (s : State) : exec .targetFetchReady s = execTargetFetchReady s := rfl
@[simp] theorem exec_holdOverrun (s : State) : exec .holdOverrun s = execHoldOverrun s := rfl
@[simp] theorem exec_holdDeferredTrap (s : State) : exec .holdDeferredTrap s = execHoldDeferredTrap s := rfl
@[simp] theorem exec_slotIssue core slot (s : State) : exec (.slotIssue core slot) s = execSlotIssue core slot s := rfl
@[simp] theorem exec_warpRetire (s : State) : exec .warpRetire s = execWarpRetire s := rfl
@[simp] theorem exec_scratchAccessCycle (s : State) : exec .scratchAccessCycle s = execScratchAccessCycle s := rfl
@[simp] theorem exec_coreFreezeEnd (s : State) : exec .coreFreezeEnd s = execCoreFreezeEnd s := rfl
@[simp] theorem exec_pageWalkComplete op lanes (s : State) : exec (.pageWalkComplete op lanes) s = execPageWalkComplete op lanes s := rfl
@[simp] theorem exec_tlbLeaseExpire (s : State) : exec .tlbLeaseExpire s = execTlbLeaseExpire s := rfl
@[simp] theorem exec_unmapComplete (s : State) : exec .unmapComplete s = execUnmapComplete s := rfl
@[simp] theorem exec_parkedRecordWrite (s : State) : exec .parkedRecordWrite s = execParkedRecordWrite s := rfl
@[simp] theorem exec_handlerStart (s : State) : exec .handlerStart s = execHandlerStart s := rfl
@[simp] theorem exec_handlerFail (s : State) : exec .handlerFail s = execHandlerFail s := rfl
@[simp] theorem exec_faultReplay (s : State) : exec .faultReplay s = execFaultReplay s := rfl
@[simp] theorem exec_privateSlotRetry (s : State) : exec .privateSlotRetry s = execPrivateSlotRetry s := rfl
@[simp] theorem exec_portStamp op lanes (s : State) : exec (.portStamp op lanes) s = execPortStamp op lanes s := rfl
@[simp] theorem exec_frontierBroadcast die (s : State) : exec (.frontierBroadcast die) s = execFrontierBroadcast die s := rfl
@[simp] theorem exec_homeApply op lane (s : State) : exec (.homeApply op lane) s = execHomeApply op lane s := rfl
@[simp] theorem exec_loadComplete op lanes (s : State) : exec (.loadComplete op lanes) s = execLoadComplete op lanes s := rfl
@[simp] theorem exec_copySourceReadDone op (s : State) : exec (.copySourceReadDone op) s = execCopySourceReadDone op s := rfl
@[simp] theorem exec_copyDestWrite op lane off count (s : State) : exec (.copyDestWrite op lane off count) s = execCopyDestWrite op lane off count s := rfl
@[simp] theorem exec_batchComplete (s : State) : exec .batchComplete s = execBatchComplete s := rfl
@[simp] theorem exec_barrierArrivalApply op (s : State) : exec (.barrierArrivalApply op) s = execBarrierArrivalApply op s := rfl
@[simp] theorem exec_barrierNotify op (s : State) : exec (.barrierNotify op) s = execBarrierNotify op s := rfl
@[simp] theorem exec_cwtPeriodicEval (s : State) : exec .cwtPeriodicEval s = execCwtPeriodicEval s := rfl
@[simp] theorem exec_matrixCommandStart (s : State) : exec .matrixCommandStart s = execMatrixCommandStart s := rfl
@[simp] theorem exec_matrixCommandComplete (s : State) : exec .matrixCommandComplete s = execMatrixCommandComplete s := rfl
@[simp] theorem exec_matrixStatusUpdate cmd (s : State) : exec (.matrixStatusUpdate cmd) s = execMatrixStatusUpdate cmd s := rfl
@[simp] theorem exec_selectCommandStart (s : State) : exec .selectCommandStart s = execSelectCommandStart s := rfl
@[simp] theorem exec_selectCommandComplete (s : State) : exec .selectCommandComplete s = execSelectCommandComplete s := rfl
@[simp] theorem exec_pageOpApply op frame (s : State) : exec (.pageOpApply op frame) s = execPageOpApply op frame s := rfl
@[simp] theorem exec_shareRecompute wid (s : State) : exec (.shareRecompute wid) s = execShareRecompute wid s := rfl
@[simp] theorem exec_quantumExpire (s : State) : exec .quantumExpire s = execQuantumExpire s := rfl
@[simp] theorem exec_preemptRequest p lid clid (s : State) : exec (.preemptRequest p lid clid) s = execPreemptRequest p lid clid s := rfl
@[simp] theorem exec_coreSeal (s : State) : exec .coreSeal s = execCoreSeal s := rfl
@[simp] theorem exec_clusterSave (s : State) : exec .clusterSave s = execClusterSave s := rfl
@[simp] theorem exec_clusterRestore p idx (s : State) : exec (.clusterRestore p idx) s = execClusterRestore p idx s := rfl
@[simp] theorem exec_clusterPlace p (s : State) : exec (.clusterPlace p) s = execClusterPlace p s := rfl
@[simp] theorem exec_yardFormTimeout (s : State) : exec .yardFormTimeout s = execYardFormTimeout s := rfl
@[simp] theorem exec_timedLaunchStart (s : State) : exec .timedLaunchStart s = execTimedLaunchStart s := rfl
@[simp] theorem exec_doorbellWrite p seq (s : State) : exec (.doorbellWrite p seq) s = execDoorbellWrite p seq s := rfl
@[simp] theorem exec_ringEntryRead p (s : State) : exec (.ringEntryRead p) s = execRingEntryRead p s := rfl
@[simp] theorem exec_completionRecordWrite p (s : State) : exec (.completionRecordWrite p) s = execCompletionRecordWrite p s := rfl
@[simp] theorem exec_crheadWrite p seq (s : State) : exec (.crheadWrite p seq) s = execCrheadWrite p seq s := rfl
@[simp] theorem exec_registerWrite page off val (s : State) : exec (.registerWrite page off val) s = execRegisterWrite page off val s := rfl
@[simp] theorem exec_launch p seq payload (s : State) : exec (.launch p seq payload) s = execLaunch p seq payload s := rfl
@[simp] theorem exec_yardpost p seq payload (s : State) : exec (.yardpost p seq payload) s = execYardpost p seq payload s := rfl
@[simp] theorem exec_rekey p seq payload (s : State) : exec (.rekey p seq payload) s = execRekey p seq payload s := rfl
@[simp] theorem exec_pdcreate p seq payload (s : State) : exec (.pdcreate p seq payload) s = execPdcreate p seq payload s := rfl
@[simp] theorem exec_pddestroy p seq payload (s : State) : exec (.pddestroy p seq payload) s = execPddestroy p seq payload s := rfl
@[simp] theorem exec_pdbudget p seq payload (s : State) : exec (.pdbudget p seq payload) s = execPdbudget p seq payload s := rfl
@[simp] theorem exec_yardcreate p seq payload (s : State) : exec (.yardcreate p seq payload) s = execYardcreate p seq payload s := rfl
@[simp] theorem exec_yarddestroy p seq payload (s : State) : exec (.yarddestroy p seq payload) s = execYarddestroy p seq payload s := rfl
@[simp] theorem exec_tmplset p seq payload (s : State) : exec (.tmplset p seq payload) s = execTmplset p seq payload s := rfl
@[simp] theorem exec_shgrant p seq payload (s : State) : exec (.shgrant p seq payload) s = execShgrant p seq payload s := rfl
@[simp] theorem exec_presume p seq payload (s : State) : exec (.presume p seq payload) s = execPresume p seq payload s := rfl
@[simp] theorem exec_preempt p seq payload (s : State) : exec (.preempt p seq payload) s = execPreempt p seq payload s := rfl
@[simp] theorem exec_cresume p seq payload (s : State) : exec (.cresume p seq payload) s = execCresume p seq payload s := rfl
@[simp] theorem exec_xmap p seq payload (s : State) : exec (.xmap p seq payload) s = execXmap p seq payload s := rfl
@[simp] theorem exec_xmapLeaseDrained (s : State) : exec .xmapLeaseDrained s = execXmapLeaseDrained s := rfl
@[simp] theorem exec_xunmap p seq payload (s : State) : exec (.xunmap p seq payload) s = execXunmap p seq payload s := rfl
@[simp] theorem exec_rkform p seq payload (s : State) : exec (.rkform p seq payload) s = execRkform p seq payload s := rfl
@[simp] theorem exec_rinkStartFlit port fails (s : State) : exec (.rinkStartFlit port fails) s = execRinkStart port fails s := rfl
@[simp] theorem exec_htest p seq payload (s : State) : exec (.htest p seq payload) s = execHtest p seq payload s := rfl
@[simp] theorem exec_htestComplete p report (s : State) : exec (.htestComplete p report) s = execHtestComplete p report s := rfl
@[simp] theorem exec_scrubComplete (s : State) : exec .scrubComplete s = execScrubComplete s := rfl
@[simp] theorem exec_bgzeroLine p line (s : State) : exec (.bgzeroLine p line) s = execBgzeroLine p line s := rfl
@[simp] theorem exec_bgzeroPassEnd (s : State) : exec .bgzeroPassEnd s = execBgzeroPassEnd s := rfl
@[simp] theorem exec_getVersion (s : State) : exec .getVersion s = execGetVersion s := rfl
@[simp] theorem exec_getCapabilities ver ok (s : State) : exec (.getCapabilities ver ok) s = execGetCapabilities ver ok s := rfl
@[simp] theorem exec_negotiateAlgorithms ver ok (s : State) : exec (.negotiateAlgorithms ver ok) s = execNegotiateAlgorithms ver ok s := rfl
@[simp] theorem exec_getCertificate ver slot (s : State) : exec (.getCertificate ver slot) s = execGetCertificate ver slot s := rfl
@[simp] theorem exec_challenge ver slot (s : State) : exec (.challenge ver slot) s = execChallenge ver slot s := rfl
@[simp] theorem exec_getMeasurements ver block (s : State) : exec (.getMeasurements ver block) s = execGetMeasurements ver block s := rfl
@[simp] theorem exec_keyExchange ver iface (s : State) : exec (.keyExchange ver iface) s = execKeyExchange ver iface s := rfl
@[simp] theorem exec_finish ver session (s : State) : exec (.finish ver session) s = execFinish ver session s := rfl
@[simp] theorem exec_keyUpdate ver session (s : State) : exec (.keyUpdate ver session) s = execKeyUpdate ver session s := rfl
@[simp] theorem exec_spdmDecryptFail session (s : State) : exec (.spdmDecryptFail session) s = execSpdmDecryptFail session s := rfl
@[simp] theorem exec_lockInterfaceRequest session (s : State) : exec (.lockInterfaceRequest session) s = execLockInterfaceRequest session s := rfl
@[simp] theorem exec_startInterfaceRequest session (s : State) : exec (.startInterfaceRequest session) s = execStartInterfaceRequest session s := rfl
@[simp] theorem exec_stopInterfaceRequest session (s : State) : exec (.stopInterfaceRequest session) s = execStopInterfaceRequest session s := rfl
@[simp] theorem exec_hostMemoryWrite via addr bytes (s : State) : exec (.hostMemoryWrite via addr bytes) s = execHostMemoryWrite via addr bytes s := rfl
@[simp] theorem exec_hostMemoryRead via addr len (s : State) : exec (.hostMemoryRead via addr len) s = execHostMemoryRead via addr len s := rfl
@[simp] theorem exec_pcieConfigRequest (s : State) : exec .pcieConfigRequest s = execPcieConfigRequest s := rfl
@[simp] theorem exec_flrVf p (s : State) : exec (.flrVf p) s = execFlrVf p s := rfl
@[simp] theorem exec_deviceReset (s : State) : exec .deviceReset s = execDeviceReset s := rfl
@[simp] theorem exec_ringRestart p (s : State) : exec (.ringRestart p) s = execRingRestart p s := rfl
@[simp] theorem exec_powerGood rootImage others fail (s : State) : exec (.powerGood rootImage others fail) s = execPowerGood rootImage others fail s := rfl
@[simp] theorem exec_bootReady (s : State) : exec .bootReady s = execBootReady s := rfl
@[simp] theorem exec_powerLoss (s : State) : exec .powerLoss s = execPowerLoss s := rfl
@[simp] theorem exec_thermalTrip (s : State) : exec .thermalTrip s = execThermalTrip s := rfl
@[simp] theorem exec_throttleStart core (s : State) : exec (.throttleStart core) s = execThrottleStart core s := rfl
@[simp] theorem exec_throttleEnd core (s : State) : exec (.throttleEnd core) s = execThrottleEnd core s := rfl
@[simp] theorem exec_plannedSkidAnnounce (s : State) : exec .plannedSkidAnnounce s = execPlannedSkidAnnounce s := rfl
@[simp] theorem exec_skidAnnounceReceive port origin stamp index planned (s : State) : exec (.skidAnnounceReceive port origin stamp index planned) s = execSkidAnnounceReceive port origin stamp index planned s := rfl
@[simp] theorem exec_skidTake (s : State) : exec .skidTake s = execSkidTake s := rfl
@[simp] theorem exec_unplannedSkid core (s : State) : exec (.unplannedSkid core) s = execUnplannedSkid core s := rfl
@[simp] theorem exec_skidEnd (s : State) : exec .skidEnd s = execSkidEnd s := rfl
@[simp] theorem exec_timingFlitReceive port member count taken phase (s : State) : exec (.timingFlitReceive port member count taken phase) s = execTimingFlitReceive port member count taken phase s := rfl
@[simp] theorem exec_driftobsRefresh (s : State) : exec .driftobsRefresh s = execDriftobsRefresh s := rfl
@[simp] theorem exec_drftPhaseStep (s : State) : exec .drftPhaseStep s = execDrftPhaseStep s := rfl
@[simp] theorem exec_rinkFrameArrive port frame (s : State) : exec (.rinkFrameArrive port frame) s = execRinkFrameArrive port frame s := rfl
@[simp] theorem exec_rinkFrameRelay (s : State) : exec .rinkFrameRelay s = execRinkFrameRelay s := rfl
@[simp] theorem exec_rinkFrameExpire (s : State) : exec .rinkFrameExpire s = execRinkFrameExpire s := rfl
@[simp] theorem exec_timingFault cause tstart (s : State) : exec (.timingFault cause tstart) s = execTimingFault cause tstart s := rfl
@[simp] theorem exec_timingAbortReceive port member cause tstart (s : State) : exec (.timingAbortReceive port member cause tstart) s = execTimingAbortReceive port member cause tstart s := rfl
@[simp] theorem exec_rinkLinkLost port (s : State) : exec (.rinkLinkLost port) s = execRinkLinkLost port s := rfl
@[simp] theorem exec_rinkPreemptAnnounce p lid (s : State) : exec (.rinkPreemptAnnounce p lid) s = execRinkPreemptAnnounce p lid s := rfl
@[simp] theorem exec_timedStop (s : State) : exec .timedStop s = execTimedStop s := rfl
@[simp] theorem exec_nqctlWrite p q val (s : State) : exec (.nqctlWrite p q val) s = execNqctlWrite p q val s := rfl
@[simp] theorem exec_ethSendDescriptor p q (s : State) : exec (.ethSendDescriptor p q) s = execEthSendDescriptor p q s := rfl
@[simp] theorem exec_ethFrameReceive port fcsOk vlan bytes (s : State) : exec (.ethFrameReceive port fcsOk vlan bytes) s = execEthFrameReceive port fcsOk vlan bytes s := rfl
@[simp] theorem exec_portLinkDown port (s : State) : exec (.portLinkDown port) s = execPortLinkDown port s := rfl
@[simp] theorem exec_portLinkUp port (s : State) : exec (.portLinkUp port) s = execPortLinkUp port s := rfl
@[simp] theorem exec_sequenceFork p parent child f pages streams (s : State) : exec (.sequenceFork p parent child f pages streams) s = execSequenceFork p parent child f pages streams s := rfl
@[simp] theorem exec_dieReset die (s : State) : exec (.dieReset die) s = execDieReset die s := rfl
@[simp] theorem exec_flowControlFrameReceive port prio pause (s : State) : exec (.flowControlFrameReceive port prio pause) s = execFlowControlFrameReceive port prio pause s := rfl
@[simp] theorem exec_spdmUnsupportedRequest code (s : State) : exec (.spdmUnsupportedRequest code) s = execSpdmUnsupportedRequest code s := rfl
@[simp] theorem exec_preemptionAnnouncementReceive port tstart stop (s : State) : exec (.preemptionAnnouncementReceive port tstart stop) s = execPreemptionAnnouncementReceive port tstart stop s := rfl

end Sys2Proof.Machine
end

