-- ==== Sys2Proof/Laws/State.lean ====
section
/-! SUPPORT. What each named update leaves as it was: one lemma for each field of the state. -/
namespace Sys2Proof.Machine
open Sys2Proof

/-! ## `State.updWarp` -/

@[simp] theorem State.updWarp_wall (s : State) (wid : Nat) (g : Warp → Warp) : (s.updWarp wid g).wall = s.wall := rfl
@[simp] theorem State.updWarp_ops (s : State) (wid : Nat) (g : Warp → Warp) : (s.updWarp wid g).ops = s.ops := rfl
@[simp] theorem State.updWarp_cores (s : State) (wid : Nat) (g : Warp → Warp) : (s.updWarp wid g).cores = s.cores := rfl
@[simp] theorem State.updWarp_stlb (s : State) (wid : Nat) (g : Warp → Warp) : (s.updWarp wid g).stlb = s.stlb := rfl
@[simp] theorem State.updWarp_mem (s : State) (wid : Nat) (g : Warp → Warp) : (s.updWarp wid g).mem = s.mem := rfl
@[simp] theorem State.updWarp_marks (s : State) (wid : Nat) (g : Warp → Warp) : (s.updWarp wid g).marks = s.marks := rfl
@[simp] theorem State.updWarp_poison (s : State) (wid : Nat) (g : Warp → Warp) : (s.updWarp wid g).poison = s.poison := rfl
@[simp] theorem State.updWarp_redirect (s : State) (wid : Nat) (g : Warp → Warp) : (s.updWarp wid g).redirect = s.redirect := rfl
@[simp] theorem State.updWarp_clocks (s : State) (wid : Nat) (g : Warp → Warp) : (s.updWarp wid g).clocks = s.clocks := rfl
@[simp] theorem State.updWarp_frontier (s : State) (wid : Nat) (g : Warp → Warp) : (s.updWarp wid g).frontier = s.frontier := rfl
@[simp] theorem State.updWarp_outbound (s : State) (wid : Nat) (g : Warp → Warp) : (s.updWarp wid g).outbound = s.outbound := rfl
@[simp] theorem State.updWarp_wstamps (s : State) (wid : Nat) (g : Warp → Warp) : (s.updWarp wid g).wstamps = s.wstamps := rfl
@[simp] theorem State.updWarp_worlds (s : State) (wid : Nat) (g : Warp → Warp) : (s.updWarp wid g).worlds = s.worlds := rfl
@[simp] theorem State.updWarp_draws (s : State) (wid : Nat) (g : Warp → Warp) : (s.updWarp wid g).draws = s.draws := rfl
@[simp] theorem State.updWarp_det (s : State) (wid : Nat) (g : Warp → Warp) : (s.updWarp wid g).det = s.det := rfl
@[simp] theorem State.updWarp_launches (s : State) (wid : Nat) (g : Warp → Warp) : (s.updWarp wid g).launches = s.launches := rfl
@[simp] theorem State.updWarp_deferred (s : State) (wid : Nat) (g : Warp → Warp) : (s.updWarp wid g).deferred = s.deferred := rfl
@[simp] theorem State.updWarp_parked (s : State) (wid : Nat) (g : Warp → Warp) : (s.updWarp wid g).parked = s.parked := rfl
@[simp] theorem State.updWarp_pending (s : State) (wid : Nat) (g : Warp → Warp) : (s.updWarp wid g).pending = s.pending := rfl
@[simp] theorem State.updWarp_jobs (s : State) (wid : Nat) (g : Warp → Warp) : (s.updWarp wid g).jobs = s.jobs := rfl
@[simp] theorem State.updWarp_pdks (s : State) (wid : Nat) (g : Warp → Warp) : (s.updWarp wid g).pdks = s.pdks := rfl
@[simp] theorem State.updWarp_seqs (s : State) (wid : Nat) (g : Warp → Warp) : (s.updWarp wid g).seqs = s.seqs := rfl
@[simp] theorem State.updWarp_hostmem (s : State) (wid : Nat) (g : Warp → Warp) : (s.updWarp wid g).hostmem = s.hostmem := rfl
@[simp] theorem State.updWarp_irqs (s : State) (wid : Nat) (g : Warp → Warp) : (s.updWarp wid g).irqs = s.irqs := rfl
@[simp] theorem State.updWarp_reply (s : State) (wid : Nat) (g : Warp → Warp) : (s.updWarp wid g).reply = s.reply := rfl
@[simp] theorem State.updWarp_mgmt (s : State) (wid : Nat) (g : Warp → Warp) : (s.updWarp wid g).mgmt = s.mgmt := rfl
@[simp] theorem State.updWarp_root (s : State) (wid : Nat) (g : Warp → Warp) : (s.updWarp wid g).root = s.root := rfl
@[simp] theorem State.updWarp_meas (s : State) (wid : Nat) (g : Warp → Warp) : (s.updWarp wid g).meas = s.meas := rfl
@[simp] theorem State.updWarp_aliasSeed (s : State) (wid : Nat) (g : Warp → Warp) : (s.updWarp wid g).aliasSeed = s.aliasSeed := rfl
@[simp] theorem State.updWarp_spdm (s : State) (wid : Nat) (g : Warp → Warp) : (s.updWarp wid g).spdm = s.spdm := rfl
@[simp] theorem State.updWarp_rink (s : State) (wid : Nat) (g : Warp → Warp) : (s.updWarp wid g).rink = s.rink := rfl
@[simp] theorem State.updWarp_ports (s : State) (wid : Nat) (g : Warp → Warp) : (s.updWarp wid g).ports = s.ports := rfl
@[simp] theorem State.updWarp_sentFrames (s : State) (wid : Nat) (g : Warp → Warp) : (s.updWarp wid g).sentFrames = s.sentFrames := rfl
@[simp] theorem State.updWarp_pauses (s : State) (wid : Nat) (g : Warp → Warp) : (s.updWarp wid g).pauses = s.pauses := rfl
@[simp] theorem State.updWarp_rinkSent (s : State) (wid : Nat) (g : Warp → Warp) : (s.updWarp wid g).rinkSent = s.rinkSent := rfl
@[simp] theorem State.updWarp_flash (s : State) (wid : Nat) (g : Warp → Warp) : (s.updWarp wid g).flash = s.flash := rfl
@[simp] theorem State.updWarp_powered (s : State) (wid : Nat) (g : Warp → Warp) : (s.updWarp wid g).powered = s.powered := rfl
@[simp] theorem State.updWarp_fork (s : State) (wid : Nat) (g : Warp → Warp) : (s.updWarp wid g).fork = s.fork := rfl
@[simp] theorem State.updWarp_agenda (s : State) (wid : Nat) (g : Warp → Warp) : (s.updWarp wid g).agenda = s.agenda := rfl
@[simp] theorem State.updWarp_held (s : State) (wid : Nat) (g : Warp → Warp) : (s.updWarp wid g).held = s.held := rfl
@[simp] theorem State.updWarp_issuing (s : State) (wid : Nat) (g : Warp → Warp) : (s.updWarp wid g).issuing = s.issuing := rfl
@[simp] theorem State.updWarp_nextId (s : State) (wid : Nat) (g : Warp → Warp) : (s.updWarp wid g).nextId = s.nextId := rfl
@[simp] theorem State.updWarp_fresh (s : State) (wid : Nat) (g : Warp → Warp) : (s.updWarp wid g).fresh = s.fresh := rfl

/-! ## `State.updOp` -/

@[simp] theorem State.updOp_wall (s : State) (o : Nat) (g : Op → Op) : (s.updOp o g).wall = s.wall := rfl
@[simp] theorem State.updOp_warps (s : State) (o : Nat) (g : Op → Op) : (s.updOp o g).warps = s.warps := rfl
@[simp] theorem State.updOp_cores (s : State) (o : Nat) (g : Op → Op) : (s.updOp o g).cores = s.cores := rfl
@[simp] theorem State.updOp_stlb (s : State) (o : Nat) (g : Op → Op) : (s.updOp o g).stlb = s.stlb := rfl
@[simp] theorem State.updOp_mem (s : State) (o : Nat) (g : Op → Op) : (s.updOp o g).mem = s.mem := rfl
@[simp] theorem State.updOp_marks (s : State) (o : Nat) (g : Op → Op) : (s.updOp o g).marks = s.marks := rfl
@[simp] theorem State.updOp_poison (s : State) (o : Nat) (g : Op → Op) : (s.updOp o g).poison = s.poison := rfl
@[simp] theorem State.updOp_redirect (s : State) (o : Nat) (g : Op → Op) : (s.updOp o g).redirect = s.redirect := rfl
@[simp] theorem State.updOp_clocks (s : State) (o : Nat) (g : Op → Op) : (s.updOp o g).clocks = s.clocks := rfl
@[simp] theorem State.updOp_frontier (s : State) (o : Nat) (g : Op → Op) : (s.updOp o g).frontier = s.frontier := rfl
@[simp] theorem State.updOp_outbound (s : State) (o : Nat) (g : Op → Op) : (s.updOp o g).outbound = s.outbound := rfl
@[simp] theorem State.updOp_wstamps (s : State) (o : Nat) (g : Op → Op) : (s.updOp o g).wstamps = s.wstamps := rfl
@[simp] theorem State.updOp_worlds (s : State) (o : Nat) (g : Op → Op) : (s.updOp o g).worlds = s.worlds := rfl
@[simp] theorem State.updOp_draws (s : State) (o : Nat) (g : Op → Op) : (s.updOp o g).draws = s.draws := rfl
@[simp] theorem State.updOp_det (s : State) (o : Nat) (g : Op → Op) : (s.updOp o g).det = s.det := rfl
@[simp] theorem State.updOp_launches (s : State) (o : Nat) (g : Op → Op) : (s.updOp o g).launches = s.launches := rfl
@[simp] theorem State.updOp_deferred (s : State) (o : Nat) (g : Op → Op) : (s.updOp o g).deferred = s.deferred := rfl
@[simp] theorem State.updOp_parked (s : State) (o : Nat) (g : Op → Op) : (s.updOp o g).parked = s.parked := rfl
@[simp] theorem State.updOp_pending (s : State) (o : Nat) (g : Op → Op) : (s.updOp o g).pending = s.pending := rfl
@[simp] theorem State.updOp_jobs (s : State) (o : Nat) (g : Op → Op) : (s.updOp o g).jobs = s.jobs := rfl
@[simp] theorem State.updOp_pdks (s : State) (o : Nat) (g : Op → Op) : (s.updOp o g).pdks = s.pdks := rfl
@[simp] theorem State.updOp_seqs (s : State) (o : Nat) (g : Op → Op) : (s.updOp o g).seqs = s.seqs := rfl
@[simp] theorem State.updOp_hostmem (s : State) (o : Nat) (g : Op → Op) : (s.updOp o g).hostmem = s.hostmem := rfl
@[simp] theorem State.updOp_irqs (s : State) (o : Nat) (g : Op → Op) : (s.updOp o g).irqs = s.irqs := rfl
@[simp] theorem State.updOp_reply (s : State) (o : Nat) (g : Op → Op) : (s.updOp o g).reply = s.reply := rfl
@[simp] theorem State.updOp_mgmt (s : State) (o : Nat) (g : Op → Op) : (s.updOp o g).mgmt = s.mgmt := rfl
@[simp] theorem State.updOp_root (s : State) (o : Nat) (g : Op → Op) : (s.updOp o g).root = s.root := rfl
@[simp] theorem State.updOp_meas (s : State) (o : Nat) (g : Op → Op) : (s.updOp o g).meas = s.meas := rfl
@[simp] theorem State.updOp_aliasSeed (s : State) (o : Nat) (g : Op → Op) : (s.updOp o g).aliasSeed = s.aliasSeed := rfl
@[simp] theorem State.updOp_spdm (s : State) (o : Nat) (g : Op → Op) : (s.updOp o g).spdm = s.spdm := rfl
@[simp] theorem State.updOp_rink (s : State) (o : Nat) (g : Op → Op) : (s.updOp o g).rink = s.rink := rfl
@[simp] theorem State.updOp_ports (s : State) (o : Nat) (g : Op → Op) : (s.updOp o g).ports = s.ports := rfl
@[simp] theorem State.updOp_sentFrames (s : State) (o : Nat) (g : Op → Op) : (s.updOp o g).sentFrames = s.sentFrames := rfl
@[simp] theorem State.updOp_pauses (s : State) (o : Nat) (g : Op → Op) : (s.updOp o g).pauses = s.pauses := rfl
@[simp] theorem State.updOp_rinkSent (s : State) (o : Nat) (g : Op → Op) : (s.updOp o g).rinkSent = s.rinkSent := rfl
@[simp] theorem State.updOp_flash (s : State) (o : Nat) (g : Op → Op) : (s.updOp o g).flash = s.flash := rfl
@[simp] theorem State.updOp_powered (s : State) (o : Nat) (g : Op → Op) : (s.updOp o g).powered = s.powered := rfl
@[simp] theorem State.updOp_fork (s : State) (o : Nat) (g : Op → Op) : (s.updOp o g).fork = s.fork := rfl
@[simp] theorem State.updOp_agenda (s : State) (o : Nat) (g : Op → Op) : (s.updOp o g).agenda = s.agenda := rfl
@[simp] theorem State.updOp_held (s : State) (o : Nat) (g : Op → Op) : (s.updOp o g).held = s.held := rfl
@[simp] theorem State.updOp_issuing (s : State) (o : Nat) (g : Op → Op) : (s.updOp o g).issuing = s.issuing := rfl
@[simp] theorem State.updOp_nextId (s : State) (o : Nat) (g : Op → Op) : (s.updOp o g).nextId = s.nextId := rfl
@[simp] theorem State.updOp_fresh (s : State) (o : Nat) (g : Op → Op) : (s.updOp o g).fresh = s.fresh := rfl

/-! ## `State.mapOps` -/

@[simp] theorem State.mapOps_wall (s : State) (g : Op → Op) : (s.mapOps g).wall = s.wall := rfl
@[simp] theorem State.mapOps_warps (s : State) (g : Op → Op) : (s.mapOps g).warps = s.warps := rfl
@[simp] theorem State.mapOps_cores (s : State) (g : Op → Op) : (s.mapOps g).cores = s.cores := rfl
@[simp] theorem State.mapOps_stlb (s : State) (g : Op → Op) : (s.mapOps g).stlb = s.stlb := rfl
@[simp] theorem State.mapOps_mem (s : State) (g : Op → Op) : (s.mapOps g).mem = s.mem := rfl
@[simp] theorem State.mapOps_marks (s : State) (g : Op → Op) : (s.mapOps g).marks = s.marks := rfl
@[simp] theorem State.mapOps_poison (s : State) (g : Op → Op) : (s.mapOps g).poison = s.poison := rfl
@[simp] theorem State.mapOps_redirect (s : State) (g : Op → Op) : (s.mapOps g).redirect = s.redirect := rfl
@[simp] theorem State.mapOps_clocks (s : State) (g : Op → Op) : (s.mapOps g).clocks = s.clocks := rfl
@[simp] theorem State.mapOps_frontier (s : State) (g : Op → Op) : (s.mapOps g).frontier = s.frontier := rfl
@[simp] theorem State.mapOps_outbound (s : State) (g : Op → Op) : (s.mapOps g).outbound = s.outbound := rfl
@[simp] theorem State.mapOps_wstamps (s : State) (g : Op → Op) : (s.mapOps g).wstamps = s.wstamps := rfl
@[simp] theorem State.mapOps_worlds (s : State) (g : Op → Op) : (s.mapOps g).worlds = s.worlds := rfl
@[simp] theorem State.mapOps_draws (s : State) (g : Op → Op) : (s.mapOps g).draws = s.draws := rfl
@[simp] theorem State.mapOps_det (s : State) (g : Op → Op) : (s.mapOps g).det = s.det := rfl
@[simp] theorem State.mapOps_launches (s : State) (g : Op → Op) : (s.mapOps g).launches = s.launches := rfl
@[simp] theorem State.mapOps_deferred (s : State) (g : Op → Op) : (s.mapOps g).deferred = s.deferred := rfl
@[simp] theorem State.mapOps_parked (s : State) (g : Op → Op) : (s.mapOps g).parked = s.parked := rfl
@[simp] theorem State.mapOps_pending (s : State) (g : Op → Op) : (s.mapOps g).pending = s.pending := rfl
@[simp] theorem State.mapOps_jobs (s : State) (g : Op → Op) : (s.mapOps g).jobs = s.jobs := rfl
@[simp] theorem State.mapOps_pdks (s : State) (g : Op → Op) : (s.mapOps g).pdks = s.pdks := rfl
@[simp] theorem State.mapOps_seqs (s : State) (g : Op → Op) : (s.mapOps g).seqs = s.seqs := rfl
@[simp] theorem State.mapOps_hostmem (s : State) (g : Op → Op) : (s.mapOps g).hostmem = s.hostmem := rfl
@[simp] theorem State.mapOps_irqs (s : State) (g : Op → Op) : (s.mapOps g).irqs = s.irqs := rfl
@[simp] theorem State.mapOps_reply (s : State) (g : Op → Op) : (s.mapOps g).reply = s.reply := rfl
@[simp] theorem State.mapOps_mgmt (s : State) (g : Op → Op) : (s.mapOps g).mgmt = s.mgmt := rfl
@[simp] theorem State.mapOps_root (s : State) (g : Op → Op) : (s.mapOps g).root = s.root := rfl
@[simp] theorem State.mapOps_meas (s : State) (g : Op → Op) : (s.mapOps g).meas = s.meas := rfl
@[simp] theorem State.mapOps_aliasSeed (s : State) (g : Op → Op) : (s.mapOps g).aliasSeed = s.aliasSeed := rfl
@[simp] theorem State.mapOps_spdm (s : State) (g : Op → Op) : (s.mapOps g).spdm = s.spdm := rfl
@[simp] theorem State.mapOps_rink (s : State) (g : Op → Op) : (s.mapOps g).rink = s.rink := rfl
@[simp] theorem State.mapOps_ports (s : State) (g : Op → Op) : (s.mapOps g).ports = s.ports := rfl
@[simp] theorem State.mapOps_sentFrames (s : State) (g : Op → Op) : (s.mapOps g).sentFrames = s.sentFrames := rfl
@[simp] theorem State.mapOps_pauses (s : State) (g : Op → Op) : (s.mapOps g).pauses = s.pauses := rfl
@[simp] theorem State.mapOps_rinkSent (s : State) (g : Op → Op) : (s.mapOps g).rinkSent = s.rinkSent := rfl
@[simp] theorem State.mapOps_flash (s : State) (g : Op → Op) : (s.mapOps g).flash = s.flash := rfl
@[simp] theorem State.mapOps_powered (s : State) (g : Op → Op) : (s.mapOps g).powered = s.powered := rfl
@[simp] theorem State.mapOps_fork (s : State) (g : Op → Op) : (s.mapOps g).fork = s.fork := rfl
@[simp] theorem State.mapOps_agenda (s : State) (g : Op → Op) : (s.mapOps g).agenda = s.agenda := rfl
@[simp] theorem State.mapOps_held (s : State) (g : Op → Op) : (s.mapOps g).held = s.held := rfl
@[simp] theorem State.mapOps_issuing (s : State) (g : Op → Op) : (s.mapOps g).issuing = s.issuing := rfl
@[simp] theorem State.mapOps_nextId (s : State) (g : Op → Op) : (s.mapOps g).nextId = s.nextId := rfl
@[simp] theorem State.mapOps_fresh (s : State) (g : Op → Op) : (s.mapOps g).fresh = s.fresh := rfl

/-! ## `State.updPdk` -/

@[simp] theorem State.updPdk_wall (s : State) (p : Nat) (g : Pdk → Pdk) : (s.updPdk p g).wall = s.wall := rfl
@[simp] theorem State.updPdk_warps (s : State) (p : Nat) (g : Pdk → Pdk) : (s.updPdk p g).warps = s.warps := rfl
@[simp] theorem State.updPdk_ops (s : State) (p : Nat) (g : Pdk → Pdk) : (s.updPdk p g).ops = s.ops := rfl
@[simp] theorem State.updPdk_cores (s : State) (p : Nat) (g : Pdk → Pdk) : (s.updPdk p g).cores = s.cores := rfl
@[simp] theorem State.updPdk_stlb (s : State) (p : Nat) (g : Pdk → Pdk) : (s.updPdk p g).stlb = s.stlb := rfl
@[simp] theorem State.updPdk_mem (s : State) (p : Nat) (g : Pdk → Pdk) : (s.updPdk p g).mem = s.mem := rfl
@[simp] theorem State.updPdk_marks (s : State) (p : Nat) (g : Pdk → Pdk) : (s.updPdk p g).marks = s.marks := rfl
@[simp] theorem State.updPdk_poison (s : State) (p : Nat) (g : Pdk → Pdk) : (s.updPdk p g).poison = s.poison := rfl
@[simp] theorem State.updPdk_redirect (s : State) (p : Nat) (g : Pdk → Pdk) : (s.updPdk p g).redirect = s.redirect := rfl
@[simp] theorem State.updPdk_clocks (s : State) (p : Nat) (g : Pdk → Pdk) : (s.updPdk p g).clocks = s.clocks := rfl
@[simp] theorem State.updPdk_frontier (s : State) (p : Nat) (g : Pdk → Pdk) : (s.updPdk p g).frontier = s.frontier := rfl
@[simp] theorem State.updPdk_outbound (s : State) (p : Nat) (g : Pdk → Pdk) : (s.updPdk p g).outbound = s.outbound := rfl
@[simp] theorem State.updPdk_wstamps (s : State) (p : Nat) (g : Pdk → Pdk) : (s.updPdk p g).wstamps = s.wstamps := rfl
@[simp] theorem State.updPdk_worlds (s : State) (p : Nat) (g : Pdk → Pdk) : (s.updPdk p g).worlds = s.worlds := rfl
@[simp] theorem State.updPdk_draws (s : State) (p : Nat) (g : Pdk → Pdk) : (s.updPdk p g).draws = s.draws := rfl
@[simp] theorem State.updPdk_det (s : State) (p : Nat) (g : Pdk → Pdk) : (s.updPdk p g).det = s.det := rfl
@[simp] theorem State.updPdk_launches (s : State) (p : Nat) (g : Pdk → Pdk) : (s.updPdk p g).launches = s.launches := rfl
@[simp] theorem State.updPdk_deferred (s : State) (p : Nat) (g : Pdk → Pdk) : (s.updPdk p g).deferred = s.deferred := rfl
@[simp] theorem State.updPdk_parked (s : State) (p : Nat) (g : Pdk → Pdk) : (s.updPdk p g).parked = s.parked := rfl
@[simp] theorem State.updPdk_pending (s : State) (p : Nat) (g : Pdk → Pdk) : (s.updPdk p g).pending = s.pending := rfl
@[simp] theorem State.updPdk_jobs (s : State) (p : Nat) (g : Pdk → Pdk) : (s.updPdk p g).jobs = s.jobs := rfl
@[simp] theorem State.updPdk_seqs (s : State) (p : Nat) (g : Pdk → Pdk) : (s.updPdk p g).seqs = s.seqs := rfl
@[simp] theorem State.updPdk_hostmem (s : State) (p : Nat) (g : Pdk → Pdk) : (s.updPdk p g).hostmem = s.hostmem := rfl
@[simp] theorem State.updPdk_irqs (s : State) (p : Nat) (g : Pdk → Pdk) : (s.updPdk p g).irqs = s.irqs := rfl
@[simp] theorem State.updPdk_reply (s : State) (p : Nat) (g : Pdk → Pdk) : (s.updPdk p g).reply = s.reply := rfl
@[simp] theorem State.updPdk_mgmt (s : State) (p : Nat) (g : Pdk → Pdk) : (s.updPdk p g).mgmt = s.mgmt := rfl
@[simp] theorem State.updPdk_root (s : State) (p : Nat) (g : Pdk → Pdk) : (s.updPdk p g).root = s.root := rfl
@[simp] theorem State.updPdk_meas (s : State) (p : Nat) (g : Pdk → Pdk) : (s.updPdk p g).meas = s.meas := rfl
@[simp] theorem State.updPdk_aliasSeed (s : State) (p : Nat) (g : Pdk → Pdk) : (s.updPdk p g).aliasSeed = s.aliasSeed := rfl
@[simp] theorem State.updPdk_spdm (s : State) (p : Nat) (g : Pdk → Pdk) : (s.updPdk p g).spdm = s.spdm := rfl
@[simp] theorem State.updPdk_rink (s : State) (p : Nat) (g : Pdk → Pdk) : (s.updPdk p g).rink = s.rink := rfl
@[simp] theorem State.updPdk_ports (s : State) (p : Nat) (g : Pdk → Pdk) : (s.updPdk p g).ports = s.ports := rfl
@[simp] theorem State.updPdk_sentFrames (s : State) (p : Nat) (g : Pdk → Pdk) : (s.updPdk p g).sentFrames = s.sentFrames := rfl
@[simp] theorem State.updPdk_pauses (s : State) (p : Nat) (g : Pdk → Pdk) : (s.updPdk p g).pauses = s.pauses := rfl
@[simp] theorem State.updPdk_rinkSent (s : State) (p : Nat) (g : Pdk → Pdk) : (s.updPdk p g).rinkSent = s.rinkSent := rfl
@[simp] theorem State.updPdk_flash (s : State) (p : Nat) (g : Pdk → Pdk) : (s.updPdk p g).flash = s.flash := rfl
@[simp] theorem State.updPdk_powered (s : State) (p : Nat) (g : Pdk → Pdk) : (s.updPdk p g).powered = s.powered := rfl
@[simp] theorem State.updPdk_fork (s : State) (p : Nat) (g : Pdk → Pdk) : (s.updPdk p g).fork = s.fork := rfl
@[simp] theorem State.updPdk_agenda (s : State) (p : Nat) (g : Pdk → Pdk) : (s.updPdk p g).agenda = s.agenda := rfl
@[simp] theorem State.updPdk_held (s : State) (p : Nat) (g : Pdk → Pdk) : (s.updPdk p g).held = s.held := rfl
@[simp] theorem State.updPdk_issuing (s : State) (p : Nat) (g : Pdk → Pdk) : (s.updPdk p g).issuing = s.issuing := rfl
@[simp] theorem State.updPdk_nextId (s : State) (p : Nat) (g : Pdk → Pdk) : (s.updPdk p g).nextId = s.nextId := rfl
@[simp] theorem State.updPdk_fresh (s : State) (p : Nat) (g : Pdk → Pdk) : (s.updPdk p g).fresh = s.fresh := rfl

/-! ## `State.updLaunch` -/

@[simp] theorem State.updLaunch_wall (s : State) (l : Nat) (g : Launch → Launch) : (s.updLaunch l g).wall = s.wall := rfl
@[simp] theorem State.updLaunch_warps (s : State) (l : Nat) (g : Launch → Launch) : (s.updLaunch l g).warps = s.warps := rfl
@[simp] theorem State.updLaunch_ops (s : State) (l : Nat) (g : Launch → Launch) : (s.updLaunch l g).ops = s.ops := rfl
@[simp] theorem State.updLaunch_cores (s : State) (l : Nat) (g : Launch → Launch) : (s.updLaunch l g).cores = s.cores := rfl
@[simp] theorem State.updLaunch_stlb (s : State) (l : Nat) (g : Launch → Launch) : (s.updLaunch l g).stlb = s.stlb := rfl
@[simp] theorem State.updLaunch_mem (s : State) (l : Nat) (g : Launch → Launch) : (s.updLaunch l g).mem = s.mem := rfl
@[simp] theorem State.updLaunch_marks (s : State) (l : Nat) (g : Launch → Launch) : (s.updLaunch l g).marks = s.marks := rfl
@[simp] theorem State.updLaunch_poison (s : State) (l : Nat) (g : Launch → Launch) : (s.updLaunch l g).poison = s.poison := rfl
@[simp] theorem State.updLaunch_redirect (s : State) (l : Nat) (g : Launch → Launch) : (s.updLaunch l g).redirect = s.redirect := rfl
@[simp] theorem State.updLaunch_clocks (s : State) (l : Nat) (g : Launch → Launch) : (s.updLaunch l g).clocks = s.clocks := rfl
@[simp] theorem State.updLaunch_frontier (s : State) (l : Nat) (g : Launch → Launch) : (s.updLaunch l g).frontier = s.frontier := rfl
@[simp] theorem State.updLaunch_outbound (s : State) (l : Nat) (g : Launch → Launch) : (s.updLaunch l g).outbound = s.outbound := rfl
@[simp] theorem State.updLaunch_wstamps (s : State) (l : Nat) (g : Launch → Launch) : (s.updLaunch l g).wstamps = s.wstamps := rfl
@[simp] theorem State.updLaunch_worlds (s : State) (l : Nat) (g : Launch → Launch) : (s.updLaunch l g).worlds = s.worlds := rfl
@[simp] theorem State.updLaunch_draws (s : State) (l : Nat) (g : Launch → Launch) : (s.updLaunch l g).draws = s.draws := rfl
@[simp] theorem State.updLaunch_det (s : State) (l : Nat) (g : Launch → Launch) : (s.updLaunch l g).det = s.det := rfl
@[simp] theorem State.updLaunch_deferred (s : State) (l : Nat) (g : Launch → Launch) : (s.updLaunch l g).deferred = s.deferred := rfl
@[simp] theorem State.updLaunch_parked (s : State) (l : Nat) (g : Launch → Launch) : (s.updLaunch l g).parked = s.parked := rfl
@[simp] theorem State.updLaunch_pending (s : State) (l : Nat) (g : Launch → Launch) : (s.updLaunch l g).pending = s.pending := rfl
@[simp] theorem State.updLaunch_jobs (s : State) (l : Nat) (g : Launch → Launch) : (s.updLaunch l g).jobs = s.jobs := rfl
@[simp] theorem State.updLaunch_pdks (s : State) (l : Nat) (g : Launch → Launch) : (s.updLaunch l g).pdks = s.pdks := rfl
@[simp] theorem State.updLaunch_seqs (s : State) (l : Nat) (g : Launch → Launch) : (s.updLaunch l g).seqs = s.seqs := rfl
@[simp] theorem State.updLaunch_hostmem (s : State) (l : Nat) (g : Launch → Launch) : (s.updLaunch l g).hostmem = s.hostmem := rfl
@[simp] theorem State.updLaunch_irqs (s : State) (l : Nat) (g : Launch → Launch) : (s.updLaunch l g).irqs = s.irqs := rfl
@[simp] theorem State.updLaunch_reply (s : State) (l : Nat) (g : Launch → Launch) : (s.updLaunch l g).reply = s.reply := rfl
@[simp] theorem State.updLaunch_mgmt (s : State) (l : Nat) (g : Launch → Launch) : (s.updLaunch l g).mgmt = s.mgmt := rfl
@[simp] theorem State.updLaunch_root (s : State) (l : Nat) (g : Launch → Launch) : (s.updLaunch l g).root = s.root := rfl
@[simp] theorem State.updLaunch_meas (s : State) (l : Nat) (g : Launch → Launch) : (s.updLaunch l g).meas = s.meas := rfl
@[simp] theorem State.updLaunch_aliasSeed (s : State) (l : Nat) (g : Launch → Launch) : (s.updLaunch l g).aliasSeed = s.aliasSeed := rfl
@[simp] theorem State.updLaunch_spdm (s : State) (l : Nat) (g : Launch → Launch) : (s.updLaunch l g).spdm = s.spdm := rfl
@[simp] theorem State.updLaunch_rink (s : State) (l : Nat) (g : Launch → Launch) : (s.updLaunch l g).rink = s.rink := rfl
@[simp] theorem State.updLaunch_ports (s : State) (l : Nat) (g : Launch → Launch) : (s.updLaunch l g).ports = s.ports := rfl
@[simp] theorem State.updLaunch_sentFrames (s : State) (l : Nat) (g : Launch → Launch) : (s.updLaunch l g).sentFrames = s.sentFrames := rfl
@[simp] theorem State.updLaunch_pauses (s : State) (l : Nat) (g : Launch → Launch) : (s.updLaunch l g).pauses = s.pauses := rfl
@[simp] theorem State.updLaunch_rinkSent (s : State) (l : Nat) (g : Launch → Launch) : (s.updLaunch l g).rinkSent = s.rinkSent := rfl
@[simp] theorem State.updLaunch_flash (s : State) (l : Nat) (g : Launch → Launch) : (s.updLaunch l g).flash = s.flash := rfl
@[simp] theorem State.updLaunch_powered (s : State) (l : Nat) (g : Launch → Launch) : (s.updLaunch l g).powered = s.powered := rfl
@[simp] theorem State.updLaunch_fork (s : State) (l : Nat) (g : Launch → Launch) : (s.updLaunch l g).fork = s.fork := rfl
@[simp] theorem State.updLaunch_agenda (s : State) (l : Nat) (g : Launch → Launch) : (s.updLaunch l g).agenda = s.agenda := rfl
@[simp] theorem State.updLaunch_held (s : State) (l : Nat) (g : Launch → Launch) : (s.updLaunch l g).held = s.held := rfl
@[simp] theorem State.updLaunch_issuing (s : State) (l : Nat) (g : Launch → Launch) : (s.updLaunch l g).issuing = s.issuing := rfl
@[simp] theorem State.updLaunch_nextId (s : State) (l : Nat) (g : Launch → Launch) : (s.updLaunch l g).nextId = s.nextId := rfl
@[simp] theorem State.updLaunch_fresh (s : State) (l : Nat) (g : Launch → Launch) : (s.updLaunch l g).fresh = s.fresh := rfl

/-! ## `State.poke` -/

@[simp] theorem State.poke_wall (s : State) (pa : Nat) (bs : List (BitVec 8)) : (s.poke pa bs).wall = s.wall := rfl
@[simp] theorem State.poke_warps (s : State) (pa : Nat) (bs : List (BitVec 8)) : (s.poke pa bs).warps = s.warps := rfl
@[simp] theorem State.poke_ops (s : State) (pa : Nat) (bs : List (BitVec 8)) : (s.poke pa bs).ops = s.ops := rfl
@[simp] theorem State.poke_cores (s : State) (pa : Nat) (bs : List (BitVec 8)) : (s.poke pa bs).cores = s.cores := rfl
@[simp] theorem State.poke_stlb (s : State) (pa : Nat) (bs : List (BitVec 8)) : (s.poke pa bs).stlb = s.stlb := rfl
@[simp] theorem State.poke_marks (s : State) (pa : Nat) (bs : List (BitVec 8)) : (s.poke pa bs).marks = s.marks := rfl
@[simp] theorem State.poke_poison (s : State) (pa : Nat) (bs : List (BitVec 8)) : (s.poke pa bs).poison = s.poison := rfl
@[simp] theorem State.poke_redirect (s : State) (pa : Nat) (bs : List (BitVec 8)) : (s.poke pa bs).redirect = s.redirect := rfl
@[simp] theorem State.poke_clocks (s : State) (pa : Nat) (bs : List (BitVec 8)) : (s.poke pa bs).clocks = s.clocks := rfl
@[simp] theorem State.poke_frontier (s : State) (pa : Nat) (bs : List (BitVec 8)) : (s.poke pa bs).frontier = s.frontier := rfl
@[simp] theorem State.poke_outbound (s : State) (pa : Nat) (bs : List (BitVec 8)) : (s.poke pa bs).outbound = s.outbound := rfl
@[simp] theorem State.poke_wstamps (s : State) (pa : Nat) (bs : List (BitVec 8)) : (s.poke pa bs).wstamps = s.wstamps := rfl
@[simp] theorem State.poke_worlds (s : State) (pa : Nat) (bs : List (BitVec 8)) : (s.poke pa bs).worlds = s.worlds := rfl
@[simp] theorem State.poke_draws (s : State) (pa : Nat) (bs : List (BitVec 8)) : (s.poke pa bs).draws = s.draws := rfl
@[simp] theorem State.poke_det (s : State) (pa : Nat) (bs : List (BitVec 8)) : (s.poke pa bs).det = s.det := rfl
@[simp] theorem State.poke_launches (s : State) (pa : Nat) (bs : List (BitVec 8)) : (s.poke pa bs).launches = s.launches := rfl
@[simp] theorem State.poke_deferred (s : State) (pa : Nat) (bs : List (BitVec 8)) : (s.poke pa bs).deferred = s.deferred := rfl
@[simp] theorem State.poke_parked (s : State) (pa : Nat) (bs : List (BitVec 8)) : (s.poke pa bs).parked = s.parked := rfl
@[simp] theorem State.poke_pending (s : State) (pa : Nat) (bs : List (BitVec 8)) : (s.poke pa bs).pending = s.pending := rfl
@[simp] theorem State.poke_jobs (s : State) (pa : Nat) (bs : List (BitVec 8)) : (s.poke pa bs).jobs = s.jobs := rfl
@[simp] theorem State.poke_pdks (s : State) (pa : Nat) (bs : List (BitVec 8)) : (s.poke pa bs).pdks = s.pdks := rfl
@[simp] theorem State.poke_seqs (s : State) (pa : Nat) (bs : List (BitVec 8)) : (s.poke pa bs).seqs = s.seqs := rfl
@[simp] theorem State.poke_hostmem (s : State) (pa : Nat) (bs : List (BitVec 8)) : (s.poke pa bs).hostmem = s.hostmem := rfl
@[simp] theorem State.poke_irqs (s : State) (pa : Nat) (bs : List (BitVec 8)) : (s.poke pa bs).irqs = s.irqs := rfl
@[simp] theorem State.poke_reply (s : State) (pa : Nat) (bs : List (BitVec 8)) : (s.poke pa bs).reply = s.reply := rfl
@[simp] theorem State.poke_mgmt (s : State) (pa : Nat) (bs : List (BitVec 8)) : (s.poke pa bs).mgmt = s.mgmt := rfl
@[simp] theorem State.poke_root (s : State) (pa : Nat) (bs : List (BitVec 8)) : (s.poke pa bs).root = s.root := rfl
@[simp] theorem State.poke_meas (s : State) (pa : Nat) (bs : List (BitVec 8)) : (s.poke pa bs).meas = s.meas := rfl
@[simp] theorem State.poke_aliasSeed (s : State) (pa : Nat) (bs : List (BitVec 8)) : (s.poke pa bs).aliasSeed = s.aliasSeed := rfl
@[simp] theorem State.poke_spdm (s : State) (pa : Nat) (bs : List (BitVec 8)) : (s.poke pa bs).spdm = s.spdm := rfl
@[simp] theorem State.poke_rink (s : State) (pa : Nat) (bs : List (BitVec 8)) : (s.poke pa bs).rink = s.rink := rfl
@[simp] theorem State.poke_ports (s : State) (pa : Nat) (bs : List (BitVec 8)) : (s.poke pa bs).ports = s.ports := rfl
@[simp] theorem State.poke_sentFrames (s : State) (pa : Nat) (bs : List (BitVec 8)) : (s.poke pa bs).sentFrames = s.sentFrames := rfl
@[simp] theorem State.poke_pauses (s : State) (pa : Nat) (bs : List (BitVec 8)) : (s.poke pa bs).pauses = s.pauses := rfl
@[simp] theorem State.poke_rinkSent (s : State) (pa : Nat) (bs : List (BitVec 8)) : (s.poke pa bs).rinkSent = s.rinkSent := rfl
@[simp] theorem State.poke_flash (s : State) (pa : Nat) (bs : List (BitVec 8)) : (s.poke pa bs).flash = s.flash := rfl
@[simp] theorem State.poke_powered (s : State) (pa : Nat) (bs : List (BitVec 8)) : (s.poke pa bs).powered = s.powered := rfl
@[simp] theorem State.poke_fork (s : State) (pa : Nat) (bs : List (BitVec 8)) : (s.poke pa bs).fork = s.fork := rfl
@[simp] theorem State.poke_agenda (s : State) (pa : Nat) (bs : List (BitVec 8)) : (s.poke pa bs).agenda = s.agenda := rfl
@[simp] theorem State.poke_held (s : State) (pa : Nat) (bs : List (BitVec 8)) : (s.poke pa bs).held = s.held := rfl
@[simp] theorem State.poke_issuing (s : State) (pa : Nat) (bs : List (BitVec 8)) : (s.poke pa bs).issuing = s.issuing := rfl
@[simp] theorem State.poke_nextId (s : State) (pa : Nat) (bs : List (BitVec 8)) : (s.poke pa bs).nextId = s.nextId := rfl
@[simp] theorem State.poke_fresh (s : State) (pa : Nat) (bs : List (BitVec 8)) : (s.poke pa bs).fresh = s.fresh := rfl

/-! ## `State.updCore` -/

@[simp] theorem State.updCore_wall (s : State) (c : Nat) (g : Core → Core) : (s.updCore c g).wall = s.wall := by unfold State.updCore; split <;> rfl
@[simp] theorem State.updCore_warps (s : State) (c : Nat) (g : Core → Core) : (s.updCore c g).warps = s.warps := by unfold State.updCore; split <;> rfl
@[simp] theorem State.updCore_ops (s : State) (c : Nat) (g : Core → Core) : (s.updCore c g).ops = s.ops := by unfold State.updCore; split <;> rfl
@[simp] theorem State.updCore_stlb (s : State) (c : Nat) (g : Core → Core) : (s.updCore c g).stlb = s.stlb := by unfold State.updCore; split <;> rfl
@[simp] theorem State.updCore_mem (s : State) (c : Nat) (g : Core → Core) : (s.updCore c g).mem = s.mem := by unfold State.updCore; split <;> rfl
@[simp] theorem State.updCore_marks (s : State) (c : Nat) (g : Core → Core) : (s.updCore c g).marks = s.marks := by unfold State.updCore; split <;> rfl
@[simp] theorem State.updCore_poison (s : State) (c : Nat) (g : Core → Core) : (s.updCore c g).poison = s.poison := by unfold State.updCore; split <;> rfl
@[simp] theorem State.updCore_redirect (s : State) (c : Nat) (g : Core → Core) : (s.updCore c g).redirect = s.redirect := by unfold State.updCore; split <;> rfl
@[simp] theorem State.updCore_clocks (s : State) (c : Nat) (g : Core → Core) : (s.updCore c g).clocks = s.clocks := by unfold State.updCore; split <;> rfl
@[simp] theorem State.updCore_frontier (s : State) (c : Nat) (g : Core → Core) : (s.updCore c g).frontier = s.frontier := by unfold State.updCore; split <;> rfl
@[simp] theorem State.updCore_outbound (s : State) (c : Nat) (g : Core → Core) : (s.updCore c g).outbound = s.outbound := by unfold State.updCore; split <;> rfl
@[simp] theorem State.updCore_wstamps (s : State) (c : Nat) (g : Core → Core) : (s.updCore c g).wstamps = s.wstamps := by unfold State.updCore; split <;> rfl
@[simp] theorem State.updCore_worlds (s : State) (c : Nat) (g : Core → Core) : (s.updCore c g).worlds = s.worlds := by unfold State.updCore; split <;> rfl
@[simp] theorem State.updCore_draws (s : State) (c : Nat) (g : Core → Core) : (s.updCore c g).draws = s.draws := by unfold State.updCore; split <;> rfl
@[simp] theorem State.updCore_det (s : State) (c : Nat) (g : Core → Core) : (s.updCore c g).det = s.det := by unfold State.updCore; split <;> rfl
@[simp] theorem State.updCore_launches (s : State) (c : Nat) (g : Core → Core) : (s.updCore c g).launches = s.launches := by unfold State.updCore; split <;> rfl
@[simp] theorem State.updCore_deferred (s : State) (c : Nat) (g : Core → Core) : (s.updCore c g).deferred = s.deferred := by unfold State.updCore; split <;> rfl
@[simp] theorem State.updCore_parked (s : State) (c : Nat) (g : Core → Core) : (s.updCore c g).parked = s.parked := by unfold State.updCore; split <;> rfl
@[simp] theorem State.updCore_pending (s : State) (c : Nat) (g : Core → Core) : (s.updCore c g).pending = s.pending := by unfold State.updCore; split <;> rfl
@[simp] theorem State.updCore_jobs (s : State) (c : Nat) (g : Core → Core) : (s.updCore c g).jobs = s.jobs := by unfold State.updCore; split <;> rfl
@[simp] theorem State.updCore_pdks (s : State) (c : Nat) (g : Core → Core) : (s.updCore c g).pdks = s.pdks := by unfold State.updCore; split <;> rfl
@[simp] theorem State.updCore_seqs (s : State) (c : Nat) (g : Core → Core) : (s.updCore c g).seqs = s.seqs := by unfold State.updCore; split <;> rfl
@[simp] theorem State.updCore_hostmem (s : State) (c : Nat) (g : Core → Core) : (s.updCore c g).hostmem = s.hostmem := by unfold State.updCore; split <;> rfl
@[simp] theorem State.updCore_irqs (s : State) (c : Nat) (g : Core → Core) : (s.updCore c g).irqs = s.irqs := by unfold State.updCore; split <;> rfl
@[simp] theorem State.updCore_reply (s : State) (c : Nat) (g : Core → Core) : (s.updCore c g).reply = s.reply := by unfold State.updCore; split <;> rfl
@[simp] theorem State.updCore_mgmt (s : State) (c : Nat) (g : Core → Core) : (s.updCore c g).mgmt = s.mgmt := by unfold State.updCore; split <;> rfl
@[simp] theorem State.updCore_root (s : State) (c : Nat) (g : Core → Core) : (s.updCore c g).root = s.root := by unfold State.updCore; split <;> rfl
@[simp] theorem State.updCore_meas (s : State) (c : Nat) (g : Core → Core) : (s.updCore c g).meas = s.meas := by unfold State.updCore; split <;> rfl
@[simp] theorem State.updCore_aliasSeed (s : State) (c : Nat) (g : Core → Core) : (s.updCore c g).aliasSeed = s.aliasSeed := by unfold State.updCore; split <;> rfl
@[simp] theorem State.updCore_spdm (s : State) (c : Nat) (g : Core → Core) : (s.updCore c g).spdm = s.spdm := by unfold State.updCore; split <;> rfl
@[simp] theorem State.updCore_rink (s : State) (c : Nat) (g : Core → Core) : (s.updCore c g).rink = s.rink := by unfold State.updCore; split <;> rfl
@[simp] theorem State.updCore_ports (s : State) (c : Nat) (g : Core → Core) : (s.updCore c g).ports = s.ports := by unfold State.updCore; split <;> rfl
@[simp] theorem State.updCore_sentFrames (s : State) (c : Nat) (g : Core → Core) : (s.updCore c g).sentFrames = s.sentFrames := by unfold State.updCore; split <;> rfl
@[simp] theorem State.updCore_pauses (s : State) (c : Nat) (g : Core → Core) : (s.updCore c g).pauses = s.pauses := by unfold State.updCore; split <;> rfl
@[simp] theorem State.updCore_rinkSent (s : State) (c : Nat) (g : Core → Core) : (s.updCore c g).rinkSent = s.rinkSent := by unfold State.updCore; split <;> rfl
@[simp] theorem State.updCore_flash (s : State) (c : Nat) (g : Core → Core) : (s.updCore c g).flash = s.flash := by unfold State.updCore; split <;> rfl
@[simp] theorem State.updCore_powered (s : State) (c : Nat) (g : Core → Core) : (s.updCore c g).powered = s.powered := by unfold State.updCore; split <;> rfl
@[simp] theorem State.updCore_fork (s : State) (c : Nat) (g : Core → Core) : (s.updCore c g).fork = s.fork := by unfold State.updCore; split <;> rfl
@[simp] theorem State.updCore_agenda (s : State) (c : Nat) (g : Core → Core) : (s.updCore c g).agenda = s.agenda := by unfold State.updCore; split <;> rfl
@[simp] theorem State.updCore_held (s : State) (c : Nat) (g : Core → Core) : (s.updCore c g).held = s.held := by unfold State.updCore; split <;> rfl
@[simp] theorem State.updCore_issuing (s : State) (c : Nat) (g : Core → Core) : (s.updCore c g).issuing = s.issuing := by unfold State.updCore; split <;> rfl
@[simp] theorem State.updCore_nextId (s : State) (c : Nat) (g : Core → Core) : (s.updCore c g).nextId = s.nextId := by unfold State.updCore; split <;> rfl
@[simp] theorem State.updCore_fresh (s : State) (c : Nat) (g : Core → Core) : (s.updCore c g).fresh = s.fresh := by unfold State.updCore; split <;> rfl

end Sys2Proof.Machine
end

