-- ==== Sys2Proof/Laws/Lookup.lean ====
section
/-! SUPPORT. What a lookup finds after an update: warps, cores, operations, paddocks. -/
namespace Sys2Proof.Machine
open Sys2Proof

/-- A lookup after a change of the elements of one key, where the change keeps keys. -/
theorem find?_map_key {α : Type} (key : α → Nat) (l : List α) (k j : Nat) (g : α → α) (hg : ∀ x, key (g x) = key x) :
    (l.map fun x => if key x == k then g x else x).find? (fun x => key x == j) =
      (l.find? fun x => key x == j).map fun x => if j = k then g x else x := by
  induction l with
  | nil => rfl
  | cons x r ih =>
    have hk : key (if key x == k then g x else x) = key x := by split <;> simp [hg]
    simp only [List.map_cons, List.find?_cons, hk, ih]
    cases h : key x == j with
    | false => rfl
    | true =>
      have hj : key x = j := by simpa using h
      by_cases hjk : j = k <;> simp [hj, hjk]

theorem State.hasWarp_iff (s : State) (wid : Nat) : s.hasWarp wid = true ↔ ∃ w, s.warps.find? (·.id == wid) = some w := by
  simp only [State.hasWarp, List.any_eq_true, ← Option.isSome_iff_exists, List.find?_isSome]

theorem State.warp_id (s : State) (wid : Nat) (h : s.hasWarp wid = true) : (s.warp wid).id = wid := by
  obtain ⟨w, hw⟩ := (s.hasWarp_iff wid).1 h
  simpa [State.warp, hw] using List.find?_some hw

theorem State.warp_updWarp (s : State) (wid : Nat) (g : Warp → Warp) (hg : ∀ w, (g w).id = w.id) (h : s.hasWarp wid = true) :
    (s.updWarp wid g).warp wid = g (s.warp wid) := by
  obtain ⟨w, hw⟩ := (s.hasWarp_iff wid).1 h
  simp only [State.warp, State.updWarp, find?_map_key Warp.id s.warps wid wid g hg, hw, Option.map_some, Option.getD_some, if_true]

theorem State.warp_updWarp_ne (s : State) (wid v : Nat) (g : Warp → Warp) (hg : ∀ w, (g w).id = w.id) (h : v ≠ wid) :
    (s.updWarp wid g).warp v = s.warp v := by
  simp only [State.warp, State.updWarp, find?_map_key Warp.id s.warps wid v g hg, h, if_false]
  cases s.warps.find? fun x => x.id == v <;> rfl

theorem State.hasWarp_updWarp (s : State) (wid v : Nat) (g : Warp → Warp) (hg : ∀ w, (g w).id = w.id) :
    (s.updWarp wid g).hasWarp v = s.hasWarp v := by
  have : ∀ l : List Warp, (l.map fun w => if w.id == wid then g w else w).any (·.id == v) = l.any (·.id == v) := by
    intro l
    induction l with
    | nil => rfl
    | cons x r ih =>
      simp only [List.map_cons, List.any_cons, ih]
      by_cases h : x.id == wid <;> simp [h, hg]
  exact this s.warps

theorem State.core_id (s : State) (c : Nat) : (s.core c).id = c := by
  unfold State.core
  cases h : s.cores.find? fun x => x.id == c with
  | none => rfl
  | some k => simpa using List.find?_some h

theorem State.core_updCore (s : State) (c : Nat) (g : Core → Core) (hg : ∀ k, (g k).id = k.id) :
    (s.updCore c g).core c = g (s.core c) := by
  unfold State.updCore
  split
  · rename_i h
    obtain ⟨k, hk⟩ : ∃ k, s.cores.find? (fun x => x.id == c) = some k := by
      rwa [← Option.isSome_iff_exists, List.find?_isSome, ← List.any_eq_true]
    simp only [State.core, find?_map_key Core.id s.cores c c g hg, hk, Option.map_some, Option.getD_some, if_true]
  · rename_i h
    have hn : s.cores.find? (fun x => x.id == c) = none := by
      rw [List.find?_eq_none]
      intro x hx hc
      exact h (List.any_eq_true.2 ⟨x, hx, hc⟩)
    have hd : ((g { id := c }).id == c) = true := by rw [hg]; exact beq_self_eq_true c
    simp only [State.core, hn, List.find?_cons, hd, Option.getD_some, Option.getD_none]

theorem State.core_updCore_ne (s : State) (c d : Nat) (g : Core → Core) (hg : ∀ k, (g k).id = k.id) (h : d ≠ c) :
    (s.updCore c g).core d = s.core d := by
  unfold State.updCore
  split
  · simp only [State.core, find?_map_key Core.id s.cores c d g hg, h, if_false]
    cases s.cores.find? fun x => x.id == d <;> rfl
  · have hd : ((g { id := c }).id == d) = false := by rw [hg]; exact beq_false_of_ne (Ne.symm h)
    simp only [State.core, List.find?_cons, hd]

theorem State.pdk_updPdk (s : State) (p : Nat) (g : Pdk → Pdk) (hg : ∀ q, (g q).no = q.no) (h : s.hasPdk p = true) :
    (s.updPdk p g).pdk p = g (s.pdk p) := by
  obtain ⟨q, hq⟩ : ∃ q, s.pdks.find? (fun x => x.no == p) = some q := by
    rwa [← Option.isSome_iff_exists, List.find?_isSome, ← List.any_eq_true]
  simp only [State.pdk, State.updPdk, find?_map_key Pdk.no s.pdks p p g hg, hq, Option.map_some, Option.getD_some, if_true]

theorem State.pdk_updPdk_ne (s : State) (p q : Nat) (g : Pdk → Pdk) (hg : ∀ x, (g x).no = x.no) (h : q ≠ p) :
    (s.updPdk p g).pdk q = s.pdk q := by
  simp only [State.pdk, State.updPdk, find?_map_key Pdk.no s.pdks p q g hg, h, if_false]
  cases s.pdks.find? fun x => x.no == q <;> rfl

end Sys2Proof.Machine
end

