-- ==== Sys2Proof/Laws/Issue.lean ====
section
/-! SUPPORT. What the issue of a word does, once for every instruction (R37, R40, R41, R51). -/
namespace Sys2Proof.Machine
open Sys2Proof Sys2Proof.Safety

theorem State.issuedWarp_id (s : State) (f : Fields) (w : Warp) : (s.issuedWarp f w).id = w.id := by
  unfold State.issuedWarp; cases f.flag <;> rfl
theorem State.issuedWarp_core (s : State) (f : Fields) (w : Warp) : (s.issuedWarp f w).core = w.core := by
  unfold State.issuedWarp; cases f.flag <;> rfl

/-- A chosen warp's word issues: its meaning gets the warp as it stood, and the state after what every issue does. -/
theorem State.issue_chosen {s : State} {wid : Nat} (h : Chosen s wid) (f : Fields) (k : Nat → Warp → State → State) :
    s.issue f k = .next (k wid (s.warp wid) (s.noteIssue wid f)) := by
  unfold State.issue; rw [h.1]

/-- Every operation on the state in which the word has issued starts from here. -/
theorem State.noteIssue_issues {s : State} {wid : Nat} (h : Chosen s wid) (f : Fields) : Issues s (s.noteIssue wid f) wid f where
  has := by
    show (State.updCore _ _ _).hasWarp wid = true
    simp only [State.hasWarp, State.updCore_warps]
    exact (s.hasWarp_updWarp wid wid _ (s.issuedWarp_id f)).trans h.2
  warp := by
    show (State.updCore _ _ _).warp wid = _
    simp only [State.warp, State.updCore_warps]
    exact s.warp_updWarp wid _ (s.issuedWarp_id f) h.2
  others v hv := by
    show (State.updCore _ _ _).warp v = _
    simp only [State.warp, State.updCore_warps]
    exact s.warp_updWarp_ne wid v _ (s.issuedWarp_id f) hv
  inFlight := by simp [State.noteIssue]
  nextId := by simp [State.noteIssue]
  core := by
    have hc : (s.noteIssue wid f).core (s.warp wid).core = _ := State.core_updCore (s.updWarp wid (s.issuedWarp f)) (s.warp wid).core
      (fun k => { k with issued := aput k.issued (s.warp wid).slot (s.wall + 1) }) (fun _ => rfl)
    rw [hc]
    rfl
  cores c hc := by
    exact State.core_updCore_ne (s.updWarp wid (s.issuedWarp f)) (s.warp wid).core c
      (fun k => { k with issued := aput k.issued (s.warp wid).slot (s.wall + 1) }) (fun _ => rfl) hc
  issuing := rfl
  rest := by
    unfold State.noteIssue State.updCore
    dsimp only
    split <;> rfl

/-- A change of the warp after the issue. -/
theorem issues_updWarp {s t : State} {wid : Nat} {f : Fields} {g : Warp → Warp} {ops : List Op} {h : Core → Core}
    {u : State → State} (H : Issues s t wid f g ops h u) (k : Warp → Warp) (hk : ∀ w, (k w).id = w.id) :
    Issues s (t.updWarp wid k) wid f (fun w => k (g w)) ops h u where
  has := (t.hasWarp_updWarp wid wid k hk).trans H.has
  warp := by rw [t.warp_updWarp wid k hk H.has, H.warp]
  others v hv := (t.warp_updWarp_ne wid v k hk hv).trans (H.others v hv)
  inFlight := H.inFlight
  nextId := H.nextId
  core := H.core
  cores := H.cores
  issuing := H.issuing
  rest := H.rest

/-- Two changes of the warp that agree on what the issue makes of it. -/
theorem issues_congr {s t : State} {wid : Nat} {f : Fields} {g g' : Warp → Warp} {ops : List Op} {h : Core → Core} {u : State → State}
    (H : Issues s t wid f g ops h u) (e : g (s.issuedWarp f (s.warp wid)) = g' (s.issuedWarp f (s.warp wid))) :
    Issues s t wid f g' ops h u := { H with warp := H.warp.trans e }

theorem State.noteIssue_now (s : State) (wid : Nat) (f : Fields) (w : Warp) : (s.noteIssue wid f).now w = s.now w := by
  have hc : ((s.noteIssue wid f).core w.core).frozen = (s.core w.core).frozen := by
    by_cases h : w.core = (s.warp wid).core
    · rw [h]
      exact (congrArg Core.frozen (State.core_updCore (s.updWarp wid (s.issuedWarp f)) (s.warp wid).core
        (fun k => { k with issued := aput k.issued (s.warp wid).slot (s.wall + 1) }) (fun _ => rfl)) : _)
    · exact congrArg Core.frozen (State.core_updCore_ne (s.updWarp wid (s.issuedWarp f)) (s.warp wid).core w.core
        (fun k => { k with issued := aput k.issued (s.warp wid).slot (s.wall + 1) }) (fun _ => rfl) h)
  have hw : (s.noteIssue wid f).wall = s.wall := by simp [State.noteIssue]
  unfold State.now State.ucyc
  rw [hc, hw]

theorem State.noteIssue_warp_now {s : State} {wid : Nat} (h : Chosen s wid) (f : Fields) :
    (s.noteIssue wid f).now ((s.noteIssue wid f).warp wid) = s.now (s.warp wid) := by
  rw [s.noteIssue_now, (State.noteIssue_issues h f).warp]
  unfold State.now
  rw [id_eq, s.issuedWarp_core]

/-- A fixed-class result of a word (R51). -/
theorem State.landIn_issues {s : State} {wid : Nat} (h : Chosen s wid) (f : Fields) (n : Nat) (l : Landing) :
    Issues s ((s.noteIssue wid f).landIn wid n l) wid f (putLanding { l with due := s.now (s.warp wid) + n }) := by
  unfold State.landIn
  rw [State.noteIssue_warp_now h f]
  exact issues_updWarp (State.noteIssue_issues h f) _ (fun _ => rfl)

/-- A word of a fixed class whose executing lanes write registers. -/
theorem State.fixed_lands {s : State} {wid : Nat} (h : Chosen s wid) (f : Fields) (c : Cls) (n : Nat) (v : Nat → Nat) :
    Lands s ((s.noteIssue wid f).fixed wid (s.warp wid) f c n v) wid f (lambda f c) n v := State.landIn_issues h f _ _

/-- A lane instruction of a fixed class answers a next state with its result on the way. -/
theorem laneOp_lands {s : State} {wid : Nat} (h : Chosen s wid) (f : Fields) (c : Cls) (v : Warp → Nat → Nat) :
    ∃ t, laneOp s f c v = .next t ∧ Lands s t wid f (lambda f c) (tyRegs f.ty) (v (s.warp wid)) :=
  ⟨_, State.issue_chosen h f _, State.fixed_lands h f c _ _⟩

end Sys2Proof.Machine
end

