-- ==== Sys2Proof/Laws/Memory.lean ====
section
/-! SUPPORT. Sparse maps: every operation keeps the canonical form, and a read after a write. -/
namespace Sys2Proof.Machine
open Sys2Proof

/-! ## The canonical form -/

theorem rising_cons {n : Nat} (lo a : Nat) (v : BitVec n) (r : List (Nat × BitVec n)) :
    rising lo ((a, v) :: r) = true ↔ (lo ≤ a ∧ v ≠ 0) ∧ rising (a + 1) r = true := by
  simp only [rising, Bool.and_eq_true, decide_eq_true_eq, bne_iff_ne, ne_eq]

theorem rising_le {n : Nat} {lo hi : Nat} (h : lo ≤ hi) (m : List (Nat × BitVec n)) (hm : rising hi m = true) : rising lo m = true := by
  cases m with
  | nil => rfl
  | cons x r =>
    simp only [rising, Bool.and_eq_true, decide_eq_true_eq, bne_iff_ne, ne_eq] at hm ⊢
    exact ⟨⟨h.trans hm.1.1, hm.1.2⟩, hm.2⟩

/-- A write keeps the form. -/
theorem rising_mset {n : Nat} (m : List (Nat × BitVec n)) (lo k : Nat) (v : BitVec n) (hk : lo ≤ k) (hm : rising lo m = true) :
    rising lo (mset m k v) = true := by
  induction m generalizing lo with
  | nil => unfold mset; split <;> simp_all [rising]
  | cons x r ih =>
    obtain ⟨a, y⟩ := x
    simp only [rising, Bool.and_eq_true, decide_eq_true_eq, bne_iff_ne, ne_eq] at hm
    obtain ⟨⟨h1, h2⟩, h3⟩ := hm
    unfold mset
    split
    · rename_i hlt
      split
      · exact (rising_cons _ _ _ _).2 ⟨⟨h1, h2⟩, h3⟩
      · rename_i hv
        exact (rising_cons _ _ _ _).2 ⟨⟨hk, hv⟩, (rising_cons _ _ _ _).2 ⟨⟨hlt, h2⟩, h3⟩⟩
    · rename_i hlt
      split
      · rename_i he
        subst he
        split
        · exact rising_le (by omega) r h3
        · rename_i hv
          exact (rising_cons _ _ _ _).2 ⟨⟨h1, hv⟩, h3⟩
      · rename_i he
        exact (rising_cons _ _ _ _).2 ⟨⟨h1, h2⟩, ih (a + 1) (by omega) h3⟩

theorem rising_msetAll {n : Nat} (kvs m : List (Nat × BitVec n)) (hm : rising 0 m = true) : rising 0 (msetAll m kvs) = true := by
  unfold msetAll
  induction kvs generalizing m with
  | nil => exact hm
  | cons x r ih => exact ih _ (rising_mset m 0 x.1 x.2 (Nat.zero_le _) hm)

theorem rising_filter {n : Nat} (p : Nat × BitVec n → Bool) (lo : Nat) (m : List (Nat × BitVec n)) (hm : rising lo m = true) :
    rising lo (m.filter p) = true := by
  induction m generalizing lo with
  | nil => rfl
  | cons x r ih =>
    simp only [rising, Bool.and_eq_true, decide_eq_true_eq, bne_iff_ne, ne_eq] at hm
    obtain ⟨⟨h1, h2⟩, h3⟩ := hm
    rw [List.filter_cons]
    split
    · exact (rising_cons _ _ _ _).2 ⟨⟨h1, h2⟩, ih _ h3⟩
    · exact rising_le (by omega) _ (ih _ h3)

theorem rising_mdrop {n : Nat} (p : Nat → Bool) (m : List (Nat × BitVec n)) (hm : rising 0 m = true) : rising 0 (mdrop m p) = true :=
  rising_filter _ _ _ hm

theorem rising_putBytes (bs : List (BitVec 8)) (m : List (Nat × BitVec 8)) (a : Nat) (hm : rising 0 m = true) :
    rising 0 (putBytes m a bs) = true := by
  induction bs generalizing m a with
  | nil => exact hm
  | cons b r ih => exact ih _ _ (rising_mset m 0 a b (Nat.zero_le _) hm)

theorem rising_copyFrame (m : List Host.Cell) (src dst : Nat) (hm : rising 0 m = true) : rising 0 (copyFrame m src dst) = true :=
  rising_msetAll _ _ (rising_filter _ _ _ hm)

/-! ## The operations that write memory: each keeps its canonical form -/

theorem Memory.wf_poke (s : State) (pa : Nat) (bs : List (BitVec 8)) (h : Memory.wf s.mem = true) : Memory.wf (s.poke pa bs).mem = true :=
  rising_putBytes bs s.mem _ h
theorem Memory.wf_zeroFrame (s : State) (dev : Nat) (h : Memory.wf s.mem = true) : Memory.wf (s.zeroFrame dev).mem = true :=
  rising_filter _ _ _ h
theorem rising_hostPut (s : State) (a : Nat) (bs : List (BitVec 8)) (h : rising 0 s.hostmem = true) : rising 0 (s.hostPut a bs).hostmem = true :=
  rising_putBytes bs s.hostmem a h
theorem Memory.wf_reset : Memory.wf State.reset.mem = true := rfl

/-! ## Reads after writes -/

theorem mget_below {n : Nat} (m : List (Nat × BitVec n)) (lo k : Nat) (hk : k < lo) (hm : rising lo m = true) : mget m k = 0 := by
  induction m generalizing lo with
  | nil => rfl
  | cons x r ih =>
    simp only [rising, Bool.and_eq_true, decide_eq_true_eq, bne_iff_ne, ne_eq] at hm
    unfold mget
    rw [if_neg (by omega)]
    exact ih (x.1 + 1) (by omega) hm.2

/-- Another key reads as before, whatever the list. -/
theorem mget_mset_ne {n : Nat} (m : List (Nat × BitVec n)) (k j : Nat) (v : BitVec n) (h : j ≠ k) : mget (mset m k v) j = mget m j := by
  have hk : k ≠ j := fun e => h e.symm
  induction m with
  | nil => unfold mset; split <;> simp [mget, hk]
  | cons x r ih =>
    obtain ⟨a, y⟩ := x
    unfold mset
    split
    · split <;> simp [mget, hk]
    · split
      · rename_i he
        subst he
        split <;> simp [mget, hk]
      · simp only [mget, ih]

/-- The key written reads as its new value. -/
theorem mget_mset_self {n : Nat} (m : List (Nat × BitVec n)) (lo k : Nat) (v : BitVec n) (hm : rising lo m = true) : mget (mset m k v) k = v := by
  induction m generalizing lo with
  | nil => unfold mset; split <;> simp_all [mget]
  | cons x r ih =>
    obtain ⟨a, y⟩ := x
    simp only [rising, Bool.and_eq_true, decide_eq_true_eq, bne_iff_ne, ne_eq] at hm
    obtain ⟨⟨_, _⟩, h3⟩ := hm
    unfold mset
    split
    · rename_i hlt
      split
      · rename_i hv
        subst hv
        simp only [mget, if_neg (Nat.ne_of_gt hlt)]
        exact mget_below r (a + 1) k (by omega) h3
      · simp [mget]
    · split
      · rename_i he
        subst he
        split
        · rename_i hv
          subst hv
          exact mget_below r (k + 1) k (by omega) h3
        · simp [mget]
      · rename_i he
        rw [mget, if_neg (fun e => he e.symm)]
        exact ih (a + 1) h3

theorem mget_mset {n : Nat} (m : List (Nat × BitVec n)) (k j : Nat) (v : BitVec n) (hm : rising 0 m = true) :
    mget (mset m k v) j = if j = k then v else mget m j := by
  split
  · rename_i h; subst h; exact mget_mset_self m 0 j v hm
  · rename_i h; exact mget_mset_ne m k j v h

/-- Bytes outside those written read as before. -/
theorem mget_putBytes_out (bs : List (BitVec 8)) (m : List (Nat × BitVec 8)) (a j : Nat) (h : j < a ∨ a + bs.length ≤ j) :
    mget (putBytes m a bs) j = mget m j := by
  induction bs generalizing m a with
  | nil => rfl
  | cons b r ih =>
    simp only [List.length_cons] at h
    rw [putBytes, ih _ _ (by omega)]
    exact mget_mset_ne m a j b (by omega)

/-- A byte written reads as it was written. -/
theorem mget_putBytes_in (bs : List (BitVec 8)) (m : List (Nat × BitVec 8)) (a k : Nat) (hm : rising 0 m = true) (h : k < bs.length) :
    mget (putBytes m a bs) (a + k) = bs[k] := by
  induction bs generalizing m a k with
  | nil => simp at h
  | cons b r ih =>
    have hm' := rising_mset m 0 a b (Nat.zero_le _) hm
    cases k with
    | zero =>
      rw [putBytes, Nat.add_zero, mget_putBytes_out r _ _ _ (by omega)]
      exact mget_mset_self m 0 a b hm
    | succ k =>
      have := ih (mset m a b) (a + 1) k hm' (by simpa using h)
      rw [putBytes, show a + (k + 1) = a + 1 + k by omega, this]
      rfl

/-- What is written is what is read back (R5). -/
theorem State.peek_poke (s : State) (pa : Nat) (bs : List (BitVec 8)) (h : Memory.wf s.mem = true) :
    (s.poke pa bs).peek pa bs.length = bs := by
  have key : ∀ (n a : Nat) (m : List (Nat × BitVec 8)) (l : List (BitVec 8)), l.length = n →
      (∀ k (hk : k < l.length), mget m (a + k) = l[k]) → getBytes m a n = l := by
    intro n
    induction n with
    | zero => intro a m l hl _; simpa [getBytes] using (List.eq_nil_of_length_eq_zero hl).symm
    | succ n ih =>
      intro a m l hl hk
      cases l with
      | nil => simp at hl
      | cons b r =>
        rw [getBytes, ih (a + 1) m r (by simpa using hl) (fun k hk' => by
          have := hk (k + 1) (by simpa using hk')
          rwa [show a + (k + 1) = a + 1 + k by omega] at this)]
        have := hk 0 (by simp)
        simpa using this
  exact key bs.length (s.home pa) _ bs rfl fun k hk => mget_putBytes_in bs s.mem (s.home pa) k h hk

end Sys2Proof.Machine
end

