-- ==== Sys2Proof/Laws/Ops.lean ====
section
/-! SUPPORT. Operations in flight: what a lookup finds after an update, what the landing of values and the end of an operation do (R15,
R41, R50 to R53), and what a write applied at its home leaves as it was (R13, R252, R279, R280). -/
namespace Sys2Proof.Machine
open Sys2Proof

/-! ## Lookup -/

theorem State.op?_id {s : State} {o : Nat} {x : Op} (h : s.op? o = some x) : x.id = o := by simpa using List.find?_some h

theorem State.op?_mem {s : State} {o : Nat} {x : Op} (h : s.op? o = some x) : x ∈ s.ops := List.mem_of_find?_eq_some h

theorem State.op?_updOp (s : State) (o p : Nat) (g : Op → Op) (hg : ∀ x, (g x).id = x.id) :
    (s.updOp o g).op? p = (s.op? p).map fun x => if p = o then g x else x := find?_map_key Op.id s.ops o p g hg

theorem State.op?_updOp_self {s : State} {o : Nat} {x : Op} (g : Op → Op) (hg : ∀ x, (g x).id = x.id) (h : s.op? o = some x) :
    (s.updOp o g).op? o = some (g x) := by rw [s.op?_updOp o o g hg, h]; simp

theorem State.op?_updOp_ne {s : State} {o p : Nat} (g : Op → Op) (hg : ∀ x, (g x).id = x.id) (h : p ≠ o) :
    (s.updOp o g).op? p = s.op? p := by
  rw [s.op?_updOp o p g hg]; simp [h]

theorem State.op?_mapOps (s : State) (p : Nat) (g : Op → Op) (hg : ∀ x, (g x).id = x.id) :
    (s.mapOps g).op? p = (s.op? p).map g := by
  show (s.ops.map g).find? (fun x => x.id == p) = (s.ops.find? fun x => x.id == p).map g
  induction s.ops with
  | nil => rfl
  | cons x r ih =>
    simp only [List.map_cons, List.find?_cons, hg, ih]
    cases x.id == p <;> rfl

theorem State.op?_filter_self (s : State) (o : Nat) (ws : List Warp) : ({ s with warps := ws, ops := s.ops.filter (·.id != o) } : State).op? o = none := by
  show (s.ops.filter (·.id != o)).find? (fun x => x.id == o) = none
  rw [List.find?_eq_none]
  intro x hx hc
  simp only [List.mem_filter, bne_iff_ne] at hx
  exact hx.2 (by simpa using hc)

theorem State.op?_filter_ne (s : State) (o p : Nat) (ws : List Warp) (h : p ≠ o) :
    ({ s with warps := ws, ops := s.ops.filter (·.id != o) } : State).op? p = s.op? p := by
  show (s.ops.filter (·.id != o)).find? (fun x => x.id == p) = s.ops.find? fun x => x.id == p
  rw [List.find?_filter]
  congr 1
  funext x
  by_cases hx : x.id = p <;> simp [hx, h]

theorem Op.acc?_mapAccs (x : Op) (l : Nat) (g : Acc → Acc) (hg : ∀ a, (g a).lane = a.lane) :
    (x.mapAccs g).acc? l = (x.acc? l).map g := by
  show (x.accs.map g).find? (fun a => a.lane == l) = (x.accs.find? fun a => a.lane == l).map g
  induction x.accs with
  | nil => rfl
  | cons a r ih =>
    simp only [List.map_cons, List.find?_cons, hg, ih]
    cases a.lane == l <;> rfl

theorem Op.acc?_updAcc (x : Op) (l : Nat) (g : Acc → Acc) (hg : ∀ a, a.lane = l → (g a).lane = l) :
    (x.mapAccs fun a => if a.lane == l then g a else a).acc? l = (x.acc? l).map g := by
  rw [x.acc?_mapAccs l _ (fun a => by by_cases h : a.lane = l <;> simp [h, hg])]
  cases h : x.acc? l with
  | none => rfl
  | some a =>
    have : a.lane = l := by simpa using List.find?_some h
    simp [this]

theorem State.op?_updAcc_self {s : State} {o : Nat} {x : Op} (l : Nat) (g : Acc → Acc) (h : s.op? o = some x) :
    (s.updAcc o l g).op? o = some (x.mapAccs fun a => if a.lane == l then g a else a) := State.op?_updOp_self _ (fun _ => rfl) h

/-! ## Freezes (R362, R418) -/

theorem State.holdsTimed_map (s : State) (g : Warp → Warp) (hg : ∀ w, (g w).core = w.core ∧ (g w).timed = w.timed) (c : Nat) :
    ({ s with warps := s.warps.map g } : State).holdsTimed c = s.holdsTimed c := by
  show (s.warps.map g).any _ = s.warps.any _
  rw [List.any_map]
  congr 1
  funext w
  simp [hg]

/-- Which cores are frozen depends on which warps are timed and where, and on nothing else of a warp. -/
theorem State.frozen_map (s : State) (g : Warp → Warp) (hg : ∀ w, (g w).core = w.core ∧ (g w).timed = w.timed) (c : Nat) :
    ({ s with warps := s.warps.map g } : State).frozen c = s.frozen c := by
  unfold State.frozen
  rw [s.holdsTimed_map g hg]
  rfl

theorem State.frozen_updWarp (s : State) (wid : Nat) (g : Warp → Warp) (hg : ∀ w, (g w).core = w.core ∧ (g w).timed = w.timed) (c : Nat) :
    (s.updWarp wid g).frozen c = s.frozen c :=
  s.frozen_map _ (fun w => by split <;> simp [hg]) c

theorem Warp.landOne_keeps (w : Warp) (l : Landing) :
    (w.landOne l).id = w.id ∧ (w.landOne l).core = w.core ∧ (w.landOne l).timed = w.timed := by
  unfold Warp.landOne
  cases l.exm <;> cases l.flag <;> exact ⟨rfl, rfl, rfl⟩

theorem Warp.landDue_keeps (w : Warp) (now : Nat) (late : Bool) :
    (w.landDue now late).id = w.id ∧ (w.landDue now late).core = w.core ∧ (w.landDue now late).timed = w.timed := by
  have : ∀ (l : List Landing) (v : Warp), (l.foldl Warp.landOne v).id = v.id ∧ (l.foldl Warp.landOne v).core = v.core ∧
      (l.foldl Warp.landOne v).timed = v.timed := by
    intro l
    induction l with
    | nil => exact fun v => ⟨rfl, rfl, rfl⟩
    | cons a r ih =>
      intro v
      obtain ⟨h1, h2, h3⟩ := v.landOne_keeps a
      obtain ⟨k1, k2, k3⟩ := ih (v.landOne a)
      exact ⟨k1.trans h1, k2.trans h2, k3.trans h3⟩
  exact this _ _

/-! ## The part of the state that the end of an operation can touch -/

/-- Two states agree but for warps, operations in flight, parked records, faults put off and the dies' clocks. -/
def State.Near (s t : State) : Prop :=
  { t with warps := s.warps, ops := s.ops, parked := s.parked, deferred := s.deferred, clocks := s.clocks } = s

theorem State.Near.refl (s : State) : s.Near s := rfl
theorem State.Near.trans {s t u : State} (h : s.Near t) (k : t.Near u) : s.Near u := by
  unfold State.Near at *
  rw [← h, ← k]
theorem State.Near.mem {s t : State} (h : s.Near t) : t.mem = s.mem := (congrArg State.mem (show _ = s from h) :)
theorem State.Near.cores {s t : State} (h : s.Near t) : t.cores = s.cores := (congrArg State.cores (show _ = s from h) :)
theorem State.Near.outbound {s t : State} (h : s.Near t) : t.outbound = s.outbound := (congrArg State.outbound (show _ = s from h) :)
theorem State.Near.pdks {s t : State} (h : s.Near t) : t.pdks = s.pdks := (congrArg State.pdks (show _ = s from h) :)
theorem State.Near.marks {s t : State} (h : s.Near t) : t.marks = s.marks := (congrArg State.marks (show _ = s from h) :)
theorem State.Near.redirect {s t : State} (h : s.Near t) : t.redirect = s.redirect := (congrArg State.redirect (show _ = s from h) :)
theorem State.Near.launches {s t : State} (h : s.Near t) : t.launches = s.launches := (congrArg State.launches (show _ = s from h) :)
theorem State.Near.nextId {s t : State} (h : s.Near t) : t.nextId = s.nextId := (congrArg State.nextId (show _ = s from h) :)
theorem State.Near.wall {s t : State} (h : s.Near t) : t.wall = s.wall := (congrArg State.wall (show _ = s from h) :)
theorem State.Near.jobs {s t : State} (h : s.Near t) : t.jobs = s.jobs := (congrArg State.jobs (show _ = s from h) :)
theorem State.Near.frontier {s t : State} (h : s.Near t) : t.frontier = s.frontier := (congrArg State.frontier (show _ = s from h) :)

theorem State.near_updWarp (s : State) (wid : Nat) (g : Warp → Warp) : s.Near (s.updWarp wid g) := rfl
theorem State.near_updOp (s : State) (o : Nat) (g : Op → Op) : s.Near (s.updOp o g) := rfl
theorem State.near_mapOps (s : State) (g : Op → Op) : s.Near (s.mapOps g) := rfl
theorem State.near_updAcc (s : State) (o l : Nat) (g : Acc → Acc) : s.Near (s.updAcc o l g) := rfl
theorem State.near_landRegs (s : State) (wid o : Nat) (ws : List (Nat × Word)) : s.Near (s.landRegs wid o ws) := rfl
theorem State.near_mergeClock (s : State) (die : Nat) (st : SMap 48) : s.Near (s.mergeClock die st) := rfl

theorem State.near_ite {s a b : State} {c : Prop} [Decidable c] (ha : s.Near a) (hb : s.Near b) : s.Near (if c then a else b) := by
  split
  · exact ha
  · exact hb

theorem State.near_endOp (s : State) (o : Nat) : s.Near (s.endOp o) := by
  unfold State.endOp
  split
  · rfl
  · rfl

theorem State.near_settle (s : State) (o : Nat) : s.Near (s.settle o) := by
  unfold State.settle
  split
  · rfl
  · split
    · rfl
    · exact State.near_ite rfl (State.Near.trans (s.near_landRegs _ _ _) (State.near_endOp _ _))

theorem State.near_foldl {α : Type} (l : List α) (k : State → α → State) (hk : ∀ (t : State) a, t.Near (k t a)) (s : State) : s.Near (l.foldl k s) := by
  induction l generalizing s with
  | nil => rfl
  | cons a r ih => exact (hk s a).trans (ih _)

theorem State.near_evalWait (s : State) (o : Nat) : s.Near (s.evalWait o) := by
  unfold State.evalWait
  split
  · rfl
  · refine State.near_ite rfl (State.near_ite rfl ((State.near_foldl _ _ ?_ s).trans ((State.near_updOp _ _ _).trans
      (State.near_ite rfl (State.near_settle _ _)))))
    intro t a
    exact State.near_ite rfl (State.near_mergeClock _ _ _)

theorem State.near_wake (s : State) (pa : Nat) : s.Near (s.wake pa) :=
  State.near_foldl _ _ (fun (t : State) (x : Op) => State.near_evalWait t x.id) s

/-! ## Registers and operations after a landing and an end -/

theorem State.op?_landRegs (s : State) (wid o p : Nat) (ws : List (Nat × Word)) :
    (s.landRegs wid o ws).op? p = (s.op? p).map fun x =>
      if x.wid == wid && decide (o < x.id) then { x with before := x.before.landBefore (s.now (s.warp wid)) ws } else x := by
  refine ((s.updWarp wid fun w => { w with regs := msetAll w.regs ws }).op?_mapOps p _ fun x => ?_)
  split <;> rfl

/-- The operation itself is as it was. -/
theorem State.op?_landRegs_self (s : State) (wid o : Nat) (ws : List (Nat × Word)) : (s.landRegs wid o ws).op? o = s.op? o := by
  rw [s.op?_landRegs]
  cases h : s.op? o with
  | none => rfl
  | some x => simp [State.op?_id h]

theorem State.warp_landRegs {s : State} {wid : Nat} (o : Nat) (ws : List (Nat × Word)) (h : s.hasWarp wid = true) :
    (s.landRegs wid o ws).warp wid = { s.warp wid with regs := msetAll (s.warp wid).regs ws } := s.warp_updWarp wid _ (fun _ => rfl) h
theorem State.warp_landRegs_ne {s : State} {wid v : Nat} (o : Nat) (ws : List (Nat × Word)) (h : v ≠ wid) :
    (s.landRegs wid o ws).warp v = s.warp v := s.warp_updWarp_ne wid v _ (fun _ => rfl) h
theorem State.hasWarp_landRegs (s : State) (wid o v : Nat) (ws : List (Nat × Word)) : (s.landRegs wid o ws).hasWarp v = s.hasWarp v :=
  s.hasWarp_updWarp wid v _ fun _ => rfl

theorem State.endOp_some {s : State} {o : Nat} {x : Op} (h : s.op? o = some x) :
    s.endOp o = { (s.updWarp x.wid fun w => w.flagDown x.flag) with ops := s.ops.filter (·.id != o) } := by
  unfold State.endOp; rw [h]

theorem Warp.flagDown_id (w : Warp) (n : Option Nat) : (w.flagDown n).id = w.id := by cases n <;> rfl
theorem Warp.flagDown_regs (w : Warp) (n : Option Nat) : (w.flagDown n).regs = w.regs := by cases n <;> rfl

theorem State.op?_endOp_self (s : State) (o : Nat) : (s.endOp o).op? o = none := by
  cases h : s.op? o with
  | none => unfold State.endOp; rw [h]; exact h
  | some x => rw [State.endOp_some h]; exact s.op?_filter_self o _

theorem State.op?_endOp_ne (s : State) {o p : Nat} (hp : p ≠ o) : (s.endOp o).op? p = s.op? p := by
  cases h : s.op? o with
  | none => unfold State.endOp; rw [h]
  | some x => rw [State.endOp_some h]; exact s.op?_filter_ne o p _ hp

theorem State.warp_endOp {s : State} {o : Nat} {x : Op} (h : s.op? o = some x) (hw : s.hasWarp x.wid = true) :
    (s.endOp o).warp x.wid = (s.warp x.wid).flagDown x.flag := by
  rw [State.endOp_some h]
  exact s.warp_updWarp x.wid _ (fun w => w.flagDown_id _) hw

theorem State.warp_endOp_ne {s : State} {o v : Nat} {x : Op} (h : s.op? o = some x) (hv : v ≠ x.wid) : (s.endOp o).warp v = s.warp v := by
  rw [State.endOp_some h]
  exact s.warp_updWarp_ne x.wid v _ (fun w => w.flagDown_id _) hv

theorem State.hasWarp_endOp (s : State) (o v : Nat) : (s.endOp o).hasWarp v = s.hasWarp v := by
  cases h : s.op? o with
  | none => unfold State.endOp; rw [h]
  | some x => rw [State.endOp_some h]; exact s.hasWarp_updWarp x.wid v _ fun w => w.flagDown_id _

/-- Values land and the operation ends: its warp gets the values and its flag counts down. -/
theorem State.warp_landEnd {s : State} {o : Nat} {x : Op} (ws : List (Nat × Word)) (h : s.op? o = some x) (hw : s.hasWarp x.wid = true) :
    ((s.landRegs x.wid o ws).endOp o).warp x.wid =
      ({ s.warp x.wid with regs := msetAll (s.warp x.wid).regs ws }).flagDown x.flag := by
  rw [State.warp_endOp ((s.op?_landRegs_self x.wid o ws).trans h) ((s.hasWarp_landRegs x.wid o x.wid ws).trans hw),
    State.warp_landRegs o ws hw]

theorem Warp.flagDown_with_regs (w : Warp) (r : SMap 32) (n : Option Nat) : ({ w with regs := r } : Warp).flagDown n = { w.flagDown n with regs := r } := by
  cases n <;> rfl

theorem Acc.over_iff (a : Acc) : a.over = true ↔ a.stage = .done ∨ a.stage = .gone ∨ a.stage = .left := by simp [Acc.over, or_assoc]

/-- R15: an operation whose lanes have all completed or left it ends with its last values; another stays. -/
theorem State.settle_all {s : State} {o : Nat} {x : Op} (h : s.op? o = some x) (ha : ∀ a ∈ x.accs, a.stage = .done ∨ a.stage = .gone) :
    s.settle o = (s.landRegs x.wid o x.lastWrites).endOp o := by
  have hall : x.accs.all Acc.over = true := List.all_eq_true.2 fun a hm => a.over_iff.2 ((ha a hm).imp id .inl)
  have hl : x.leaves = false := List.any_eq_false.2 fun a hm => by rcases ha a hm with e | e <;> simp [e, a.over_iff]
  have hp : (x.accs.all fun a => a.over || (s.warp x.wid).park.getLsbD a.lane) = true :=
    List.all_eq_true.2 fun a hm => by simp [List.all_eq_true.1 hall a hm]
  simp only [State.settle, h, hp, hl]
  rfl
theorem State.settle_some {s : State} {o : Nat} {x : Op} {a : Acc} (h : s.op? o = some x) (hm : a ∈ x.accs) (ho : a.over = false)
    (hp : (s.warp x.wid).park.getLsbD a.lane = false) : s.settle o = s := by
  have hall : (x.accs.all fun a => a.over || (s.warp x.wid).park.getLsbD a.lane) = false := List.all_eq_false.2 ⟨a, hm, by simp [ho, hp]⟩
  simp only [State.settle, h, hall]
  rfl

/-- A change of a warp that keeps its identifier and a part of it keeps that part of every warp. -/
theorem State.warp_updWarp_keep {α : Type} (s : State) (wid v : Nat) (g : Warp → Warp) (r : Warp → α) (hg : ∀ w, (g w).id = w.id)
    (hr : ∀ w, r (g w) = r w) : r ((s.updWarp wid g).warp v) = r (s.warp v) := by
  have := find?_map_key Warp.id s.warps wid v g hg
  show r (((s.warps.map _).find? _).getD {}) = r ((s.warps.find? _).getD {})
  rw [this]
  cases s.warps.find? fun x => x.id == v with
  | none => rfl
  | some w =>
    simp only [Option.map_some, Option.getD_some]
    split
    · exact hr w
    · rfl

theorem State.regs_landRegs_nil (s : State) (wid o v : Nat) : ((s.landRegs wid o []).warp v).regs = (s.warp v).regs :=
  s.warp_updWarp_keep wid v _ Warp.regs (fun _ => rfl) fun _ => rfl

theorem State.op?_landRegs_nil (s : State) (wid o p : Nat) : (s.landRegs wid o []).op? p = s.op? p := by
  rw [s.op?_landRegs]
  cases s.op? p with
  | none => rfl
  | some x => simp [Warp.landBefore]

theorem State.regs_endOp (s : State) (o v : Nat) : ((s.endOp o).warp v).regs = (s.warp v).regs := by
  cases h : s.op? o with
  | none => unfold State.endOp; rw [h]
  | some x =>
    rw [State.endOp_some h]
    exact s.warp_updWarp_keep x.wid v _ Warp.regs (fun w => w.flagDown_id _) fun w => w.flagDown_regs _

/-! ## Writes applied at a home -/

theorem Op.lastWrites_waits {x : Op} (h : x.kind.waits = true) : x.lastWrites = [] := by
  unfold Op.lastWrites
  cases hk : x.kind <;> simp [hk, OpKind.waits] at h ⊢

/-- Two states in which every operation of another kind than a wait, every warp and its registers are the same. -/
structure State.Calm (s t : State) : Prop where
  near : s.Near t
  op : ∀ {o x}, s.op? o = some x → x.kind.waits = false → t.op? o = some x
  has : ∀ v, t.hasWarp v = s.hasWarp v
  regs : ∀ v, (t.warp v).regs = (s.warp v).regs

theorem State.Calm.refl (s : State) : s.Calm s := ⟨rfl, fun h _ => h, fun _ => rfl, fun _ => rfl⟩
theorem State.Calm.trans {s t u : State} (h : s.Calm t) (k : t.Calm u) : s.Calm u :=
  ⟨h.near.trans k.near, fun e w => k.op (h.op e w) w, fun v => (k.has v).trans (h.has v), fun v => (k.regs v).trans (h.regs v)⟩
theorem State.calm_foldl {α : Type} (l : List α) (k : State → α → State) (hk : ∀ (t : State) a, t.Calm (k t a)) (s : State) : s.Calm (l.foldl k s) := by
  induction l generalizing s with
  | nil => exact State.Calm.refl s
  | cons a r ih => exact (hk s a).trans (ih _)
theorem State.calm_ite {s a b : State} {c : Prop} [Decidable c] (ha : s.Calm a) (hb : s.Calm b) : s.Calm (if c then a else b) := by
  split
  · exact ha
  · exact hb
theorem State.calm_mergeClock (s : State) (die : Nat) (st : SMap 48) : s.Calm (s.mergeClock die st) := ⟨rfl, fun h _ => h, fun _ => rfl, fun _ => rfl⟩

theorem State.op?_leaveOp_ne (s : State) {x : Op} {p : Nat} (hp : p ≠ x.id) : (s.leaveOp x).op? p = s.op? p :=
  State.op?_updOp_ne (s := s.updWarp x.wid fun w => w.flagDown x.flag) _ (fun _ => rfl) hp
theorem State.hasWarp_leaveOp (s : State) (x : Op) (v : Nat) : (s.leaveOp x).hasWarp v = s.hasWarp v :=
  s.hasWarp_updWarp x.wid v _ fun w => w.flagDown_id _
theorem State.regs_leaveOp (s : State) (x : Op) (v : Nat) : ((s.leaveOp x).warp v).regs = (s.warp v).regs :=
  s.warp_updWarp_keep x.wid v _ Warp.regs (fun w => w.flagDown_id _) fun w => w.flagDown_regs _

/-- A wait that settles: it may end, and no value lands. -/
theorem State.calm_settle {s : State} {o : Nat} {y : Op} (h : s.op? o = some y) (hw : y.kind.waits = true) : s.Calm (s.settle o) := by
  unfold State.settle
  rw [h]
  refine State.calm_ite (State.Calm.refl s) ?_
  rw [Op.lastWrites_waits hw]
  have ne {p : Nat} {x : Op} (e : s.op? p = some x) (k : x.kind.waits = false) : p ≠ o := by
    rintro rfl
    rw [h] at e
    cases e
    rw [hw] at k
    cases k
  refine State.calm_ite ⟨rfl, fun e k => ?_, fun v => ?_, fun v => ?_⟩
    ⟨(s.near_landRegs _ _ _).trans (State.near_endOp _ _), fun e k => ?_, fun v => ?_, fun v => ?_⟩
  · rw [State.op?_leaveOp_ne _ (State.op?_id h ▸ ne e k), State.op?_landRegs_nil, e]
  · rw [State.hasWarp_leaveOp, State.hasWarp_landRegs]
  · rw [State.regs_leaveOp, State.regs_landRegs_nil]
  · rw [State.op?_endOp_ne _ (ne e k), State.op?_landRegs_nil, e]
  · rw [State.hasWarp_endOp, State.hasWarp_landRegs]
  · rw [State.regs_endOp, State.regs_landRegs_nil]

theorem State.calm_updOp {s : State} {o : Nat} {y : Op} (g : Op → Op) (hg : ∀ x, (g x).id = x.id) (h : s.op? o = some y) (hw : y.kind.waits = true) :
    s.Calm (s.updOp o g) := by
  refine ⟨rfl, fun {p x} e k => ?_, fun _ => rfl, fun _ => rfl⟩
  have hp : p ≠ o := by
    rintro rfl
    rw [h] at e
    cases e
    rw [hw] at k
    cases k
  rw [State.op?_updOp_ne g hg hp, e]

theorem State.calm_evalWait (s : State) (o : Nat) : s.Calm (s.evalWait o) := by
  unfold State.evalWait
  cases h : s.op? o with
  | none => exact State.Calm.refl s
  | some y =>
    dsimp only
    by_cases hw : y.kind.waits = true
    · refine State.calm_ite (State.Calm.refl s) (State.calm_ite (State.Calm.refl s) ?_)
      have merged (l : List Acc) : ∀ t : State, t.op? o = some y → (l.foldl (fun (t : State) a =>
          if a.pad then t else t.mergeClock (dieOfCore y.before.core) (s.stampOf a.pa y.bytes)) t).op? o = some y := by
        induction l with
        | nil => exact fun _ e => e
        | cons a r ih =>
          intro t e
          refine ih _ ?_
          dsimp only
          split
          · exact e
          · exact e
      have ends (t : State) (ht : t.op? o = some y) (g : Op → Op) (hg : ∀ x, (g x).id = x.id) (hk : ∀ x, (g x).kind = x.kind) :
          t.Calm ((t.updOp o g).settle o) :=
        (State.calm_updOp g hg ht hw).trans (State.calm_settle (State.op?_updOp_self g hg ht) (by rw [hk]; exact hw))
      have calm (l : List Acc) : s.Calm (l.foldl (fun (t : State) a =>
          if a.pad then t else t.mergeClock (dieOfCore y.before.core) (s.stampOf a.pa y.bytes)) s) :=
        State.calm_foldl _ _ (fun t a => State.calm_ite (State.Calm.refl t) (State.calm_mergeClock t _ _)) s
      refine State.calm_ite ?_ ?_
      · exact (calm _).trans (State.calm_updOp _ (fun _ => rfl) (merged _ s h) hw)
      · exact (calm _).trans (ends _ (merged _ s h) _ (fun _ => rfl) fun _ => rfl)
    · rw [if_pos (by simp [hw])]
      exact State.Calm.refl s

theorem State.calm_wake (s : State) (pa : Nat) : s.Calm (s.wake pa) :=
  State.calm_foldl _ _ (fun (t : State) (x : Op) => State.calm_evalWait t x.id) s

theorem State.mem_applyWrite (s : State) (p pa : Nat) (bs : List (BitVec 8)) (st : SMap 48) : (s.applyWrite p pa bs st).mem = (s.poke pa bs).mem :=
  (State.near_wake _ pa).mem

end Sys2Proof.Machine
end

