-- ==== Sys2Proof/Tests/Slice0.lean ====
section
/-! SUPPORT. Tests: the words of the spec's encoding tables decode as written out by hand, one or more of each instruction; ill-formed words are
refused; values of the spec's tables and worked examples come out; and for every hypothesis of a statement a concrete state meets it. -/
open Sys2Proof Sys2Proof.Machine Sys2Proof.Safety
namespace Sys2Proof.Tests

/-- One word of every instruction of the family, from the layout of R37, R45 and R49. -/
def controlWords : List (IWord × Instr) :=
  [
    (0x0000FFFFF00000000000000000000000, .nop (fieldsOf (sched 15 4095 15) .i32 0 0 (.regs (src 0) (src 0) (src 0)))),
    (0x01001000F00000E000004000FFFFFF80, .prep (fieldsOf (sched 1 0 15) .i32 0 7 (.imm (src 0) 0xffffff80))),
    (0x02001000F00000612000028400000000, .prepv (fieldsOf (sched 1 0 15) .i32 0 3 (.regs (src 9) { src 10 with pat := .bc } (src 0)))),
    (0x03011000FC27E000C000000000000000, .xfer (fieldsOf (guarded (sched 1 0 15) true 9 31) .i32 1 0 (.regs (src 6) (src 0) (src 0)))),
    (0x04001000F808000040004000000000A0, .xfers (fieldsOf (guarded (sched 1 0 15) false 2 0) .i32 0 0 (.imm (src 2) 0xa0))),
    (0x05001000F00000000000000000000000, .join (fieldsOf (sched 1 0 15) .i32 0 0 (.regs (src 0) (src 0) (src 0)))),
    (0x06001000F00000A08000000000000000, .call (fieldsOf (sched 1 0 15) .i32 0 5 (.regs (src 4) (src 0) (src 0)))),
    (0x07001000F0000000E000000000000000, .ret (fieldsOf (sched 1 0 15) .i32 0 0 (.regs (src 7) (src 0) (src 0)))),
    (0x08001000F00000002000000000000000, .loop (fieldsOf (sched 1 0 15) .i32 0 0 (.regs (src 1) (src 0) (src 0)))),
    (0x09001000F0000000000040000000003F, .hold (fieldsOf (sched 1 0 15) .i32 0 0 (.imm (src 0) 0x3f))),
    (0x0A001000F000000000004000FFFFFFFF, .icinv (fieldsOf (sched 1 0 15) .i32 0 0 (.imm (src 0) 0xffffffff))),
    (0x0B001000F000000000004000000FFFFF, .sleep (fieldsOf (sched 1 0 15) .i32 0 0 (.imm (src 0) 0xfffff))),
    (0x0C001000FBFFE0000000000000000000, .exit (fieldsOf (guarded (sched 1 0 15) false 255 31) .i32 0 0 (.regs (src 0) (src 0) (src 0)))),
    (0x0D001000F0000000000040000000FFFF, .trap (fieldsOf (sched 1 0 15) .i32 0 0 (.imm (src 0) 0xffff)))]
theorem decode_control : ∀ p ∈ controlWords, decodeWord 256 p.1 = .ok p.2 := by decide

/-- One word of every instruction of the family, from the layout of R37, R45 and R49. -/
def integerWords : List (IWord × Instr) :=
  [
    (0x10611000F00019006008010008000000, .iadd (fieldsOf (sched 1 0 15) .i8x4 1 200 (.regs { src 3 with neg := true } { src 4 with abs := true } (src 0)))),
    (0x11401000F80881008702010000000000, .isub (fieldsOf (guarded (sched 1 0 15) false 2 4) .i16x2 0 8 (.regs { src 4 with pat := .x, k := 16, half := .hi } (src 4) (src 0)))),
    (0x12101000F00000C02000008000018000, .iaddc (fieldsOf (sched 1 0 15) .n32 0 6 (.regs (src 1) (src 2) (src 3)))),
    (0x13101000F00001002000008000018000, .isubb (fieldsOf (sched 1 0 15) .n32 0 8 (.regs (src 1) (src 2) (src 3)))),
    (0x14311000F00001404BF0010000000000, .imul (fieldsOf (sched 1 0 15) .n64 1 10 (.regs { src 2 with pat := .up, k := 31 } (src 4) (src 0)))),
    (0x15101000F00000A020004000FFFFFFFF, .imulh (fieldsOf (sched 1 0 15) .n32 0 5 (.imm (src 1) 0xffffffff))),
    (0x16011000F00000A02000008000018030, .imad (fieldsOf (sched 1 0 15) .i32 1 5 (.regs (src 1) (src 2) { src 3 with neg := true, abs := true }))),
    (0x17101000F00000C02000008000020000, .imadw (fieldsOf (sched 1 0 15) .n32 0 6 (.regs (src 1) (src 2) (src 4)))),
    (0x18611000F00000A02000000000000000, .ineg (fieldsOf (sched 1 0 15) .i8x4 1 5 (.regs (src 1) (src 0) (src 0)))),
    (0x19201000F00000C04000000000000000, .iabs (fieldsOf (sched 1 0 15) .i64 0 6 (.regs (src 2) (src 0) (src 0)))),
    (0x1A701000F00000A02000008000000000, .imin (fieldsOf (sched 1 0 15) .n8x4 0 5 (.regs (src 1) (src 2) (src 0)))),
    (0x1B001000F00000A02000400000000007, .imax (fieldsOf (sched 1 0 15) .i32 0 5 (.imm (src 1) 0x7))),
    (0x1C501000F00000A02000008000018004, .iclamp (fieldsOf (sched 1 0 15) .n16x2 0 5 (.regs (src 1) (src 2) { src 3 with half := .lo }))),
    (0x1D251000F00000A04000010000000000, .icmp (fieldsOf (sched 1 0 15) .i64 5 5 (.regs (src 2) (src 4) (src 0)))),
    (0x1E731000F00000A02000008000000000, .iset (fieldsOf (sched 1 0 15) .n8x4 3 5 (.regs (src 1) (src 2) (src 0)))),
    (0x1F301000F00000C04000010000040000, .sel (fieldsOf (sched 1 0 15) .n64 0 6 (.regs (src 2) (src 4) (src 8)))),
    (0x20301000F00000C04000014000000000, .shl (fieldsOf (sched 1 0 15) .n64 0 6 (.regs (src 2) (src 5) (src 0)))),
    (0x21001000F00000C0400040000000001F, .shr (fieldsOf (sched 1 0 15) .i32 0 6 (.imm (src 2) 0x1f)))] ++
  [
    (0x22201000F00000C0400040000000003F, .sar (fieldsOf (sched 1 0 15) .i64 0 6 (.imm (src 2) 0x3f))),
    (0x23101000F00000C04000015020000000, .rotl (fieldsOf (sched 1 0 15) .n32 0 6 (.regs (src 2) { src 5 with pat := .m, k := 1 } (src 0)))),
    (0x24101000F00000C040000150A0000000, .rotr (fieldsOf (sched 1 0 15) .n32 0 6 (.regs (src 2) { src 5 with pat := .m, k := 5 } (src 0)))),
    (0x25101000F00000A02000008000000000, .andOp (fieldsOf (sched 1 0 15) .n32 0 5 (.regs (src 1) (src 2) (src 0)))),
    (0x26301000F00000C04000400080000000, .orOp (fieldsOf (sched 1 0 15) .n64 0 6 (.imm (src 2) 0x80000000))),
    (0x27001000F00000A02E50009860000000, .xorOp (fieldsOf (sched 1 0 15) .i32 0 5 (.regs { src 1 with pat := .sg, k := 5 } { src 2 with pat := .dn, k := 3 } (src 0)))),
    (0x28101000F0001FFFC0003F4000000000, .andn (fieldsOf (sched 1 0 15) .n32 0 255 (.regs (src 254) (src 253) (src 0)))),
    (0x29961000F00000802000008000018000, .logt (fieldsOf (sched 1 0 15) .f32 6 4 (.regs (src 1) (src 2) (src 3)))),
    (0x30301000F00000A04000000000000000, .popc (fieldsOf (sched 1 0 15) .n64 0 5 (.regs (src 2) (src 0) (src 0)))),
    (0x31101000F00000A02000000000000000, .clz (fieldsOf (sched 1 0 15) .n32 0 5 (.regs (src 1) (src 0) (src 0)))),
    (0x32311000F00000A0400000C000000000, .fnsb (fieldsOf (sched 1 0 15) .n64 1 5 (.regs (src 2) (src 3) (src 0)))),
    (0x33301000F00000C04000000000000000, .brev (fieldsOf (sched 1 0 15) .n64 0 6 (.regs (src 2) (src 0) (src 0)))),
    (0x34201000F00000C04000014000000000, .bfx (fieldsOf (sched 1 0 15) .i64 0 6 (.regs (src 2) (src 5) (src 0)))),
    (0x35101000F00000A02000008000018000, .bfi (fieldsOf (sched 1 0 15) .n32 0 5 (.regs (src 1) (src 2) (src 3)))),
    (0x36301000F00000C04000010000038000, .bperm (fieldsOf (sched 1 0 15) .n64 0 6 (.regs (src 2) (src 4) (src 7))))]
theorem decode_integer : ∀ p ∈ integerWords, decodeWord 256 p.1 = .ok p.2 := by decide

/-- One word of every instruction of the family, from the layout of R37, R45 and R49. -/
def moveWords : List (IWord × Instr) :=
  [
    (0x37F03000FC27E0812000000000000000, .mov (fieldsOf (guarded (sched 3 0 15) true 9 31) .q4x8 0 4 (.regs (src 9) (src 0) (src 0)))),
    (0x38C01000F0000080000040003F803F80, .movi (fieldsOf (sched 1 0 15) .bf16x2 0 4 (.imm (src 0) 0x3f803f80))),
    (0x39001000F00000814000008000000000, .movx (fieldsOf (sched 1 0 15) .i32 0 4 (.regs (src 10) (src 2) (src 0)))),
    (0x3A001000F00000814000008000000000, .movxw (fieldsOf (sched 1 0 15) .i32 0 4 (.regs (src 10) (src 2) (src 0)))),
    (0x3B011000F00000C0C200000000000000, .movs (fieldsOf (sched 1 0 15) .i32 1 6 (.regs { src 6 with pat := .bc } (src 0) (src 0)))),
    (0x3C001000F0000081A000000000000000, .movsw (fieldsOf (sched 1 0 15) .i32 0 4 (.regs (src 13) (src 0) (src 0)))),
    (0x3D031000F00000804000400000000009, .cvt (fieldsOf (sched 1 0 15) .i32 3 4 (.imm (src 2) 0x9))),
    (0x3EC71000F00000A02000008000000000, .pack (fieldsOf (sched 1 0 15) .bf16x2 7 5 (.regs (src 1) (src 2) (src 0)))),
    (0x3F701000F00000C02000000000000000, .unpk (fieldsOf (sched 1 0 15) .n8x4 0 6 (.regs (src 1) (src 0) (src 0))))]
theorem decode_move : ∀ p ∈ moveWords, decodeWord 256 p.1 = .ok p.2 := by decide

/-- One word of every instruction of the family, from the layout of R37, R45 and R49. -/
def floatWords : List (IWord × Instr) :=
  [
    (0x40971000F00000C04000010010000000, .fadd (fieldsOf (sched 1 0 15) .f32 7 6 (.regs (src 2) { src 4 with neg := true } (src 0)))),
    (0x41A31000F00000C04000010000000000, .fsub (fieldsOf (sched 1 0 15) .f64 3 6 (.regs (src 2) (src 4) (src 0)))),
    (0x42C11000F00000A02002008000000000, .fmul (fieldsOf (sched 1 0 15) .bf16x2 1 5 (.regs { src 1 with half := .hi } (src 2) (src 0)))),
    (0x43941000F00001004000010000030000, .ffma (fieldsOf (sched 1 0 15) .f32 4 8 (.regs (src 2) (src 4) (src 6)))),
    (0x44B01000F00000A02000008000000000, .fmin (fieldsOf (sched 1 0 15) .f16x2 0 5 (.regs (src 1) (src 2) (src 0)))),
    (0x45A01000F00000C04000010000000000, .fmax (fieldsOf (sched 1 0 15) .f64 0 6 (.regs (src 2) (src 4) (src 0)))),
    (0x46901000F00000A02000008000000000, .fminp (fieldsOf (sched 1 0 15) .f32 0 5 (.regs (src 1) (src 2) (src 0)))),
    (0x47C01000F00000A02000008000000000, .fmaxp (fieldsOf (sched 1 0 15) .bf16x2 0 5 (.regs (src 1) (src 2) (src 0)))),
    (0x48A71000F00000A04000010000000000, .fcmp (fieldsOf (sched 1 0 15) .f64 7 5 (.regs (src 2) (src 4) (src 0)))),
    (0x49901000F00000A020004000000003FF, .fclass (fieldsOf (sched 1 0 15) .f32 0 5 (.imm (src 1) 0x3ff))),
    (0x4AA21000F00000C04000000000000000, .frnd (fieldsOf (sched 1 0 15) .f64 2 6 (.regs (src 2) (src 0) (src 0)))),
    (0x4BB31000F00000A02000008000000000, .fscale (fieldsOf (sched 1 0 15) .f16x2 3 5 (.regs (src 1) (src 2) (src 0)))),
    (0x4CA11000F00000C04000000000000000, .fexp (fieldsOf (sched 1 0 15) .f64 1 6 (.regs (src 2) (src 0) (src 0)))),
    (0x4DA14000B00000C04000010000000000, .fdiv (fieldsOf (sched 4 0 11) .f64 1 6 (.regs (src 2) (src 4) (src 0)))),
    (0x4E924000000000A02000000000000000, .fsqrt (fieldsOf (sched 4 0 0) .f32 2 5 (.regs (src 1) (src 0) (src 0)))),
    (0x50901000F00000A02000000000000000, .rcp (fieldsOf (sched 1 0 15) .f32 0 5 (.regs (src 1) (src 0) (src 0)))),
    (0x51B01000F00000C02004000000000000, .rsq (fieldsOf (sched 1 0 15) .f16x2 0 6 (.regs { src 1 with abs := true } (src 0) (src 0)))),
    (0x52C01000F00000E02000000000000000, .ex2 (fieldsOf (sched 1 0 15) .bf16x2 0 7 (.regs (src 1) (src 0) (src 0))))] ++
  [
    (0x53901000F00001002004000000000000, .lg2 (fieldsOf (sched 1 0 15) .f32 0 8 (.regs { src 1 with abs := true } (src 0) (src 0)))),
    (0x54B01000F00001202000000000000000, .fsin (fieldsOf (sched 1 0 15) .f16x2 0 9 (.regs (src 1) (src 0) (src 0)))),
    (0x55C01000F00001402004000000000000, .fcos (fieldsOf (sched 1 0 15) .bf16x2 0 10 (.regs { src 1 with abs := true } (src 0) (src 0)))),
    (0x56901000F00001602000000000000000, .tanh (fieldsOf (sched 1 0 15) .f32 0 11 (.regs (src 1) (src 0) (src 0)))),
    (0x57B01000F00001802004000000000000, .sigm (fieldsOf (sched 1 0 15) .f16x2 0 12 (.regs { src 1 with abs := true } (src 0) (src 0)))),
    (0x58711000F00000A02000008000000000, .dot4 (fieldsOf (sched 1 0 15) .n8x4 1 5 (.regs (src 1) (src 2) (src 0)))),
    (0x59801000F00000A02000008000000000, .dot8 (fieldsOf (sched 1 0 15) .i4x8 0 5 (.regs (src 1) (src 2) (src 0)))),
    (0x5AE31000F00000A02000008000018000, .dotf8 (fieldsOf (sched 1 0 15) .q8bx4 3 5 (.regs (src 1) (src 2) (src 3)))),
    (0x5BF01000F0000100400000C000020000, .dotf4 (fieldsOf (sched 1 0 15) .q4x8 0 8 (.regs (src 2) (src 3) (src 4)))),
    (0x5CB21000F00000A02000008000000000, .dot2h (fieldsOf (sched 1 0 15) .f16x2 2 5 (.regs (src 1) (src 2) (src 0))))]
theorem decode_float : ∀ p ∈ floatWords, decodeWord 256 p.1 = .ok p.2 := by decide

/-- One word of every instruction of the family, from the layout of R37, R45 and R49. -/
def crossWords : List (IWord × Instr) :=
  [
    (0x60A01000F00000C04000014000000000, .shfl (fieldsOf (sched 1 0 15) .f64 0 6 (.regs (src 2) (src 5) (src 0)))),
    (0x61103000F00001208000400000000002, .shflx (fieldsOf (sched 3 0 15) .n32 0 9 (.imm (src 4) 0x2))),
    (0x62F01000F0000120800040000000001F, .shflu (fieldsOf (sched 1 0 15) .q4x8 0 9 (.imm (src 4) 0x1f))),
    (0x63301000F00001008000014000000000, .shfld (fieldsOf (sched 1 0 15) .n64 0 8 (.regs (src 4) (src 5) (src 0)))),
    (0x64121000F00001208000000000000000, .bcast (fieldsOf (sched 1 0 15) .n32 2 9 (.regs (src 4) (src 0) (src 0)))),
    (0x65021000F0000120800040000000001F, .vote (fieldsOf (sched 1 0 15) .i32 2 9 (.imm (src 4) 0x1f))),
    (0x66001000F0000100A000400000000000, .ballot (fieldsOf (sched 1 0 15) .i32 0 8 (.imm (src 5) 0x0))),
    (0x67301000F00001208000000000000000, .matchOp (fieldsOf (sched 1 0 15) .n64 0 9 (.regs (src 4) (src 0) (src 0)))),
    (0x68261000F00001008000000000000000, .redi (fieldsOf (sched 1 0 15) .i64 6 8 (.regs (src 4) (src 0) (src 0)))),
    (0x69C31000F00001208000000000000000, .redf (fieldsOf (sched 1 0 15) .bf16x2 3 9 (.regs (src 4) (src 0) (src 0)))),
    (0x6A951000F00000C0400000C000000000, .redm (fieldsOf (sched 1 0 15) .f32 5 6 (.regs (src 2) (src 3) (src 0)))),
    (0x6B1E1000F00001208000000000000000, .scan (fieldsOf (sched 1 0 15) .n32 14 9 (.regs (src 4) (src 0) (src 0)))),
    (0x6CD01000F00001208000014000000000, .compact (fieldsOf (sched 1 0 15) .q8ax4 0 9 (.regs (src 4) (src 5) (src 0))))]
theorem decode_cross : ∀ p ∈ crossWords, decodeWord 256 p.1 = .ok p.2 := by decide

/-- One word of every instruction of the family, from the layout of R37, R45 and R49. -/
def memoryWords : List (IWord × Instr) :=
  [
    (0x70004000000000804000400000000000, .ld (fieldsOf (sched 4 0 0) .i32 0 4 (.imm (src 2) 0x0))),
    (0x712B40001000010040004000FFFFFFF8, .st (fieldsOf (sched 4 0 1) .i64 11 8 (.imm (src 2) 0xfffffff8))),
    (0x72121000F00000804000018400000000, .ldro (fieldsOf (sched 1 0 15) .n32 2 4 (.regs (src 2) { src 6 with pat := .bc } (src 0)))),
    (0x73011000F00000004000400000000040, .pref (fieldsOf (sched 1 0 15) .i32 1 0 (.imm (src 2) 0x40))),
    (0x74001000F0000000400001C000000000, .tlock (fieldsOf (sched 1 0 15) .i32 0 0 (.regs (src 2) (src 7) (src 0)))),
    (0x75001000F00000000000000000000000, .tfree (fieldsOf (sched 1 0 15) .i32 0 0 (.regs (src 0) (src 0) (src 0)))),
    (0x76041000F00001006000400000000008, .lds (fieldsOf (sched 1 0 15) .i32 4 8 (.imm (src 3) 0x8))),
    (0x77A31000F00001006000014000000000, .sts (fieldsOf (sched 1 0 15) .f64 3 8 (.regs (src 3) (src 5) (src 0)))),
    (0x78001000F00001208000000000000000, .sptag (fieldsOf (sched 1 0 15) .i32 0 9 (.regs (src 4) (src 0) (src 0)))),
    (0x79011000F00000008000400000000003, .spset (fieldsOf (sched 1 0 15) .i32 1 0 (.imm (src 4) 0x3))),
    (0x7A001000F00000000000014000000000, .spclr (fieldsOf (sched 1 0 15) .i32 0 0 (.regs (src 0) (src 5) (src 0)))),
    (0x80001000F00000004000010000038000, .cpy (fieldsOf (sched 1 0 15) .i32 0 0 (.regs (src 2) (src 4) (src 7)))),
    (0x810010002000000280000080000B0000, .cpym (fieldsOf (sched 1 0 2) .i32 0 0 (.regs (src 20) (src 2) (src 22)))),
    (0x82061000F00000006000010000000000, .cpyg (fieldsOf (sched 1 0 15) .i32 6 0 (.regs (src 3) (src 4) (src 0)))),
    (0x83051000F0000000800000C000000000, .cscat (fieldsOf (sched 1 0 15) .i32 5 0 (.regs (src 4) (src 3) (src 0)))),
    (0x84001000F00003C00000000000000000, .cseal (fieldsOf (sched 1 0 15) .i32 0 30 (.regs (src 0) (src 0) (src 0)))),
    (0x85011000F00000000000000000000000, .cwait (fieldsOf (sched 1 0 15) .i32 1 0 (.regs (src 0) (src 0) (src 0)))),
    (0x88011000F00001008000008000000000, .rng (fieldsOf (sched 1 0 15) .i32 1 8 (.regs (src 4) (src 2) (src 0))))] ++
  [
    (0x8900F000F00003E0400006C0000E0000, .trnode (fieldsOf (sched 15 0 15) .i32 0 31 (.regs (src 2) (src 27) (src 28)))),
    (0x8A001000F00000014000000000000000, .pgspec (fieldsOf (sched 1 0 15) .i32 0 0 (.regs (src 10) (src 0) (src 0)))),
    (0x8B0040084C8000014000000000000000, .pgcmt (fieldsOf (guarded (sched 4 8 4) true 32 0) .i32 0 0 (.regs (src 10) (src 0) (src 0)))),
    (0x8C001000F000001FC000000000000000, .pgdrop (fieldsOf (sched 1 0 15) .i32 0 0 (.regs (src 254) (src 0) (src 0))))]
theorem decode_memory : ∀ p ∈ memoryWords, decodeWord 256 p.1 = .ok p.2 := by decide

/-- One word of every instruction of the family, from the layout of R37, R45 and R49. -/
def syncWords : List (IWord × Instr) :=
  [
    (0x9010400038C0066480000B8000178000, .atom (fieldsOf (guarded (sched 4 0 3) false 48 0) .n32 0 51 (.regs (src 36) (src 46) (src 47)))),
    (0x91231000F00001006000010000000000, .atoms (fieldsOf (sched 1 0 15) .i64 3 8 (.regs (src 3) (src 4) (src 0)))),
    (0x92301000F00001004000010000030000, .cas (fieldsOf (sched 1 0 15) .n64 0 8 (.regs (src 2) (src 4) (src 6)))),
    (0x93101000F00001206000010000028000, .cass (fieldsOf (sched 1 0 15) .n32 0 9 (.regs (src 3) (src 4) (src 5)))),
    (0x94951000F00000004000010000028000, .red (fieldsOf (sched 1 0 15) .f32 5 0 (.regs (src 2) (src 4) (src 5)))),
    (0x95041000400000000000000000000000, .fence (fieldsOf (sched 1 0 4) .i32 4 0 (.regs (src 0) (src 0) (src 0)))),
    (0x96001000F000000000004000000000FF, .bar (fieldsOf (sched 1 0 15) .i32 0 0 (.imm (src 0) 0xff))),
    (0x97001000F00001200000400000000001, .bara (fieldsOf (sched 1 0 15) .i32 0 9 (.imm (src 0) 0x1))),
    (0x98001000F00000012000400000000001, .barw (fieldsOf (sched 1 0 15) .i32 0 0 (.imm (src 9) 0x1))),
    (0x99021000F0000001200040000000000F, .nbar (fieldsOf (sched 1 0 15) .i32 2 0 (.imm (src 9) 0xf))),
    (0x9A301000F00000004000010000000000, .cwt (fieldsOf (sched 1 0 15) .n64 0 0 (.regs (src 2) (src 4) (src 0)))),
    (0x9B00100A300000046000400000000000, .bitset (fieldsOf (sched 1 10 3) .i32 0 0 (.imm (src 35) 0x0))),
    (0x9C004000200000062000400000000000, .bitwait (fieldsOf (sched 4 0 2) .i32 0 0 (.imm (src 49) 0x0))),
    (0x9D001000F00000000000400000000002, .gjoin (fieldsOf (sched 1 0 15) .i32 0 0 (.imm (src 0) 0x2))),
    (0x9E001000F00000000000400000000003, .gleave (fieldsOf (sched 1 0 15) .i32 0 0 (.imm (src 0) 0x3)))]
theorem decode_sync : ∀ p ∈ syncWords, decodeWord 256 p.1 = .ok p.2 := by decide

/-- One word of every instruction of the family, from the layout of R37, R45 and R49. -/
def matrixWords : List (IWord × Instr) :=
  [
    (0xA0011000F000000120004000000000FF, .mres (fieldsOf (sched 1 0 15) .i32 1 0 (.imm (src 9) 0xff))),
    (0xA1001000F00000000000400000000001, .mrel (fieldsOf (sched 1 0 15) .i32 0 0 (.imm (src 0) 0x1))),
    (0xA2011000F00000A12000400000001FFF, .mldb (fieldsOf (sched 1 0 15) .i32 1 5 (.imm (src 9) 0x1fff))),
    (0xA3001000F000000120004000000007FF, .mlda (fieldsOf (sched 1 0 15) .i32 0 0 (.imm (src 9) 0x7ff))),
    (0xA4011000100002800000400000050301, .mma (fieldsOf (sched 1 0 1) .i32 1 20 (.imm (src 0) 0x50301))),
    (0xA5001000F00000000000400000000200, .mspr (fieldsOf (sched 1 0 15) .i32 0 0 (.imm (src 0) 0x200))),
    (0xA6011000F0000060000040000000FFFF, .mzero (fieldsOf (sched 1 0 15) .i32 1 3 (.imm (src 0) 0xffff))),
    (0xA7A01000F00001006000400000000100, .mmov (fieldsOf (sched 1 0 15) .f64 0 8 (.imm (src 3) 0x100))),
    (0xA8901000F80C0100C000400000000100, .mput (fieldsOf (guarded (sched 1 0 15) false 3 0) .f32 0 8 (.imm (src 6) 0x100))),
    (0xA9011000F00001000000400000000002, .mstat (fieldsOf (sched 1 0 15) .i32 1 8 (.imm (src 0) 0x2)))]
theorem decode_matrix : ∀ p ∈ matrixWords, decodeWord 256 p.1 = .ok p.2 := by decide

/-- One word of every instruction of the family, from the layout of R37, R45 and R49. -/
def unitWords : List (IWord × Instr) :=
  [
    (0xB091100220000001200002C000050000, .qsbind (fieldsOf (sched 1 2 2) .f32 1 0 (.regs (src 9) (src 11) (src 10)))),
    (0xB1001004200000000000400080000000, .qsrank (fieldsOf (sched 1 4 2) .i32 0 0 (.imm (src 0) 0x80000000))),
    (0xB2001000F00000000000400000000010, .qsstep (fieldsOf (sched 1 0 15) .i32 0 0 (.imm (src 0) 0x10))),
    (0xB3001000F00000000000000000000000, .qsrun (fieldsOf (sched 1 0 15) .i32 0 0 (.regs (src 0) (src 0) (src 0)))),
    (0xB4011000F00000010000400000000009, .qsmask (fieldsOf (sched 1 0 15) .i32 1 0 (.imm (src 8) 0x9))),
    (0xB5001000F00001800000000000000000, .qsres (fieldsOf (sched 1 0 15) .i32 0 12 (.regs (src 0) (src 0) (src 0)))),
    (0xB6901000F00000604000000000000000, .keyf (fieldsOf (sched 1 0 15) .f32 0 3 (.regs (src 2) (src 0) (src 0)))),
    (0xB7A01000F00001818000000000000000, .keyr (fieldsOf (sched 1 0 15) .f64 0 12 (.regs (src 12) (src 0) (src 0)))),
    (0xB800100010000000C000400000000C01, .tsnd (fieldsOf (sched 1 0 1) .i32 0 0 (.imm (src 6) 0xc01))),
    (0xB9001000300002800000400000020A03, .trcv (fieldsOf (sched 1 0 3) .i32 0 20 (.imm (src 0) 0x20a03))),
    (0xBA001000F00000000000400000001400, .atc (fieldsOf (sched 1 0 15) .i32 0 0 (.imm (src 0) 0x1400))),
    (0xBB004000F00000016000000000000000, .drft (fieldsOf (sched 4 0 15) .i32 0 0 (.regs (src 11) (src 0) (src 0)))),
    (0xC0001000F00000000000000000000000, .tret (fieldsOf (sched 1 0 15) .i32 0 0 (.regs (src 0) (src 0) (src 0)))),
    (0xC1001000F00001410000000000000000, .pgmap (fieldsOf (sched 1 0 15) .i32 0 10 (.regs (src 8) (src 0) (src 0)))),
    (0xC2011000F00001410000000000000000, .pgunmap (fieldsOf (sched 1 0 15) .i32 1 10 (.regs (src 8) (src 0) (src 0)))),
    (0xC3001000F82C00000000000000000000, .eject (fieldsOf (guarded (sched 1 0 15) false 11 0) .i32 0 0 (.regs (src 0) (src 0) (src 0)))),
    (0xC4001000F00000804000000000000000, .scrub (fieldsOf (sched 1 0 15) .i32 0 4 (.regs (src 2) (src 0) (src 0)))),
    (0xC5021000F00000000000400000000004, .mext (fieldsOf (sched 1 0 15) .i32 2 0 (.imm (src 0) 0x4)))] ++
  [
    (0xC6001000F00000004000010000038000, .shab (fieldsOf (sched 1 0 15) .i32 0 0 (.regs (src 2) (src 4) (src 7)))),
    (0xC7021002200001404000020000060000, .edsign (fieldsOf (sched 1 2 2) .i32 2 10 (.regs (src 2) (src 8) (src 12)))),
    (0xC8031000300000A06000000000000000, .lockif (fieldsOf (sched 1 0 3) .i32 3 5 (.regs (src 3) (src 0) (src 0))))]
theorem decode_unit : ∀ p ∈ unitWords, decodeWord 256 p.1 = .ok p.2 := by decide


/-! ## The scanner refuses ill-formed words (R38 to R49, R56) -/

/-- A word with registers, and one with an immediate. -/
def regs3 (t : Ty) (v : BitVec 4) (d a b c : BitVec 8) : Fields := fieldsOf (sched 1 0 15) t v d (.regs (src a) (src b) (src c))
def imm1 (t : Ty) (v : BitVec 4) (d a : BitVec 8) (i : Word) : Fields := fieldsOf (sched 1 0 15) t v d (.imm (src a) i)
/-- The reasons of an instruction under a declared count of 64. -/
def why (i : Instr) : List Nat := match i.opFields with | some (op, f) => (match rowOf op f with | some r => r.reasons 64 f | none => [1]) | none => [1]

theorem test_wellformed : why (.iadd (regs3 .i32 0 6 8 10 0)) = [] ∧ (Instr.iadd (regs3 .i32 0 6 8 10 0)).wf 64 = true := by decide
theorem test_reason2 : why (.iadd (regs3 .f32 0 6 8 10 0)) = [2] ∧ why (.iadd (regs3 .i32 2 6 8 10 0)) = [2] ∧
    (Instr.iadd (regs3 .f32 0 6 8 10 0)).wf 64 = false := by decide
theorem test_reason3 : why (.iadd (fieldsOf (sched 1 0 12) .i32 0 6 (.regs (src 8) (src 10) (src 0)))) = [3] ∧
    why (.nop (fieldsOf (sched 1 0 0) .i32 0 0 (.regs (src 0) (src 0) (src 0)))) = [3] := by decide
theorem test_reason4 : why (.iadd (fieldsOf { sched 1 0 15 with preg := 1 } .i32 0 6 (.regs (src 8) (src 10) (src 0)))) = [4] ∧
    why (.iadd (fieldsOf (guarded (sched 1 0 15) false 64 0) .i32 0 6 (.regs (src 8) (src 10) (src 0)))) = [4] := by decide
theorem test_reason5 : why (.iadd (regs3 .i32 0 64 8 10 0)) = [5] ∧ why (.iadd (regs3 .i64 0 6 9 10 0)) = [5] ∧
    why (.call (regs3 .i32 0 8 0 0 0)) = [5] ∧ why (.movs (regs3 .i32 0 6 0x16 0 0)) = [5] ∧ why (.movs (regs3 .i32 0 6 0x0D 0 0)) = [5] := by decide
theorem test_reason6 : why (.iadd (fieldsOf (sched 1 0 15) .i32 0 6 (.regs { src 8 with k := 1 } (src 10) (src 0)))) = [6] ∧
    why (.iadd (fieldsOf (sched 1 0 15) .i32 0 6 (.regs { src 8 with pat := .m, k := 6 } (src 10) (src 0)))) = [6] ∧
    why (.iadd (fieldsOf (sched 1 0 15) .i32 0 6 (.regs { src 8 with pat := .sg, k := 6 } (src 10) (src 0)))) = [6] ∧
    why (.shfl (fieldsOf (sched 1 0 15) .i32 0 6 (.regs { src 8 with pat := .bc } (src 10) (src 0)))) = [6] := by decide
theorem test_reason7 : why (.iadd (fieldsOf (sched 1 0 15) .n32 0 6 (.regs { src 8 with neg := true } (src 10) (src 0)))) = [7] ∧
    why (.iadd (fieldsOf (sched 1 0 15) .i32 0 6 (.regs { src 8 with half := .lo } (src 10) (src 0)))) = [7] := by decide
theorem test_reason8 : why (.sel (imm1 .n32 0 6 8 0)) = [8] ∧ why (.prep (regs3 .i32 0 1 0 0 0)) = [8] := by decide
theorem test_reason9 : why (.iadd (regs3 .i32 0 6 8 10 1)) = [9] ∧ why (.nop (regs3 .i32 0 1 0 0 0)) = [9] ∧
    why (.trap (imm1 .i32 0 0 0 0x10000)) = [9] ∧ why (.qsstep (imm1 .i32 0 0 0 33)) = [9] ∧ why (.qsstep (imm1 .i32 0 0 0 32)) = [] ∧
    why (.nop (fieldsOf (guarded (sched 1 0 15) false 0 0) .i32 0 0 (.regs (src 0) (src 0) (src 0)))) = [9] := by decide
/-- R56: the bits that no instruction holds: a reserved OP, a pattern above 7, a half of 0b11, bits [45:32], SRCB.IMM; and R57's zero word. -/
theorem test_reserved_bits : decodeWord 64 0x0E001000F00000000000000000000000 = .error 1 ∧
    decodeWord 64 (0x10001000F00000A0A000000000000000 ||| 1#128 <<< 60) = .error 6 ∧
    decodeWord 64 (0x10001000F00000A0A000000000000000 ||| 3#128 <<< 48) = .error 7 ∧
    decodeWord 64 (0x10001000F00000A0A000400000000007 ||| 1#128 <<< 45) = .error 8 ∧
    decodeWord 64 (0x10001000F00000A0A000000000000000 ||| 1#128 <<< 23) = .error 8 ∧ decodeWord 64 0 = .error 3 := by decide

/-! ## Values of the spec's tables, in lane 0 -/

/-- One warp with lane 0 alone, its registers given, a word of which is to issue. -/
def lane (rs : List (Nat × Word)) : State :=
  { State.reset with issuing := some 3, pdks := [{ no := 1 }]
                     warps := [{ id := 3, pdk := 1, n := 64, live := 1, exm := 1, regs := rs.map fun r => (32 * r.1, r.2) }] }
/-- The word issues, and these values are on their way to v6 on. -/
def lands (i : Instr) (rs : List (Nat × Word)) (vs : List Word) : Bool :=
  match exec i (lane rs) with
  | .next t => decide ((t.warp 3).pend.map (·.writes) = [(List.range vs.length).map fun k => (32 * (6 + k), (vs[k]?).getD 0)])
  | _ => false

/-- R171. -/
theorem test_iabs : lands (.iabs (regs3 .i32 0 6 8 0 0)) [(8, 0x80000000)] [0x80000000] ∧
    lands (.iabs (regs3 .i32 1 6 8 0 0)) [(8, 0x80000000)] [0x7FFFFFFF] := by decide
theorem test_iadd : lands (.iadd (imm1 .n32 0 6 8 0x20)) [(8, 0xFFFFFFF0)] [0x10] ∧
    lands (.iadd (imm1 .n32 1 6 8 0x20)) [(8, 0xFFFFFFF0)] [0xFFFFFFFF] := by decide
theorem test_imulh : lands (.imulh (regs3 .i32 0 6 8 8 0)) [(8, 0xFFFFFFFF)] [0] ∧
    lands (.imulh (regs3 .n32 0 6 8 8 0)) [(8, 0xFFFFFFFF)] [0xFFFFFFFE] := by decide
theorem test_iaddc : lands (.iaddc (regs3 .n32 0 6 8 10 12)) [(8, 0xFFFFFFFF), (12, 1)] [0, 1] := by decide
theorem test_shl : lands (.shl (imm1 .n32 0 6 8 32)) [(8, 0xFFFFFFFF)] [0] := by decide
theorem test_sar : lands (.sar (imm1 .i32 0 6 8 40)) [(8, 0x80000000)] [0xFFFFFFFF] := by decide
theorem test_rotl : lands (.rotl (imm1 .n32 0 6 8 33)) [(8, 0x80000001)] [3] := by decide
theorem test_bfx : lands (.bfx (imm1 .i32 0 6 8 0x81E)) [(8, 0xC0000000)] [0xFFFFFFFF] ∧
    lands (.bfx (imm1 .n32 0 6 8 0x81E)) [(8, 0xC0000000)] [3] := by decide
theorem test_fnsb : lands (.fnsb (imm1 .n32 0 6 8 1)) [(8, 0xA4)] [5] ∧ lands (.fnsb (imm1 .n32 0 6 8 3)) [(8, 0xA4)] [0xFFFFFFFF] ∧
    lands (.fnsb (imm1 .n32 1 6 8 0)) [(8, 0xA4)] [7] := by decide
theorem test_clz : lands (.clz (regs3 .n32 0 6 8 0 0)) [] [32] := by decide
theorem test_bperm : lands (.bperm (regs3 .n32 0 6 8 10 12)) [(8, 0x44332211), (10, 0x88776655), (12, 0x8F70)] [0x8811] := by decide
/-- R156: LOGT 0xCA is c ? b : a. -/
theorem test_logt : lands (.logt (regs3 .bf16x2 10 6 8 10 12)) [(8, 0x00FF00FF), (10, 0x0F0F0F0F), (12, 0xFFFF0000)] [0x0F0F00FF] := by decide

/-- R370: the words of counter 0 and key 0. -/
theorem test_rng : lands (.rng (regs3 .i32 0 6 8 2 0)) [] [0x6627E8D5, 0xE169C58D, 0xBC57AC4C, 0x9B00DBD8] ∧
    lands (.rng (regs3 .i32 1 6 8 2 0)) [] [0x3ECC4FD0, 0x3F6169C5, 0x3F3C57AC, 0x3F1B00DB] := by decide
/-- R190. -/
theorem test_rcp : lands (.rcp (regs3 .f32 0 6 8 0 0)) [(8, 1)] [0x7F800000] ∧ lands (.rcp (regs3 .f32 0 6 8 0 0)) [(8, 0x00400000)] [0x7F000000] ∧
    lands (.rcp (regs3 .f32 0 6 8 0 0)) [(8, 0x7F000000)] [0x00400000] ∧ lands (.rcp (regs3 .f32 0 6 8 0 0)) [(8, 0x40400000)] [0x3EAAAAAB] := by decide
theorem test_rcp_special : lands (.rcp (regs3 .f32 0 6 8 0 0)) [(8, 0x80000000)] [0xFF800000] ∧
    lands (.rcp (regs3 .f32 0 6 8 0 0)) [(8, 0xFF800000)] [0x80000000] ∧ lands (.rcp (regs3 .f32 0 6 8 0 0)) [(8, 0x7F800001)] [0x7FC00001] := by decide
theorem test_rsq : lands (.rsq (regs3 .f32 0 6 8 0 0)) [(8, 0x40800000)] [0x3F000000] ∧
    lands (.rsq (regs3 .f32 0 6 8 0 0)) [(8, 0x40000000)] [0x3F3504F3] ∧ lands (.rsq (regs3 .f32 0 6 8 0 0)) [(8, 0xBF800000)] [0x7FC00000] := by decide
theorem test_ex2 : lands (.ex2 (regs3 .f32 0 6 8 0 0)) [(8, 0xC3150000)] [1] := by decide
theorem test_lg2 : lands (.lg2 (regs3 .f32 0 6 8 0 0)) [(8, 1)] [0xC3150000] := by decide
theorem test_fmin : lands (.fmin (regs3 .f32 0 6 8 10 0)) [(10, 0x80000000)] [0x80000000] ∧
    lands (.fmin (regs3 .f32 0 6 8 10 0)) [(8, 0x7F800001), (10, 0xFFC00002)] [0x7FC00001] := by decide
theorem test_fmax : lands (.fmax (regs3 .f32 0 6 8 10 0)) [(8, 0x7FC00000), (10, 0x3F800000)] [0x3F800000] ∧
    lands (.fmaxp (regs3 .f32 0 6 8 10 0)) [(8, 0x7FC00000), (10, 0x3F800000)] [0x7FC00000] := by decide
theorem test_fexp : lands (.fexp (regs3 .f32 0 6 8 0 0)) [(8, 1)] [0xFFFFFF6B] ∧ lands (.fexp (regs3 .f32 1 6 8 0 0)) [(8, 1)] [0x3F800000] := by decide
theorem test_fscale : lands (.fscale (imm1 .f32 0 6 8 0xFFFFFF6B)) [(8, 0x3FC00000)] [2] := by decide
theorem test_frnd : lands (.frnd (regs3 .f32 0 6 8 0 0)) [(8, 0xBF000000)] [0x80000000] ∧
    lands (.frnd (regs3 .f32 0 6 8 0 0)) [(8, 0x40200000)] [0x40000000] := by decide
theorem test_ffma : lands (.ffma (regs3 .f32 0 6 8 10 12)) [(10, 0x7F800000), (12, 0x7FC01234)] [0x7FC01234] := by decide
/-- The scaled q4 dot product of chapter 9: 27.5, and with a NaN scale. -/
theorem test_dotf4 : lands (.dotf4 (regs3 .q4x8 0 6 8 10 12)) [(6, 0x3F800000), (8, 0x35087942), (10, 0x22222222), (12, 0x3400807F)] [0x41DC0000] ∧
    lands (.dotf4 (regs3 .q4x8 0 6 8 10 12)) [(6, 0x3F800000), (8, 0x35087942), (10, 0x22222222), (12, 0x3400FF7F)] [0x7FC00000] := by decide
/-- R190: FDIV keeps its result with the operation. -/
def quotient (i : Instr) (rs : List (Nat × Word)) : List Nat :=
  match exec i (lane rs) with | .next t => t.ops.flatMap fun x => x.accs.map (·.old.toNat) | _ => []
theorem test_fdiv : quotient (.fdiv (regs3 .f32 0 6 8 10 0)) [(8, 0x3F800000)] = [0x7F800000] ∧
    quotient (.fdiv (regs3 .f32 0 6 8 10 0)) [] = [0x7FC00000] := by decide
theorem test_fsqrt : quotient (.fsqrt (regs3 .f32 0 6 8 0 0)) [(8, 0x80000000)] = [0x80000000] := by decide

/-! ## Lanes of several owners -/

/-- The mixed warp of chapter 11: six lanes, four owners, the grants (0x11, 0x22) and (0x22, 0x33). -/
def mixed : State :=
  { State.reset with issuing := some 3, pdks := [{ no := 1 }]
                     warps := [{ id := 3, pdk := 1, n := 64, live := 0x3F, plive := 0x3F, exm := 0x3F, pexm := 0x3F
                                 asid := [(0, 0x11), (1, 0x11), (2, 0x22), (3, 0x33), (4, 0x33), (5, 0x44)]
                                 share := [(0, 4), (1, 4), (2, 0x1B), (3, 4), (4, 4)]
                                 regs := [(128, 10), (129, 20), (130, 30), (131, 40), (132, 50), (133, 60), (160, 1), (162, 1), (163, 1), (165, 1)] }] }
/-- What the word puts into v6, lane by lane. -/
def v6 (i : Instr) (s : State) : List Nat :=
  match exec i s with | .next t => (t.warp 3).pend.flatMap fun l => l.writes.map (·.2.toNat) | _ => []
theorem test_redi : v6 (.redi (regs3 .i32 0 6 4 0 0)) mixed = [60, 60, 150, 120, 120, 60] := by decide
theorem test_shfl : v6 (.shfl (imm1 .i32 0 6 4 3)) mixed = [10, 20, 40, 40, 40, 60] := by decide
theorem test_ballot : v6 (.ballot (imm1 .i32 0 6 5 0)) mixed = [5, 5, 0xD, 0xC, 0xC, 0x20] := by decide
theorem test_scan : v6 (.scan (regs3 .i32 0 6 4 0 0)) mixed = [10, 30, 60, 70, 120, 60] := by decide
theorem test_bcast : v6 (.bcast (regs3 .i32 1 6 4 0 0)) mixed = [10, 10, 10, 30, 30, 60] := by decide
/-- R221: the arg-max with ties of chapter 11. -/
def four (a : Word) : State :=
  { State.reset with issuing := some 3, pdks := [{ no := 1 }]
                     warps := [{ id := 3, pdk := 1, n := 64, live := 1 , exm := 1 }, { id := 4 }] }.updWarp 3 fun w => { w with
    live := 0xF, plive := 0xF, exm := 0xF, pexm := 0xF
    regs := [(64, a), (65, 0x40E00000), (66, 0x40E00000), (67, 0x80000000), (96, 128), (97, 130), (98, 129), (99, 131)].filter (·.2 != 0) }
theorem test_redm : (v6 (.redm (regs3 .f32 5 6 2 3 0)) (four 0x40000000)).take 2 = [0x40E00000, 129] ∧
    (v6 (.redm (regs3 .f32 4 6 2 3 0)) (four 0)).take 2 = [0x80000000, 131] := by decide
/-! ## Hypotheses of the statements about words, met by concrete states -/

/-- A warp with every lane active. -/
def warp : Warp := { id := 3, pdk := 1, n := 64, live := 0xFFFFFFFF, plive := 0xFFFFFFFF, exm := 0xFFFFFFFF, pexm := 0xFFFFFFFF }
/-- The state in which that warp, changed, has been chosen. -/
def at_ (f : Warp → Warp := id) (g : State → State := id) : State :=
  g { State.reset with issuing := some 3, warps := [f warp], pdks := [{ no := 1 }] }
/-- Words of type i32 with the immediate, with registers, and one under a predicate that no lane meets. -/
def im (v : BitVec 4) (i : Word) : Fields := imm1 .i32 v 6 8 i
def rg (v : BitVec 4) : Fields := regs3 .i32 v 6 8 10 12
def off (f : Fields) : Fields := { f with sched := guarded f.sched false 20 0 }
/-- The predicate bit of register 20 set in every lane. -/
def all20 (w : Warp) : Warp := { w with regs := (List.range 32).map fun i => (640 + i, 1) }

/-- Chosen alone: IntegerElements, IntegerWide, FindSetBit, the plain clauses of Moves, Exchanges and VotesAndReductions, NOP, PREP, HOLD,
ICINV, SLEEP, TFREE, CSEAL, TRNODE, RNG. -/
theorem wit_chosen : Chosen (at_) 3 ∧ (at_).hasWarp 3 = true := by decide
/-- A chosen warp and a well-formed word: the bit by bit statements. -/
theorem wit_bits : Chosen (at_) 3 ∧
    ([Instr.shl, .shr, .sar, .rotl, .rotr, .andOp, .orOp, .xorOp, .andn].all fun i => (i (regs3 .n64 0 6 8 10 0)).wf 256) = true ∧
    (Instr.logt (regs3 .q4x8 15 255 254 253 252)).wf 256 = true ∧ (Instr.bfx (regs3 .i64 0 6 8 10 0)).wf 256 = true ∧
    (Instr.bfi (regs3 .n64 0 6 8 10 12)).wf 256 = true ∧ (Instr.bperm (regs3 .n64 0 6 8 10 12)).wf 256 = true ∧
    (Instr.brev (regs3 .n64 0 6 8 0 0)).wf 256 = true ∧ (Instr.icmp (regs3 .i8x4 5 6 8 10 0)).wf 256 = true ∧
    (Instr.sel (regs3 .n64 0 6 8 10 12)).wf 256 = true := by decide
/-- Moves: the last register that MOVX may name, the last pair, a special register, a uniform and an empty MOVS `.put`. -/
theorem wit_moves : Chosen (at_) 3 ∧ (∀ i ∈ lanesOf ((at_).warp 3 |>.exec (im 0 55)), 8 + (((at_).warp 3).wordB (im 0 55) i).toNat < ((at_).warp 3).n) ∧
    (∀ i ∈ lanesOf ((at_).warp 3 |>.exec (im 0 54)), (8 + (((at_).warp 3).wordB (im 0 54) i).toNat) % 2 = 0 ∧
      8 + (((at_).warp 3).wordB (im 0 54) i).toNat + 1 < ((at_).warp 3).n) ∧
    (im 0 0).var = 0 ∧ ((at_).warp 3).det = false ∧
    (im 1 7).var ≠ 0 ∧ ((at_).warp 3).exec (im 1 7) ≠ 0 ∧ (∀ i ∈ lanesOf (((at_).warp 3).exec (im 1 7)), (if (im 1 7).isImm then (im 1 7).immVal else 0) = 7) ∧
    ((at_).warp 3).exec (off (im 1 7)) = 0 := by decide
/-- FloatElements, FloatTests: a warp outside timed mode, and a timed one whose slot's cycle is free. -/
theorem wit_float : Chosen (at_) 3 ∧ ¬(((at_).warp 3).timed = true ∧ (at_).f64Blocked ((at_).warp 3) = true) ∧
    Chosen (at_ fun w => { w with timed := true }) 3 ∧
    ¬(((at_ fun w => { w with timed := true }).warp 3).timed = true ∧
      (at_ fun w => { w with timed := true }).f64Blocked ((at_ fun w => { w with timed := true }).warp 3) = true) := by decide
/-- BCAST with one lane number, the other forms, REDM's four and two variants, SCAN of both kinds of type. -/
theorem wit_cross : Chosen (at_) 3 ∧ (im 0 31).var = 0 ∧ ((at_).warp 3).prev.exec (im 0 31) ≠ 0 ∧
    (∀ i ∈ lanesOf (((at_).warp 3).prev.exec (im 0 31)), (((at_).warp 3).prev.wordB (im 0 31) i).toNat = 31) ∧ (im 2 0).var ≠ 0 ∧
    (im 3 0).var.toNat < 4 ∧ 4 ≤ (im 4 0).var.toNat ∧ (im 4 0).ty.isFloat = false ∧ (imm1 .f32 4 6 8 0).ty.isFloat = true ∧
    (∀ j ∈ ((at_).warp 3).prev.supplySet 0, (fmtOf .f32).isNan (((at_).warp 3).prev.rawA (imm1 .f32 4 6 8 0) j) = false) := by decide
/-- PREPV without lanes and with one target in all of them; EXIT with and without a predicate. -/
theorem wit_straight : Chosen (at_) 3 ∧ ((at_).warp 3).exec (off (rg 0)) = 0 ∧ ((at_).warp 3).exec (rg 0) ≠ 0 ∧
    (∀ i ∈ lanesOf (((at_).warp 3).exec (rg 0)), ((at_).warp 3).src (rg 0).a i = 0 ∧ (((at_).warp 3).wordB (rg 0) i).truncate 16 = (0 : BitVec 16)) ∧
    (off (rg 0)).sched.pen = true ∧ (rg 0).sched.pen = false := by decide
/-- A branch-target register prepared, with a count, in b0. -/
def ready (n : BitVec 16) (w : Warp) : Warp :=
  { w with bregs := [{ valid := true, stale := false, target := 0x40, count := n, prep := 0 }], pbregs := [{ valid := true, stale := false, target := 0x40, count := n, prep := 0 }] }
/-- A word on b0, alone and under the predicate of register 20. -/
def onB0 : Fields := regs3 .i32 0 7 0 0 0
def onB1 : Fields := regs3 .i32 1 0 0 0 0
/-- Transfers: taken without a predicate, taken by the lanes of one, not taken; LOOP at its last count and before it. -/
theorem wit_transfers : Chosen (at_ (ready 2)) 3 ∧ onB0.sched.pen = false ∧ (((at_ (ready 2)).warp 3).bregP 0).valid = true ∧
    (((at_ (ready 2)).warp 3).bregP 0).stale = false ∧
    (let w := (at_ fun w => all20 (ready 1 w)).warp 3
     Chosen (at_ fun w => all20 (ready 1 w)) 3 ∧ (w.active ≠ 0 ∧ w.active &&& w.predMask (off onB0) = w.active) ∧ (w.bregP 0).valid = true ∧
       (w.bregP 0).stale = false ∧ w.active &&& w.predMask (off onB1) ≠ 0 ∧ (w.breg 0).count.toNat < 2) ∧
    ((at_).warp 3).active &&& ((at_).warp 3).predMask (off onB0) = 0 ∧ (off onB0).sched.pen = true ∧
    2 ≤ (((at_ (ready 2)).warp 3).breg 0).count.toNat := by decide
/-- Divergence: XFERS that no lane takes and that all do, on a stack with 15 entries; JOIN with a pending path and without. -/
theorem wit_divergence :
    (let s := at_ fun w => { ready 0 w with stack := List.replicate 15 {} }
     Chosen s 3 ∧ (s.warp 3).stack.length ≠ 16 ∧ (off onB0).sched.pen = true ∧ (s.warp 3).active &&& (s.warp 3).predMask (off onB0) = 0 ∧
       ¬(onB0.sched.pen = true ∧ (s.warp 3).active &&& (s.warp 3).predMask onB0 = 0) ∧ ((s.warp 3).bregP 0).valid = true ∧ ((s.warp 3).bregP 0).stale = false) ∧
    (let e : StackEntry := { saved := 3, pend := 1, joinoff := 0, resume := 0, phase := true }
     let s := at_ fun w => { w with stack := [e] }
     Chosen s 3 ∧ (s.warp 3).stack = e :: [] ∧ e.phase = true ∧ e.pend ≠ 0) ∧
    (let e : StackEntry := { saved := 3, pend := 0, joinoff := 0, resume := 0, phase := true }
     let s := at_ fun w => { w with stack := [e] }
     Chosen s 3 ∧ (s.warp 3).stack = e :: [] ∧ ¬(e.phase = true ∧ e.pend ≠ 0)) := by decide

/-! ### Memory words -/

/-- The first page of address space 0 in the core's TLB, and a window of two slots. -/
def page : TlbEntry := { pdk := 1, asid := 0, page := 0, size := 0, frame := 0, rd := true, wr := true, ends := 1000000 }
def paged (f : Warp → Warp := id) : State :=
  at_ (fun w => f { w with live := 1, exm := 1 }) fun s => { s with cores := [{ id := 0, tlb := [page], windows := [{ pdk := 1, base := 0, slots := 2 }] }] }
/-- A scratchpad pointer in lane 0's v8:v9. -/
def padded (f : Warp → Warp := id) : State := paged fun w => f { w with regs := [(288, 0x01FE0000)] }
/-- What `MemWord.Completes` asks for, as a check; a timed word's lanes all lie in the scratchpad. -/
def runs (m : MemWord) (s : State) (f : Fields) : Bool :=
  let w := s.warp 3
  let l := m.found s w f
  decide (Chosen s 3) && s.ops.all (·.id != s.nextId) && w.exec f != 0 && l.all (·.2.isNone) &&
    (!(w.lockOpen || m.timed w f) || l.all (·.1.stage != .walk)) &&
    (!m.timed w f || (w.lockOpen && (lanesOf (w.exec f)).all fun i => (s.seen w i (m.spot s w f i)).isNone)) && !w.det
theorem runs_meets (m : MemWord) (s : State) (f : Fields) (h : runs m s f = true) :
    Chosen s 3 ∧ FreshId s ∧ m.runs s (s.warp 3) f ∧ m.checked s (s.warp 3) f 3 s.det := by
  simp only [runs, Bool.and_eq_true, decide_eq_true_eq, List.all_eq_true, bne_iff_ne, Bool.not_eq_true', Bool.or_eq_true,
    Option.isNone_iff_eq_none] at h
  obtain ⟨⟨⟨⟨⟨⟨h1, h2⟩, h3⟩, h4⟩, h5⟩, h6⟩, h7⟩ := h
  refine ⟨h1, h2, ⟨h3, h4, fun h => ?_, fun h => ?_⟩, ?_⟩
  · rcases h5 with h5 | h5
    · rcases h with h | h <;> simp [h] at h5
    · exact h5
  · rcases h6 with h6 | h6
    · simp [h] at h6
    · exact ⟨h6.1, fun i hi pa hp => by simp [h6.2 i hi] at hp⟩
  · simp [MemWord.checked, h7]
/-- What `Checked` asks for, as a check. -/
def passes (s : State) (keys : List (Nat × DetKind)) : Bool :=
  match (if (s.warp 3).det then s.detCheck (s.warp 3) keys else some s) with
  | some t => decide (t = { s with det := t.det })
  | none => false
theorem passes_meets (s : State) (keys : List (Nat × DetKind)) (h : passes s keys = true) : ∃ d, Checked s (s.warp 3) keys d := by
  unfold passes at h
  split at h
  · rename_i t e
    exact ⟨t.det, e.trans (congrArg some (of_decide_eq_true h))⟩
  · cases h
/-- A warp in deterministic mode. -/
def determined (w : Warp) : Warp := { w with det := true }
/-- The last word of a page that needs no walk, a page that needs one, a scratchpad word, and a timed scratchpad word in a locked region. -/
theorem wit_load : runs (accessWord (.load false)) (paged) (im 0 0x3FFFC) ∧ runs (accessWord (.load false)) (paged) (im 0 0x40000) ∧
    runs (accessWord (.load false)) padded (im 0 0) ∧
    runs (accessWord (.load false)) (padded fun w => { w with timed := true, lockOpen := true }) (im 8 0xFFC) := by decide
theorem wit_store : runs (accessWord .store) (paged) (im 0 0x3FFFC) ∧ runs (accessWord .store) padded (im 0 0xFFC) ∧
    runs (accessWord .store) (padded fun w => { w with timed := true, lockOpen := true }) (im 8 0) := by decide
theorem wit_ldro : runs (accessWord (.load true)) (paged) (im 0 0) := by decide
theorem wit_pad_words : runs (padWord false) (paged) (im 0 0xFFC) ∧ runs (padWord true) (paged) (im 0 0) ∧
    runs (padAtomWord (fun _ => .cas) (fun _ => .cas) (fun _ _ _ => 0) fun _ _ _ => 0) (paged) (regs3 .n32 0 6 8 10 12) := by decide
theorem wit_atoms : runs (atomWord (fun _ => .cas) (fun w f i => w.src64 f.a i) (fun _ _ _ => 0) (fun _ _ _ => 0) true) (paged) (regs3 .n64 0 6 8 10 12) ∧
    runs cwtWord (paged) (regs3 .n32 0 6 8 10 12) := by decide
/-- Words without lanes. -/
theorem wit_idle : Chosen (at_) 3 ∧ ((at_).warp 3).exec (off (im 0 0)) = 0 ∧ ((at_).warp 3).timed = false ∧ (im 1 0).var.toNat < 2 ∧
    2 ≤ (im 5 0).var.toNat ∧ ((at_).warp 3).exec (im 5 0) ≠ 0 := by decide
/-- A member of group 2, with a bitmap of 8 bits at address 64. -/
def joined (f : Warp → Warp := id) : State :=
  { (paged fun w => f { w with members := [{ group := 2 }] }) with
    launches := [{ id := 0, pdk := 1 }]
    pdks := [{ no := 1, groups := [{ no := 2, mapaddr := 64, mapbits := 8, scope := 4, msw := true, members := [0] }] }] }
theorem wit_bits_words : runs (bitsWord true) (joined fun w => { w with regs := [(256, 7)] }) (im 0 2) ∧ runs (bitsWord false) joined (im 0 2) ∧
    ((joined.pdk 1).group 2).isSome = true ∧ joined.isMember (joined.warp 3) 2 = true ∧ (mapOf joined (joined.warp 3) (im 0 2)).mapaddr ≠ 0 := by decide
/-- What a lane's probe finds for PREF and TLOCK. -/
def probes (s : State) (f : Fields) : List (Acc × Option LaneFault) :=
  (lanesOf ((s.warp 3).exec f)).map fun i =>
    s.probe (s.warp 3) { lane := i, asid := (s.warp 3).asidOf i, addr := (s.warp 3).effAddr f i } true false false
      (s.spot (s.warp 3) i 1 1 true true ((s.warp 3).effAddr f i))
/-- PREF and TLOCK of a line in the TLB and of one that walks; room for sixteen locks. -/
theorem wit_prefetch : Chosen (paged) 3 ∧ FreshId (paged) ∧ (probes (paged) (im 1 64)).all (fun p => p.2.isNone && p.1.stage == .ready) = true ∧
    (probes (paged) (im 1 0x40000)).all (fun p => p.2.isNone && p.1.stage == .walk) = true ∧ ((paged).warp 3).lockOpen = false ∧
    (paged).probe ((paged).warp 3) {} true false false ((paged).spot ((paged).warp 3) 0 1 1 true true (((paged).warp 3).effAddr (im 0 0x3FFFF) 0)) =
      ({ stage := .ready, va := 0x3FFFF, pa := 0x3FFFF }, none) ∧
    ((paged).lockedIn ((paged).warp 3).core ((paged).warp 3).slot).length + (lanesOf (((paged).warp 3).exec (im 0 0x3FFFF))).length ≤ 16 ∧
    (∀ i ∈ lanesOf (((paged).warp 3).exec (im 0 0x3FFFF)), i = 0) ∧
    (paged).spot ((paged).warp 3) 0 1 1 true true (((paged).warp 3).effAddr (im 0 0x3FFFF) 0) = .glob 0x3FFFF ∧
    (paged).lookup 0 1 0 0x3FFFF true false = .hit 0x3FFFF false ∧ ((paged).warp 3).exec (im 0 0x3FFFF) ≠ 0 := by decide
/-- Tags: the last slot of a window; in deterministic mode the checks of SPTAG, of SPCLR of windows and of SPSET pass. -/
theorem wit_tags : Chosen (paged) 3 ∧ ((paged).warp 3).det = false ∧ (im 0 1).var = 0 ∧ (im 1 1).var ≠ 0 ∧
    (∀ i ∈ lanesOf (((paged).warp 3).exec (im 0 1)), ((paged).window? 0 ((paged).warp 3) (((paged).warp 3).asidOf i)).any
      (fun x => decide ((((paged).warp 3).wordB (im 0 1) i).toNat < x.slots)) = true) := by decide
theorem wit_tags_det : (let s := paged determined
    let w := s.warp 3
    let all (k : DetKind) := (((w.asids (w.exec (im 0 1))).filterMap (s.window? w.core w)).flatMap Window.list).map fun n => (tagKey w.core n, k)
    Chosen s 3 ∧ w.det = true ∧ (all .read).length = 2 ∧ passes s (all .read) ∧ passes s (all .write) ∧ passes s [(tagKey 0 1, .write)]) := by decide +kernel
/-- Copies: from the TLB's page into a window, within the page, and the two element forms; without and with a walk. -/
def copier (dst src len : Word) : State := paged fun w => { w with regs := [(256, dst), (288, if dst == 0 then 0x01FE0000 else 0), (320, src), (384, len)].filter (·.2 != 0) }
def copyOk (s : State) (f : Fields) (form : Nat) (lane : State → Warp → Nat → Range × Range × Nat × Nat × Bool) : Bool :=
  ((lanesOf ((s.warp 3).exec f)).map (s.copyProbe (s.warp 3) form (fun _ _ => {}) lane)).all fun q => q.2.1.isNone && (!(s.warp 3).lockOpen || !q.2.2)
theorem wit_copies : Chosen (copier 0 64 4096) 3 ∧ FreshId (copier 0 64 4096) ∧ ((copier 0 64 4096).warp 3).det = false ∧ ((copier 0 64 4096).warp 3).exec (rg 0) ≠ 0 ∧
    copyOk (copier 0 64 4096) (rg 0) 0 (fun s w i => (s.rangeOf w i 4096 true (w.src64 (rg 0).a i), s.rangeOf w i 4096 true (w.src64 (rg 0).b i), 4096, 4, true)) ∧
    copyOk (copier 4 0x40000 64) (rg 0) 0 (fun s w i => (s.rangeOf w i 64 true (w.src64 (rg 0).a i), s.rangeOf w i 64 true (w.src64 (rg 0).b i), 64, 4, true)) ∧
    copyOk (copier 4 64 64) (rg 0) 1 (fun s w i => (.pad 4 (padPtr 4), s.rangeOf w i 64 false (w.src64 (rg 0).b i), 64, 4, true)) ∧
    copyOk (copier 4 64 64) (rg 0) 2 (fun s w i => (s.rangeAt w i 4 4, s.rangeOf w i 4 false (w.src64 (rg 0).b i), 4, 4, true)) ∧
    copyOk (copier 4 64 64) (rg 0) 3 (fun s w i => (s.rangeOf w i 4 false (w.src64 (rg 0).a i), s.rangeAt w i 4 64, 4, 4, true)) := by decide
theorem wit_copies_det : (let s := (copier 0 64 4096).updWarp 3 determined
    let qs := (lanesOf ((s.warp 3).exec (rg 0))).map (s.copyProbe (s.warp 3) 0 (fun w i => { addr := w.src64 (rg 0).a i })
      fun s w i => (s.rangeOf w i 4096 true (w.src64 (rg 0).a i), s.rangeOf w i 4096 true (w.src64 (rg 0).b i), 4096, 4, true))
    let x := enters s 3 { opOf 3 (s.warp 3) (rg 0) (.copy 0) with write := true, accs := qs.map (·.1) }
    Chosen s 3 ∧ (s.warp 3).det = true ∧ (qs.all fun q => q.2.1.isNone) = true ∧ (x.accs.all fun a => a.stage != .walk && a.stage != .touch) = true ∧
      passes s (s.copyKeys x)) := by decide +kernel
/-- Page operations of a page in the TLB whose frame is speculative. -/
theorem wit_pages : (let s := { (paged) with pdks := [{ no := 1, spec := [(0, 5)] }] }
    Chosen s 3 ∧ (s.warp 3).timed = false ∧ (s.warp 3).exec (rg 0) ≠ 0 ∧ (s.warp 3).exec (off (rg 0)) = 0 ∧
    ([PageOp.spec, .cmt, .drop].all fun op => (lanesOf ((s.warp 3).exec (rg 0))).all fun i =>
      let q := (s.pageLane (s.warp 3) op { lane := i, asid := (s.warp 3).asidOf i, addr := (s.warp 3).src64 (rg 0).a i } false).1
      q.2.1.isNone && (!(s.warp 3).lockOpen || !q.2.2)) = true) := by decide
/-- A member of group 2, a warp that may join it, and a named barrier bound to it. -/
theorem wit_groups : Chosen joined 3 ∧ (joined.warp 3).exec (im 0 2) ≠ 0 ∧ joined.isMember (joined.warp 3) ((im 0 2).immVal.toNat % 256) = true ∧
    (∀ i ∈ lanesOf ((joined.warp 3).exec (im 0 2)), (joined.warp 3).src (im 0 2).a i = 0) ∧ (im 0 2).var ≠ 2 ∧ (im 2 2).var = 2 ∧
    ¬((joined.launchRec (joined.warp 3).launch).desc.det = true ∧ (joined.launchRec (joined.warp 3).launch).desc.phaseg = 2) ∧
    (joined.updWarp 3 fun w => { w with members := [] }).joinBad ((joined.updWarp 3 fun w => { w with members := [] }).warp 3) 2 = false ∧
    (let s := { joined with launches := [{ id := 0, pdk := 1, clusters := [{ nbs := [(1, 2, {})], warps := [] }] }] }
     Chosen s 3 ∧ s.boundGroup (s.warp 3) 1 = some 2 ∧ s.isMember (s.warp 3) 2 = true) := by decide
/-- Matrix words: a full warp that is a member of a group with matrix commands; an `.at` form in timed mode starts later. -/
def matrix (f : Warp → Warp := id) : State := at_ (fun w => f { w with members := [{ group := 2 }] }) fun s => { s with pdks := [{ no := 1, groups := [{ no := 2, msw := true }] }] }
theorem wit_matrix : Chosen (matrix) 3 ∧ ((matrix).warp 3).det = false ∧ ((matrix).warp 3).active = BitVec.allOnes 32 ∧
    ((matrix).warp 3).spans (BitVec.allOnes 32) = false ∧ ((matrix).warp 3).lockOpen = false ∧ (matrix).isMember ((matrix).warp 3) 2 = true ∧ (((((matrix).pdk 1).group 2).map (·.msw)).getD false) = true ∧
    (∀ l < 32, ((matrix).warp 3).src (im 1 2).a l = 0 ∧ ((matrix).warp 3).reg 6 l = 0) ∧ ((matrix).warp 3).timed = false ∧
    ((matrix).warp 3).exec (off (im 1 2)) = 0 ∧
    (let s := matrix determined; (s.warp 3).det = true ∧ s.resOwner (s.warp 3) 2 = none ∧ passes s (s.loadKeys (s.warp 3) 2 .mrel)) := by decide
theorem wit_matrix_timed : (let s := matrix fun w => { w with timed := true, regs := (List.range 32).map fun i => (192 + i, 1) }
    Chosen s 3 ∧ (∀ l < 32, (s.warp 3).reg 6 l = 1) ∧ (s.taskc (s.warp 3)).toNat < (((s.warp 3).reg 6 0).setWidth 64 : DWord).toNat ∧
      (s.warp 3).active = BitVec.allOnes 32 ∧ (s.warp 3).spans (BitVec.allOnes 32) = false ∧ s.isMember (s.warp 3) 2 = true) := by decide
/-- Selection: the holder of the unit, another warp, and a QSBIND of the last column that fits the window. -/
def selecting (f : Warp → Warp := id) : State := { (paged f) with cores := [{ id := 0, windows := [{ pdk := 1, base := 0, slots := 2 }], sel := { holder := some 3 } }] }
theorem wit_select : Chosen (selecting) 3 ∧ 0 ∈ lanesOf (((selecting).warp 3).exec (im 0 16)) ∧
    (∀ k ∈ lanesOf (((selecting).warp 3).exec (im 0 16)), k = 0) ∧ ((selecting).warp 3).timed = false ∧
    (((paged).warp 3).exec (im 0 16) ≠ 0 ∧ ((paged).core 0).sel.holder ≠ some ((paged).warp 3).id ∧ ((paged).warp 3).timed = false ∧
      ∀ k ∈ lanesOf (((paged).warp 3).exec (im 0 16)), k = 0) ∧ ((selecting).core 0).sel.holder = some ((selecting).warp 3).id ∧
    (let s := paged fun w => { w with regs := [(256, 4088), (320, 2)] }
     Chosen s 3 ∧ (rg 0).var.toNat < 2 ∧ (s.warp 3).det = false ∧ (s.core 0).sel.holder = none ∧ 1 ≤ ((s.warp 3).wordB (rg 0) 0).toNat ∧
       ((s.warp 3).wordB (rg 0) 0).toNat ≤ 2 ^ 20 ∧ ((s.warp 3).src (rg 0).a 0).toNat % 4 = 0 ∧
       (s.window? 0 (s.warp 3) 0).any (fun x => decide (((s.warp 3).src (rg 0).a 0).toNat + ((s.warp 3).wordB (rg 0) 0).toNat * elemBits .i32 / 8 = x.slots * 2048)) = true) ∧
    (let s := paged fun w => { w with regs := [(256, 4088), (320, 1), (384, 4092)] }
     Chosen s 3 ∧ (rg 1).var.toNat < 2 ∧ ((s.warp 3).src (rg 1).c 0).toNat % 4 = 0 ∧
       (s.window? 0 (s.warp 3) 0).any (fun x => decide (((s.warp 3).src (rg 1).c 0).toNat + 4 * ((s.warp 3).wordB (rg 1) 0).toNat = x.slots * 2048)) = true) := by decide
/-- A streamed QSBIND of a page in the TLB, one of no elements, one that no lane executes, and the checks in deterministic mode. -/
theorem wit_streams : (let s := paged fun w => determined { w with regs := [(256, 64), (320, 2)] }
    let w := s.warp 3
    let q := (s.selPages w { lane := 0, asid := w.asidOf 0, va := 64, len := 8 } false).1
    Chosen s 3 ∧ 2 ≤ (rg 2).var.toNat ∧ w.timed = false ∧ (s.core 0).sel.holder = none ∧ (w.wordB (rg 2) 0).toNat = 2 ∧ (w.src64 (rg 2).a 0).toNat = 64 ∧
      (match s.rangeOf w 0 8 false 64 with | .glob _ => true | _ => false) = true ∧ q.2.1 = none ∧ q.2.2 = false ∧ q.1.stage = .ready ∧
      passes s (s.streamKeys { accs := [q.1] }) ∧ passes s [(padKey 0 64, .read)]) ∧
    (((paged).warp 3).wordB (rg 2) 0).toNat = 0 ∧ ((paged).warp 3).exec (off (rg 0)) = 0 := by decide +kernel
/-- The rink: a timed warp, port 0 in rink mode, and a frame of channel 0 that crossed one link and is due. -/
def rinked (f : Warp → Warp := id) : State :=
  at_ (fun w => f { w with timed := true }) fun s =>
    { s with wall := 1, mgmt := mset s.mgmt 0x100 0x100, rink := { formed := true, rinkc := 640, frames := [{ port := 0, bits := frameHop 0 }] } }
theorem wit_rink : Chosen (rinked) 3 ∧ ((rinked).warp 3).timed = true ∧ (rinked).rinkPort 0 = true ∧ bitAt (rinked).rkctl (8 + 0) = true ∧ (rinked).rink.portFree 0 = true ∧
    ((rinked).rink.frames.find? fun x => x.port == 0 && x.relay.isNone && frameChan x.bits == 0 && frameHops x.bits == 1 &&
      frameStamp x.bits + Config.hop * 1 == (rinked).rink.rinkc.toNat && decide (x.seen < (rinked).wall)).isSome = true ∧
    ((rinked).taskc ((rinked).warp 3)).toNat < ((rinked).taskc ((rinked).warp 3)).toNat / 2 ^ 32 * 2 ^ 32 + (im 0 641).immVal.toNat ∧
    ((rinked).warp 3).exec (rg 0) ≠ 0 ∧ ((rinked).warp 3).exec (off (rg 0)) = 0 ∧ (∀ i ∈ lanesOf (((rinked).warp 3).exec (rg 0)), ((rinked).warp 3).src (rg 0).a i = 0) ∧
    ((at_).warp 3).timed = false := by decide +kernel
/-- A handler that serves warp 4, whose operation 7 waits for it; a plain warp, with and without a supervisor. -/
def handler (f : Warp → Warp := id) : State :=
  at_ (fun w => f { w with live := 1, exm := 1, kind := .handler, holds := some 4, handop := some 7 }) fun s =>
    { s with warps := s.warps ++ [{ id := 4, pdk := 1, heldBy := some 3 }], ops := [{ id := 7, wid := 4, accs := [{ stage := .touch }] }], nextId := 8 }
theorem wit_handler : Chosen (handler) 3 ∧ ((handler).warp 3).kind = .handler ∧ ((handler).warp 3).holds = some 4 ∧ (handler).hasWarp 4 = true ∧
    ((handler).warp 3).trapEnd = false ∧ lanesOf (((handler).warp 3).exec (rg 0)) = [0] ∧ ((handler).warp 3).exec (off (rg 0)) = 0 ∧ ((handler).warp 3).exec (im 0 1) ≠ 0 ∧
    (∀ x ∈ (handler).ops, ((handler).warp 3).handop = some x.id ∧ x.held = true) ∧
    ((at_).warp 3).kind ≠ .handler ∧ ((at_).warp 3).exec (im 0 1) ≠ 0 ∧ ((at_).pdk 1).reg 0x080 = 0 ∧ (off (im 0 1)).sched.pen = true ∧ (im 0 1).sched.pen = false ∧
    ((at_ all20).warp 3).exec (off (im 0 1)) ≠ 0 ∧ ((at_ id fun s => { s with pdks := [{ no := 1, regs := [(0x080, 0x1000)] }] }).pdk 1).reg 0x080 ≠ 0 := by decide
/-- A state without marks, poison and lines of another world: nothing of it fails for any paddock. -/
abbrev clean (s : State) : Prop := s.poison = [] ∧ s.marks = [] ∧ s.worlds = []
theorem clean_meets (s : State) (p : Nat) (h : clean s) : Clean s p :=
  ⟨h.1, fun pa => by simp [State.markOf, State.foreign, h.2.1, h.2.2, alist]⟩
/-- A page table whose level-4 entry for address 0 of address space 0 is `leaf`. -/
def table (leaf : Nat) : List Host.Cell :=
  [(0x1000, 0x2001), (0x2000, 3 * 2 ^ 62 + 0x3000), (0x3000, 3 * 2 ^ 62 + 0x4000), (0x4000, 3 * 2 ^ 62 + 0x5000), (0x5000, 3 * 2 ^ 62 + 0x6000),
    (0x6000, leaf)].foldl (fun m x => putBytes m x.1 (leBytes x.2 8)) []
def pages (leaf : Nat) (pool : List Nat) : State := at_ id fun s => { s with mem := table leaf, pdks := [{ no := 1, regs := [(0x008, 0x1000)], pool }] }
/-- A present page with RD and WR, in frame 9, and one in the first-touch state. -/
def present : Nat := 3 * 2 ^ 62 + 2 ^ 61 + 2 ^ 60 + 2 ^ 59 + 9 * 2 ^ 18
def touch : Nat := 2 ^ 62 + 2 ^ 61 + 2 ^ 60 + 2 ^ 59
theorem wit_pgmap : (pages present []).leafEntry 1 0 0 = some (0x6000, present) ∧ fld present 62 2 = 3 ∧ (pages touch []).leafEntry 1 0 0 = some (0x6000, touch) ∧
    fld touch 62 2 = 1 ∧ bitAt touch 58 = false ∧ (pages touch []).spareFrame 1 ((pages touch []).pdk 1).pool = none ∧
    (pages touch [9]).spareFrame 1 ((pages touch [9]).pdk 1).pool = some (9, 9, []) ∧
    (pages touch [9]).leafEntry 1 0 0 = some (0x6000, touch) ∧ (pages touch [9]).hasPdk 1 = true ∧ (pages touch [9]).devFrame 1 9 = some 9 ∧
    (∀ leaf pool, Clean (pages leaf pool) 1) := by
  refine ⟨by decide, by decide, by decide, by decide, by decide, by decide, by decide, by decide, by decide, by decide, fun _ _ => clean_meets _ 1 ⟨rfl, rfl, rfl⟩⟩
/-- The root world: paddock 1 may be scrubbed and locked, paddock 2 is unknown; a MEXT without memory and one with a line that walks. -/
def rooted (f : Warp → Warp := id) : State := at_ fun w => f { w with pdk := 0 }
theorem wit_root : Chosen (rooted) 3 ∧ ((rooted).warp 3).pdk = 0 ∧ ((rooted).warp 3).timed = false ∧ ((rooted).warp 3).exec (rg 0) ≠ 0 ∧
    (∀ i ∈ lanesOf (((rooted fun w => { w with regs := (List.range 32).map fun i => (256 + i, 1) }).warp 3).exec (rg 0)),
      (((rooted fun w => { w with regs := (List.range 32).map fun i => (256 + i, 1) }).warp 3).src (rg 0).a i).toNat = 1) ∧
    (rooted).hasPdk 1 = true ∧ (rooted).scrubRefused 1 = false ∧ (rooted).hasPdk 2 = false ∧ ((rooted).pdk 1).admits 0 = true ∧
    ((rooted).pdk 1).admits 1 = false ∧ ((rooted).pdk 1).admits 3 = true ∧ ((rooted).updPdk 1 fun q => q.setReg 0x0DC 2).scrubRefused 1 = true ∧
    (((rooted).updPdk 1 fun q => q.setReg 0x0DC 2).pdk 1).admits 2 = true ∧
    ([(im 2 4, 0), (im 0 1, 0), (regs3 .i32 0 0 8 10 12, 1), (regs3 .i32 2 6 8 10 12, 2)].all fun x =>
      (lanesOf (((rooted).warp 3).exec x.1)).all fun l =>
        let q := ((rooted).rootLane ((rooted).warp 3) { opOf 3 ((rooted).warp 3) x.1 (.root x.2) with nregs := 0 } x.2 { lane := l } false).1
        q.2.1.isNone && (!((rooted).warp 3).lockOpen || !q.2.2)) = true ∧
    ((rooted).warp 3).exec (off (rg 0)) = 0 := by decide
/-! ## Hypotheses of the statements about events -/

/-- Operation 7 of warp 3 in flight, in lane 0. -/
def flying (x : Op) (g : State → State := id) : State :=
  g { State.reset with warps := [warp], ops := [{ x with id := 7, wid := 3, mask := 1, before := warp }], pdks := [{ no := 1 }], nextId := 8 }
/-- The operation as it flies. -/
def seven (x : Op) : Op := { x with id := 7, wid := 3, mask := 1, before := warp }
theorem flies (x : Op) : Flies (flying x) (seven x) := ⟨rfl, rfl⟩

/-- A result due now, one due later, a frozen core; an operation whose flag is due. -/
theorem wit_results : (let l : Landing := { due := 0, writes := [(5, 1)], flag := some 2 }
      let s := at_ fun w => { w with pend := [l, { l with due := 9 }] };
      (∀ c, s.padsDue c = []) ∧ s.hasWarp 3 = true ∧ s.frozen (s.warp 3).core = false ∧ l.exm = none ∧ (s.warp 3).pend.filter (fun l => decide (l.due ≤ s.now (s.warp 3))) = [l]) ∧
    (let s := at_ (fun w => { w with pend := [{ due := 9 }] });
      (∀ c, s.padsDue c = []) ∧ ∀ l ∈ (s.warp 3).pend, s.now (s.warp 3) < l.due) ∧
    (let s := at_ id fun s => { s with wall := 5, cores := [{ id := 0, from_ := 4, until_ := 9 }] };
      (∀ c, s.padsDue c = []) ∧ s.hasWarp 3 = true ∧ s.frozen (s.warp 3).core = true) ∧
    (let s := flying { due := some 0 };
      s.op? 7 = some (seven { due := some 0 }) ∧ s.hasWarp 3 = true ∧ s.ops.filter s.flagDue = [seven { due := some 0 }]) ∧
    (at_).ops.filter (at_).flagDue = [] := by decide
/-- A free divide unit, a busy one, a waiting division and one whose cycle has come. -/
theorem wit_divide : FreshId (at_) ∧ (∀ x ∈ (at_).ops, x.id ≠ (at_).nextId + 1) ∧ ((at_).warp 3).exec (off (rg 0)) = 0 ∧ ((at_).warp 3).exec (rg 0) ≠ 0 ∧ (at_).divIdle 0 0 = true ∧ (at_).divWaiting 0 0 = [] ∧
    (let s := at_ id fun s => { s with cores := [{ id := 0, divFree := [(0, 5)] }] };
      Chosen s 3 ∧ (s.warp 3).timed = false ∧ s.divIdle 0 0 = false) ∧
    (let s := at_ (fun w => { w with timed := true }) fun s => { s with cores := [{ id := 0, divFree := [(0, 5)] }] };
      Chosen s 3 ∧ (s.warp 3).timed = true ∧ s.divIdle 0 0 = false) ∧
    (let x : Op := { kind := .divide false, accs := [{ stage := .ready }] };
      (flying x).divNext = some (seven x) ∧ (flying x).op? 7 = some (seven x)) ∧
    (let x : Op := { kind := .divide false, accs := [{ stage := .ready }], due := some 0 };
      (flying x).divDone = some (seven x)) := by decide
/-- A store lane at its port, a load lane whose value memory holds, and a die's frontier. -/
theorem wit_memory : (let a : Acc := { stage := .ready, pa := 64, data := 1 }
      let x := seven { kind := .store, bytes := 4, accs := [a] };
      let s := flying { kind := .store, bytes := 4, accs := [a] };
      s.op? 7 = some x ∧ x.due = none ∧ x.before.det = false ∧ s.frozen x.before.core = false ∧ stampOrder x 1 = [a.lane] ∧ x.acc? a.lane = some a ∧
        s.blocked x a = false ∧ rising 0 s.clocks = true) ∧
    (let a : Acc := { stage := .ready, pa := 64 };
      let x := seven { kind := .load false, bytes := 4, nregs := 1, accs := [a] };
      let s := flying { kind := .load false, bytes := 4, nregs := 1, accs := [a] };
      s.frozen x.before.core = false ∧ lanesOf 1 = [a.lane] ∧ x.acc? a.lane = some a ∧ s.blocked x a = false ∧ s.markOf 1 a.pa = none ∧
        s.poisoned a.pa x.bytes = false ∧ ∀ k < x.bytes, s.outByte (dieOfCore x.before.core) (a.pa + k) = none) ∧ rising 0 (at_).frontier = true := by decide
/-- A walk that finds its page; a stamped store, the last word of a vector's, and an atomic that may be applied; a BITSET at its home. -/
theorem wit_homes : (let a : Acc := { stage := .walk, va := 64 }
      let x := seven { kind := .load false, bytes := 4, accs := [a] };
      let s := flying { kind := .load false, bytes := 4, accs := [a] } fun s => { s with mem := table present, pdks := [{ no := 1, regs := [(0x008, 0x1000)] }] };
      s.frozen 0 = false ∧ x.acc? 0 = some a ∧ clean s ∧ x.accs.filter (fun a => a.stage == .walk && (1 : Lanes).getLsbD a.lane) = [a] ∧
        (s.search 0 1 0 64 x.kind.needs.1 x.kind.needs.2).1 = .hit (9 * 2 ^ 18 + 64) false) ∧
    ([(({ kind := .store, bytes := 4 } : Op), 4, 0), ({ kind := .store, bytes := 8, var := 3 }, 4, 4), ({ kind := .atomic .add true, bytes := 4 }, 4, 0)].all fun o =>
      let a : Acc := { stage := .stamped, pa := 64, put := o.2.2 };
      let x := seven { o.1 with accs := [a] };
      let s := flying { o.1 with accs := [a] };
      x.acc? 0 == some a && Nat.min x.piece (x.bytes - a.put) == o.2.1 && !s.frozen 0 && !s.execDev 1 (64 + a.put) && s.markOf 1 (64 + a.put) == none &&
        !s.poisoned (64 + a.put) o.2.1 && s.applicable 0 a.stamp && s.firstAt (64 + a.put) o.2.1 s.wall 0 (mget a.stamp 0).toNat) = true ∧
    (let a : Acc := { stage := .ready, pa := 64 };
      let x := seven { kind := .bitset 2, bytes := 1, accs := [a] };
      let s := flying { kind := .bitset 2, bytes := 1, accs := [a] };
      x.acc? 0 = some a ∧ x.before.det = false ∧ s.quiet 0 = true ∧ s.blocked x a = false ∧ s.markOf 1 64 = none ∧ s.execDev 1 64 = false ∧
        s.poisoned 64 8 = false ∧ s.firstAt 64 8 s.wall 8 0 = true) := by decide +kernel
/-- A copy whose sources are read, a word that goes to memory and one that goes to the scratchpad; a CWAIT that is due. -/
theorem wit_copy_events : (let a : Acc := { stage := .ready, va := 64, len := 4, srcs := [(0, 1)], dpages := [(0, 0, false)] }
      let x := seven { kind := .copy 0, accs := [a] };
      let s := flying { kind := .copy 0, accs := [a] };
      copyRuns x = true ∧ s.frozen 0 = false ∧ clean s ∧ s.execDev 1 64 = false ∧ s.homeFree 0 64 4 = true ∧ pageAddr a.dpages 64 = (64, false) ∧ x.applied = false ∧ (∀ a ∈ x.accs, a.stage ≠ .walk ∧ a.stage ≠ .touch) ∧ x.acc? 0 = some a ∧
        s.quiet 0 = true ∧ a.words.filter (fun o => decide (0 ≤ o) && decide (o < 0 + 4)) = [0] ∧ (x.before.core, 0) ∉ a.moved ∧
        a.srcs.find? (·.1 == 0) = some (0, 1) ∧ (1 : BitVec 33).getLsbD 32 = false) ∧
    (let a : Acc := { stage := .ready, pad := true, len := 4, srcs := [(0, 1)] };
      let x := seven { kind := .copy 0, accs := [a] };
      copyRuns x = true ∧ x.acc? 0 = some a ∧ a.pad = true ∧ a.words.filter (fun o => decide (0 ≤ o) && decide (o < 0 + 4)) = [0]) ∧
    (let a : Acc := { stage := .ready };
      let s := flying { kind := .cwait false, accs := [a] } fun s => { s with wall := 1 };
      s.ops.filter s.cwaitDue = [seven { kind := .cwait false, accs := [a] }]) := by decide
/-- Group 2 of paddock 1 whose barrier word lies at 128 in a present page, and an arrival that may be applied. -/
def arriving (x : Op) (g : State → State := id) : State :=
  flying x fun s => g { s with
    mem := table present, launches := [{ id := 0, pdk := 1 }]
    warps := [{ warp with members := [{ group := 2 }] }]
    pdks := [{ no := 1, regs := [(0x008, 0x1000)], groups := [{ no := 2, baraddr := 128, bar := { count := 2 } }] }] }
/-- Arrivals, a join, a leave; a phase that has passed; a CWT whose word holds. -/
theorem wit_waits : ([OpKind.arrive false 2 false, .arrive false 2 true, .join 2, .leave 2].all fun k =>
      (arriving { kind := k }).arriveReady (seven { kind := k }) && (arriving { kind := k }).hasWarp 3 && (arriving { kind := k }).ops.all (fun y => !y.kind.waits)) = true ∧
    ((arriving {}).pdk 1).group 2 = some { no := 2, baraddr := 128, bar := { count := 2 } } ∧ (arriving {}).vaddrRW 1 0 128 = some (9 * 2 ^ 18 + 128) ∧
    (arriving { kind := .await false 2 0xFFFFFFFF }).awaitDone (seven { kind := .await false 2 0xFFFFFFFF }) = true ∧
    (let a : Acc := { stage := .ready, pa := 64 };
     let s := flying { kind := .cwt, bytes := 4, accs := [a] };
      s.ops.filter (·.kind.waits) = [seven { kind := .cwt, bytes := 4, accs := [a] }] ∧ s.frozen 0 = false ∧ s.blocked (seven { kind := .cwt, bytes := 4, accs := [a] }) a = false ∧
        s.waitHolds (seven { kind := .cwt, bytes := 4, accs := [a] }) a = true) := by decide
/-- The table with a second address space that has an empty level-4 entry for address 0. -/
def twoTables : List Host.Cell :=
  [(0x1008, 0x7001), (0x7000, 3 * 2 ^ 62 + 0x8000), (0x8000, 3 * 2 ^ 62 + 0x9000), (0x9000, 3 * 2 ^ 62 + 0xA000), (0xA000, 3 * 2 ^ 62 + 0xB000)].foldl
    (fun m (x : Nat × Nat) => putBytes m x.1 (leBytes x.2 8)) (table present)
/-- A page operation of a frame with a committed copy; a fork that cannot be and one that can. -/
theorem wit_page_events : (let x : Op := { kind := .page .cmt, accs := [{ stage := .ready, len := 9 }] };
     let s := flying x fun s => { s with pdks := [{ no := 1, spec := [(9, 12)] }] };
      s.op? 7 = some (seven x) ∧ s.frozen 0 = false ∧ s.quiet 0 = true ∧ (∀ y ∈ s.ops, y.wid = 3 → y.id < 7 → y.kind.fences = false) ∧
        (∃ a ∈ (seven x).accs, a.stage = .ready ∧ a.len = 9) ∧ (∀ a ∈ (seven x).accs, a.stage ≠ .walk ∧ a.stage ≠ .touch) ∧
        s.codeFrame 1 9 = false ∧ s.codeFrame 1 12 = false ∧ (s.pdk 1).committed 9 = some 12 ∧ s.devFrame 1 9 = some 9 ∧ s.devFrame 1 12 = some 12 ∧
        s.badLines 1 9 = [] ∧ s.badLines 1 12 = [] ∧ Memory.wf s.mem = true) ∧
    (at_).forkPage 1 0 1 0 = none ∧
    (let s := at_ id fun s => { s with mem := twoTables, pdks := [{ no := 1, regs := [(0x008, 0x1000)], pool := [20, 21], spec := [(9, 12)] }] };
      s.walk 1 0 0 = .leaf { pdk := 1, asid := 0, page := 0, size := 0, frame := 9 * 2 ^ 18, rd := true, wr := true } ∧ s.rootTable 1 1 = some 0x7000 ∧
        s.spareFrame 1 (s.pdk 1).pool = some (20, 20, [21]) ∧ s.spareFrame 1 [21] = some (21, 21, []) ∧ (s.pdk 1).committed 9 = some 12 ∧ s.walkEnd 1 0 0x7000 0 5 = .entry 0xB000 4 0 ∧
        bitAt ((s.pdk 1).reg 0x0B0).toNat 0 = false ∧ s.badLines 1 12 = [] ∧ s.redirect = [] ∧ (∀ k ∈ [20, 21, 12], k < Config.frames) ∧ Memory.wf s.mem = true) := by decide
/-- An access cycle that writes and one that reads; matrix and selection commands that start and end. -/
theorem wit_units : ([PadKind.write, .read].all fun kd =>
      let a : Acc := { stage := .ready, pad := true, pa := 4, data := 7 };
      let x : Op := { kind := .load false, bytes := 4, accs := [a] };
      let p : PadAccess := { wid := 3, kind := kd, bytes := 4, op := some 7, accs := [a], before := warp };
      let k : Core := { id := 0, padq := [p] };
      let s := flying x fun s => { s with cores := [k] };
      s.cores.filter s.padDue == [k] && s.core 0 == k && !k.sel.running && s.jobs == [] && k.padq.filter (fun p => decide (p.due ≤ s.ucyc k.id)) == [p] &&
        s.op? 7 == some (seven x) && !k.padBad a.pa p.bytes) = true ∧
    (let j : MatJob := { id := 7, wid := 3, pdk := 1, group := 2 };
     let s := flying { kind := .matrix 1 } fun s => { s with jobs := [j] };
      s.jobStartDue j = true ∧ (s.op? 7).isSome = true ∧ j.at? = none) ∧
    (let j : MatJob := { id := 7, wid := 3, pdk := 1, group := 2, started := some 0, report := 1, cmd := .mspr 0 0 };
     let s := flying { kind := .matrix 5 } fun s => { s with jobs := [j] };
      j.cmd.isStat = false ∧ s.jobEndDue j = true ∧ j.report ≠ 0 ∧ (s.statusCheck j).isSome = true) ∧
    (let j : MatJob := { id := 7, wid := 3, pdk := 1, group := 2, res := 5, started := some 0 };
     let s := flying { kind := .matrix 1 } fun s => { s with jobs := [j], cores := [{ id := 0, res := [{ id := 5, pdk := 1, group := 2, owner := 3 }] }] };
      j.cmd = .mrel ∧ s.jobEndDue j = true ∧ j.report = 0 ∧ s.heldRes j = some { id := 5, pdk := 1, group := 2, owner := 3 } ∧ s.op? 7 = some (seven { kind := .matrix 1 })) ∧
    (let j : MatJob := { id := 7, wid := 3, pdk := 1, group := 2, started := some 0, report := 1, finished := true };
     let s := arriving { kind := .matrix 1 } fun s => { s with jobs := [j] };
      s.jobs.find? (·.id == 7) = some j ∧ s.frozen 0 = false ∧ s.quiet 0 = true ∧ s.statusWord 1 2 = (192, 0) ∧
        s.vaddrRW 1 0 192 = some (9 * 2 ^ 18 + 192) ∧ s.execDev 1 (9 * 2 ^ 18 + 192) = false ∧
        s.homeFree (homeOf (9 * 2 ^ 18 + 192)) (9 * 2 ^ 18 + 192) 8 = true) ∧
    (let k : Core := { id := 0, sel := { holder := some 3, queue := [(.step 16, 7)] } };
     let s := flying { kind := .select } fun s => { s with cores := [k] };
      s.core 0 = k ∧ s.cores.filter s.selReturnDue = [] ∧ s.cores.filter s.selStartDue = [k] ∧ (seven { kind := .select }).accs = []) ∧
    (let k : Core := { id := 0, sel := { holder := some 3, queue := [(.res, 7)], running := true, state := 4 } };
     let s := flying { kind := .select } fun s => { s with cores := [k] };
      s.core 0 = k ∧ s.cores.filter s.streamDue = [] ∧ s.cores.filter s.selEndDue = [k] ∧ k.sel.released = false ∧ k.sel.state = 4 ∧
        (k.sel.effect .res []).released = true) ∧
    (let k : Core := { id := 0, sel := { holder := some 3, queue := [(.step 16, 7)], running := true, state := 1 } };
     let s := flying { kind := .select } fun s => { s with cores := [k] };
      s.core 0 = k ∧ s.cores.filter s.streamDue = [] ∧ s.cores.filter s.selEndDue = [k] ∧ (k.sel.effect (.step 16) []).released = false) := by decide
/-- A slot with an eligible warp: the NOP that `withFetchWord` puts in place, with no warp chosen yet. -/
def nopping : State := { State.reset.withFetchWord 128 0x00001000F00000000000000000000000 with issuing := none, wall := 1 }
theorem wit_slots : (match nopping.pick 0 0 with | .issue w => w.id == 1 | _ => false) = true ∧
    (at_ id fun s => { s with wall := 5, cores := [{ id := 0, from_ := 4, until_ := 9 }] }).frozen 0 = true ∧
    (let w : Warp := { warp with region := some {} };
     let s : State := { State.reset with warps := [w] };
      s.regionDone = some w ∧ s.warp 3 = w ∧ (∀ d ∈ s.deferred, d.wid ≠ 3) ∧ w.kind ≠ .handler) ∧
    (let w : Warp := { warp with region := some { opened := 0, last := 513 } };
     let s : State := { State.reset with warps := [w] };
      s.regionDone = some w ∧ s.warp 3 = w ∧ 512 < ({ opened := 0, last := 513 } : Region).last - 0) ∧
    (let w : Warp := { warp with region := some {} };
     let d : Deferred := { wid := 3, trap := some 0x10 };
     let s : State := { State.reset with warps := [w], deferred := [d] };
      s.warps.find? (holdDue s) = some w ∧ s.deferred.filter (·.wid == 3) = [d] ∧ d.trap = some 0x10) ∧
    (let w : Warp := { warp with live := 0 };
     let s : State := { State.reset with warps := [w] };
      (sortBy Warp.turn s.warps).find? s.mayRetire = some w ∧ s.warp 3 = w) := by decide +kernel
/-- A fault that waits and its handler's image; a failed handler, a replay, an unmap, a parked record. -/
theorem wit_handlers : (let x : Op := { accs := [{ stage := .touch, fault := some { code := 1, ft := true } }] };
     let s := flying x fun s => { s with pdks := [{ no := 1, regs := [(0x080, 0x1000)], images := [{ handle := 1, va := 0x1000, len := 64, n := 1 }] }] };
     let c : Case := { wid := 3, op := some (seven x), pc := 0, faults := [{ code := 1, ft := true }], found := 0, trapEnd := false };
      s.cases.head? = some c ∧ (∃ f ∈ c.faults, (s.warp 3).alive.getLsbD f.lane = true) ∧ (s.pdk 1).reg 0x080 ≠ 0 ∧ (s.pdk 1).handlerImage.isSome = true ∧
        ((s.warp 3).slot :: List.range 4).find? (fun k => s.slotHolds 0 k 1 1) = some 0) ∧
    (let h : Warp := { warp with kind := .handler, ended := true };
     let s : State := { State.reset with warps := [h] };
      s.failedHandler = some h) ∧
    (let x : Op := { accs := [{ stage := .touch }], replay := some 0 };
     let s := flying x;
      s.op? 7 = some (seven x) ∧ s.ops.filter s.replayDue = [seven x] ∧ (seven x).accs ≠ [] ∧ ∀ a ∈ (seven x).accs, a.stage = .touch ∧ (s.warp 3).alive.getLsbD a.lane = true) ∧
    (let j : Job := { id := 1, what := .unmap (some 7) [(0, 0)] [9] [] [] none };
     let q : Pdk := { no := 1, jobs := [j] };
     let s := flying {} fun s => { s with pdks := [q], wall := 100 };
      s.pdks = [q] ∧ s.unmapDue q = some j ∧ (seven {}).kind.waits = false) ∧
    (let r : Parked := { id := 1, room := some 0, pdk := 1, wid := 3 };
     let s := at_ id fun s => { s with parked := [r], pdks := [{ no := 1, rooms := [{}] }] };
      s.parked.find? s.parkReady = some r ∧ (s.pdk 1).rooms.find? (·.idx == 0) = some {}) := by decide
/-! ## Hypotheses of the statements about placement, commands, the rink and the host -/

/-- Launch 5 of paddock 1, its only cluster resident on core 1 with warp 3, which a request has stopped. -/
def stopped (g : State → State := id) : State :=
  at_ (fun w => { w with launch := 5, core := 1 }) fun s => g { s with
    launches := [{ id := 5, pdk := 1, lid := 9, clusters := [{ state := .resident, queued := false, cores := [1], slice := 0, preempt := some 1, room := some 0 }] }]
    pdks := [{ no := 1, regs := [(0x090, 0x1000), (0x098, 64)], rooms := [{ size := 1, launch := 5 }] }] }
/-- Launch 5 with one cluster, in a queue or saved, of a paddock that owns a slice and a context area of 64 Mi bytes. -/
def queued (c : Cluster) : State :=
  { State.reset with launches := [{ id := 5, pdk := 1, lid := 9, desc := { gridx := 1, gridy := 1 }, clusters := [c] }]
                     pdks := [{ no := 1, regs := [(0x098, 0x4000), (0x0C8, 2)] }] }
/-- The head of the queue is placed. -/
def placing (s : State) (ok : Launch → Cluster → Bool) : Bool := match s.placeHead 1 with | some (l, c, .done _) => ok l c | _ => false
theorem placing_meets (s : State) (ok : Launch → Cluster → Bool) (h : placing s ok = true) :
    ∃ l cl u, s.placeHead 1 = some (l, cl, .done u) ∧ ok l cl = true := by
  unfold placing at h
  split at h
  · exact ⟨_, _, _, ‹_›, h⟩
  · cases h
theorem wit_preemption : ((stopped).hasWarp 3 = true ∧ ((stopped).warp 3).region = none ∧ (stopped).isSealedWarp ((stopped).warp 3) = false) ∧
    (((stopped).byLid 1 9).any fun l => !l.desc.timed) = true ∧ (stopped).pdkRuns 1 = true ∧ (stopped).byLid 1 8 = none ∧
    ((stopped).sealDue.any fun x => x.1.id == 5 && x.2.2 == (0, 1)) = true ∧
    ((stopped fun s => { s with launches := s.launches.map fun l => { l with clusters := l.clusters.map fun c => { c with sealed := [{}] } } }).saveDue.any
      fun x => x.1.id == 5 && x.2.no == 0) = true ∧
    (({ (stopped) with wall := 2048, pdks := [{ no := 1, regs := [(0x0D8, 2)] }],
                       launches := [{ id := 5, pdk := 1, clusters := [{ state := .resident, queued := false }, { no := 1 }] }] } : State).expiredQuanta = [(5, 0)]) := by
  decide +kernel
theorem wit_place : placing (queued {}) (fun l c => l.desc.kind == 0 && !l.desc.timed && c.state == .waiting && c.warps.isEmpty) ∧
    placing (queued { state := .saved, room := some 4, cores := [20], sealed := [{}], warps := [{ warp with core := 20, launch := 5 }] }) (fun _ c =>
      c.state == .saved && c.room == some 4 && c.warps.all fun w => c.cores.contains w.core) := by
  decide +kernel
/-- Paddock 1, with a ring of 16 entries at 0x1000, a session and a rung doorbell, as changed. -/
def ringing (q : Pdk → Pdk := id) (g : State → State := id) : State :=
  g { State.reset with mgmt := [(0x000, 0x00080100), (0x004, 4), (0x008, 0x0AF0)]
                       pdks := [q { no := 1, regs := [(0x040, 0x1004), (0x050, 1), (0x0C8, 2), (0x0D0, 0x00200010), (0x0D8, 9)], ring := { session := some 7 } }] }
/-- A REKEY as entry 1 of that ring, under its tag. -/
def entryRest : Nat := 0x0F * 2 ^ 312 + 2 ^ 320
def entry : Nat := (Config.ringTag (Config.ringKey 7 0) 1 1 (BitVec.ofNat 384 entryRest)).toNat + entryRest * 2 ^ 128
theorem fields_of (t c : Nat) (h : t < 256 ^ 16) (hc : c < 256 ^ 48) : fld (t + c * 2 ^ 128) 0 128 = t ∧
    (∀ n k, fld (t + c * 2 ^ 128) (128 + n) k = fld c n k) ∧ t + c * 2 ^ 128 < 256 ^ 64 := by
  refine ⟨by simp only [fld]; omega, fun n k => ?_, ?_⟩
  · have h1 : (t + c * 2 ^ 128) / 2 ^ 128 = c := by omega
    simp only [fld, Nat.pow_add, ← Nat.div_div_eq_div_mul, h1]
  · calc t + c * 2 ^ 128 < (c + 1) * 256 ^ 16 := by omega
      _ ≤ 256 ^ 48 * 256 ^ 16 := Nat.mul_le_mul_right _ hc
      _ = 256 ^ 64 := (Nat.pow_add 256 48 16).symm
theorem entry_fields : fld entry 0 128 = (Config.ringTag (Config.ringKey 7 0) 1 1 (BitVec.ofNat 384 entryRest)).toNat ∧ fld entry 128 384 = entryRest ∧
    fld entry 448 64 = 1 ∧ fld entry 440 8 = 0x0F ∧ fld entry 384 56 = 0 ∧ entry < 256 ^ 64 := by
  obtain ⟨h0, h1, h2⟩ := fields_of _ entryRest (BitVec.isLt (Config.ringTag (Config.ringKey 7 0) 1 1 (BitVec.ofNat 384 entryRest))) (by decide +kernel)
  exact ⟨h0, (h1 0 384).trans (by decide +kernel), (h1 320 64).trans (by decide +kernel), (h1 312 8).trans (by decide +kernel),
    (h1 256 56).trans (by decide +kernel), h2⟩
theorem ofLe_leBytes : ∀ (n v : Nat), v < 256 ^ n → ofLe (leBytes v n) = v
  | 0, v, h => by simp only [Nat.pow_zero, Nat.lt_one_iff] at h; subst h; rfl
  | n + 1, v, h => by
    have := ofLe_leBytes n (v / 256) (by rw [Nat.pow_succ] at h; omega)
    simp only [leBytes, ofLe, this, BitVec.toNat_ofNat]
    omega
theorem length_leBytes : ∀ (n v : Nat), (leBytes v n).length = n
  | 0, _ => rfl
  | n + 1, v => by simp [leBytes, length_leBytes n]
theorem wit_ring_entry : (let s := (ringing).poke 0x1040 (leBytes entry 64)
     let e := s.rreg 1 0x058 + 1
     let g := s.ringOf 1
     s.entryDue 1 = true ∧ SoundRegs s ∧ clean s ∧ s.devRead 1 (s.ringBase 1 + 64 * (e % s.ringSize 1)) 64 = some entry ∧ fld entry 448 64 = e ∧
       (Config.ringTag (Config.ringKey (g.session.getD 0) g.rekeys) e 1 (BitVec.ofNat 384 (fld entry 128 384))).toNat = fld entry 0 128 ∧
       e < 2 ^ 64 - 3 ∧ knownOpc (fld entry 440 8) = true ∧ fld entry 384 56 = 0) := by
  obtain ⟨h0, h1, h2, h3, h4, h5⟩ := entry_fields
  have hp := State.peek_poke (ringing) 0x1040 (leBytes entry 64) rfl
  rw [length_leBytes] at hp
  refine ⟨rfl, ⟨rfl, fun q hq => ?_⟩, ⟨rfl, rfl, rfl⟩, ?_, h2, ?_, by decide, by rw [h3]; rfl, h4⟩
  · have : q ∈ (ringing).pdks := hq
    revert q
    decide
  · have hu : ((ringing).poke 0x1040 (leBytes entry 64)).unreadable 1 0x1040 64 = false := by decide +kernel
    have ha : ((ringing).poke 0x1040 (leBytes entry 64)).ringBase 1 + 64 * ((((ringing).poke 0x1040 (leBytes entry 64)).rreg 1 0x058 + 1) %
        ((ringing).poke 0x1040 (leBytes entry 64)).ringSize 1) = 0x1040 := by decide +kernel
    have hs : ((ringing).poke 0x1040 (leBytes entry 64)).s2 1 0x1040 = some 0x1040 := by decide +kernel
    show ((ringing).poke 0x1040 (leBytes entry 64)).devRead 1 (((ringing).poke 0x1040 (leBytes entry 64)).ringBase 1 +
      64 * ((((ringing).poke 0x1040 (leBytes entry 64)).rreg 1 0x058 + 1) % ((ringing).poke 0x1040 (leBytes entry 64)).ringSize 1)) 64 = some entry
    rw [ha, State.devRead, hs, Option.bind_some, hu, hp, ofLe_leBytes 64 entry h5]
    rfl
  · rw [h0, h1]
    rfl
theorem wit_rings : (served (ringing) {} 1 ∧ served (ringing) { fn := 1 } 1 ∧ SoundRegs (ringing) ∧ served (ringing) {} 0 ∧ (ringing).lockSoon = false ∧
      0x098 / 8 * 8 ∉ ((ringing).pdk 1).watch) ∧
    (let s := ringing fun q => { (q.setReg 0x0DC 2) with watch := watchOffsets };
      served s {} 1 ∧ s.lockSoon = false ∧ SoundRegs s ∧ 0x0DC / 8 * 8 ∈ (s.pdk 1).watch ∧ 0x040 / 8 * 8 ∈ (s.pdk 1).watch ∧ (s.pdk 1).ifstate ≠ 0 ∧ (s.pdk 1).halted = false) ∧
    (let c : Cmd := { seq := 1, opc := 1, started := true, report := some {} };
     let s := ringing fun q => { q with ring := { q.ring with cmds := [c] } };
     let u := s.reportAll 1;
      u.nextReport 1 = some (c, {}) ∧ u.recordRoom 1 c.seq = true ∧ SoundRegs u ∧ c.opc ≠ 0x0F) ∧
    ([(({ no := 1, crbase := 4, ack := 5 } : SavedHeader), true), ({ no := 1, ack := 1 }, true), ({ no := 1, crbase := 4, done := 16, ack := 20 }, false)].all fun h =>
      let s := ringing id fun s => { s with flash := [h.1] };
      s.flash.find? (·.no == 1) == some h.1 && s.hasPdk 1 && (s.ringOf 1).session.isSome && decide (SoundRegs s) && decide (h.1.done < h.1.ack) &&
        ofLe (getBytes s.hostmem (32 * ((h.1.done.toNat + 1) % 2 ^ fld h.1.crbase.toNat 0 5) + 24) 8) != h.1.done.toNat + 1 &&
        decide (h.1.ack.toNat ≤ s.rreg 1 0x070 + 2 ^ fld h.1.crbase.toNat 0 5) == h.2 &&
        decide (h.1.done.toNat + 1 ≤ s.rreg 1 0x070 + 2 ^ fld h.1.crbase.toNat 0 5) == h.2) = true := by decide +kernel
/-- The same ring with the command `opc` and payload `x` as the next to start. -/
def commanded (opc x : Nat) (q : Pdk → Pdk := id) (g : State → State := id) : State :=
  ringing (fun r => q { r with ring := { r.ring with cmds := [{ seq := 1, opc, payload := BitVec.ofNat 256 x }] } }) g
/-- It starts, its unused payload bits are zero, and more holds of the state in which it has started. -/
def starts (s : State) (p opc x : Nat) (fields : List (Nat × Nat)) (ok : State → Bool) : Bool :=
  s.toStart p 1 opc (BitVec.ofNat 256 x) && unusedZero (BitVec.ofNat 256 x) fields && ok (began s p 1)
/-- Paddock 1 as one of level 1 with two slices; its child 2. -/
def level1 (q : Pdk) : Pdk := { q with regs := [(0x040, 0x1004), (0x050, 1), (0x0C0, 4), (0x0C8, 6), (0x0D0, 0x00200010), (0x0D8, 9)] }
def child : Pdk := { no := 2, regs := [(0x0C0, 0x108), (0x0C8, 4)] }
def rootCmd (opc x : Nat) (g : State → State := id) : State :=
  ringing id fun s => g { s with root := { cmds := [{ seq := 1, opc, payload := BitVec.ofNat 256 x }] } }
/-- REKEY, PDCREATE, PDDESTROY and PDBUDGET of a child, HTEST and its end; a background pass. -/
theorem wit_paddocks :
    starts (commanded 0x0F 0 (fun q => { q with regs := [(0x060, 0), (0x070, 0)] })) 1 0x0F 0 [] (fun u => u.rekeyReady 1 1) ∧
    starts (commanded 0x10 (4 * 2 ^ 192 + 2 * 2 ^ 184 + 5 * 2 ^ 160 + 6 * 2 ^ 144 + 7 * 2 ^ 112) level1) 1 0x10
      (4 * 2 ^ 192 + 2 * 2 ^ 184 + 5 * 2 ^ 160 + 6 * 2 ^ 144 + 7 * 2 ^ 112) [(184, 72), (176, 2), (112, 64)] (fun u => u.createOk 1 2 4 5 6 7 false) ∧
    starts (commanded 0x11 (2 * 2 ^ 248) level1 fun s => { s with pdks := s.pdks ++ [child] }) 1 0x11 (2 * 2 ^ 248) [(248, 8)]
      (fun u => u.ownChild 1 2 && (u.children 2).isEmpty && !(u.pdk 2).scrubs && u.destroysOver.isEmpty && (u.ringOf 2).cmds.isEmpty) ∧
    starts (commanded 0x11 (2 * 2 ^ 248) level1 fun s => { s with pdks := s.pdks ++ [{ child with ring := { cmds := [{ seq := 1 }, { seq := 2 }] } }] }) 1 0x11
      (2 * 2 ^ 248) [(248, 8)] (fun u => u.ownChild 1 2 && (u.children 2).isEmpty && !(u.pdk 2).scrubs && u.destroysOver.isEmpty &&
        !((u.closePdk 2).ringOf 2).cmds.isEmpty) ∧
    starts (commanded 0x12 (2 * 2 ^ 248 + 5 * 2 ^ 160 + 6 * 2 ^ 144 + 7 * 2 ^ 112) level1 fun s => { s with pdks := s.pdks ++ [child] }) 1 0x12
      (2 * 2 ^ 248 + 5 * 2 ^ 160 + 6 * 2 ^ 144 + 7 * 2 ^ 112) [(248, 8), (112, 64)] (fun u => u.ownChild 1 2 && decide (SoundRegs u) && u.budgetOk 1 2 5 6 7) ∧
    starts (rootCmd 0x31 (2 ^ 248)) 0 0x31 (2 ^ 248) [(248, 8)] (fun u => u.hasPdk 1 && u.unlocked 1 && u.warps.isEmpty && !(u.pdk 1).scrubs) ∧
    (let c : Cmd := { seq := 1, opc := 0x31, payload := BitVec.ofNat 256 (2 ^ 248), started := true, left := [1] };
     let s := ringing id fun s => { s with root := { cmds := [c] } };
      SoundRegs s ∧ (s.tearing 0x31).find? (fun d => d.2.2 == 1 && (s.ringOf 1).cmds.isEmpty) = some (0, c, 1)) := by decide +kernel
theorem nextOldFrom_head (s : State) (p n l kept : Nat) (h : ¬ Config.frames * 4096 ≤ l) (ho : s.oldLine p l = true) :
    s.nextOldFrom p (n + 1) l kept = some (l, kept) := (if_neg h).trans (if_pos ho)
/-- A frame of slice 1's channels, wherever the layout puts it: its first line is the one that the pass comes to. -/
theorem wit_background : ∃ f, (let s := ringing fun q => { q with bgptr := some (4096 * f) }
    s.hasPdk 1 = true ∧ s.nextOld 1 = some (4096 * f, 0)) := by
  have hs : Config.sliceFrames + 768 < Config.frames := by
    have : Config.sliceFrames = 43776 := by norm_num [Config.sliceFrames]
    rw [Config.frames, this]
    norm_num
  obtain ⟨f, hf⟩ := Config.layout.surjective ⟨_, hs⟩
  have hp : Config.placeOf f.val = Config.sliceFrames + 768 := by simp [Config.placeOf, f.isLt, hf]
  have h1 : (Config.sliceOf f.val).val = 1 := by simp only [Config.sliceOf, hp]; decide
  have h2 : Config.inSram f.val = false := by simp only [Config.inSram, hp]; decide
  refine ⟨f.val, rfl, ?_⟩
  have h3 : 4096 * f.val / 4096 = f.val := by omega
  have h4 : ¬ Config.frames * 4096 ≤ 4096 * f.val := by have := f.isLt; omega
  have h5 : (ringing fun q => { q with bgptr := some (4096 * f.val) }).oldLine 1 (4096 * f.val) = true := by
    simp [State.oldLine, h3, h1, h2, ringing, State.pdk, Pdk.reg, State.reset, mget, alist, bitAt]
  have h6 : ((ringing fun q => { q with bgptr := some (4096 * f.val) }).pdk 1).bgptr = some (4096 * f.val) := rfl
  rw [State.nextOld, h6, Option.bind_some]
  exact nextOldFrom_head _ 1 _ _ 0 h4 h5
/-- YARDCREATE and TMPLSET of a ring whose paddock has no children act on it. -/
theorem wit_named (s : State) (p seq : Nat) (h : s.hasPdk p = true) (hc : s.children p = []) : s.named p seq = some p := by
  simp [State.named, h, hc, Nat.mod_one]
/-- A scrub that takes as many cycles as the model gives it. -/
theorem wit_scrub : (let q : Pdk := { no := 1, zeroing := true, scrubbing := some 7 };
     let x : Op := { kind := .scrub 1 };
     let s := flying x fun s => { s with pdks := [q], wall := Config.latency 7 };
      s.pdks = [q] ∧ s.stopScrubs q = false ∧ s.destroysOver = [] ∧ s.scrubOver q = true ∧ s.ops = [seven x] ∧ (seven x).kind = .scrub q.no ∧ s.hasWarp 3 = true) := by
  refine ⟨rfl, rfl, rfl, ?_, rfl, rfl, rfl⟩
  simp [State.scrubOver, flying]
/-- Address space 1 with the page of frame 9 at address 0, and bytes in it; an image of one word. -/
def held (leaf va v n : Nat) : List Host.Cell := putBytes (putBytes (table leaf) 0x1008 (leBytes 0x2001 8)) (9 * 2 ^ 18 + va) (leBytes v n)
def holding (opc x va v n : Nat) (q : Pdk → Pdk := id) (leaf : Nat := present) : State :=
  commanded opc x (fun r => q { r with regs := mset r.regs 0x008 0x1000, images := [{ handle := 1, va := 0x1000, len := 16, n := 1 }] })
    fun s => { s with mem := held leaf va v n }
/-- Descriptors: a grid of one warp, and a yard. -/
def gridDesc : Nat := (2 ^ 128 - 1) * 2 ^ 768 + 2 ^ 672 + 2 ^ 624 + 2 ^ 608
def yardDesc : Nat := (2 ^ 128 - 1) * 2 ^ 768 + 2 ^ 672 + 2 * 2 ^ 555
/-- A LAUNCH that passes and one that does not; YARDPOST, a yard that does not and one that does form; YARDCREATE, YARDDESTROY; a yard's time;
a timed start. -/
theorem wit_launches :
    (let x := 64 * 2 ^ 192 + 9 * 2 ^ 160 + 2 ^ 144;
      starts (holding 1 x 64 gridDesc 128) 1 1 x [(144, 112)] (fun u => u.hasPdk 1 && decide (clean u) && match u.checkLaunch 1 1 (BitVec.ofNat 256 x) with
        | .ok (gs, l) => gs.isEmpty && l.clusters.length == 1 | .error _ => false) ∧
      starts (holding 1 x 64 0 128) 1 1 x [(144, 112)] (fun u => u.hasPdk 1 && decide (clean u) && match u.checkLaunch 1 1 (BitVec.ofNat 256 x) with
        | .ok _ => false | .error r => r == 2)) ∧
    (let x := 7 * 2 ^ 192 + 2 ^ 176 + 3 * 2 ^ 168;
      starts (commanded 2 x (fun q => { q with yards := [{ no := 3 }] })) 1 2 x [(168, 88)] (fun u => fld x 176 16 != 0 &&
        (u.pdk 1).yard 3 == some { no := 3 } && u.privOk 1 1 0 &&
        !(let v := u.updYard 1 3 fun y => { y with pending := y.pending ++ [{ seq := 1, asid := 1, arg := 7, time := u.wall }] }; v.yardDue (v.pdk 1))) ∧
      starts (commanded 2 x (fun q => { q with yards := [{ no := 3, pending := List.replicate 31 {} }] })) 1 2 x [(168, 88)] (fun u =>
        (let v := u.updYard 1 3 fun y => { y with pending := y.pending ++ [{ seq := 1, asid := 1, arg := 7, time := u.wall }] }; v.yardDue (v.pdk 1)))) ∧
    (let x := 64 * 2 ^ 192 + 3 * 2 ^ 184 + 2 ^ 160;
      starts (holding 0x20 x 64 yardDesc 128) 1 0x20 x [(192, 64), (184, 8), (160, 16)] (fun u => u.hasPdk 1 && (u.children 1).isEmpty && decide (clean u) && (u.pdk 1).yard 3 == none &&
        (u.readDesc 1 1 64).any fun d => d.kind == 2 && d.argptr == 0 && d.gridx == 0 && d.gridy == 0 && d.c == 0 && d.w == 0 && d.glist == 0 && d.gcount == 0 &&
          !d.timed && d.nbbind.all (· == 0xFF) && u.descFault 1 d == none)) ∧
    starts (commanded 0x21 (3 * 2 ^ 248) fun q => { q with yards := [{ no := 3 }] }) 1 0x21 (3 * 2 ^ 248) [(248, 8)] (fun u => (u.pdk 1).yard 3 == some { no := 3 }) ∧
    (let q : Pdk := { no := 1, yards := [{ no := 3, pending := [{ seq := 1, asid := 1 }] }] };
     let s := { State.reset with pdks := [q], wall := 1600 };
      s.pdks.filter s.yardDue = [q] ∧ s.pdk q.no = q ∧ q.yards = [{ no := 3, pending := [{ seq := 1, asid := 1 }] }] ∧ q.isSealed = false) ∧
    (let l : Launch := { id := 5, pdk := 1, desc := { timed := true, tstart := 640 }, startAt := 640, clusters := [{ state := .resident }] };
     let s := rinked.updPdk 1 id |> fun s => { s with launches := [l] };
      s.launches.filter s.startDue = [l] ∧ l.startAt.toNat = s.rink.rinkc.toNat ∧ (∀ c ∈ l.clusters, c.state = .resident ∨ c.state = .retired) ∧ s.startsNow l = true ∧
        l.desc.tstart ∉ s.rink.aborted) := by
  decide +kernel
/-- A page of code in frame 9, read-only, at address 0 of address space 1. -/
def code : Nat := 3 * 2 ^ 62 + 2 ^ 61 + 2 ^ 60 + 9 * 2 ^ 18
/-- A paddock that has asked for the code of one word to be mapped, with its leases run out. -/
def mapping (n : Nat) : Pdk :=
  { no := 1, regs := [(0x008, 0x1000)], ring := { cmds := [{ seq := 1, opc := 0x28, started := true }] }, exframes := [9]
    jobs := [{ id := 2, what := .xmap 1 { handle := 1, asid := 1, len := 16, n := n, frames := [9] } }] }
/-- PRESUME, PREEMPT and CRESUME of launch 5; XMAP, its end on a good and on a bad word; XUNMAP; TMPLSET; SHGRANT. -/
theorem wit_context :
    (let r : Room := { idx := 4, off := 16, size := 2, kind := 3, park := some { before := { warp with launch := 5 } } };
      starts (commanded 0x24 (4 * 2 ^ 244) (fun q => { q with rooms := [r], regs := mset q.regs 0x090 0x9000 }) fun s =>
          ({ s with launches := [{ id := 5, pdk := 1 }] }.writeEntry 1 r).devWrite 1 0x19000 (leBytes (0x40 * 2 ^ 192 + 5 * 2 ^ 160) 32)) 1 0x24
        (4 * 2 ^ 244) [(244, 12)] (fun u => (u.room? 1 4 3).any fun x => (u.readRecord 1 x).any fun k =>
          k.1.lanes == 5 && k.1.pc == 0x40 && (u.launches ++ k.2).any (·.id == k.1.before.launch))) ∧
    (let x := 9 * 2 ^ 224 + 0xFFFFFFFF * 2 ^ 192;
      starts (commanded 0x25 x id fun s => { s with launches := [{ id := 5, pdk := 1, lid := 9, clusters := [{ state := .resident }] }] }) 1 0x25 x [(192, 64)]
        (fun u => (u.byLid 1 9).any fun l => !l.desc.timed && l.clusters.any (·.state == .resident))) ∧
    (let r : Room := { idx := 4, off := 16, size := 2, kind := 2, launch := 5 };
     let c : Cluster := { state := .saved, room := some 4, queued := false };
      starts (commanded 0x26 (4 * 2 ^ 244) (fun q => { q with rooms := [r], regs := mset q.regs 0x090 0x9000 }) fun s =>
          { ({ s with launches := [{ id := 5, pdk := 1, clusters := [c] }] }.writeEntry 1 r) with worlds := [] }) 1 0x26
        (4 * 2 ^ 244) [(244, 12), (128, 64)] (fun u => decide (clean u) && (u.room? 1 4 2).any fun x => (u.savedIn 1 x).any fun y =>
          y.1.id == 5 && !y.1.desc.timed && y.2.1 == c)) ∧
    (let x := 64 * 2 ^ 192 + 2 ^ 176;
      starts (holding 0x28 x 64 (16 * 2 ^ 416) 64 id code) 1 0x28 x [(176, 80)] (fun u => u.hasPdk 1 && decide (clean u) && (u.vgetBytes 1 1 64 64).any (fun bs =>
        parseMap (ofLe bs) == some (0, 16, 1, 0)) && u.codeFrames 1 1 0 16 == some [9])) ∧
    starts (commanded 0x29 (2 ^ 224) fun q => { q with images := [{ handle := 1 }] }) 1 0x29 (2 ^ 224) [(224, 32)] (fun u => (u.pdk 1).image 1 == some { handle := 1 }) ∧
    (let x := 64 * 2 ^ 192 + 31 * 2 ^ 187 + 2 ^ 160;
      starts (holding 0x22 x 64 (0x8000 + 0x8040 * 2 ^ 16) 128) 1 0x22 x [(192, 64), (187, 5), (160, 16)] (fun u => u.hasPdk 1 && (u.children 1).isEmpty && decide (clean u) && rising 0 (u.pdk 1).templates &&
        (u.vgetBytes 1 1 64 128).any fun bs => templateOk ((List.range 64).map fun j => ofLe ((bs.drop (2 * j)).take 2)))) ∧
    (let x := 6 * 2 ^ 248 + 2 ^ 232 + 2 * 2 ^ 216;
      starts (commanded 0x23 x) 1 0x23 x [(215, 41)] (fun u => u.hasPdk 1 && fld x 232 16 != fld x 216 16 && !bitAt x 215 && (u.pdk 1).grants.isEmpty)) ∧
    starts (rootCmd 0x30 0 fun s => { s with mgmt := mset s.mgmt 0x100 (2 ^ 40 + 0x101), ports := [{ no := 0, up := true, rink := true }] }) 0 0x30 0 []
      (fun u => bitAt u.rkctl 0 && u.diam != 0 && u.rinkPorts == [0] && rising 0 u.mgmt) ∧
    starts (rootCmd 0x30 0 fun s => { s with mgmt := mset s.mgmt 0x100 (2 ^ 40 + 1) }) 0 0x30 0 []
      (fun u => bitAt u.rkctl 0 && u.diam != 0 && u.rinkPorts.isEmpty && rising 0 u.mgmt && u.memberId == fld u.rkctl 32 8) := by decide +kernel
/-- A member that is forming, REFID itself, and another one. -/
theorem wit_start : (let s : State := { State.reset with mgmt := mset State.reset.mgmt 0x100 0x101, rink := { forming := true } };
      s.rink.forming = true ∧ s.memberId = fld s.rkctl 32 8 ∧ s.rinkPort 0 = true) ∧
    (let s : State := { State.reset with mgmt := mset State.reset.mgmt 0x100 (2 ^ 32 + 0x101), rink := { forming := true } };
      s.rink.forming = true ∧ s.memberId ≠ fld s.rkctl 32 8 ∧ s.rinkPort 0 = true) := by decide +kernel
theorem wit_scans :
    (let s (n v : Nat) : State := { State.reset with pdks := [mapping n], mem := held code 0 v 16 };
     let due (n v : Nat) : Bool := ((s n v).xmapDue (mapping n)).any fun j => match j.what with
       | .xmap seq im => seq == 1 && (({ (s n v) with pdks := [{ mapping n with jobs := (mapping n).jobs.filter (·.id != j.id) }] } : State).codeWords 1 im).any fun ws =>
           decide (clean (s n v)) && (scanImage ws im.n == none) == (v == 0x0C001000F00000000000000000000000)
       | _ => false;
      due 1 0x0C001000F00000000000000000000000 && due 1 0) = true := by decide +kernel
/-- A member of a formed rink at schedule cycle 640 with port 0 in rink mode and no timed warp. -/
def member (r : Rink → Rink := id) (g : State → State := id) : State :=
  g { State.reset with wall := 1, mgmt := mset State.reset.mgmt 0x100 0x100, rink := r { formed := true, rinkc := 640 } }
/-- Announcing, receiving and taking a skid, a cause with a timed warp, the end of a skid; a timing flit, in time and late; a refresh and a step. -/
theorem wit_clock : ((rinked).rink.formed = true ∧ (∃ w ∈ (rinked).warps, w.timed = true) ∧ (rinked).rink.lastPlanned = none ∧
      rising 0 (rinked).mgmt = true) ∧
    ((member).rink.formed = true ∧ (member).rinkPort 0 = true ∧ (2, 500, 1) ∉ (member).rink.done ∧ (member).rink.skids = [] ∧
      (member).rink.rinkc.toNat ≤ 500 + Config.hop * (member).hopsTo 2) ∧
    (let x : Skid := { origin := 2, stamp := 0, due := 640 }; (member fun r => { r with skids := [x] }).nextSkid = some x) ∧
    ((rinked).holdsTimed 0 = true ∧ (rinked).rink.skidEnds = none) ∧
    ((member fun r => { r with skidEnds := some 1 }).skidOver = true ∧ (member fun r => { r with skidEnds := some 1 }).rink.traps = []) ∧
    (let theirs (n : Nat) := n + (mget (member).rink.hop 0).toNat + Config.skid * 0;
      let ours := (member).rink.passed (member).wall;
      let more (n : Nat) := Config.skid * (member).standing n;
      (theirs 648 ≤ ours + 8 + more 648 ∧ ours ≤ theirs 648 + 8) ∧ ¬(theirs 649 ≤ ours + 8 + more 649 ∧ ours ≤ theirs 649 + 8) ∧ rising 0 (member).mgmt = true) ∧
    (member fun r => { r with rinkc := 512 }).refreshDue = true ∧ (member fun r => { r with drftk := 4096, drftx := 1 }).stepDue = true := by
  decide +kernel
/-- A frame for this member and one to relay; an expired one; faults, aborts, a lost link, stops. -/
theorem wit_frames : ((member).rink.taskOf (frameChan (frameHop 0)) = none ∧ (member).relayOf 0 (frameChan (frameHop 0)) = none ∧ (member).rink.frames = []) ∧
    (let x : Frame := { port := 1, relay := some 0 };
     let s := member fun r => { r with frames := [x] };
      s.rink.frames.find? s.relayDue = some x ∧ s.rink.portFree 0 = true) ∧
    (let x : Frame := {};
      (member fun r => { r with frames := [x] }).expired x = true ∧ (member fun r => { r with frames := [x], rinkc := 0 }).expired x = false) ∧
    rising 0 (member).mgmt = true ∧ (BitVec.ofNat 64 7 : DWord) ∉ (member).rink.aborted ∧
    (let s := member id fun s => { s with launches := [{ id := 5, pdk := 1, lid := 9, desc := { timed := true } }], pdks := [{ no := 1 }] };
      (s.byLid 1 9).any (fun l => l.desc.timed) = true ∧ s.rink.stops = []) ∧
    (let s := member (fun r => { r with stops := [(0, 9)] }) fun s => { s with warps := [{ warp with timed := true }] };
      ∃ w ∈ s.warps, s.taskStopped w = true) := by decide +kernel
/-- The responder: out of order, in order, a bad version; sessions open, half open and unknown; interfaces that admit a transition and not. -/
def answering (st : Nat) (x : Session) (q : Pdk := { no := 1 }) : State := { State.reset with spdm := { stage := st, sessions := [x] }, pdks := [q] }
theorem wit_responder : ((answering 0 {}).spdm.busy = none ∧ ({ (answering 0 {}) with spdm := { busy := some 1 } } : State).spdm.busy ≠ none ∧
      ¬1 ≤ (answering 0 {}).spdm.stage ∧ 3 ≤ (answering 3 {}).spdm.stage ∧ (1 : BitVec 8) ≠ spdmVersion ∧ (answering 3 {}).hasPdk 1 = true ∧
      (answering 3 {}).hasPdk 2 = false) ∧
    (∃ y ∈ (answering 3 { id := 6, iface := 1 }).spdm.sessions, y.id = 6 ∧ y.done = false) ∧
    (let x : Session := { id := 6, iface := 1, done := true };
      (answering 3 x).spdm.sessions.find? (·.id == 6) = some x ∧ (answering 3 x).open? 6 = some x ∧ (answering 3 x).open? 5 = none ∧
        ((answering 3 x).pdk 1).admits 0 = true ∧ ((answering 3 x).pdk 1).admits 1 = false ∧
        (((answering 3 x { no := 1, regs := [(0x0DC, 1)] }).pdk 1).admits 1 = true ∧ SoundRegs (answering 3 x { no := 1, regs := [(0x0DC, 1)] })) ∧
        ((answering 3 x { no := 1, regs := [(0x0DC, 2)] }).pdk 1).admits 2 = true) := by decide +kernel
/-- Host requests served and turned away; a page read; resets, power, boot, throttling. -/
theorem wit_host : (let s : State := { (ringing) with pdks := [] };
      s.hostAll {} true (linePieces 64 4) = .ok [(64, 0, 4)] ∧ s.markOf 0 64 = none ∧ s.poisoned 64 4 = false ∧ s.quiet 0 = true ∧ s.homeFree 0 64 4 = true ∧
        s.hostAll {} false (linePieces 64 4) = .ok [(64, 0, 4)] ∧ s.hostAll { fn := 2 } true (linePieces 64 4) = .error (some .unsupported) ∧
        s.hostAll { fn := 2 } false (linePieces 64 4) = .error (some .unsupported)) := by decide +kernel
theorem bar2_meets (s : State) (p a b : Nat) (h0 : p ≠ 0) (hp : s.hasPdk p = true) (hs : s.s2 p a = some b)
    (hi : inShare ((s.pdk p).reg 0x0C8).toNat b = true) : s.bar2 p a = some b := by
  simp [State.bar2, h0, hp, hs, hi]
/-- A host write of a paddock's memory while its scrub runs. -/
theorem wit_host_waits : (ringing fun q => { q with regs := [(0x0C8, BitVec.allOnes 64)], zeroing := true }).hostAll { fn := 1 } true (linePieces 64 4) = .error none := by
  have h : inShare (2 ^ 64 - 1) 64 = true := by
    unfold inShare
    have := (Config.sliceOf (64 / 2 ^ 18)).isLt
    generalize (Config.sliceOf (64 / 2 ^ 18)).val = k at this
    revert k
    decide
  have hb : (ringing fun q => { q with regs := [(0x0C8, BitVec.allOnes 64)], zeroing := true }).bar2 1 64 = some 64 :=
    bar2_meets _ 1 64 64 (by decide) (by decide) (by decide +kernel) h
  have hl : linePieces 64 4 = [(64, 4)] := by decide
  simp only [hl, State.hostAll, State.hostAt, hb]
  rfl
theorem wit_resets : (let s := ringing;
      s.booted = true ∧ (s.pdk 1).ifstate ≠ 3 ∧ (s.ringOf 1).header.1 = (s.ringOf 1).header.2 ∧ s.hasPdk 1 = true ∧ s.resetWaits 1 = false ∧ SoundRegs s ∧ s.powered = true ∧
        served s { fn := 1 } 1 ∧ ((ringing fun q => { q with scrubbing := some 1 }).resetWaits 1 = true) ∧ (∀ q ∈ s.pdksOn 0, q.no ≠ 0 ∧ s.resetWaits q.no = false) ∧ s.pdksOn 0 = s.pdks ∧ s.holdsTimed 0 = false) ∧
    (let s := { State.reset with powered := false }; s.powered = false ∧ s.booted = false ∧ rising 0 s.mgmt = true ∧
      4 ≤ (List.replicate 4 ([] : List (BitVec 8))).length) ∧
    (let s := { State.reset with mgmt := mset State.reset.mgmt 0x004 3 }; s.powered = true ∧ mget s.mgmt 0x004 = 3 ∧ rising 0 s.mgmt = true) := by decide +kernel
/-- Ethernet: a queue pair whose control may take its value and one whose port and VLAN are another's; a frame to send; one for no queue; ports. -/
def networked (c : List (Nat × DWord)) : State :=
  ringing (fun q => { q with regs := msetAll [(0x008, 0x1000), (0x0D0, 0x00200010), (0x208, 64)] c }) fun s =>
    { s with mem := putBytes (held present 64 1 8) (9 * 2 ^ 18 + 128) (leBytes (64 * 2 ^ 192 + 60 * 2 ^ 176) 32), ports := [{ no := 0, up := true }] }
theorem wit_ethernet : (let s := networked [];
      (served s {} 1 ∧ s.lockSoon = false ∧ SoundRegs s ∧ 0x200 ∉ (s.pdk 1).watch ∧ ∀ x ∈ s.nqAll, bitAt x.2.2 0 = false) ∧ s.ethPort 0 = true ∧ s.allQuiet = true ∧
        rising 0 s.mgmt = true ∧ s.nqFor 0 5 = none ∧ ∀ x ∈ s.ports, x.no = 1 → x.up = false) ∧
    (∃ x ∈ (networked [(0x220, 1)]).nqAll, (x.1 ≠ 1 ∨ x.2.1 ≠ 0) ∧ bitAt x.2.2 0 = true ∧ nqPort x.2.2 = nqPort 1 ∧ nqVlan x.2.2 = nqVlan 1) ∧
    (let s := networked [(0x200, 2 ^ 48 + 5 * 2 ^ 36 + 4 * 2 ^ 26 + 1)];
     let c := (s.pdk 1).nqctl 0;
     let s := s.notePause (nqPort c) (nqPrio c);
      s.ethDue 1 0 = true ∧ clean s ∧ (match s.nqRing 1 (nqAsid c) ((s.pdk 1).reg 0x208).toNat (nqSize c) with
        | .ok (_, _, _, d) => 60 ≤ fld d 176 16 && fld d 176 16 ≤ 9208 &&
            ((s.updPdk 1 fun r => { r with queues := [{ no := 0, served := s.wall }] }).vgetBytes 1 (nqAsid c) (fld d 192 64) (fld d 176 16)).isSome
        | .error _ => false) = true) := by decide +kernel
/-- A frame of VLAN 5 for a queue pair with a buffer posted, without one, with a ring that does not translate, and while a die may not store. -/
def steered (base : DWord) : State := networked [(0x200, 2 ^ 48 + 5 * 2 ^ 36 + 4 * 2 ^ 26 + 1), (0x210, base)]
theorem wit_delivery : (let c : Nat := 2 ^ 48 + 5 * 2 ^ 36 + 4 * 2 ^ 26 + 1
    [(64, 0), (4096, 1), (2 ^ 30, 2)].all fun (b : DWord × Nat) =>
      let s := steered b.1
      s.ethPort 0 && s.nqFor 0 5 == some (1, 0, c) && s.nqMay 1 0 c 64 && decide (clean s) && decide (SoundRegs s) &&
        match s.nqRing 1 (nqAsid c) ((s.pdk 1).reg 0x210).toNat (nqSize c) with
        | .ok (prod, cons, _, _) => b.2 == if cons < prod then 0 else 1
        | .error _ => b.2 == 2) = true ∧
    ({ (steered 64) with clocks := [(0, 1)] } : State).nqMay 1 0 (2 ^ 48 + 5 * 2 ^ 36 + 4 * 2 ^ 26 + 1) 64 = false := by decide +kernel
/-- Where words trap: a register not prepared and a stale one, an element beyond the count and one past a pair, a part of the warp, two address
spaces, mixed operands, a full and an empty stack, timed mode, no handler, no root world, no membership. -/
def halves (w : Warp) : Warp := { w with exm := 0xFFFF }
def apart (w : Warp) : Warp := { w with regs := (List.range 16).map fun i => (256 + i, 3) }
def stale (w : Warp) : Warp := { w with bregs := [{ valid := true, stale := true, target := 0x40, count := 2, prep := 0 }], pbregs := [{ valid := true, stale := true, target := 0x40, count := 2, prep := 0 }] }
theorem wit_traps : (((at_).warp 3).bregP 0).valid = false ∧ (let w := (at_ stale).warp 3; (w.bregP 0).valid = true ∧ (w.bregP 0).stale = true ∧ 2 ≤ (w.breg 0).count.toNat) ∧
    (∃ i ∈ lanesOf (((at_).warp 3).exec (im 0 56)), ((at_).warp 3).n ≤ 8 + (((at_).warp 3).wordB (im 0 56) i).toNat) ∧
    (∃ i ∈ lanesOf (((at_).warp 3).exec (im 0 1)), (8 + (((at_).warp 3).wordB (im 0 1) i).toNat) % 2 = 1) ∧
    ((at_ halves).warp 3).active ≠ BitVec.allOnes 32 ∧
    (let w := (at_ fun w => { w with asid := [(4, 7)] }).warp 3; w.active = BitVec.allOnes 32 ∧ w.spans (BitVec.allOnes 32) = true) ∧
    (let w := (at_ apart).warp 3; ∃ i ∈ lanesOf (w.exec (rg 0)), ∃ j ∈ lanesOf (w.exec (rg 0)), w.src (rg 0).a i ≠ w.src (rg 0).a j) ∧
    (let w := (at_ fun w => { w with regs := [(320, 3)] }).warp 3; ∃ i ∈ lanesOf (w.prev.exec (rg 0)), ∃ j ∈ lanesOf (w.prev.exec (rg 0)), w.prev.wordB (rg 0) i ≠ w.prev.wordB (rg 0) j) ∧
    (let w := (at_ fun w => { w with regs := [(640, 1)] }).warp 3; w.active &&& w.predMask (off onB0) ≠ 0 ∧ w.active &&& w.predMask (off onB0) ≠ w.active) ∧
    ((at_ fun w => { w with stack := List.replicate 16 {} }).warp 3).stack.length = 16 ∧ ((at_).warp 3).stack = [] ∧
    (8 ≤ (im 8 0).var.toNat ∧ ((at_ fun w => { w with timed := true }).warp 3).timed = true ∧ ((at_ fun w => { w with timed := true }).warp 3).lockOpen = false) ∧
    ¬(((at_).warp 3).kind = .handler ∧ ((at_).warp 3).holds.isSome = true) ∧ ((at_).warp 3).timed = false ∧ ((at_).warp 3).pdk ≠ 0 ∧
    ((rooted fun w => { w with timed := true }).warp 3).pdk = 0 ∧ ((rooted fun w => { w with timed := true }).warp 3).timed = true ∧
    (at_).isMember ((at_).warp 3) ((im 0 2).immVal.toNat % 256) = false ∧ ((at_).warp 3).exec (rg 0) ≠ 0 := by decide
/-- A warp outside a region and one inside; fault records are off. -/
theorem wit_taking : (at_).hasWarp 3 = true ∧ ((at_).warp 3).kind ≠ .handler ∧ ((at_).warp 3).region = none ∧ (0x10 : Nat) ≠ 0x19 ∧
    (∀ a ∈ ((at_).warp 3).asids (((at_).warp 3).alive ||| ((at_).warp 3).held), a = 0) ∧ bitAt (((at_).pdk 1).reg 0x010).toNat 0 = false ∧ (at_).ops = [] ∧
    ((at_ fun w => { w with region := some {} }).warp 3).region = some {} := by decide
/-- A step of each kind: a word placed by `withFetchWord`, one that the scanner would not admit, a pc that cannot be fetched, an event, a cycle. -/
theorem wit_steps : (let s := State.reset.withFetchWord 128 0x00001000F00000000000000000000000;
      s.agenda = [] ∧ (∃ wid, s.issuing = some wid ∧ ∃ a, s.fetchAt (s.warp wid) = some a ∧
        decodeWord (s.warp wid).n (wordOfBytes (s.peek a 16)) = .ok (.nop (fieldsOf (sched 1 0 15) .i32 0 0 (.regs (src 0) (src 0) (src 0)))))) ∧
    (let s := State.reset.withFetchWord 128 0x0E001000F00000000000000000000000;
      ∃ wid, s.issuing = some wid ∧ ∃ a, s.fetchAt (s.warp wid) = some a ∧ decodeWord (s.warp wid).n (wordOfBytes (s.peek a 16)) = .error 1) ∧
    ((at_).agenda = [] ∧ (at_).issuing = some 3 ∧ (at_).fetchAt ((at_).warp 3) = none) ∧
    (let s := { (at_) with issuing := none, warps := [{ warp with pend := [{ due := 0 }] }] };
      s.agenda = [] ∧ s.issuing = none ∧ s.dueEvent.isSome = true) ∧
    (State.reset.agenda = [] ∧ State.reset.issuing = none ∧ State.reset.dueEvent = none) ∧
    (Instr.nop (fieldsOf (sched 1 0 15) .i32 0 0 (.regs (src 0) (src 0) (src 0)))).opFields.isSome = true ∧
    (Instr.nop (fieldsOf (sched 1 0 15) .i32 0 0 (.regs (src 0) (src 0) (src 0)))).wf 1 = true := by
  refine ⟨⟨rfl, 1, rfl, 549756076032, by decide +kernel, by decide +kernel⟩, ⟨1, rfl, 549756076032, by decide +kernel, by decide +kernel⟩, by decide +kernel, by decide +kernel, by decide +kernel, by decide, by decide⟩
/-- What a step keeps holds at reset, and reset steps. -/
theorem wit_kept : MemoryCanonical State.reset ∧ MapsCanonical State.reset ∧ IdsBelow State.reset ∧ ∃ t, step State.reset = .next t := by
  refine ⟨⟨rfl, rfl⟩, ?_, ?_, _, rfl⟩
  · simp [MapsCanonical, SoundRegs, allWarps, State.reset, rising]
  · simp [IdsBelow, State.reset]

end Sys2Proof.Tests
end

