-- ==== Sys2Proof/Proofs/StepMemory.lean ====
section
/-! O58. Every step keeps memory, and what the host has received, in the canonical form (R5, R461, log 2).

Nine operations write either memory: `poke`, `retire`, `copyLines`, `moveFrame`, `zeroFrame`, `scramble`, `scrubWorld`, `coldBoot` and
`hostPut`. Each keeps the form by the rules of Laws/Memory. Every other operation is made of those and of updates of other fields, so each has
one rule here, in the order of the model's files, whose proof follows the branches of its definition and cites the rules of what it calls.
`exec` and `step` are the last two. -/
namespace Sys2Proof.Safety
open Sys2Proof Sys2Proof.Machine
variable {s : State}

/-! ## Answers that carry a state -/

/-- The state that an optional answer carries at `π`, if any, has both memories in the canonical form. -/
def Yields {α : Type} (π : α → State) (o : Option α) : Prop := ∀ x, o = some x → MemoryCanonical (π x)
/-- The next state that an instruction or an event answers, if any, has both memories in the canonical form. -/
def KeepsMemory (o : Out) : Prop := ∀ t, o = .next t → MemoryCanonical t

theorem KeepsMemory.next {t : State} (h : MemoryCanonical t) : KeepsMemory (.next t) := by
  intro t' e
  cases e
  exact h
theorem KeepsMemory.fault {e : Machine.Fault} : KeepsMemory (.fault e) := by
  intro t h
  cases h
theorem KeepsMemory.ite {a b : Out} {c : Prop} [Decidable c] (ha : KeepsMemory a) (hb : KeepsMemory b) : KeepsMemory (if c then a else b) := by
  split
  · exact ha
  · exact hb

theorem Yields.none {α : Type} {π : α → State} : Yields π none := nofun
theorem Yields.some {α : Type} {π : α → State} {x : α} (h : MemoryCanonical (π x)) : Yields π (some x) := by
  intro y e
  cases e
  exact h
theorem Yields.ite {α : Type} {π : α → State} {a b : Option α} {c : Prop} [Decidable c] (ha : Yields π a) (hb : Yields π b) :
    Yields π (if c then a else b) := by
  split
  · exact ha
  · exact hb
theorem Yields.map {α β : Type} {π : α → State} {o : Option β} {g : β → α} (hg : ∀ x, o = Option.some x → MemoryCanonical (π (g x))) :
    Yields π (o.map g) := by
  intro y e
  obtain ⟨x, hx, rfl⟩ := Option.map_eq_some_iff.1 e
  exact hg x hx
theorem Yields.bind {α β : Type} {π : α → State} {o : Option β} {g : β → Option α} (hg : ∀ x, o = Option.some x → Yields π (g x)) :
    Yields π (o.bind g) := by
  intro y e
  obtain ⟨x, hx, hy⟩ := Option.bind_eq_some_iff.1 e
  exact hg x hx y hy
/-- A fold that stops at the first step that answers nothing. -/
theorem MemoryCanonical.foldSome {α : Type} {g : State → α → Option State} {l : List α} (h : MemoryCanonical s)
    (hg : ∀ t, MemoryCanonical t → ∀ a, Yields (·) (g t a)) : Yields (·) (foldSome g s l) := by
  induction l generalizing s with
  | nil => exact .some h
  | cons a r ih => exact .bind fun t e => ih (hg s h a t e)

/-! ## How the form goes through a term -/

/-- A change of other fields keeps the form; the equation is given as `(by rfl)`, which is checked last, when the state after is known. -/
theorem MemoryCanonical.same {t : State} (e : (t.mem, t.hostmem) = (s.mem, s.hostmem)) (h : MemoryCanonical s) : MemoryCanonical t := by
  obtain ⟨hm, hh⟩ := Prod.mk.inj e
  exact ⟨hm ▸ h.1, hh ▸ h.2⟩
/-- A change of memory, and of other fields than the host's memory. -/
theorem MemoryCanonical.mem {t : State} (h : MemoryCanonical s) (hm : rising 0 t.mem = true) (hh : t.hostmem = s.hostmem) :
    MemoryCanonical t := ⟨hm, hh ▸ h.2⟩
theorem MemoryCanonical.ite {a b : State} {c : Prop} [Decidable c] (ha : MemoryCanonical a) (hb : MemoryCanonical b) :
    MemoryCanonical (if c then a else b) := by
  split
  · exact ha
  · exact hb
/-- Both branches go on from one state. -/
theorem MemoryCanonical.ite_of {a b t : State} {c : Prop} [Decidable c] (h : MemoryCanonical t) (ha : MemoryCanonical t → MemoryCanonical a)
    (hb : MemoryCanonical t → MemoryCanonical b) : MemoryCanonical (if c then a else b) := .ite (ha h) (hb h)
theorem MemoryCanonical.snd_ite {α : Type} {a b : α × State} {c : Prop} [Decidable c] (ha : MemoryCanonical a.2) (hb : MemoryCanonical b.2) :
    MemoryCanonical (if c then a else b).2 := by
  split
  · exact ha
  · exact hb
theorem MemoryCanonical.snd_snd_ite {α β : Type} {a b : α × β × State} {c : Prop} [Decidable c] (ha : MemoryCanonical a.2.2)
    (hb : MemoryCanonical b.2.2) : MemoryCanonical (if c then a else b).2.2 := by
  split
  · exact ha
  · exact hb
theorem MemoryCanonical.of_eq {α : Type} {p : α × State} {a : α} {t : State} (h : MemoryCanonical p.2) (e : p = (a, t)) : MemoryCanonical t := by
  cases e
  exact h
theorem MemoryCanonical.getD {o : Option State} (ho : Yields (·) o) (h : MemoryCanonical s) : MemoryCanonical (o.getD s) := by
  cases o with
  | none => exact h
  | some t => exact ho t rfl
theorem MemoryCanonical.foldl {α : Type} {g : State → α → State} {l : List α} (h : MemoryCanonical s)
    (hg : ∀ t, MemoryCanonical t → ∀ a, MemoryCanonical (g t a)) : MemoryCanonical (l.foldl g s) :=
  List.foldlRecOn l g h fun t ht a _ => hg t ht a
theorem MemoryCanonical.foldl_snd {α β : Type} {g : β × State → α → β × State} {l : List α} {p : β × State} (h : MemoryCanonical p.2)
    (hg : ∀ p a, MemoryCanonical p.2 → MemoryCanonical (g p a).2) : MemoryCanonical (l.foldl g p).2 :=
  List.foldlRecOn (motive := fun p => MemoryCanonical p.2) l g h fun p hp a _ => hg p a hp
theorem MemoryCanonical.foldl_snd_snd {α β γ : Type} {g : β × γ × State → α → β × γ × State} {l : List α} {p : β × γ × State}
    (h : MemoryCanonical p.2.2) (hg : ∀ p a, MemoryCanonical p.2.2 → MemoryCanonical (g p a).2.2) : MemoryCanonical (l.foldl g p).2.2 :=
  List.foldlRecOn (motive := fun p => MemoryCanonical p.2.2) l g h fun p hp a _ => hg p a hp

/-! ## Machine/Ops.lean -/

theorem MemoryCanonical.updWarp {wid f} (h : MemoryCanonical s) : MemoryCanonical (s.updWarp wid f) := h.same (by rfl)
theorem MemoryCanonical.updCore {c f} (h : MemoryCanonical s) : MemoryCanonical (s.updCore c f) := .ite (h.same (by rfl)) (h.same (by rfl))
theorem MemoryCanonical.updOp {o f} (h : MemoryCanonical s) : MemoryCanonical (s.updOp o f) := h.same (by rfl)
theorem MemoryCanonical.mapOps {f} (h : MemoryCanonical s) : MemoryCanonical (s.mapOps f) := h.same (by rfl)
theorem MemoryCanonical.updPdk {p f} (h : MemoryCanonical s) : MemoryCanonical (s.updPdk p f) := h.same (by rfl)
theorem MemoryCanonical.updLaunch {l f} (h : MemoryCanonical s) : MemoryCanonical (s.updLaunch l f) := h.same (by rfl)
theorem MemoryCanonical.takeId (h : MemoryCanonical s) : MemoryCanonical s.takeId.2 := h.same (by rfl)
theorem MemoryCanonical.freeVal (h : MemoryCanonical s) : MemoryCanonical s.freeVal.2 := h.same (by rfl)
theorem MemoryCanonical.flood {came mk} (h : MemoryCanonical s) : MemoryCanonical (s.flood came mk) := h.same (by rfl)
theorem MemoryCanonical.ownSkid (h : MemoryCanonical s) : MemoryCanonical s.ownSkid := h.same (by rfl)
theorem MemoryCanonical.ownSkids {n} (h : MemoryCanonical s) : MemoryCanonical (s.ownSkids n) := by
  induction n generalizing s with
  | zero => exact h
  | succ n ih => exact ih h.ownSkid
theorem MemoryCanonical.freeze {c n} (h : MemoryCanonical s) : MemoryCanonical (s.freeze c n) := .ite h (.ite h.ownSkids h.updCore)
theorem MemoryCanonical.landRegs {wid o ws} (h : MemoryCanonical s) : MemoryCanonical (s.landRegs wid o ws) := h.same (by rfl)
theorem MemoryCanonical.endOp {o} (h : MemoryCanonical s) : MemoryCanonical (s.endOp o) := by
  unfold State.endOp
  split
  · exact h
  · exact h.same (by rfl)
theorem MemoryCanonical.leaveOp {x} (h : MemoryCanonical s) : MemoryCanonical (s.leaveOp x) := h.updWarp.updOp
theorem MemoryCanonical.settle {o} (h : MemoryCanonical s) : MemoryCanonical (s.settle o) := by
  unfold State.settle
  split
  · exact h
  · exact .ite h (.ite h.landRegs.leaveOp h.landRegs.endOp)
theorem MemoryCanonical.poke {pa bs} (h : MemoryCanonical s) : MemoryCanonical (s.poke pa bs) := ⟨Memory.wf_poke s pa bs h.1, h.2⟩
theorem MemoryCanonical.drawKeys {p} (h : MemoryCanonical s) : MemoryCanonical (s.drawKeys p) := h.same (by rfl)
theorem MemoryCanonical.raise {p vec} (h : MemoryCanonical s) : MemoryCanonical (s.raise p vec) := h.same (by rfl)
theorem MemoryCanonical.ifError {p cause} (h : MemoryCanonical s) : MemoryCanonical (s.ifError p cause) :=
  .ite h (.ite_of (.ite_of (.ite_of h.updPdk (·.updPdk) id) id (·.raise)) id (.same (by rfl)))
theorem MemoryCanonical.mgmtCount {off} (h : MemoryCanonical s) : MemoryCanonical (s.mgmtCount off) := h.same (by rfl)
theorem MemoryCanonical.retire {p pa} (h : MemoryCanonical s) : Yields (·) (s.retire p pa) := by
  unfold State.retire
  split
  · exact .none
  · refine .some (.mgmtCount (.mem h ?_ rfl))
    dsimp only
    exact rising_mdrop _ _ (rising_copyFrame _ _ _ h.1)
theorem MemoryCanonical.retried {core pa} (h : MemoryCanonical s) : MemoryCanonical (s.retried core pa) := by
  unfold State.retried
  split
  · exact .ite h.freeze h
  · exact h
theorem MemoryCanonical.eccMark {core p pa spec x} (h : MemoryCanonical s) : MemoryCanonical (s.eccMark core p pa spec x).2 := by
  unfold State.eccMark
  split
  · exact h
  · exact (h.same (by rfl)).mgmtCount.retried
  · exact h
  · exact .snd_ite h.retried (.getD h.retried.retire h.retried)
theorem MemoryCanonical.ecc {core p pa n spec} (h : MemoryCanonical s) : MemoryCanonical (s.ecc core p pa n spec).2 := .snd_ite h h.eccMark
theorem MemoryCanonical.eccWrite {core p pa n spec} (h : MemoryCanonical s) : MemoryCanonical (s.eccWrite core p pa n spec).2 :=
  .snd_ite h.eccMark h.ecc
theorem MemoryCanonical.noteS2 {p pa} (h : MemoryCanonical s) : MemoryCanonical (s.noteS2 p pa) := .foldl h fun _ ht _ => ht.ecc
theorem MemoryCanonical.noteReads {p reads} (h : MemoryCanonical s) : MemoryCanonical (s.noteReads p reads) := by
  unfold State.noteReads
  refine .foldl h fun _ ht _ => ?_
  dsimp only
  split
  · exact .foldl ht.noteS2 fun _ ht1 _ => ht1.ecc
  · exact ht.noteS2
theorem MemoryCanonical.fillCore {c e life} (h : MemoryCanonical s) : MemoryCanonical (s.fillCore c e life) := .ite h h.updCore
theorem MemoryCanonical.translate {c p asid va} (h : MemoryCanonical s) : MemoryCanonical (s.translate c p asid va).2 := by
  unfold State.translate
  split
  · exact h
  · dsimp only
    split
    · exact h.fillCore
    · split
      · exact h.noteReads
      · exact .ite h.noteReads.noteS2.fillCore (h.noteReads.noteS2.fillCore.same (by rfl))
theorem MemoryCanonical.mergeClock {die stamp} (h : MemoryCanonical s) : MemoryCanonical (s.mergeClock die stamp) := h.same (by rfl)
theorem MemoryCanonical.evalWait {o} (h : MemoryCanonical s) : MemoryCanonical (s.evalWait o) := by
  unfold State.evalWait
  split
  · exact h
  · exact .ite h (.ite h (.ite_of (.updOp (.foldl h fun _ ht _ => .ite ht ht.mergeClock)) id (·.settle)))
theorem MemoryCanonical.wake {pa} (h : MemoryCanonical s) : MemoryCanonical (s.wake pa) := .foldl h fun _ ht _ => ht.evalWait
theorem MemoryCanonical.applyWrite {p pa bs stamp} (h : MemoryCanonical s) : MemoryCanonical (s.applyWrite p pa bs stamp) :=
  (h.poke.same (by rfl)).wake
theorem MemoryCanonical.stampAt {die} (h : MemoryCanonical s) : MemoryCanonical (s.stampAt die).2 := h.same (by rfl)
theorem MemoryCanonical.devStore {p die pa bs} (h : MemoryCanonical s) : MemoryCanonical (s.devStore p die pa bs) :=
  .ite h (.foldl h.stampAt fun _ ht _ => .ite ht.eccWrite.applyWrite ht.eccWrite)
theorem MemoryCanonical.devWrite {p pa bs} (h : MemoryCanonical s) : MemoryCanonical (s.devWrite p pa bs) := by
  unfold State.devWrite
  dsimp only
  split
  · exact h.noteS2.devStore
  · exact h.noteS2.ifError
theorem MemoryCanonical.postFault {p asid code block bitmap events write pc lid idx} (h : MemoryCanonical s) :
    MemoryCanonical (s.postFault p asid code block bitmap events write pc lid idx) := by
  unfold State.postFault
  refine .ite h ?_
  split
  · exact h.ifError
  · dsimp only
    split
    · exact h.noteReads.devStore.updPdk.raise
    · exact .ite h.noteReads.updPdk h.noteReads.devStore.updPdk.updPdk.raise
theorem MemoryCanonical.postLane {w asid f pc idx} (h : MemoryCanonical s) : MemoryCanonical (s.postLane w asid f pc idx) := h.postFault
theorem MemoryCanonical.countReg {p off n} (h : MemoryCanonical s) : MemoryCanonical (s.countReg p off n) := h.updPdk
theorem MemoryCanonical.dropLanes {wid o m} (h : MemoryCanonical s) : MemoryCanonical (s.dropLanes wid o m) := .foldl h.mapOps fun _ ht _ => ht.settle
theorem MemoryCanonical.unwait {wid o m} (h : MemoryCanonical s) : MemoryCanonical (s.unwait wid o m) := .foldl h.mapOps fun _ ht _ => ht.settle
theorem MemoryCanonical.ejectAsid {wid asid resume before o faults reopen} (h : MemoryCanonical s) :
    MemoryCanonical (s.ejectAsid wid asid resume before o faults reopen).2 := .snd_ite h (h.same (by rfl)).updWarp.dropLanes.unwait
theorem MemoryCanonical.handlerDies {wid o} (h : MemoryCanonical s) : MemoryCanonical (s.handlerDies wid o) := h.updWarp.dropLanes
theorem MemoryCanonical.trapNow {wid code pc resume before o reopen} (h : MemoryCanonical s) :
    MemoryCanonical (s.trapNow wid code pc resume before o reopen) :=
  .ite h.handlerDies (.updWarp (.same (by rfl) (.foldl h fun _ ht _ => ht.ejectAsid.postFault)))
theorem MemoryCanonical.takeTrap {wid code pc before o} (h : MemoryCanonical s) : MemoryCanonical (s.takeTrap wid code pc before o) := by
  unfold State.takeTrap
  dsimp only
  split
  · exact (h.same (by rfl)).updWarp.dropLanes
  · exact h.trapNow
theorem MemoryCanonical.warpTrap {wid code pc before o timing} (h : MemoryCanonical s) : MemoryCanonical (s.warpTrap wid code pc before o timing) :=
  .ite (h.takeTrap.same (by rfl)) h.takeTrap
theorem MemoryCanonical.exitAsid {wid a} (h : MemoryCanonical s) : MemoryCanonical (s.exitAsid wid a) := h.updWarp
theorem MemoryCanonical.ejectServed {wid o pc resume before trapEnd faults} (h : MemoryCanonical s) :
    MemoryCanonical (s.ejectServed wid o pc resume before trapEnd faults) :=
  .foldl h fun _ ht _ => .foldl (.ite_of (.snd_ite ht.exitAsid ht.ejectAsid) id (·.postFault)) fun _ ht _ => ht.postLane
theorem MemoryCanonical.cancelExited {w o fs pc} (h : MemoryCanonical s) : MemoryCanonical (s.cancelExited w o fs pc) :=
  .foldl h fun _ ht _ => ht.countReg.postLane.updOp.settle
theorem MemoryCanonical.resolveNow {wid o pc before faults inPlace reopen} (h : MemoryCanonical s) :
    MemoryCanonical (s.resolveNow wid o pc before faults inPlace reopen) :=
  .settle (.updOp (.foldl h fun _ ht _ => .foldl ht.ejectAsid fun _ ht1 _ => ht1.postLane))
theorem MemoryCanonical.retarget {w asid o pc before faults} (h : MemoryCanonical s) : MemoryCanonical (s.retarget w asid o pc before faults) := by
  unfold State.retarget
  split
  · exact h.dropLanes
  · exact .dropLanes (.foldl (h.same (by rfl)) fun _ ht _ => ht.postLane)
theorem MemoryCanonical.laneFaults {wid o pc before faults} (h : MemoryCanonical s) : MemoryCanonical (s.laneFaults wid o pc before faults) := by
  unfold State.laneFaults
  refine .ite_of (.foldl h.cancelExited fun _ ht _ => ht.retarget) id fun ht => .ite ht.handlerDies ?_
  split
  · exact .dropLanes (.updWarp (.same (by rfl) ht))
  · exact ht.resolveNow

/-! ## Machine/Flags.lean -/

theorem MemoryCanonical.noteIssue {wid f} (h : MemoryCanonical s) : MemoryCanonical (s.noteIssue wid f) := h.updWarp.updCore.same (by rfl)
theorem MemoryCanonical.issue {f k} (h : MemoryCanonical s) (hk : ∀ wid w t, MemoryCanonical t → MemoryCanonical (k wid w t)) :
    KeepsMemory (s.issue f k) := by
  unfold State.issue
  split
  · exact .next h
  · exact .next (hk _ _ _ h.noteIssue)
theorem MemoryCanonical.landIn {wid cycles l} (h : MemoryCanonical s) : MemoryCanonical (s.landIn wid cycles l) := h.updWarp
theorem MemoryCanonical.fixed {wid w f c n g} (h : MemoryCanonical s) : MemoryCanonical (s.fixed wid w f c n g) := h.landIn
theorem MemoryCanonical.laneOp {f c g} (h : MemoryCanonical s) : KeepsMemory (laneOp s f c g) := h.issue fun _ _ _ ht => ht.fixed
theorem MemoryCanonical.addOp {x} (h : MemoryCanonical s) : MemoryCanonical (s.addOp x).2 := h.same (by rfl)
theorem MemoryCanonical.simpleOp {wid w f n} (h : MemoryCanonical s) : MemoryCanonical (s.simpleOp wid w f n) := h.addOp
theorem MemoryCanonical.trapAt {wid w code timing} (h : MemoryCanonical s) : MemoryCanonical (s.trapAt wid w code timing) := h.warpTrap

/-! ## Machine/Control.lean -/

theorem MemoryCanonical.goto {wid off prep} (h : MemoryCanonical s) : MemoryCanonical (s.goto wid off prep) := h.updWarp
theorem MemoryCanonical.through {wid w b k} (h : MemoryCanonical s) (hk : ∀ t, MemoryCanonical t → MemoryCanonical (k t)) :
    MemoryCanonical (s.through wid w b k) := by
  unfold State.through
  split
  · exact h.trapAt
  · exact .goto (hk _ h)
theorem MemoryCanonical.prepare {wid b target count} (h : MemoryCanonical s) : MemoryCanonical (s.prepare wid b target count) := h.updWarp
theorem MemoryCanonical.execPrepv {f} (h : MemoryCanonical s) : KeepsMemory (execPrepv f s) := by
  unfold Machine.execPrepv
  refine h.issue fun _ _ _ ht => .ite ht ?_
  split
  · exact .ite ht.prepare ht.updWarp
  · exact ht.trapAt
theorem MemoryCanonical.execXfers {f} (h : MemoryCanonical s) : KeepsMemory (execXfers f s) :=
  h.issue fun _ _ _ ht => .ite ht.trapAt (.ite ht.updWarp (ht.through fun _ ht1 => ht1.updWarp.updWarp))
theorem MemoryCanonical.execJoin {f} (h : MemoryCanonical s) : KeepsMemory (execJoin f s) := by
  unfold Machine.execJoin
  refine h.issue fun _ _ _ ht => ?_
  split
  · exact ht.trapAt
  · exact .ite ht.updWarp.goto ht.updWarp.goto
theorem MemoryCanonical.staleWarp {wid p} (h : MemoryCanonical s) : MemoryCanonical (s.staleWarp wid p) := h.updWarp
theorem MemoryCanonical.execTrap {f} (h : MemoryCanonical s) : KeepsMemory (execTrap f s) :=
  h.issue fun _ _ _ ht => .ite (.ite ht ht.updWarp) (.ite ht.updWarp (.ite (.ite ht.ejectServed ht.ejectServed.updWarp) (ht.same (by rfl))))
theorem MemoryCanonical.execHoldDeferredTrap (h : MemoryCanonical s) : KeepsMemory (execHoldDeferredTrap s) := by
  unfold Machine.execHoldDeferredTrap
  refine .next ?_
  split
  · exact h
  · refine .updWarp (.foldl (h.same (by rfl)).updWarp ?_)
    intro _ ht _
    refine .ite ht ?_
    split
    · exact ht.trapNow
    · exact .ite ht ht.resolveNow
theorem MemoryCanonical.execHoldOverrun (h : MemoryCanonical s) : KeepsMemory (execHoldOverrun s) := by
  unfold Machine.execHoldOverrun
  refine .next ?_
  split
  · exact h
  · refine .ite h ?_
    dsimp only
    split
    · exact .ite h.updWarp.warpTrap h.updWarp
    · exact h.updWarp

/-! ## Machine/Integer.lean -/

theorem MemoryCanonical.moveIndexed {f wide} (h : MemoryCanonical s) : KeepsMemory (moveIndexed f s wide) :=
  h.issue fun _ _ _ ht => .ite ht.trapAt ht.fixed
theorem MemoryCanonical.execMovs {f} (h : MemoryCanonical s) : KeepsMemory (execMovs f s) := by
  unfold Machine.execMovs
  refine h.issue fun _ _ _ ht => .ite (.ite ht.trapAt ht.fixed) (.ite ht.landIn ?_)
  split
  · exact ht.trapAt
  · exact ht.landIn

/-! ## Machine/Access.lean -/

theorem MemoryCanonical.search {c p asid va rd wr} (h : MemoryCanonical s) : MemoryCanonical (s.search c p asid va rd wr).2 := by
  unfold State.search
  split
  all_goals next e => exact h.translate.of_eq e
theorem MemoryCanonical.detCheck {w l} (h : MemoryCanonical s) : Yields (·) (s.detCheck w l) := by
  induction l generalizing s with
  | nil => exact .some h
  | cons x r ih =>
    unfold State.detCheck
    dsimp only
    split
    · exact .none
    · exact ih (h.same (by rfl))
theorem MemoryCanonical.detOp {w x} (h : MemoryCanonical s) : Yields (·) (s.detOp w x) := .ite (.none) h.detCheck
theorem MemoryCanonical.enterOp {wid w f x ps} (h : MemoryCanonical s) : MemoryCanonical (s.enterOp wid w f x ps).2 :=
  .snd_ite h.simpleOp (.ite h.addOp h.addOp.laneFaults)
theorem MemoryCanonical.queuePads {o k land} (h : MemoryCanonical s) : MemoryCanonical (s.queuePads o k land) := by
  unfold State.queuePads
  split
  · exact h
  · exact .ite h h.updOp.updCore
theorem MemoryCanonical.startPads {o} (h : MemoryCanonical s) : MemoryCanonical (s.startPads o) := by
  unfold State.startPads
  split
  · exact h
  · split
    · exact h.queuePads
    · exact h.queuePads
    · exact h
theorem MemoryCanonical.detGate {o k} (h : MemoryCanonical s) (hk : ∀ t, MemoryCanonical t → MemoryCanonical (k t)) :
    MemoryCanonical (s.detGate o k) := by
  unfold State.detGate
  split
  · exact h
  next e =>
    refine .ite (hk _ h) (.ite h ?_)
    split
    next e => exact hk _ (h.detOp _ e).updOp.startPads
    · exact h.warpTrap
theorem MemoryCanonical.updAcc {o lane f} (h : MemoryCanonical s) : MemoryCanonical (s.updAcc o lane f) := h.updOp
theorem MemoryCanonical.loadBytes {die pa n} (h : MemoryCanonical s) : MemoryCanonical (s.loadBytes die pa n).2 := h.mergeClock

/-! ## Machine/LoadStore.lean -/

theorem MemoryCanonical.memIssue {wid w f x mk spot rd wr timed pad} (h : MemoryCanonical s) :
    MemoryCanonical (s.memIssue wid w f x mk spot rd wr timed pad) := by
  unfold State.memIssue
  refine .ite h.trapAt (.ite h.trapAt ?_)
  dsimp only
  split
  · exact h.trapAt
  next e =>
    have ht := Yields.ite h.detCheck (.some h) _ e
    split
    · exact .ite ht.enterOp ht.enterOp.queuePads
    · exact ht.enterOp
theorem MemoryCanonical.memOp {f k} (h : MemoryCanonical s) : KeepsMemory (memOp f s k) := h.issue fun _ _ _ ht => ht.memIssue
theorem MemoryCanonical.fillRo {c pa} (h : MemoryCanonical s) : MemoryCanonical (s.fillRo c pa) := h.updCore
theorem MemoryCanonical.execPref {f} (h : MemoryCanonical s) : KeepsMemory (execPref f s) :=
  h.issue fun _ _ _ ht => .ite_of (.ite (.foldl ht fun _ ht _ => ht.fillRo) ht) (·.simpleOp) (·.enterOp)
theorem MemoryCanonical.lockEntry {w k} (h : MemoryCanonical s) : MemoryCanonical (s.lockEntry w k) := h.updCore.updWarp
theorem MemoryCanonical.tryLock {o} (h : MemoryCanonical s) : MemoryCanonical (s.tryLock o) := by
  unfold State.tryLock
  split
  · exact h
  next e =>
    refine .ite h (.ite ?_ ?_)
    · refine .warpTrap (.foldl_snd h ?_)
      intro _ _ ht
      split
      all_goals next e => exact ht.translate.of_eq e
    · refine .settle (.updOp ?_)
      refine .foldl ?_ fun _ ht _ => ht.lockEntry
      refine .foldl_snd h fun _ _ ht => ?_
      split
      all_goals next e => exact ht.translate.of_eq e
theorem MemoryCanonical.freeLocks {wid} (h : MemoryCanonical s) : MemoryCanonical (s.freeLocks wid) := h.updCore.updWarp
theorem MemoryCanonical.walkLane {x a} (h : MemoryCanonical s) : MemoryCanonical (s.walkLane x a).2 := by
  unfold State.walkLane
  dsimp only
  split
  all_goals next e => exact h.search.of_eq e
theorem MemoryCanonical.walkLanes {x m} (h : MemoryCanonical s) : MemoryCanonical (s.walkLanes x m).2 := by
  unfold State.walkLanes
  refine .foldl_snd h fun _ _ ht => ?_
  dsimp only
  split <;> exact ht.walkLane.updAcc
theorem MemoryCanonical.afterWalk {x fs} (h : MemoryCanonical s) : MemoryCanonical (s.afterWalk x fs) := by
  unfold State.afterWalk
  split
  · exact .settle (.updOp (.ite (.foldl h fun _ ht _ => .ite ht.fillRo ht) h))
  · exact .tryLock (.ite h h.laneFaults)
  · exact .ite h h.laneFaults
theorem MemoryCanonical.walkWait {x m} (h : MemoryCanonical s) : MemoryCanonical (s.walkWait x m) := .ite h.warpTrap h.walkLanes.afterWalk
theorem MemoryCanonical.pageWalk {o m} (h : MemoryCanonical s) : MemoryCanonical (s.pageWalk o m) := by
  unfold State.pageWalk
  split
  · exact h
  · exact .ite h h.walkWait
theorem MemoryCanonical.homeFault {x a code} (h : MemoryCanonical s) : MemoryCanonical (s.homeFault x a code) :=
  .ite (h.same (by rfl)).settle (h.same (by rfl)).laneFaults
theorem MemoryCanonical.storeAt {x a stamp n} (h : MemoryCanonical s) : MemoryCanonical (s.storeAt x a stamp n) :=
  .ite h.homeFault (.ite h.eccWrite.homeFault
    (.ite_of (.ite h.eccWrite.applyWrite h.eccWrite) (·.updAcc) fun ht => .settle (.updAcc (.same (by rfl) ht))))
theorem MemoryCanonical.noteSince (h : MemoryCanonical s) : MemoryCanonical s.noteSince := h.mapOps
theorem MemoryCanonical.stampLane {o lane} (h : MemoryCanonical s) : MemoryCanonical (s.stampLane o lane) := by
  unfold State.stampLane
  split
  · exact h
  · split
    · exact h
    · exact .ite h (.ite_of (.ite (h.same (by rfl)) h.stampAt.updAcc) (·.storeAt) id)
theorem MemoryCanonical.timedFlag {o} (h : MemoryCanonical s) : MemoryCanonical (s.timedFlag o) := by
  unfold State.timedFlag
  split
  · exact h
  · exact .ite h.updWarp.updOp h
theorem MemoryCanonical.portStamp {o m} (h : MemoryCanonical s) : MemoryCanonical (s.portStamp o m) := by
  unfold State.portStamp
  split
  · exact h
  · exact .ite h (h.detGate fun _ ht => .noteSince (.timedFlag (.foldl ht fun _ ht1 _ => ht1.stampLane)))
theorem MemoryCanonical.atomAt {x a} (h : MemoryCanonical s) : MemoryCanonical (s.atomAt x a) := by
  unfold State.atomAt
  refine .ite h.homeFault (.ite ?_ (.ite h.ecc.updAcc h.ecc.homeFault))
  refine .updAcc ?_
  split
  · exact h.ecc.applyWrite
  · exact h.ecc
theorem MemoryCanonical.homeApply {o lane} (h : MemoryCanonical s) : MemoryCanonical (s.homeApply o lane) := by
  unfold State.homeApply
  split
  · exact h
  · split
    · exact h
    · exact .ite h (.ite (.ite h.storeAt h) (.ite (.settle (.foldl h fun _ ht _ => ht.atomAt)) h))
theorem MemoryCanonical.landLane {x a raw} (h : MemoryCanonical s) : MemoryCanonical (s.landLane x a raw) := h.landRegs.updAcc.settle
theorem MemoryCanonical.loadLane {o lane} (h : MemoryCanonical s) : MemoryCanonical (s.loadLane o lane) := by
  unfold State.loadLane
  split
  · exact h
  · split
    · exact h
    · refine .ite ?_ (.ite h (.ite (.ite h.ecc.landLane h.ecc.loadBytes.landLane) (.ite h.ecc.landRegs.updAcc.settle h.ecc.laneFaults)))
      refine .ite ?_ h
      split
      · exact h.landLane
      · exact h.updAcc.settle
theorem MemoryCanonical.loadComplete {o m} (h : MemoryCanonical s) : MemoryCanonical (s.loadComplete o m) := by
  unfold State.loadComplete
  split
  · exact h
  · refine .ite h ?_
    dsimp only
    split
    · exact h.detGate fun _ ht => .foldl ht fun _ ht1 _ => ht1.loadLane
    · exact .foldl h fun _ ht _ => ht.loadLane
theorem MemoryCanonical.dropExpired (h : MemoryCanonical s) : MemoryCanonical s.dropExpired := h.same (by rfl)
theorem MemoryCanonical.landResults {classV} (h : MemoryCanonical s) : MemoryCanonical (s.landResults classV) :=
  .foldl (h.same (by rfl)) fun _ ht _ => ht.loadLane

/-! ## Machine/Scratch.lean -/

theorem MemoryCanonical.padIssue {wid w f x mk off wr classV pad} (h : MemoryCanonical s) :
    MemoryCanonical (s.padIssue wid w f x mk off wr classV pad) := .ite (.ite h.simpleOp h.landIn) h.memIssue
theorem MemoryCanonical.padOp {f store} (h : MemoryCanonical s) : KeepsMemory (padOp f s store) := h.issue fun _ _ _ ht => ht.padIssue
theorem MemoryCanonical.detTags {wid w ks k} (h : MemoryCanonical s) (hk : ∀ t, MemoryCanonical t → MemoryCanonical (k t)) :
    MemoryCanonical (s.detTags wid w ks k) := by
  unfold State.detTags
  refine .ite (hk _ h) ?_
  split
  next e => exact hk _ (h.detCheck _ e)
  · exact h.trapAt
theorem MemoryCanonical.tagLanes {wid w f slot tag} (h : MemoryCanonical s) : MemoryCanonical (s.tagLanes wid w f slot tag) :=
  h.detTags fun _ ht => .ite ht.updCore.landIn ht.updCore.landIn.laneFaults
theorem MemoryCanonical.retryElements {c es} (h : MemoryCanonical s) : MemoryCanonical (s.retryElements c es).2 :=
  .snd_ite (.foldl h fun _ ht _ => ht.mgmtCount) (.updCore (.foldl h fun _ ht _ => ht.mgmtCount))
theorem MemoryCanonical.padFault {x a write} (h : MemoryCanonical s) : MemoryCanonical (s.padFault x a write) := h.laneFaults
theorem MemoryCanonical.padLane {p lane} (h : MemoryCanonical s) : MemoryCanonical (s.padLane p lane) := by
  unfold State.padLane
  split
  · exact h
  · split
    · exact h
    · refine .ite h (.ite h.padFault ?_)
      split
      · exact h.updAcc
      · exact h.updCore.updAcc
      · refine .updAcc ?_
        split
        · exact h.updCore
        · exact h
theorem MemoryCanonical.wakePad {c} (h : MemoryCanonical s) : MemoryCanonical (s.wakePad c) := .foldl h fun _ ht _ => ht.evalWait
theorem MemoryCanonical.accessCycle {c units} (h : MemoryCanonical s) : MemoryCanonical (s.accessCycle c units) :=
  .freeze (.ite_of (.foldl h.retryElements.updCore fun _ ht _ => .foldl ht fun _ ht _ => ht.padLane) (·.wakePad) id)

/-! ## Machine/Atomic.lean -/

theorem MemoryCanonical.atomGlobal {f k ea data cmp result} (h : MemoryCanonical s) : KeepsMemory (atomGlobal f s k ea data cmp result) :=
  h.issue fun _ _ _ ht => ht.memIssue
theorem MemoryCanonical.atomPad {f k pk data cmp} (h : MemoryCanonical s) : KeepsMemory (atomPad f s k pk data cmp) :=
  h.issue fun _ _ _ ht => ht.padIssue
theorem MemoryCanonical.waitLane {o lane} (h : MemoryCanonical s) : MemoryCanonical (s.waitLane o lane) := by
  unfold State.waitLane
  split
  · exact h
  · exact .ite h (.ite (.ite h.retryElements.homeFault h.retryElements) (.ite h.ecc h.ecc.homeFault))
theorem MemoryCanonical.lookAt {x} (h : MemoryCanonical s) : MemoryCanonical (s.lookAt x) := .evalWait (.foldl h fun _ ht _ => ht.waitLane)

/-! ## Machine/Copy.lean -/

theorem MemoryCanonical.findPages {w asid rd wr walks l} (h : MemoryCanonical s) :
    MemoryCanonical (s.findPages w asid rd wr walks l).2 := by
  induction l generalizing s with
  | nil => exact h
  | cons x r ih =>
    unfold State.findPages
    split
    rename_i e
    have ht := MemoryCanonical.of_eq (.snd_ite h.search h) e
    split
    · exact ht
    · exact ht
    · split
      next e => exact ih ht |>.of_eq e
      · exact ih ht
theorem MemoryCanonical.copyPages {w a walks} (h : MemoryCanonical s) : MemoryCanonical (s.copyPages w a walks).2 := by
  unfold State.copyPages
  extract_lets sp dp fault run
  have hrun {t : State} {perm : Bool} (ht : MemoryCanonical t) : MemoryCanonical (run t perm).2 := by
    dsimp only [run]
    split
    next e => exact ht.findPages.of_eq e
    next e => exact ht.findPages.of_eq e
    next e =>
      split
      all_goals next e' => exact (ht.findPages.of_eq e).findPages.of_eq e'
  split
  next e => exact (hrun h).of_eq e
  next e => exact (hrun h).of_eq e
  next e =>
    split
    all_goals next e' => exact (hrun ((hrun h).of_eq e)).of_eq e'
theorem MemoryCanonical.copyGate {o} (h : MemoryCanonical s) : MemoryCanonical (s.copyGate o) := by
  unfold State.copyGate
  split
  · exact h
  next e =>
    refine .ite h ?_
    split
    next e => exact (h.detCheck _ e).updOp
    · exact h.warpTrap
theorem MemoryCanonical.copyOp {f form mk lane} (h : MemoryCanonical s) : KeepsMemory (copyOp f s form mk lane) :=
  h.issue fun _ _ _ ht => .ite ht.trapAt ht.enterOp.copyGate
theorem MemoryCanonical.copyWalk {o m} (h : MemoryCanonical s) : MemoryCanonical (s.copyWalk o m) := by
  unfold State.copyWalk
  split
  · exact h
  · exact .ite h (.copyGate (.ite (.foldl_snd h fun _ _ ht => ht.copyPages.updAcc) (.laneFaults (.foldl_snd h fun _ _ ht => ht.copyPages.updAcc))))
theorem MemoryCanonical.copyRead {o lane off} (h : MemoryCanonical s) : MemoryCanonical (s.copyRead o lane off) := by
  unfold State.copyRead
  split
  · exact h
  · exact .ite h (.updAcc (.snd_snd_ite h.retryElements (.snd_snd_ite h.ecc.loadBytes (.snd_snd_ite h.ecc h.ecc))))
theorem MemoryCanonical.copyWrite {o lane off c stamp} (h : MemoryCanonical s) : MemoryCanonical (s.copyWrite o lane off c stamp) := by
  unfold State.copyWrite
  split
  · exact h
  · refine .ite h (.ite (.ite h.updAcc.laneFaults ?_) ?_)
    · refine .ite (.ite ?_ (.laneFaults ?_)) (.applyWrite (.ite (.same (by rfl) ?_) ?_))
      all_goals exact (h.same (by rfl)).ecc
    · split
      · split
        · exact h.updAcc.updLaunch
        · split
          · exact h.updAcc.updCore
          · exact h.updAcc
      · exact h.updAcc.updCore
theorem MemoryCanonical.copyDone {o lane} (h : MemoryCanonical s) : MemoryCanonical (s.copyDone o lane) := by
  unfold State.copyDone
  split
  · exact h
  · exact .ite h.updAcc.settle h
theorem MemoryCanonical.execCopySourceReadDone {op} (h : MemoryCanonical s) : KeepsMemory (execCopySourceReadDone op s) := by
  unfold Machine.execCopySourceReadDone
  refine .next ?_
  split
  · exact h
  · exact .ite h (.foldl (.updOp (.updWarp (.foldl h fun _ ht _ => .ite (.foldl ht fun _ ht1 _ => ht1.copyRead) ht))) fun _ ht _ => ht.copyDone)
theorem MemoryCanonical.execCopyDestWrite {op lane off count} (h : MemoryCanonical s) : KeepsMemory (execCopyDestWrite op lane off count s) := by
  unfold Machine.execCopyDestWrite
  refine .next ?_
  split
  · exact h
  · exact .ite h (.copyDone (.foldl (.snd_ite (.foldl h fun _ ht _ => ht.copyRead) (.stampAt
    (.foldl h fun _ ht _ => ht.copyRead))) fun _ ht _ => .foldl ht fun _ ht1 _ => ht1.copyWrite))

/-! ## Machine/Barrier.lean -/

theorem MemoryCanonical.updRing {p f} (h : MemoryCanonical s) : MemoryCanonical (s.updRing p f) := .ite (h.same (by rfl)) h.updPdk
theorem MemoryCanonical.report {p r} (h : MemoryCanonical s) : MemoryCanonical (s.report p r) := h.updRing
theorem MemoryCanonical.reportDone {p seq} (h : MemoryCanonical s) : MemoryCanonical (s.reportDone p seq) := h.report
theorem MemoryCanonical.reportFail {p seq reason} (h : MemoryCanonical s) : MemoryCanonical (s.reportFail p seq reason) := h.report
theorem MemoryCanonical.devVWrite {p asid va bs lid} (h : MemoryCanonical s) : MemoryCanonical (s.devVWrite p asid va bs lid) := by
  unfold State.devVWrite
  split
  · exact h.devStore
  · exact h.postFault
theorem MemoryCanonical.mirror {p g} (h : MemoryCanonical s) : MemoryCanonical (s.mirror p g) := by
  unfold State.mirror
  split
  · exact h
  · exact h.devVWrite
theorem MemoryCanonical.updNbs {launch which f} (h : MemoryCanonical s) : MemoryCanonical (s.updNbs launch which f) := h.updLaunch
theorem MemoryCanonical.phaseLimit {p g b b'} (h : MemoryCanonical s) : MemoryCanonical (s.phaseLimit p g b b') := by
  unfold State.phaseLimit
  split
  · exact h
  · refine .ite ?_ h
    dsimp only
    split
    · exact h.updLaunch.reportFail
    · exact h.updLaunch
theorem MemoryCanonical.changeGroup {p g turn f} (h : MemoryCanonical s) : MemoryCanonical (s.changeGroup p g turn f) := h.phaseLimit.updPdk.mirror
theorem MemoryCanonical.leaveGroup {w g} (h : MemoryCanonical s) : MemoryCanonical (s.leaveGroup w g) := h.changeGroup.updWarp.updNbs.updNbs
theorem MemoryCanonical.joinGroup {w g} (h : MemoryCanonical s) : MemoryCanonical (s.joinGroup w g) := h.changeGroup.updNbs
theorem MemoryCanonical.groupOp {wid w f k} (h : MemoryCanonical s) : MemoryCanonical (s.groupOp wid w f k) := h.addOp
theorem MemoryCanonical.arriveOp {f waits} (h : MemoryCanonical s) : KeepsMemory (arriveOp f s waits) :=
  h.issue fun _ _ _ ht => .ite ht.simpleOp (.ite ht.trapAt ht.groupOp)
theorem MemoryCanonical.execBarw {f} (h : MemoryCanonical s) : KeepsMemory (execBarw f s) := by
  unfold Machine.execBarw
  refine h.issue fun _ _ _ ht => .ite ht.simpleOp (.ite ht.trapAt ?_)
  split
  · exact ht.trapAt
  · exact ht.groupOp
theorem MemoryCanonical.execNbar {f} (h : MemoryCanonical s) : KeepsMemory (execNbar f s) := by
  unfold Machine.execNbar
  refine h.issue fun _ _ _ ht => .ite ht.simpleOp ?_
  split
  · exact ht.trapAt
  · refine .ite ht.trapAt (.ite ?_ ht.groupOp)
    split
    · exact ht.trapAt
    · exact ht.groupOp
theorem MemoryCanonical.applyArrival {x nb g waits} (h : MemoryCanonical s) : MemoryCanonical (s.applyArrival x nb g waits) := by
  unfold State.applyArrival
  dsimp only
  split
  · exact h.endOp
  · refine .ite_of (.ite h.updNbs.updWarp (.updWarp (.changeGroup ?_))) (·.updOp) (·.landRegs.endOp)
    split
    · split
      · exact h.mergeClock
      · exact h
    · exact h
theorem MemoryCanonical.execBarrierArrivalApply {op} (h : MemoryCanonical s) : KeepsMemory (execBarrierArrivalApply op s) := by
  unfold Machine.execBarrierArrivalApply
  refine .next ?_
  split
  · exact h
  · refine .ite h ?_
    split
    · exact h.applyArrival
    · exact h.joinGroup.endOp
    · exact h.leaveGroup.endOp
    · exact h
theorem MemoryCanonical.passPhase {w nb g t} (h : MemoryCanonical s) : MemoryCanonical (s.passPhase w nb g t) := .ite h.updWarp h
theorem MemoryCanonical.notify {x} (h : MemoryCanonical s) : MemoryCanonical (s.notify x) := by
  unfold State.notify
  refine .ite h ?_
  split
  · refine .endOp (.passPhase ?_)
    split
    · split
      · exact h.mergeClock
      · exact h
    · exact h
  · exact h
theorem MemoryCanonical.execBarrierNotify {op} (h : MemoryCanonical s) : KeepsMemory (execBarrierNotify op s) := by
  unfold Machine.execBarrierNotify
  refine .next ?_
  split
  · exact h
  · exact .ite h.notify h
theorem MemoryCanonical.bitOp {f set} (h : MemoryCanonical s) : KeepsMemory (bitOp f s set) := by
  unfold Machine.bitOp
  refine h.issue fun _ _ _ ht => .ite ht.simpleOp ?_
  split
  · exact ht.trapAt
  · exact .ite ht.trapAt ht.memIssue
theorem MemoryCanonical.bitsetWord {x a} (h : MemoryCanonical s) : MemoryCanonical (s.bitsetWord x a) :=
  .ite h (.ite h.laneFaults (.ite (.settle (.updOp (.ite h.ecc.stampAt.applyWrite h.ecc.stampAt))) h.ecc.laneFaults))

/-! ## Machine/Context.lean -/

theorem MemoryCanonical.dropRecs {c b n} (h : MemoryCanonical s) : MemoryCanonical (s.dropRecs c b n) := h.same (by rfl)
theorem MemoryCanonical.assignWindow {c p launch asid n} (h : MemoryCanonical s) : Yields (·) (s.assignWindow c p launch asid n) :=
  .ite (.some h) (.map fun _ _ => h.dropRecs.updCore)
theorem MemoryCanonical.releaseWindows {c} (h : MemoryCanonical s) : MemoryCanonical (s.releaseWindows c) := h.updCore
theorem MemoryCanonical.setMapBit {p asid slot v} (h : MemoryCanonical s) : MemoryCanonical (s.setMapBit p asid slot v) := by
  unfold State.setMapBit
  split
  · exact h
  · exact h.ecc.devStore
theorem MemoryCanonical.takeSlots {w x} (h : MemoryCanonical s) (e : s.takeSlots w = .ok x) : MemoryCanonical x.2 := by
  unfold State.takeSlots at e
  dsimp only at e
  split at e
  · cases e
    exact h
  · revert x
    refine @fun x => List.foldlRecOn
      (motive := fun (r : Except (Option (Nat × Nat × Nat)) (SMap 32 × State)) => ∀ x, r = .ok x → MemoryCanonical x.2) _ _ ?_ ?_ x
    · intro x e
      cases e
      exact h
    · intro r hr i _ x e
      split at e
      · cases e
      · have ht := hr _ rfl
        split at e
        · cases e
          exact ht
        · split at e
          · cases e
          · cases e
          · cases e
            exact ht.setMapBit
theorem MemoryCanonical.freeSlots {w m} (h : MemoryCanonical s) : MemoryCanonical (s.freeSlots w m) := .foldl h fun _ ht _ => .ite ht ht.setMapBit
theorem MemoryCanonical.ctxPut {p pa bs} (h : MemoryCanonical s) : MemoryCanonical (s.ctxPut p pa bs) := .ite h.devWrite h.ifError
theorem MemoryCanonical.ctxWrite {p pa bs} (h : MemoryCanonical s) : MemoryCanonical (s.ctxWrite p pa bs) := .foldl h fun _ ht _ => ht.ctxPut
theorem MemoryCanonical.writeEntry {p r} (h : MemoryCanonical s) : MemoryCanonical (s.writeEntry p r) := h.ctxPut
theorem MemoryCanonical.updRoom {p idx f} (h : MemoryCanonical s) : MemoryCanonical (s.updRoom p idx f) := by
  unfold State.updRoom
  split
  · exact h
  · exact h.updPdk.writeEntry
theorem MemoryCanonical.freeRoom {p idx} (h : MemoryCanonical s) : MemoryCanonical (s.freeRoom p idx) := h.updRoom.updPdk
theorem MemoryCanonical.writeRoom {p idx bs} (h : MemoryCanonical s) : MemoryCanonical (s.writeRoom p idx bs) := by
  unfold State.writeRoom
  split
  · exact h
  · exact h.ctxWrite
theorem MemoryCanonical.reserveRoom {p n r} (h : MemoryCanonical s) : Yields Prod.snd (s.reserveRoom p n r) := by
  unfold State.reserveRoom
  dsimp only
  split
  · exact .some h.updPdk.writeEntry
  · exact .none
theorem MemoryCanonical.execParkedRecordWrite (h : MemoryCanonical s) : KeepsMemory (execParkedRecordWrite s) := by
  unfold Machine.execParkedRecordWrite
  refine .next ?_
  split
  · exact h
  · dsimp only
    split
    · exact h.same (by rfl)
    · exact (h.same (by rfl)).updRoom.updWarp.writeRoom

/-! ## Machine/Select.lean -/

theorem MemoryCanonical.updSel {c f} (h : MemoryCanonical s) : MemoryCanonical (s.updSel c f) := by
  unfold State.updSel
  dsimp only
  split
  · exact h.updCore.updWarp
  · exact h.updCore
theorem MemoryCanonical.freeSel {c} (h : MemoryCanonical s) : MemoryCanonical (s.freeSel c) := by
  unfold State.freeSel
  split
  · exact h
  · exact h.updCore.updWarp
theorem MemoryCanonical.selWord {p c u k} (h : MemoryCanonical s) : MemoryCanonical (s.selWord p c u k).2 := by
  unfold State.selWord
  split
  · dsimp only
    split
    next e => exact h.ecc.of_eq e
    next e => exact .snd_ite (h.ecc.of_eq e) (h.ecc.of_eq e).freeVal
  · exact .snd_ite h.freeVal h
theorem MemoryCanonical.selRead {c} (h : MemoryCanonical s) : MemoryCanonical (s.selRead c) := by
  unfold State.selRead
  exact .updSel (.foldl_snd h fun _ _ ht => ht.selWord)
theorem MemoryCanonical.selReturn {c} (h : MemoryCanonical s) : MemoryCanonical (s.selReturn c) := by
  unfold State.selReturn
  split
  · exact h
  · exact h.updCore.updSel
theorem MemoryCanonical.selGate {o} (h : MemoryCanonical s) : MemoryCanonical (s.selGate o) := by
  unfold State.selGate
  split
  · exact h
  next e =>
    refine .ite h ?_
    split
    next e => exact (h.detCheck _ e).updOp
    · exact h.warpTrap
theorem MemoryCanonical.selOrphans {wid q} (h : MemoryCanonical s) : MemoryCanonical (s.selOrphans wid q) := by
  unfold State.selOrphans
  refine .foldl h fun _ ht _ => ?_
  dsimp only
  split
  · exact ht.updOp
  · exact ht.updWarp.updOp
theorem MemoryCanonical.selStart {c} (h : MemoryCanonical s) : MemoryCanonical (s.selStart c) := by
  unfold State.selStart
  dsimp only
  split
  · exact h
  · split
    · exact .ite h.updSel.freeSel h.updSel
    · exact .ite h h.updSel
theorem MemoryCanonical.selFinish {c} (h : MemoryCanonical s) : MemoryCanonical (s.selFinish c) := by
  unfold State.selFinish
  dsimp only
  split
  · exact h
  · refine .ite_of (.endOp (.updSel ?_)) (·.freeSel.selOrphans) id
    split
    · exact h.landRegs
    · exact h
theorem MemoryCanonical.selWhole {wid w f g bind stream k} (h : MemoryCanonical s)
    (hk : ∀ v asid t, MemoryCanonical t → MemoryCanonical (k v asid t)) : MemoryCanonical (s.selWhole wid w f g bind stream k) := by
  unfold State.selWhole
  refine .ite h.simpleOp (.ite h.trapAt ?_)
  split
  · exact h.trapAt
  · exact h.trapAt
  · exact hk _ _ _ h
theorem MemoryCanonical.selQueue {c o k} (h : MemoryCanonical s) : MemoryCanonical (s.selQueue c o k) := h.updSel
theorem MemoryCanonical.selCommand {f g cmd} (h : MemoryCanonical s) : KeepsMemory (selCommand f s g cmd) := by
  unfold Machine.selCommand
  refine h.issue fun _ _ _ ht => ht.selWhole fun _ _ _ ht1 => .ite ht1.addOp.selQueue ?_
  split
  · exact ht1.landIn
  · exact ht1.updWarp.simpleOp
theorem MemoryCanonical.selPages {w a walks} (h : MemoryCanonical s) : MemoryCanonical (s.selPages w a walks).2 := by
  unfold State.selPages
  split
  all_goals next e => exact h.findPages.of_eq e
theorem MemoryCanonical.selWalk {o m} (h : MemoryCanonical s) : MemoryCanonical (s.selWalk o m) := by
  unfold State.selWalk
  split
  · exact h
  · exact .ite h (.selGate (.ite (.foldl_snd h fun _ _ ht => ht.selPages.updAcc) (.laneFaults (.foldl_snd h fun _ _ ht => ht.selPages.updAcc))))
theorem MemoryCanonical.execQsbind {f} (h : MemoryCanonical s) : KeepsMemory (execQsbind f s) := by
  unfold Machine.execQsbind
  refine .ite (.next (h.same (by rfl))) (h.issue fun _ _ _ ht => ht.selWhole fun _ _ _ ht => ?_)
  have henter {t : State} {c : Prop} [Decidable c] {core g x o cmd} (ht : MemoryCanonical t) :
      MemoryCanonical ((((if c then t else t.updSel core g).addOp x).2).selQueue core o cmd) := .selQueue (.addOp (.ite ht ht.updSel))
  refine .ite (henter ht) (.ite (.ite ht.trapAt ?_) (.ite ?_ (henter ht)))
  · dsimp only
    split
    · exact ht.trapAt
    next e =>
      have hu := Yields.ite ht.detCheck (.some ht) _ e
      exact .ite (henter hu) (henter hu).laneFaults.selGate
  · dsimp only
    split
    next e => exact henter (ht.detCheck _ e)
    · exact ht.trapAt

/-! ## Machine/Draft.lean -/

theorem MemoryCanonical.copyLines {p src dst leave stamp} (h : MemoryCanonical s) : MemoryCanonical (s.copyLines p src dst leave stamp) :=
  .foldl (.mem h (rising_msetAll _ _ (rising_filter _ _ _ h.1)) rfl) fun _ ht _ => ht.evalWait
theorem MemoryCanonical.clearMarks {dev} (h : MemoryCanonical s) : MemoryCanonical (s.clearMarks dev) := h.same (by rfl)
theorem MemoryCanonical.moveFrame {p dev} (h : MemoryCanonical s) : MemoryCanonical (s.moveFrame p dev) := by
  unfold State.moveFrame
  refine .ite h ?_
  split
  · exact h
  · exact .mgmtCount (.mem h (rising_copyFrame _ _ _ h.1) rfl)
theorem MemoryCanonical.pageCommit {p frame com drop stamp} (h : MemoryCanonical s) : Yields (·) (s.pageCommit p frame com drop stamp) := by
  unfold State.pageCommit
  split
  · exact .ite (.none) (.ite (.some h.copyLines.moveFrame.clearMarks) (.some h.copyLines.copyLines.moveFrame.clearMarks))
  · exact .none
theorem MemoryCanonical.pageSpec {p asid va frame stamp} (h : MemoryCanonical s) : Yields (·) (s.pageSpec p asid va frame stamp) := by
  unfold State.pageSpec
  split
  · exact .none
  · split
    · refine .ite (.none) (.some ?_)
      split
      · exact h.updPdk.copyLines.clearMarks.devWrite
      · exact h.updPdk.copyLines.clearMarks
    · exact .none
theorem MemoryCanonical.pageLane {w op a walks} (h : MemoryCanonical s) : MemoryCanonical (s.pageLane w op a walks).2 := by
  unfold State.pageLane
  dsimp only
  split
  next va _ =>
    have ht : MemoryCanonical (if walks then s.translate w.core w.pdk a.asid va
        else match s.tlbHit w.core w.pdk a.asid va with | some e => (.leaf e, s) | none => (.fault 0 false, s)).2 := by
      refine .snd_ite h.translate ?_
      split <;> exact h
    split
    · exact ht
    · exact ht
    · split
      · exact .snd_ite ht ht
      · exact ht
  · exact h
theorem MemoryCanonical.pageInstr {f op} (h : MemoryCanonical s) : KeepsMemory (pageInstr f s op) :=
  h.issue fun _ _ _ ht => .ite ht.trapAt (.ite ht.trapAt ht.enterOp)
theorem MemoryCanonical.pageInstrWalk {o m op} (h : MemoryCanonical s) : MemoryCanonical (s.pageInstrWalk o m op) := by
  unfold State.pageInstrWalk
  split
  · exact h
  · exact .ite h (.ite (.foldl_snd h fun _ _ ht => ht.pageLane.updAcc) (.laneFaults (.foldl_snd h fun _ _ ht => ht.pageLane.updAcc)))
theorem MemoryCanonical.pageGate {x op k} (h : MemoryCanonical s) (hk : ∀ t, MemoryCanonical t → MemoryCanonical (k t)) :
    MemoryCanonical (s.pageGate x op k) := by
  unfold State.pageGate
  refine .ite (hk _ h) ?_
  split
  next e => exact hk _ (h.detCheck _ e).updOp
  · exact h.warpTrap
theorem MemoryCanonical.pageFrame {x op frame} (h : MemoryCanonical s) : MemoryCanonical (s.pageFrame x op frame) := by
  unfold State.pageFrame
  dsimp only
  split
  · exact h
  · split
    next t e =>
      refine (MemoryCanonical.updOp ?_).settle
      refine Yields.ite (π := (·)) .none ?_ t e
      split
      · exact h.stampAt.pageCommit
      · exact .ite h.stampAt.pageSpec .none
    · exact h.stampAt.laneFaults
theorem MemoryCanonical.execPageOpApply {op frame} (h : MemoryCanonical s) : KeepsMemory (execPageOpApply op frame s) := by
  unfold Machine.execPageOpApply
  refine .next ?_
  split
  · exact h
  · split
    · exact .ite h (h.pageGate fun _ ht => ht.pageFrame)
    · exact h
theorem MemoryCanonical.forkPage {p parent child va} (h : MemoryCanonical s) : Yields (·) (s.forkPage p parent child va) := by
  unfold State.forkPage
  split
  · split
    · split
      · exact .ite (.none) (.some h.updPdk.copyLines.copyLines.clearMarks.clearMarks.devWrite)
      · exact .none
    · exact .none
  · exact .none
theorem MemoryCanonical.forkStream {p parent child f from_ to_} (h : MemoryCanonical s) : Yields (·) (s.forkStream p parent child f from_ to_) := by
  unfold State.forkStream
  split
  · split
    · exact .none
    · split
      · exact .none
      · refine .some ?_
        dsimp only
        split
        · exact h.devWrite.devWrite
        · exact h.devWrite
  · exact .none
theorem MemoryCanonical.execSequenceFork {p parent child f pages streams} (h : MemoryCanonical s) :
    KeepsMemory (execSequenceFork p parent child f pages streams s) := by
  unfold Machine.execSequenceFork
  refine .next ?_
  split
  · exact h.same (by rfl)
  next e =>
    refine .same (by rfl) (List.foldlRecOn (motive := Yields (·)) _ _ ?_ (fun _ hr _ _ => .bind fun t e => (hr t e).forkStream) _ e)
    exact List.foldlRecOn (motive := Yields (·)) _ _ (.some h) fun _ hr _ _ => .bind fun t e => (hr t e).forkPage

/-! ## Machine/Matrix.lean -/

theorem MemoryCanonical.updRes {c id f} (h : MemoryCanonical s) : MemoryCanonical (s.updRes c id f) := h.updCore
theorem MemoryCanonical.updJob {o f} (h : MemoryCanonical s) : MemoryCanonical (s.updJob o f) := h.same (by rfl)
theorem MemoryCanonical.placeMres {j} (h : MemoryCanonical s) : MemoryCanonical (s.placeMres j) := by
  unfold State.placeMres
  split
  · refine .ite h ?_
    dsimp only
    split
    · exact h.updJob
    · exact h.updCore.updJob
  · exact h
theorem MemoryCanonical.startEffect {j r} (h : MemoryCanonical s) : MemoryCanonical (s.startEffect j r) := by
  unfold State.startEffect
  dsimp only
  split
  · exact .ite h h.updRes.updJob
  · exact h.updCore
  · exact h.updCore
  · exact h.retryElements.updJob
  · exact h.retryElements.updJob
  · exact .updJob (.ite h.retryElements.updCore.updRes h.retryElements.updCore)
  · exact h
theorem MemoryCanonical.startJob {j} (h : MemoryCanonical s) : MemoryCanonical (s.startJob j) := by
  unfold State.startJob
  dsimp only
  split
  · exact h.updJob
  · split
    · exact h.updJob
    · refine .ite h.updJob ?_
      split
      · refine .updJob (.updJob ?_)
        refine .startEffect ?_
        split
        · exact h.updJob
        · exact h
      · exact h.updJob
theorem MemoryCanonical.tryStart {j} (h : MemoryCanonical s) : MemoryCanonical (s.tryStart j) :=
  .ite h (.ite (h.same (by rfl)) (.ite (h.same (by rfl)).endOp h.startJob))
theorem MemoryCanonical.withJob {o k} (h : MemoryCanonical s) (hk : ∀ t, MemoryCanonical t → ∀ j, MemoryCanonical (k t j)) :
    MemoryCanonical (s.withJob o k) := by
  unfold State.withJob
  split
  · exact hk _ h _
  · exact h
theorem MemoryCanonical.execMatrixCommandStart (h : MemoryCanonical s) : KeepsMemory (execMatrixCommandStart s) :=
  .next (.foldl h fun _ ht _ => .withJob (ht.withJob fun _ ht1 _ => ht1.placeMres) fun _ ht1 _ => ht1.tryStart)
theorem MemoryCanonical.jobRead {j} (h : MemoryCanonical s) : MemoryCanonical (s.jobRead j) := h.updJob
theorem MemoryCanonical.bankCycle {c} (h : MemoryCanonical s) : MemoryCanonical (s.bankCycle c) :=
  .accessCycle (.foldl (.ite h.selRead h) fun _ ht _ => ht.jobRead)
theorem MemoryCanonical.statusCheck {j} (h : MemoryCanonical s) : Yields (·) (s.statusCheck j) := .ite h.detCheck (.some h)
theorem MemoryCanonical.undoJob {j} (h : MemoryCanonical s) : MemoryCanonical (s.undoJob j) := by
  unfold State.undoJob
  extract_lets t u
  have ht : MemoryCanonical t := by
    refine .ite ?_ h
    split
    · exact h.updRes
    · exact h
  have hu : MemoryCanonical u := ht.same (by rfl)
  split
  · exact hu.warpTrap
  · exact hu
theorem MemoryCanonical.endEffect {j r} (h : MemoryCanonical s) : MemoryCanonical (s.endEffect j r).1 := by
  unfold State.endEffect
  dsimp only
  split
  · exact h.updCore
  · exact h.updRes.updCore
  · exact h.updRes
  · exact h.updRes.updCore
  · exact h.updCore
  · split
    · exact h.updCore.laneFaults
    · exact h.landRegs
  · exact h
theorem MemoryCanonical.finishJob {j} (h : MemoryCanonical s) : MemoryCanonical (s.finishJob j) := by
  unfold State.finishJob
  refine .ite h ?_
  dsimp only
  split
  next r _ =>
    have ht := h.endEffect (j := j) (r := r)
    refine .ite (ht.same (by rfl)).endOp ?_
    split
    next e => exact (ht.statusCheck _ e).updJob
    · exact h.undoJob
  · refine .ite (h.same (by rfl)).endOp ?_
    split
    next e => exact (h.statusCheck _ e).updJob
    · exact h.undoJob
theorem MemoryCanonical.doStat {j clear} (h : MemoryCanonical s) : MemoryCanonical (s.doStat j clear) := by
  unfold State.doStat
  split
  · exact h.same (by rfl)
  · refine .ite h.warpTrap ?_
    split
    next e => exact (h.search.of_eq e).laneFaults
    next e => exact h.search.of_eq e
    next e =>
      have ht := h.search.of_eq e
      refine .ite ht ?_
      dsimp only
      split
      · exact ht.warpTrap
      next e =>
        have hu := Yields.ite ht.detCheck (.some ht) _ e
        exact .ite hu.ecc.laneFaults (.settle (.same (by rfl)
          (.ite hu.ecc.mergeClock (.ite hu.ecc.mergeClock.devStore hu.ecc.mergeClock.devVWrite))))
theorem MemoryCanonical.execMatrixCommandComplete (h : MemoryCanonical s) : KeepsMemory (execMatrixCommandComplete s) := by
  unfold Machine.execMatrixCommandComplete
  refine .next (.foldl h ?_)
  intro _ ht _
  split
  · exact .ite ht.doStat ht
  · exact ht.finishJob
theorem MemoryCanonical.execMatrixStatusUpdate {cmd} (h : MemoryCanonical s) : KeepsMemory (execMatrixStatusUpdate cmd s) := by
  unfold Machine.execMatrixStatusUpdate
  refine .next ?_
  split
  · exact h
  · exact .ite h (h.devVWrite.same (by rfl)).endOp
theorem MemoryCanonical.matInstr {f g cmd data} (h : MemoryCanonical s) : KeepsMemory (matInstr f s g cmd data) := by
  unfold Machine.matInstr
  refine h.issue fun _ _ _ ht => .ite ht.trapAt ?_
  split
  · exact ht.trapAt
  · refine .ite ht.trapAt (.ite ht.trapAt (.ite ht.trapAt (.ite ht.trapAt (.ite ht.trapAt ?_))))
    split
    · exact ht.trapAt
    next e =>
      have hu := Yields.ite ht.detCheck (.some ht) _ e
      exact .ite hu.simpleOp (hu.same (by rfl))
theorem MemoryCanonical.execMres {f} (h : MemoryCanonical s) : KeepsMemory (execMres f s) := by
  unfold Machine.execMres
  exact h.matInstr

/-! ## Machine/Handler.lean -/

theorem MemoryCanonical.dropWarp {wid} (h : MemoryCanonical s) : MemoryCanonical (s.dropWarp wid) :=
  .same (by rfl) (.ite h.freeLocks.freeSel h.freeLocks)
theorem MemoryCanonical.ejectLanes {v m} (h : MemoryCanonical s) : MemoryCanonical (s.ejectLanes v m) := by
  unfold State.ejectLanes
  split
  · exact h
  · dsimp only
    split
    · exact h.ejectServed
    · split
      · exact h
      · exact h.ejectServed
theorem MemoryCanonical.release {v} (h : MemoryCanonical s) : MemoryCanonical (s.release v) := by
  unfold State.release
  split
  · exact h
  · exact .ite h.updWarp.updWarp h.updWarp
theorem MemoryCanonical.noHandler {c} (h : MemoryCanonical s) : MemoryCanonical (s.noHandler c) := by
  unfold State.noHandler
  dsimp only
  split
  · exact h.ejectServed
  · exact .ite h.ejectServed.updWarp h.ejectServed
theorem MemoryCanonical.formHandler {c im slot} (h : MemoryCanonical s) : MemoryCanonical (s.formHandler c im slot) := h.same (by rfl)
theorem MemoryCanonical.dropDead {wid x} (h : MemoryCanonical s) : MemoryCanonical (s.dropDead wid x) := h.updOp.settle
theorem MemoryCanonical.execHandlerStart (h : MemoryCanonical s) : KeepsMemory (execHandlerStart s) := by
  unfold Machine.execHandlerStart
  refine .next ?_
  split
  · exact h
  · extract_lets w t q room
    have ht : MemoryCanonical t := by
      dsimp only [t]
      split
      · exact .ite h h.dropDead
      · exact h.same (by rfl)
    refine .ite (.ite ht.updWarp ht) (.ite ht.noHandler ?_)
    split
    · exact ht.formHandler
    · exact ht.noHandler.countReg
theorem MemoryCanonical.execHandlerFail (h : MemoryCanonical s) : KeepsMemory (execHandlerFail s) := by
  unfold Machine.execHandlerFail
  refine .next ?_
  split
  · exact h
  · exact h.countReg.ejectLanes.release.dropWarp
theorem MemoryCanonical.handlerOp {f k} (h : MemoryCanonical s) (hk : ∀ wid w t, MemoryCanonical t → MemoryCanonical (k wid w t)) :
    KeepsMemory (handlerOp f s k) := h.issue fun _ _ _ ht => .ite (hk _ _ _ ht) ht.trapAt
theorem MemoryCanonical.execTret {f} (h : MemoryCanonical s) : KeepsMemory (execTret f s) := by
  unfold Machine.execTret
  refine h.handlerOp fun _ _ _ ht => .dropWarp (.release ?_)
  split
  · exact ht.updOp
  · exact ht
theorem MemoryCanonical.zeroFrame {dev} (h : MemoryCanonical s) : MemoryCanonical (s.zeroFrame dev) := ⟨Memory.wf_zeroFrame s dev h.1, h.2⟩
theorem MemoryCanonical.mapLane {p asid va} (h : MemoryCanonical s) : MemoryCanonical (s.mapLane p asid va).2 := by
  unfold State.mapLane
  dsimp only
  split
  · exact h.noteReads
  · split
    · exact h.noteReads
    · split
      · exact h.noteReads
      · split
        · exact h.noteReads
        · exact h.noteReads.updPdk.zeroFrame.devWrite
theorem MemoryCanonical.execPgmap {f} (h : MemoryCanonical s) : KeepsMemory (execPgmap f s) :=
  h.handlerOp fun _ _ _ ht => .ite ht.simpleOp (.landIn (.takeId (.foldl_snd ht fun _ _ ht1 => ht1.mapLane)))
theorem MemoryCanonical.stalePage {p asid page} (h : MemoryCanonical s) : MemoryCanonical (s.stalePage p asid page) := h.same (by rfl)
theorem MemoryCanonical.unmapLane {p asid va ft} (h : MemoryCanonical s) : MemoryCanonical (s.unmapLane p asid va ft).2 := by
  unfold State.unmapLane
  dsimp only
  split
  · exact h.noteReads
  · split
    · exact h.noteReads
    · split
      · exact h.noteReads
      · exact .snd_ite h.noteReads (.snd_ite h.noteReads (.ite h.noteReads.devWrite.stalePage h.noteReads.devWrite))
theorem MemoryCanonical.addDrain {p id d} (h : MemoryCanonical s) : MemoryCanonical (s.addDrain p id d) := h.updPdk
theorem MemoryCanonical.execPgunmap {f} (h : MemoryCanonical s) : KeepsMemory (execPgunmap f s) :=
  h.handlerOp fun _ _ _ ht => .ite ht.simpleOp (.addDrain (.addOp (.foldl_snd ht fun _ _ ht1 => ht1.unmapLane)))
theorem MemoryCanonical.finishUnmap {p j} (h : MemoryCanonical s) : MemoryCanonical (s.finishUnmap p j) := by
  unfold State.finishUnmap
  split
  · exact h
  · extract_lets covers t again u v
    have hu : MemoryCanonical u := MemoryCanonical.mapOps (MemoryCanonical.updPdk h)
    have hv : MemoryCanonical v := by
      dsimp only [v]
      split
      · exact hu.landRegs.endOp
      · exact hu
    split
    · exact hv.reportDone
    · exact hv
theorem MemoryCanonical.execUnmapComplete (h : MemoryCanonical s) : KeepsMemory (execUnmapComplete s) := by
  unfold Machine.execUnmapComplete
  refine .next ?_
  split
  · exact h
  · exact h.finishUnmap

/-! ## Machine/Rink.lean -/

theorem MemoryCanonical.updRink {f} (h : MemoryCanonical s) : MemoryCanonical (s.updRink f) := h.same (by rfl)
theorem MemoryCanonical.rinkIssue {wid w port k} (h : MemoryCanonical s) (hk : ∀ t, MemoryCanonical t → MemoryCanonical (k t)) :
    MemoryCanonical (s.rinkIssue wid w port k) := .ite h.trapAt (hk _ h)
theorem MemoryCanonical.sendFrame {port bits} (h : MemoryCanonical s) : MemoryCanonical (s.sendFrame port bits) := .ite (h.same (by rfl)) h
theorem MemoryCanonical.execTrcv {f} (h : MemoryCanonical s) : KeepsMemory (execTrcv f s) := by
  unfold Machine.execTrcv
  refine h.issue fun _ _ _ ht => ht.rinkIssue fun _ ht1 => ?_
  dsimp only
  split
  · exact ht1.updRink.trapAt
  · exact ht1.updRink.updRink.landIn
theorem MemoryCanonical.execDrft {f} (h : MemoryCanonical s) : KeepsMemory (execDrft f s) := by
  unfold Machine.execDrft
  refine h.issue fun _ _ _ ht => ht.rinkIssue fun _ ht1 => .ite ht1 ?_
  split
  · exact ht1.trapAt
  · exact ht1.updRink
theorem MemoryCanonical.trapTask {tstart} (h : MemoryCanonical s) : MemoryCanonical (s.trapTask tstart) := .foldl h fun _ ht _ => ht.takeTrap
theorem MemoryCanonical.dropKept {tstart} (h : MemoryCanonical s) : MemoryCanonical (s.dropKept tstart) := by
  unfold State.dropKept
  dsimp only
  split
  · exact h.updRink.freeRoom
  · exact h.updRink
theorem MemoryCanonical.abortTask {tstart} (h : MemoryCanonical s) : MemoryCanonical (s.abortTask tstart) :=
  .ite h.updRink.dropKept.updRink h.updRink.dropKept.trapTask
theorem MemoryCanonical.noteFault {member cause} (h : MemoryCanonical s) : MemoryCanonical (s.noteFault member cause) := .ite h (h.same (by rfl))
theorem MemoryCanonical.findFault {cause tstart} (h : MemoryCanonical s) : MemoryCanonical (s.findFault cause tstart) := h.noteFault.flood.abortTask
theorem MemoryCanonical.memberFault {cause} (h : MemoryCanonical s) : MemoryCanonical (s.memberFault cause) :=
  .foldl h.noteFault fun _ ht _ => ht.findFault
theorem MemoryCanonical.frameFault {cause chan} (h : MemoryCanonical s) : MemoryCanonical (s.frameFault cause chan) := by
  unfold State.frameFault
  split
  · exact h.findFault
  · exact h.memberFault
theorem MemoryCanonical.execRinkFrameRelay (h : MemoryCanonical s) : KeepsMemory (execRinkFrameRelay s) := by
  unfold Machine.execRinkFrameRelay
  refine .next ?_
  split
  · exact h
  · exact .ite h.updRink.updRink.sendFrame h.updRink.frameFault
theorem MemoryCanonical.execSkidTake (h : MemoryCanonical s) : KeepsMemory (execSkidTake s) := by
  unfold Machine.execSkidTake
  refine .next ?_
  split
  · exact h
  · exact h.updRink
theorem MemoryCanonical.planSkid (h : MemoryCanonical s) : MemoryCanonical s.planSkid := .ite h (h.same (by rfl))
theorem MemoryCanonical.joinTimed {old : State} {c} (h : MemoryCanonical s) : MemoryCanonical (old.joinTimed s c) :=
  .ite h (.ite h.freeze.planSkid h.freeze)
theorem MemoryCanonical.learnStop {came tstart stop} (h : MemoryCanonical s) : MemoryCanonical (s.learnStop came tstart stop) :=
  .ite h h.updRink.flood
theorem MemoryCanonical.execRinkPreemptAnnounce {p lid} (h : MemoryCanonical s) : KeepsMemory (execRinkPreemptAnnounce p lid s) := by
  unfold Machine.execRinkPreemptAnnounce
  refine .next ?_
  split
  · exact .ite h.learnStop h
  · exact h

/-! ## Machine/Place.lean -/

theorem MemoryCanonical.seat {c w} (h : MemoryCanonical s) : Yields (·) (s.seat c w) := .map fun _ e => h.same (by rfl)
theorem MemoryCanonical.seatCore {slots ws c} (h : MemoryCanonical s) : Yields (·) (s.seatCore slots ws c) :=
  .bind fun _ e => ((h.foldSome fun _ ht _ => ht.assignWindow) _ e).foldSome fun _ ht _ => ht.seat
theorem MemoryCanonical.seatCores {α : Type} {sit : State → α → Nat → Option State} {cs gs}
    (h : MemoryCanonical s) (hsit : ∀ t, MemoryCanonical t → ∀ g c, Yields (·) (sit t g c)) :
    Yields Prod.snd (Machine.seatCores sit s cs gs) := by
  fun_induction Machine.seatCores sit s cs gs with
  | case1 => exact .some h
  | case2 => exact .none
  | case3 s c cs g gs l t e ih =>
    obtain ⟨u, hu, e⟩ := Option.bind_eq_some_iff.1 e
    exact .some (ih u (hsit s h g c u hu) (l, t) e)
  | case4 s c cs g gs e _ ih => exact ih h
theorem MemoryCanonical.seatSlices {α : Type} {sit : State → α → Nat → Option State} {parts l}
    (h : MemoryCanonical s) (hsit : ∀ t, MemoryCanonical t → ∀ g c, Yields (·) (sit t g c)) :
    Yields (·.2.2) (Machine.seatSlices sit s parts l) := by
  induction l with
  | nil => exact .none
  | cons sl r ih =>
    unfold Machine.seatSlices
    split
    next e => exact .some (h.seatCores hsit _ e)
    · exact ih
theorem MemoryCanonical.openWindow {c x} (h : MemoryCanonical s) : Yields (·) (s.openWindow c x) :=
  .ite (.some h) (.map fun _ e => .updCore (.same (by rfl) (h.assignWindow _ e)))
theorem MemoryCanonical.openRes {c x} (h : MemoryCanonical s) : Yields (·) (s.openRes c x) := by
  unfold State.openRes
  refine .ite (.none) ?_
  split
  · exact .some h.updCore
  · exact .none
theorem MemoryCanonical.openSel {c z u} (h : MemoryCanonical s) : MemoryCanonical (s.openSel c z u) := h.updCore
theorem MemoryCanonical.seatSaved {slots g c} (h : MemoryCanonical s) : Yields (·) (s.seatSaved slots g c) := by
  unfold State.seatSaved
  refine .bind fun _ e => .bind fun _ e1 => .map fun _ e2 => ?_
  split
  · exact (((((h.foldSome fun _ ht _ => ht.openWindow) _ e).seatCore _ e1).foldSome fun _ ht _ => ht.openRes) _ e2).openSel
  · exact ((((h.foldSome fun _ ht _ => ht.openWindow) _ e).seatCore _ e1).foldSome fun _ ht _ => ht.openRes) _ e2
theorem MemoryCanonical.applyReplay {l cores e} (h : MemoryCanonical s) : MemoryCanonical (s.applyReplay l cores e) := by
  unfold State.applyReplay
  split
  · exact h
  · split
    · exact h
    · exact h.updCore
theorem MemoryCanonical.relock {wid} (h : MemoryCanonical s) : MemoryCanonical (s.relock wid) := by
  unfold State.relock
  refine .foldl h.updWarp fun _ ht _ => ?_
  dsimp only
  split
  next e => exact .ite (ht.translate.of_eq e).lockEntry ht
  · exact ht
theorem MemoryCanonical.reopenWait {cores cl x} (h : MemoryCanonical s) : MemoryCanonical (s.reopenWait cores cl x) := h.same (by rfl)
theorem MemoryCanonical.reopenEval {o} (h : MemoryCanonical s) : MemoryCanonical (s.reopenEval o) := by
  unfold State.reopenEval
  split
  · exact h
  · exact .ite h.walkWait.evalWait h.notify
theorem MemoryCanonical.warpRooms {l wid} (h : MemoryCanonical s) : Yields (·) (s.warpRooms l wid) :=
  h.foldSome fun _ ht _ => .map fun _ e => (ht.reserveRoom _ e).updWarp
theorem MemoryCanonical.updCluster {l no f} (h : MemoryCanonical s) : MemoryCanonical (s.updCluster l no f) := h.updLaunch
theorem MemoryCanonical.seatCluster {l cl die} (h : MemoryCanonical s) : Yields (·.2.2.2) (s.seatCluster l cl die) := by
  unfold State.seatCluster
  refine .map fun x e => .foldl ?_ fun _ ht _ => ht.joinTimed
  refine Yields.ite (π := (·.2.2)) ?_ ?_ x e
  · exact .seatSlices (.ite (h.same (by rfl)) h) fun _ ht _ _ => ht.seatSaved
  · exact .seatSlices (.ite (h.same (by rfl)) h) fun _ ht _ _ => ht.seatCore
theorem MemoryCanonical.roomsFor {l cl cores ids} (h : MemoryCanonical s) : Yields Prod.snd (s.roomsFor l cl cores ids) := by
  unfold State.roomsFor
  split
  · exact .some h.updRoom
  · exact .bind fun _ e1 => .map fun _ e2 => (((h.reserveRoom _ e1).foldSome fun _ ht _ => ht.warpRooms) _ e2)
theorem MemoryCanonical.seated {l cl slice cores ids room} (h : MemoryCanonical s) : MemoryCanonical (s.seated l cl slice cores ids room) :=
  h.same (by rfl)
theorem MemoryCanonical.reopen {l cl cores ids} (h : MemoryCanonical s) : MemoryCanonical (s.reopen l cl cores ids) :=
  .foldl (.foldl (.foldl (.foldl h fun _ ht _ => ht.applyReplay) fun _ ht _ => ht.relock) fun _ ht _ => ht.reopenWait) fun _ ht _ => ht.reopenEval
/-- A try that places leaves both memories in the canonical form. -/
def PlacesCanonically (r : Placed) : Prop := ∀ t, r = .done t → MemoryCanonical t
theorem MemoryCanonical.done (h : MemoryCanonical s) : PlacesCanonically (.done s) := by
  intro t e
  cases e
  exact h
theorem PlacesCanonically.noRoom : PlacesCanonically .noRoom := by
  intro t e
  cases e
theorem PlacesCanonically.noSlots {w e} : PlacesCanonically (.noSlots w e) := by
  intro t e
  cases e
theorem PlacesCanonically.firstPlaced {α : Type} {try_ : α → Placed} {l : List α} (h : ∀ a, PlacesCanonically (try_ a)) :
    PlacesCanonically (Machine.firstPlaced try_ l) := by
  refine List.foldlRecOn (motive := PlacesCanonically) l _ .noRoom fun r hr a _ => ?_
  split
  · exact hr
  · exact h a
  · split
    next e => exact (h a _ e).done
    · exact .noSlots
theorem MemoryCanonical.slotsAll {l} (h : MemoryCanonical s) : PlacesCanonically (s.slotsAll l) := by
  induction l generalizing s with
  | nil => exact h.done
  | cons wid r ih =>
    unfold State.slotsAll
    split
    · exact .noSlots
    next e => exact ih (h.takeSlots e).updWarp
theorem MemoryCanonical.placeOne {l cl die} (h : MemoryCanonical s) : PlacesCanonically (s.placeOne l cl die) := by
  unfold State.placeOne
  split
  · exact .noRoom
  next e =>
    split
    · exact .noRoom
    next e' =>
      have hroom := (h.seatCluster _ e).roomsFor _ e'
      split
      next e =>
        refine MemoryCanonical.done ?_
        split
        · exact (hroom.slotsAll _ e).seated.reopen.reportDone
        · exact (hroom.slotsAll _ e).seated.reopen
      · exact hroom.slotsAll
theorem MemoryCanonical.placeUnit {one l cs} (h : MemoryCanonical s)
    (hone : ∀ t, MemoryCanonical t → ∀ l cl die, PlacesCanonically (one t l cl die)) : PlacesCanonically (s.placeUnit one l cs) := by
  induction cs generalizing s with
  | nil => exact h.done
  | cons cl r ih =>
    unfold State.placeUnit
    refine .firstPlaced fun die => ?_
    split
    next e => exact ih (hone _ h _ _ _ _ e)
    · exact hone _ h _ _ _
theorem MemoryCanonical.placeHead {p x} (h : MemoryCanonical s) (e : s.placeHead p = some x) : PlacesCanonically x.2.2 := by
  unfold State.placeHead at e
  split at e
  · cases e
  · split at e
    · cases e
    · split at e
      · cases e
        exact h.placeUnit fun _ ht _ _ _ => ht.placeOne
      · cases e
        exact .firstPlaced fun _ => h.placeOne
theorem MemoryCanonical.noteWaiting {p} (h : MemoryCanonical s) : MemoryCanonical (s.noteWaiting p) := .ite h.updPdk h
theorem MemoryCanonical.slotsMissing {l cl w e} (h : MemoryCanonical s) : MemoryCanonical (s.slotsMissing l cl w e) := by
  unfold State.slotsMissing
  dsimp only
  split
  · exact h.updCluster
  · refine .postFault ?_
    split
    · exact h.updCluster.ecc
    · exact h.updCluster
theorem MemoryCanonical.execClusterPlace {p} (h : MemoryCanonical s) : KeepsMemory (execClusterPlace p s) := by
  unfold Machine.execClusterPlace
  refine .next ?_
  split
  next e => exact (h.placeHead e _ rfl).noteWaiting
  · exact .ite h.slotsMissing h
  · exact h.noteWaiting
theorem MemoryCanonical.execClusterRestore {p idx} (h : MemoryCanonical s) : KeepsMemory (execClusterRestore p idx s) := by
  unfold Machine.execClusterRestore
  refine .next ?_
  split
  next e => exact .ite (h.placeHead e _ rfl).noteWaiting h
  · exact h
theorem MemoryCanonical.retryQueue {p} (h : MemoryCanonical s) : MemoryCanonical (s.retryQueue p) := h.same (by rfl)

/-! ## Machine/Launch.lean -/

theorem MemoryCanonical.updCmd {p seq f} (h : MemoryCanonical s) : MemoryCanonical (s.updCmd p seq f) := h.updRing
theorem MemoryCanonical.command {p seq opc payload k} (h : MemoryCanonical s) (hk : ∀ t, MemoryCanonical t → MemoryCanonical (k t)) :
    KeepsMemory (s.command p seq opc payload k) := .next (.ite (hk _ h.updCmd) h)
theorem MemoryCanonical.noteGets {p asid ranges} (h : MemoryCanonical s) : MemoryCanonical (s.noteGets p asid ranges) := by
  unfold State.noteGets
  refine .foldl h fun _ ht _ => ?_
  dsimp only
  split
  · exact ht.noteReads.ecc
  · exact ht.noteReads
theorem MemoryCanonical.enterLaunch {gs l} (h : MemoryCanonical s) : MemoryCanonical (s.enterLaunch gs l) :=
  .noteWaiting (.foldl (h.same (by rfl)).updPdk fun _ ht _ => .ite ht.mirror.devVWrite ht.mirror)
theorem MemoryCanonical.execLaunch {p seq payload} (h : MemoryCanonical s) : KeepsMemory (execLaunch p seq payload s) := by
  unfold Machine.execLaunch
  refine h.command fun _ ht => .ite ht.reportFail (.ite ht.reportFail ?_)
  dsimp only
  split
  · exact ht.noteGets.reportFail
  · exact ht.noteGets.enterLaunch
theorem MemoryCanonical.updYard {p y f} (h : MemoryCanonical s) : MemoryCanonical (s.updYard p y f) := h.updPdk
theorem MemoryCanonical.formYardWarp {p y l} (h : MemoryCanonical s) : MemoryCanonical (s.formYardWarp p y l) := by
  unfold State.formYardWarp
  split
  · exact h
  · exact h.same (by rfl)
theorem MemoryCanonical.formYards {p} (h : MemoryCanonical s) : MemoryCanonical (s.formYards p) :=
  .noteWaiting (.foldl h fun _ ht _ => ht.formYardWarp)
theorem MemoryCanonical.execYardpost {p seq payload} (h : MemoryCanonical s) : KeepsMemory (execYardpost p seq payload s) := by
  unfold Machine.execYardpost
  refine h.command fun _ ht => .ite ht.reportFail (.ite ht.reportFail ?_)
  split
  · exact ht.reportFail
  · exact .ite ht.reportFail (.ite ht.reportFail (.ite ht.updYard.formYards ht.updYard))
theorem MemoryCanonical.execYardcreate {p seq payload} (h : MemoryCanonical s) : KeepsMemory (execYardcreate p seq payload s) := by
  unfold Machine.execYardcreate
  refine h.command fun _ ht => .ite ht.reportFail ?_
  split
  · exact ht.reportFail
  · refine .ite ht.reportFail ?_
    dsimp only
    split
    · exact ht.noteGets.reportFail
    · refine .ite ht.noteGets.reportFail ?_
      split
      · exact ht.noteGets.reportFail
      · exact ht.noteGets.updPdk.reportDone
theorem MemoryCanonical.execYarddestroy {p seq payload} (h : MemoryCanonical s) : KeepsMemory (execYarddestroy p seq payload s) := by
  unfold Machine.execYarddestroy
  refine h.command fun _ ht => .ite ht.reportFail ?_
  split
  · exact ht.reportFail
  · exact .reportDone (.updPdk (.foldl ht fun _ ht1 _ => ht1.reportFail))
theorem MemoryCanonical.reportLanes {wid} (h : MemoryCanonical s) : MemoryCanonical (s.reportLanes wid) :=
  .foldl (h.same (by rfl)) fun _ ht _ => ht.reportDone
theorem MemoryCanonical.endWarp {wid} (h : MemoryCanonical s) : MemoryCanonical (s.endWarp wid) :=
  .reportLanes (.updWarp (.same (by rfl) (.ite_of (.freeLocks (.freeSlots (.foldl h fun _ ht _ => ht.leaveGroup))) (·.freeSel) id)))
theorem MemoryCanonical.clearOut {wid} (h : MemoryCanonical s) : MemoryCanonical (s.clearOut wid) :=
  .retryQueue (.releaseWindows (.dropWarp (.foldl h fun _ ht _ => ht.freeRoom)))
theorem MemoryCanonical.retireCluster {l c} (h : MemoryCanonical s) : MemoryCanonical (s.retireCluster l c) := by
  unfold State.retireCluster
  refine .updCluster ?_
  split
  · exact .ite_of (.foldl h fun _ ht _ => ht.clearOut) id (·.freeRoom)
  · exact .foldl h fun _ ht _ => ht.clearOut
theorem MemoryCanonical.closeLaunch {l} (h : MemoryCanonical s) : MemoryCanonical (s.closeLaunch l) := by
  unfold State.closeLaunch
  dsimp only
  split
  · exact h.same (by rfl)
  · split
    · exact (h.same (by rfl)).reportFail
    · exact (h.same (by rfl)).reportDone
theorem MemoryCanonical.sweep (h : MemoryCanonical s) : MemoryCanonical s.sweep := by
  unfold State.sweep
  refine .foldl ?_ fun _ ht _ => ht.closeLaunch
  refine .foldl h fun _ ht _ => .foldl ht fun _ ht1 _ => ?_
  dsimp only
  split
  · exact .ite ht1.retireCluster ht1
  · exact ht1
theorem MemoryCanonical.execWarpRetire (h : MemoryCanonical s) : KeepsMemory (execWarpRetire s) := by
  unfold Machine.execWarpRetire
  refine .next ?_
  split
  · exact h.sweep
  · exact .sweep (.ite h.endWarp h.endWarp.clearOut)
theorem MemoryCanonical.missStart {l} (h : MemoryCanonical s) : MemoryCanonical (s.missStart l) := by
  unfold State.missStart
  refine .noteWaiting (.updLaunch ?_)
  refine .foldl ?_ fun _ ht _ => ht.reportFail
  refine .foldl (.foldl h fun _ ht _ => ht.endWarp.clearOut) fun _ ht _ => ?_
  split
  · exact ht.freeRoom
  · exact ht
theorem MemoryCanonical.startLaunch {l} (h : MemoryCanonical s) : MemoryCanonical (s.startLaunch l) := h.same (by rfl)

/-! ## Machine/Saved.lean -/

theorem MemoryCanonical.ctxNote {p reads} (h : MemoryCanonical s) : MemoryCanonical (s.ctxNote p reads) :=
  .foldl h fun _ ht _ => .ite ht.ifError ht.noteReads
theorem MemoryCanonical.adoptRoom {p r} (h : MemoryCanonical s) : MemoryCanonical (s.adoptRoom p r) := h.updPdk
theorem MemoryCanonical.adopt {l c} (h : MemoryCanonical s) : MemoryCanonical (s.adopt l c) := (h.same (by rfl)).updLaunch

/-! ## Machine/Preempt.lean -/

theorem MemoryCanonical.requestCluster {l cl why} (h : MemoryCanonical s) : MemoryCanonical (s.requestCluster l cl why) := h.same (by rfl)
theorem MemoryCanonical.execPreemptRequest {p lid clid} (h : MemoryCanonical s) : KeepsMemory (execPreemptRequest p lid clid s) := by
  unfold Machine.execPreemptRequest
  refine .next ?_
  split
  · exact h
  · exact .ite h (.foldl h fun _ ht _ => ht.requestCluster)
theorem MemoryCanonical.execPreempt {p seq payload} (h : MemoryCanonical s) : KeepsMemory (execPreempt p seq payload s) := by
  unfold Machine.execPreempt
  refine h.command fun _ ht => .ite ht.reportFail ?_
  split
  · exact ht.reportFail
  · exact .ite ht.reportFail (ht.updCmd.same (by rfl))
theorem MemoryCanonical.sealCore {l cl k c} (h : MemoryCanonical s) : MemoryCanonical (s.sealCore l cl k c) := (h.updCore.same (by rfl)).updCluster
theorem MemoryCanonical.execCoreSeal (h : MemoryCanonical s) : KeepsMemory (execCoreSeal s) := by
  unfold Machine.execCoreSeal
  refine .next ?_
  split
  · exact h
  · exact h.sealCore
theorem MemoryCanonical.notePreempted {p room} (h : MemoryCanonical s) : MemoryCanonical (s.notePreempted p room) := h.same (by rfl)
theorem MemoryCanonical.saveFrames {l} (h : MemoryCanonical s) : MemoryCanonical (s.saveFrames l) := by
  unfold State.saveFrames
  refine .ite h ?_
  dsimp only
  split
  · exact h.updRink
  next e => exact (h.updRink.reserveRoom _ e).updRoom.writeRoom
theorem MemoryCanonical.leaveCore {l cl mine c} (h : MemoryCanonical s) : MemoryCanonical (s.leaveCore l cl mine c) := by
  unfold State.leaveCore
  refine .releaseWindows (.updCore ?_)
  split
  · exact .ite h.freeSel h
  · exact h
theorem MemoryCanonical.saveCluster {l cl} (h : MemoryCanonical s) : MemoryCanonical (s.saveCluster l cl) := by
  unfold State.saveCluster
  refine .noteWaiting (.retryQueue ?_)
  refine .saveFrames ?_
  split
  · exact .updCluster (.foldl (h.same (by rfl)) fun _ ht _ => ht.leaveCore)
  · exact .notePreempted (.writeRoom (.updRoom (.updCluster (.foldl (h.same (by rfl)) fun _ ht _ => ht.leaveCore))))
theorem MemoryCanonical.execClusterSave (h : MemoryCanonical s) : KeepsMemory (execClusterSave s) := by
  unfold Machine.execClusterSave
  refine .next ?_
  split
  · exact h
  · exact h.saveCluster
theorem MemoryCanonical.resumeRecord {p seq r rec' more} (h : MemoryCanonical s) : MemoryCanonical (s.resumeRecord p seq r rec' more) := by
  have ha : MemoryCanonical { s.adoptRoom p r with launches := s.launches ++ more, nextId := s.nextId + more.length } := h.same (by rfl)
  unfold State.resumeRecord
  dsimp only
  exact .noteWaiting (.updLaunch (.same (by rfl) ha.takeId.updRoom.ctxPut))
theorem MemoryCanonical.execPresume {p seq payload} (h : MemoryCanonical s) : KeepsMemory (execPresume p seq payload s) := by
  unfold Machine.execPresume
  refine h.command fun _ ht => .ite ht.reportFail ?_
  dsimp only
  split
  · exact ht.ctxNote.reportFail
  · split
    · exact ht.ctxNote.resumeRecord
    · exact ht.ctxNote.reportFail
theorem MemoryCanonical.rebaseTask {l new} (h : MemoryCanonical s) : MemoryCanonical (s.rebaseTask l new) := by
  unfold State.rebaseTask
  dsimp only
  split
  · exact h.updLaunch
  · split
    · exact (h.same (by rfl)).freeRoom
    · exact h.same (by rfl)
theorem MemoryCanonical.execCresume {p seq payload} (h : MemoryCanonical s) : KeepsMemory (execCresume p seq payload s) := by
  unfold Machine.execCresume
  refine h.command fun _ ht => .ite ht.reportFail ?_
  split
  · exact ht.ctxNote.reportFail
  · dsimp only
    split
    · exact ht.ctxNote.reportFail
    · exact .ite ht.ctxNote.reportFail (.ite ht.ctxNote.reportFail (.noteWaiting (.updCluster
      (.ite ht.ctxNote.adoptRoom.adopt.rebaseTask ht.ctxNote.adoptRoom.adopt))))

/-! ## Machine/Ring.lean -/

theorem MemoryCanonical.setRreg {p off v} (h : MemoryCanonical s) : MemoryCanonical (s.setRreg p off v) := .ite (h.same (by rfl)) h.updPdk
theorem MemoryCanonical.crstat {p bit on} (h : MemoryCanonical s) : MemoryCanonical (s.crstat p bit on) := h.setRreg
theorem MemoryCanonical.writeHeader {p} (h : MemoryCanonical s) : MemoryCanonical (s.writeHeader p) := .ite h.updRing h.updRing.devWrite
theorem MemoryCanonical.hostPage {via p k} (h : MemoryCanonical s) (hk : ∀ t, MemoryCanonical t → MemoryCanonical (k t)) :
    MemoryCanonical (s.hostPage via p k) := by
  unfold State.hostPage
  split
  · exact h.same (by rfl)
  · exact .ite (h.same (by rfl)) (.same (by rfl) (hk _ h))
theorem MemoryCanonical.ringFail {p cause} (h : MemoryCanonical s) : MemoryCanonical (s.ringFail p cause) := .ite h.crstat h.ifError
theorem MemoryCanonical.acceptEntry {p e x} (h : MemoryCanonical s) : MemoryCanonical (s.acceptEntry p e x) :=
  .ite_of (.ite_of h.setRreg.writeHeader.updRing (·.crstat) id) (·.reportFail) id
theorem MemoryCanonical.execRingEntryRead {p} (h : MemoryCanonical s) : KeepsMemory (execRingEntryRead p s) := by
  unfold Machine.execRingEntryRead
  refine .next (.ite h ?_)
  dsimp only
  split
  · exact h.noteReads.ringFail
  · exact .ite h.noteReads.setRreg.updRing (.ite h.noteReads.ringFail (.ite h.noteReads.ringFail (.ite h.noteReads.ringFail h.noteReads.acceptEntry)))
theorem MemoryCanonical.reportAll {p} (h : MemoryCanonical s) : MemoryCanonical (s.reportAll p) := by
  unfold State.reportAll
  refine .foldl ?_ fun _ ht _ => .ite ht.report (.ite ht.reportDone ht)
  refine .foldl (.foldl h fun _ ht _ => ht.reportLanes) fun _ ht _ => ?_
  split
  · exact .ite ht.reportFail ht
  · exact ht
theorem MemoryCanonical.hostPut {a bs} (h : MemoryCanonical s) : MemoryCanonical (s.hostPut a bs) := ⟨h.1, rising_hostPut s a bs h.2⟩
theorem MemoryCanonical.putRecord {p c r} (h : MemoryCanonical s) : MemoryCanonical (s.putRecord p c r) :=
  .ite h.hostPut.raise.updRing.setRreg.setRreg.setRreg.crstat.crstat.updRing.writeHeader h.hostPut.raise.updRing.setRreg.crstat.writeHeader
theorem MemoryCanonical.execCompletionRecordWrite {p} (h : MemoryCanonical s) : KeepsMemory (execCompletionRecordWrite p s) := by
  unfold Machine.execCompletionRecordWrite
  refine .next ?_
  split
  · exact h.reportAll
  · exact .ite h.reportAll.putRecord h.reportAll.crstat
theorem MemoryCanonical.failAll {p status reason} (h : MemoryCanonical s) : MemoryCanonical (s.failAll p status reason) := h.updRing
theorem MemoryCanonical.flushRecords {p n} (h : MemoryCanonical s) : MemoryCanonical (s.flushRecords p n) := by
  induction n generalizing s with
  | zero => exact h
  | succ n ih =>
    unfold State.flushRecords
    split
    · exact .ite (ih h.putRecord) h
    · exact h
theorem MemoryCanonical.restartRing {p v} (h : MemoryCanonical s) : MemoryCanonical (s.restartRing p v) :=
  h.setRreg.setRreg.updRing.writeHeader.flushRecords
theorem MemoryCanonical.abortSaved {p host size ack d n} (h : MemoryCanonical s) : MemoryCanonical (s.abortSaved p host size ack d n).2 := by
  induction n generalizing s d with
  | zero => exact h
  | succ n ih => exact .snd_ite h (.snd_ite h.crstat (ih h.hostPut.raise.setRreg.crstat))
theorem MemoryCanonical.execRingRestart {p} (h : MemoryCanonical s) : KeepsMemory (execRingRestart p s) := by
  unfold Machine.execRingRestart
  refine .next ?_
  split
  · exact h
  · exact .ite h (h.setRreg.setRreg.abortSaved.writeHeader.same (by rfl))
theorem MemoryCanonical.putMgmt {off v} (h : MemoryCanonical s) : MemoryCanonical (s.putMgmt off v) :=
  .ite (h.same (by rfl)) (.ite h.updRink (.ite h.updRink (h.same (by rfl))))
theorem MemoryCanonical.putReg {page off val} (h : MemoryCanonical s) : MemoryCanonical (s.putReg page off val) :=
  .ite (.ite (.foldl h fun _ ht _ => ht.ifError) (.ite h h.putMgmt)) (.ite h (.ite h.ifError (.ite h h.updPdk)))
theorem MemoryCanonical.hold {i} (h : MemoryCanonical s) : MemoryCanonical (s.hold i) := .ite h (h.same (by rfl))
theorem MemoryCanonical.unhold {i} (h : MemoryCanonical s) : MemoryCanonical (s.unhold i) := h.same (by rfl)

/-! ## Machine/Commands.lean -/

theorem MemoryCanonical.execShgrant {p seq payload} (h : MemoryCanonical s) : KeepsMemory (execShgrant p seq payload s) := by
  unfold Machine.execShgrant
  refine h.command fun _ ht => .ite ht.reportFail (.ite ht.reportFail ?_)
  dsimp only
  split
  · exact .ite ht.reportFail (.ite ht.updPdk.reportDone ht.updPdk.updCmd)
  · exact .reportDone (.ite ht ht.updPdk)
theorem MemoryCanonical.execTmplset {p seq payload} (h : MemoryCanonical s) : KeepsMemory (execTmplset p seq payload s) := by
  unfold Machine.execTmplset
  refine h.command fun _ ht => .ite ht.reportFail ?_
  split
  · exact ht.reportFail
  · dsimp only
    split
    · exact ht.noteGets.reportFail
    · exact .ite ht.noteGets.reportFail ht.noteGets.updPdk.reportDone
theorem MemoryCanonical.execXmap {p seq payload} (h : MemoryCanonical s) : KeepsMemory (execXmap p seq payload s) := by
  unfold Machine.execXmap
  refine h.command fun _ ht => .ite ht.reportFail (.ite ht.reportFail ?_)
  extract_lets at_ read t
  have ht : MemoryCanonical t := ht.noteGets
  -- the walk of the code range as a variable, so that checking the splits does not evaluate it
  obtain ⟨walk, e⟩ : ∃ walk, t.codeFrames p (fld payload.toNat 176 16) = walk := ⟨_, rfl⟩
  rw [e]
  split
  · exact ht.reportFail
  · split
    · exact ht.reportFail
    · exact ht.takeId.updPdk.addDrain
theorem MemoryCanonical.setEx {p asid va v} (h : MemoryCanonical s) : MemoryCanonical (s.setEx p asid va v) := by
  unfold State.setEx
  split
  · exact .ite h.devWrite h
  · exact h
theorem MemoryCanonical.finishXmap {p j} (h : MemoryCanonical s) : MemoryCanonical (s.finishXmap p j) := by
  unfold State.finishXmap
  split
  · exact h
  · dsimp only
    split
    · exact h.updPdk.noteGets.updPdk.reportFail
    · split
      · exact h.updPdk.noteGets.updPdk.report
      · exact .report (.updPdk (.foldl h.updPdk.noteGets fun _ ht _ => ht.setEx))
theorem MemoryCanonical.execXmapLeaseDrained (h : MemoryCanonical s) : KeepsMemory (execXmapLeaseDrained s) := by
  unfold Machine.execXmapLeaseDrained
  refine .next ?_
  split
  · exact h
  · exact h.finishXmap
theorem MemoryCanonical.execXunmap {p seq payload} (h : MemoryCanonical s) : KeepsMemory (execXunmap p seq payload s) := by
  unfold Machine.execXunmap
  refine h.command fun _ ht => .ite ht.reportFail ?_
  split
  · exact ht.reportFail
  · exact .updPdk (.addDrain (.takeId (.foldl ht fun _ ht1 _ => ht1.setEx.stalePage)))
theorem MemoryCanonical.setMeas {k v} (h : MemoryCanonical s) : MemoryCanonical (s.setMeas k v) := h.same (by rfl)
theorem MemoryCanonical.extend {k v} (h : MemoryCanonical s) : MemoryCanonical (s.extend k v) := h.setMeas
theorem MemoryCanonical.extendEntry {seq opc payload} (h : MemoryCanonical s) : MemoryCanonical (s.extendEntry seq opc payload) := h.extend
theorem MemoryCanonical.scramble {p} (h : MemoryCanonical s) : MemoryCanonical (s.scramble p) :=
  .mem h (List.foldlRecOn (motive := fun m => rising 0 m = true) _ _ h.1 fun m hm _ _ => rising_putBytes _ m _ hm) rfl
theorem MemoryCanonical.scrubWorld {p} (h : MemoryCanonical s) : MemoryCanonical (s.scrubWorld p) := .mem h (rising_filter _ _ _ h.1) rfl
theorem MemoryCanonical.execBgzeroLine {p line} (h : MemoryCanonical s) : KeepsMemory (execBgzeroLine p line s) := by
  unfold Machine.execBgzeroLine
  refine .next ?_
  split
  · exact .ite h h.updPdk
  · exact h
theorem MemoryCanonical.giveSlices {p mask add} (h : MemoryCanonical s) : MemoryCanonical (s.giveSlices p mask add) := .ite h h.updPdk
theorem MemoryCanonical.execPdcreate {p seq payload} (h : MemoryCanonical s) : KeepsMemory (execPdcreate p seq payload s) :=
  h.command fun _ ht => .ite ht.reportFail (.ite ht.reportFail (ht.giveSlices.same (by rfl)).drawKeys.scramble.extendEntry.reportDone)
theorem MemoryCanonical.closePdk {no} (h : MemoryCanonical s) : MemoryCanonical (s.closePdk no) := (h.same (by rfl)).updPdk.failAll.flushRecords
theorem MemoryCanonical.destroyPdk {p c no} (h : MemoryCanonical s) : MemoryCanonical (s.destroyPdk p c no) :=
  (h.scrubWorld.giveSlices.same (by rfl)).extendEntry.reportDone
theorem MemoryCanonical.endDestroys (h : MemoryCanonical s) : MemoryCanonical s.endDestroys := .foldl h fun _ ht _ => ht.destroyPdk
theorem MemoryCanonical.execPddestroy {p seq payload} (h : MemoryCanonical s) : KeepsMemory (execPddestroy p seq payload s) :=
  .ite (.next h) (h.command fun _ ht => .ite ht.reportFail (.ite ht.reportFail ht.closePdk.updCmd.endDestroys))
theorem MemoryCanonical.formRink {c} (h : MemoryCanonical s) : MemoryCanonical (s.formRink c) := h.same (by rfl)
theorem MemoryCanonical.formDone (h : MemoryCanonical s) : MemoryCanonical s.formDone := .foldl h fun _ ht _ => ht.extendEntry.reportDone
theorem MemoryCanonical.failForm {came} (h : MemoryCanonical s) : MemoryCanonical (s.failForm came) :=
  .foldl h.updRink.flood fun _ ht _ => ht.reportFail
theorem MemoryCanonical.execRkform {p seq payload} (h : MemoryCanonical s) : KeepsMemory (execRkform p seq payload s) := by
  unfold Machine.execRkform
  refine h.command fun t ht => .ite ht.reportFail (.ite ht.reportFail ?_)
  have hops := MemoryCanonical.foldl_snd (l := t.rinkPorts) (p := (([] : List (Nat × BitVec 10)), t))
    (g := fun r k => (r.1 ++ [(k, r.2.freeVal.1.truncate 10)], r.2.freeVal.2)) ht fun _ _ hr => hr.freeVal
  exact .ite (.failForm (.same (by rfl) hops)) (.ite (.formDone (.formRink (.same (by rfl) hops))) (.updRink (.same (by rfl) hops)))
theorem MemoryCanonical.execRinkStart {port fails} (h : MemoryCanonical s) : KeepsMemory (execRinkStart port fails s) :=
  .next (.ite h (.ite h.failForm h.formRink.flood.formDone))
theorem MemoryCanonical.retireShare {p} (h : MemoryCanonical s) : MemoryCanonical (s.retireShare p).2 :=
  .updPdk (.foldl h.updPdk fun _ ht _ => ht.moveFrame)
theorem MemoryCanonical.execHtestComplete {p report} (h : MemoryCanonical s) : KeepsMemory (execHtestComplete p report s) := by
  unfold Machine.execHtestComplete
  refine .next ?_
  split
  · exact h
  · exact h.retireShare.scrubWorld.updPdk.extend.reportDone.same (by rfl)

/-! ## Machine/CrossLane.lean -/

theorem MemoryCanonical.crossOp {f k} (h : MemoryCanonical s) (hk : ∀ wid w t, MemoryCanonical t → MemoryCanonical (k wid w t)) :
    KeepsMemory (crossOp f s k) := h.issue fun _ _ _ ht => hk _ _ _ ht
theorem MemoryCanonical.exchange {f index} (h : MemoryCanonical s) : KeepsMemory (exchange f s index) := h.crossOp fun _ _ _ ht => ht.fixed
theorem MemoryCanonical.execBcast {f} (h : MemoryCanonical s) : KeepsMemory (execBcast f s) := by
  unfold Machine.execBcast
  refine h.issue fun _ _ _ ht => .ite ?_ ht.fixed
  dsimp only
  split
  · exact .ite ht.fixed ht.trapAt
  · exact ht.fixed

/-! ## Machine/Root.lean -/

theorem MemoryCanonical.rootInstr {α : Type} [BEq α] {f} {v : Warp → Nat → α} {k} (h : MemoryCanonical s)
    (hk : ∀ wid w x t, MemoryCanonical t → MemoryCanonical (k wid w x t)) : KeepsMemory (rootInstr f s v k) := by
  unfold Machine.rootInstr
  refine h.issue fun _ _ _ ht => .ite ht.trapAt (.ite ht.trapAt (.ite ht.simpleOp ?_))
  split
  · exact ht.trapAt
  · exact hk _ _ _ _ ht
theorem MemoryCanonical.status {wid w f v} (h : MemoryCanonical s) : MemoryCanonical (s.status wid w f v) := h.addOp
theorem MemoryCanonical.rootPages {w a perm walks l} (h : MemoryCanonical s) : MemoryCanonical (s.rootPages w a perm walks l).2 := by
  induction l generalizing s with
  | nil => exact h
  | cons r rest ih =>
    unfold State.rootPages
    split
    next e => exact h.findPages.of_eq e
    next e => exact h.findPages.of_eq e
    next e => exact ih (h.findPages.of_eq e)
theorem MemoryCanonical.rootLane {w x what a walks} (h : MemoryCanonical s) : MemoryCanonical (s.rootLane w x what a walks).2 := by
  unfold State.rootLane
  split
  · exact h
  · dsimp only
    split
    next e1 => exact h.rootPages.of_eq e1
    next e1 => exact h.rootPages.of_eq e1
    next e1 =>
      split
      all_goals next e2 => exact (h.rootPages.of_eq e1).rootPages.of_eq e2
theorem MemoryCanonical.rootOp {wid w f what v nregs} (h : MemoryCanonical s) : MemoryCanonical (s.rootOp wid w f what v nregs) :=
  .ite h.trapAt h.enterOp
theorem MemoryCanonical.rootWalk {o m what} (h : MemoryCanonical s) : MemoryCanonical (s.rootWalk o m what) := by
  unfold State.rootWalk
  split
  · exact h
  · exact .ite h (.ite (.foldl_snd h fun _ _ ht => ht.rootLane.updAcc) (.laneFaults (.foldl_snd h fun _ _ ht => ht.rootLane.updAcc)))
theorem MemoryCanonical.rootRead {x a l} (h : MemoryCanonical s) : MemoryCanonical (s.rootRead x a l).2 := by
  induction l generalizing s with
  | nil => exact h
  | cons p r ih =>
    unfold State.rootRead
    refine .snd_ite h.ecc ?_
    dsimp only
    split
    next e => exact (ih (.snd_ite h.ecc.loadBytes h.ecc)).of_eq e
    · exact ih (.snd_ite h.ecc.loadBytes h.ecc)
theorem MemoryCanonical.rootWrite {x a stamp l bs} (h : MemoryCanonical s) : MemoryCanonical (s.rootWrite x a stamp l bs).2 := by
  induction l generalizing s bs with
  | nil => exact h
  | cons p r ih => exact .snd_ite h (.snd_ite h.eccWrite (ih (.ite h.eccWrite.applyWrite h.eccWrite)))
theorem MemoryCanonical.rootInputs {x a l} (h : MemoryCanonical s) : MemoryCanonical (s.rootInputs x a l).2 := by
  induction l generalizing s with
  | nil => exact h
  | cons r rest ih =>
    unfold State.rootInputs
    refine .snd_ite (ih h) ?_
    split
    next e => exact h.rootRead.of_eq e
    next e =>
      have ht := ih (h.rootRead.of_eq e)
      split
      next e => exact ht.of_eq e
      · exact ht
theorem MemoryCanonical.rootAct {x what a} (h : MemoryCanonical s) : MemoryCanonical (s.rootAct x what a) := by
  unfold State.rootAct
  dsimp only
  split
  next e => exact (h.rootInputs.of_eq e).laneFaults
  next ins t e =>
    have ht := h.rootInputs.of_eq e
    split
    · refine MemoryCanonical.laneFaults ?_
      split
      · exact ht.stampAt.rootWrite
      · exact ht
    · refine (MemoryCanonical.updOp ?_).settle
      split
      · refine MemoryCanonical.setMeas ?_
        split
        · exact ht.stampAt.rootWrite
        · exact ht
      · split
        · exact ht.stampAt.rootWrite
        · exact ht
theorem MemoryCanonical.rootApply {x what} (h : MemoryCanonical s) : MemoryCanonical (s.rootApply x what) := by
  unfold State.rootApply
  refine .ite h ?_
  split
  · exact h.warpTrap
  next e =>
    split
    · exact (Yields.ite h.detCheck (.some h) _ e).updOp.rootAct
    · exact Yields.ite h.detCheck (.some h) _ e
theorem MemoryCanonical.execPageWalkComplete {op lanes} (h : MemoryCanonical s) : KeepsMemory (execPageWalkComplete op lanes s) := by
  unfold Machine.execPageWalkComplete
  refine .next ?_
  split
  · exact h
  · split
    · exact h.copyWalk
    · exact h.pageInstrWalk
    · exact h.selWalk
    · exact h.rootWalk
    · exact h.updOp
    · exact h.pageWalk
theorem MemoryCanonical.execHomeApply {op lane} (h : MemoryCanonical s) : KeepsMemory (execHomeApply op lane s) := by
  unfold Machine.execHomeApply
  refine .next ?_
  split
  · exact h
  · split
    · exact h.detGate fun _ ht => ht.bitsetWord
    · exact h.rootApply
    · exact h.homeApply
theorem MemoryCanonical.startScrub {p o stop} (h : MemoryCanonical s) : MemoryCanonical (s.startScrub p o stop) :=
  .ite h.updPdk.scrubWorld.updRing h.updPdk.scrubWorld
theorem MemoryCanonical.setIf {p v} (h : MemoryCanonical s) : MemoryCanonical (s.setIf p v) := h.updPdk
theorem MemoryCanonical.lockIf {p} (h : MemoryCanonical s) : MemoryCanonical (s.lockIf p) := h.updPdk
theorem MemoryCanonical.errIf {p} (h : MemoryCanonical s) : MemoryCanonical (s.errIf p) := .ite h.setIf h.ifError
theorem MemoryCanonical.scrubClosed {p o} (h : MemoryCanonical s) : MemoryCanonical (s.scrubClosed p o) := .ite h.startScrub h.updPdk
theorem MemoryCanonical.stopIf {p o} (h : MemoryCanonical s) : MemoryCanonical (s.stopIf p o) := h.closePdk.scrubClosed
theorem MemoryCanonical.execLockif {f} (h : MemoryCanonical s) : KeepsMemory (execLockif f s) := by
  unfold Machine.execLockif
  refine h.rootInstr fun _ _ _ _ ht => .ite ht.status (.ite ht.status ?_)
  split
  · exact ht.lockIf.status
  · exact ht.setIf.status
  · exact ht.addOp.stopIf
  · exact ht.errIf.status
theorem MemoryCanonical.answerStop {p} (h : MemoryCanonical s) : MemoryCanonical (s.answerStop p) := .ite (h.same (by rfl)) h
theorem MemoryCanonical.endScrub {q} (h : MemoryCanonical s) : MemoryCanonical (s.endScrub q) :=
  .answerStop (.foldl (.ite h.updPdk.setIf h.updPdk) fun _ ht _ => ht.landRegs.endOp)

/-! ## Machine/Spdm.lean -/

theorem MemoryCanonical.updSpdm {f} (h : MemoryCanonical s) : MemoryCanonical (s.updSpdm f) := h.same (by rfl)
theorem MemoryCanonical.spdmReply {r} (h : MemoryCanonical s) : MemoryCanonical (s.spdmReply r) := h.updSpdm
theorem MemoryCanonical.spdmFree {k} (h : MemoryCanonical s) (hk : ∀ t, MemoryCanonical t → MemoryCanonical (k t)) : KeepsMemory (s.spdmFree k) :=
  .next (.ite h.spdmReply (hk _ h))
theorem MemoryCanonical.spdmRequest {inOrder ver ok k} (h : MemoryCanonical s) (hk : ∀ t, MemoryCanonical t → MemoryCanonical (k t).2) :
    KeepsMemory (s.spdmRequest inOrder ver ok k) :=
  h.spdmFree fun _ ht => .ite ht.spdmReply (.ite ht.spdmReply (.ite ht.spdmReply (hk _ ht).spdmReply))
theorem MemoryCanonical.signed {content} (h : MemoryCanonical s) : MemoryCanonical (s.signed content).2 := h.same (by rfl)
theorem MemoryCanonical.spdmMeasurements {block} (h : MemoryCanonical s) : MemoryCanonical (s.spdmMeasurements block).2 :=
  h.signed (content := (s.spdmBlocks block).flatMap fun b => digestBytes b.2)
theorem MemoryCanonical.endSession {id} (h : MemoryCanonical s) : MemoryCanonical (s.endSession id) := by
  unfold State.endSession
  split
  · exact h
  · exact .ite_of (.ite_of h.updSpdm (·.updRing) fun ht => ht) (·.ifError) fun ht => ht
theorem MemoryCanonical.execChallenge {ver slot} (h : MemoryCanonical s) : KeepsMemory (execChallenge ver slot s) :=
  h.spdmRequest fun _ ht => ht.signed (content := [])
theorem MemoryCanonical.execKeyExchange {ver iface} (h : MemoryCanonical s) : KeepsMemory (execKeyExchange ver iface s) :=
  h.spdmRequest fun _ ht => (ht.signed (content := [])).updSpdm
theorem MemoryCanonical.execFinish {ver session} (h : MemoryCanonical s) : KeepsMemory (execFinish ver session s) := by
  unfold Machine.execFinish
  refine h.spdmRequest fun _ ht => ?_
  dsimp only
  split
  · exact ht
  · exact ht.updSpdm.updRing.crstat
theorem MemoryCanonical.tdisp {session v k} (h : MemoryCanonical s) (hk : ∀ q t, MemoryCanonical t → MemoryCanonical (k q t)) :
    KeepsMemory (s.tdisp session v k) := by
  unfold State.tdisp
  refine h.spdmFree fun _ ht => ?_
  split
  · exact ht.spdmReply
  · exact .ite ht.spdmReply (.spdmReply (hk _ _ ht))
theorem MemoryCanonical.beginStop {p} (h : MemoryCanonical s) : MemoryCanonical (s.beginStop p) := h.stopIf.updSpdm

/-! ## Machine/Pcie.lean -/

theorem MemoryCanonical.hostPoke {pa p bs} (h : MemoryCanonical s) : MemoryCanonical (s.hostPoke pa p bs) :=
  .ite h.eccWrite.devStore (h.eccWrite.same (by rfl))
theorem MemoryCanonical.execHostMemoryWrite {via addr bytes} (h : MemoryCanonical s) : KeepsMemory (execHostMemoryWrite via addr bytes s) := by
  unfold Machine.execHostMemoryWrite
  refine .next ?_
  split
  · exact h.hold
  · exact h.same (by rfl)
  · exact .ite h.hold (.foldl_snd (h.same (by rfl)) fun _ _ ht => ht.hostPoke)
theorem MemoryCanonical.execHostMemoryRead {via addr len} (h : MemoryCanonical s) : KeepsMemory (execHostMemoryRead via addr len s) := by
  unfold Machine.execHostMemoryRead
  refine .next (.ite (h.same (by rfl)) ?_)
  dsimp only
  split
  · exact h.hold
  · exact h.same (by rfl)
  · exact .same (by rfl) (.foldl_snd_snd h.unhold fun _ _ hr => hr.ecc)
theorem MemoryCanonical.resetPdk {p v} (h : MemoryCanonical s) : MemoryCanonical (s.resetPdk p v) := (h.same (by rfl)).restartRing.scrubClosed
theorem MemoryCanonical.coldBoot {flash powered} (h : MemoryCanonical s) : MemoryCanonical (s.coldBoot flash powered) := ⟨Memory.wf_reset, h.2⟩
theorem MemoryCanonical.execPowerLoss (h : MemoryCanonical s) : KeepsMemory (execPowerLoss s) :=
  .next (.same (by rfl) (h.coldBoot (flash := []) (powered := false)))
theorem MemoryCanonical.deriveAlias (h : MemoryCanonical s) : MemoryCanonical s.deriveAlias :=
  have hseed (v : BitVec 256) : MemoryCanonical { s with aliasSeed := v } := h.same (by rfl)
  hseed _
theorem MemoryCanonical.setStage {stage fail} (h : MemoryCanonical s) : MemoryCanonical (s.setStage stage fail) := h.same (by rfl)
theorem MemoryCanonical.execPowerGood {rootImage others fail} (h : MemoryCanonical s) : KeepsMemory (execPowerGood rootImage others fail s) :=
  have hpowered : MemoryCanonical { s with powered := true } := h.same (by rfl)
  .next (.ite h (.ite hpowered.setStage
    (.ite_of (.foldl hpowered.extend.deriveAlias fun _ ht _ => ht.extend) (·.setStage) (·.setStage))))

/-! ## Machine/Ethernet.lean -/

theorem MemoryCanonical.updPort {n f} (h : MemoryCanonical s) : MemoryCanonical (s.updPort n f) := h.same (by rfl)
theorem MemoryCanonical.nqError {p k cause} (h : MemoryCanonical s) : MemoryCanonical (s.nqError p k cause) := h.updPdk
theorem MemoryCanonical.putNqctl {p q val} (h : MemoryCanonical s) : MemoryCanonical (s.putNqctl p q val) :=
  .ite h (.ite h.ifError (.ite h.nqError h.updPdk))
theorem MemoryCanonical.nqNote {p asid base size} (h : MemoryCanonical s) : MemoryCanonical (s.nqNote p asid base size) := h.noteGets
theorem MemoryCanonical.nqStore {p asid va bs} (h : MemoryCanonical s) : MemoryCanonical (s.nqStore p asid va bs) := by
  unfold State.nqStore
  refine .foldl_snd h fun _ _ ht => ?_
  split
  · exact ht.devStore
  · exact ht
theorem MemoryCanonical.nqDone {p asid base at_ cons status} (h : MemoryCanonical s) : MemoryCanonical (s.nqDone p asid base at_ cons status) :=
  h.nqStore.nqStore
theorem MemoryCanonical.notePause {port prio} (h : MemoryCanonical s) : MemoryCanonical (s.notePause port prio) := .ite h (h.same (by rfl))
theorem MemoryCanonical.netTake {p len} (h : MemoryCanonical s) : MemoryCanonical (s.netTake p len) := h.updPdk
theorem MemoryCanonical.execEthSendDescriptor {p q} (h : MemoryCanonical s) : KeepsMemory (execEthSendDescriptor p q s) := by
  unfold Machine.execEthSendDescriptor
  refine .next (.ite h.notePause ?_)
  dsimp only
  split
  · exact h.notePause.nqNote.nqError
  · refine .ite h.notePause.nqNote.updPdk.nqDone ?_
    split
    · exact h.notePause.nqNote.updPdk.noteGets.nqDone
    · exact (h.notePause.nqNote.updPdk.noteGets.same (by rfl)).netTake.nqDone
theorem MemoryCanonical.nqReceive {p asid base at_ cons d bs} (h : MemoryCanonical s) : MemoryCanonical (s.nqReceive p asid base at_ cons d bs) :=
  .nqDone (.nqStore (.ite h.nqStore h))
theorem MemoryCanonical.nqDrop {p k} (h : MemoryCanonical s) : MemoryCanonical (s.nqDrop p k) := h.updPdk
theorem MemoryCanonical.nqDeliver {p k c bytes} (h : MemoryCanonical s) : MemoryCanonical (s.nqDeliver p k c bytes) := by
  unfold State.nqDeliver
  refine .notePause ?_
  split
  · exact h.nqNote.nqError
  · exact .ite h.nqNote.nqReceive h.nqNote.nqDrop
theorem MemoryCanonical.execEthFrameReceive {port fcsOk vlan bytes} (h : MemoryCanonical s) :
    KeepsMemory (execEthFrameReceive port fcsOk vlan bytes s) := by
  unfold Machine.execEthFrameReceive
  refine .next (.ite h.unhold ?_)
  split
  · exact h.unhold.mgmtCount
  · exact .ite h.unhold.nqDeliver h.hold

/-! ## Machine/FloatOps.lean -/

theorem MemoryCanonical.f64Block {w f} (h : MemoryCanonical s) : MemoryCanonical (s.f64Block w f) := .ite h.updCore h
theorem MemoryCanonical.floatIssue {f k} (h : MemoryCanonical s) (hk : ∀ wid w t, MemoryCanonical t → MemoryCanonical (k wid w t)) :
    KeepsMemory (floatIssue f s k) := h.issue fun _ _ _ ht => .ite ht.trapAt (hk _ _ _ ht)
theorem MemoryCanonical.floatOp {f block g} (h : MemoryCanonical s) : KeepsMemory (floatOp f s block g) :=
  h.floatIssue fun _ _ _ ht => .ite (.fixed (.ite ht.f64Block ht)) (.fixed (.ite ht.f64Block ht))
theorem MemoryCanonical.divAccept {x} (h : MemoryCanonical s) : MemoryCanonical (s.divAccept x) := h.updCore.updOp
theorem MemoryCanonical.divideOp {f root g} (h : MemoryCanonical s) : KeepsMemory (divideOp f s root g) := by
  unfold Machine.divideOp
  refine h.issue fun _ _ _ ht => .ite ht.trapAt (.ite ?_ (.addOp (.ite ht.simpleOp ht)))
  split
  · exact .divAccept (.addOp (.ite ht.simpleOp ht))
  · exact .addOp (.ite ht.simpleOp ht)
theorem MemoryCanonical.execDivideUnitAccept (h : MemoryCanonical s) : KeepsMemory (execDivideUnitAccept s) := by
  unfold Machine.execDivideUnitAccept
  refine .next ?_
  split
  · exact h.divAccept
  · exact h
theorem MemoryCanonical.execDivideComplete (h : MemoryCanonical s) : KeepsMemory (execDivideComplete s) := by
  unfold Machine.execDivideComplete
  refine .next ?_
  split
  · exact h
  · exact h.landRegs.endOp
theorem MemoryCanonical.dotInt {f} (h : MemoryCanonical s) : KeepsMemory (dotInt f s) := h.issue fun _ _ _ ht => ht.fixed
theorem MemoryCanonical.dotScaledOp {f} (h : MemoryCanonical s) : KeepsMemory (dotScaledOp f s) := h.issue fun _ _ _ ht => ht.fixed

/-! ## Machine/Fetch.lean -/

theorem MemoryCanonical.fetchFault {wid} (h : MemoryCanonical s) : MemoryCanonical (s.fetchFault wid) :=
  .laneFaults (.ite h.noteIssue (h.same (by rfl)))

/-! ## Machine/Issue.lean -/

theorem MemoryCanonical.execSlotIssue {core slot} (h : MemoryCanonical s) : KeepsMemory (execSlotIssue core slot s) := by
  unfold Machine.execSlotIssue
  refine .next ?_
  split
  · exact h.same (by rfl)
  · exact h.trapAt
  · exact h
theorem MemoryCanonical.beginLaunch {l} (h : MemoryCanonical s) : MemoryCanonical (s.beginLaunch l) := .ite h.startLaunch.trapTask h.startLaunch
theorem MemoryCanonical.pageWrite {own at_ k} (h : MemoryCanonical s) (hk : ∀ t, MemoryCanonical t → MemoryCanonical (k t)) :
    MemoryCanonical (s.pageWrite own at_ k) := .ite h.hold (h.unhold.hostPage fun _ ht => hk _ ht)

/-! ## Machine/Sfu.lean -/

theorem MemoryCanonical.sfuOp {f g} (h : MemoryCanonical s) : KeepsMemory (sfuOp f s g) := h.laneOp

/-! ## Machine/Schedule.lean -/

theorem MemoryCanonical.countFrozen (h : MemoryCanonical s) : MemoryCanonical s.countFrozen := .foldl h fun _ ht _ => ht.updCore
theorem MemoryCanonical.rinkRegs (h : MemoryCanonical s) : MemoryCanonical s.rinkRegs := .ite (h.same (by rfl)) h
theorem MemoryCanonical.tick (h : MemoryCanonical s) : MemoryCanonical s.tick :=
  have ht : MemoryCanonical (State.countFrozen { s with warps := s.warps.map fun w => w.countWait.endCycle }) := .countFrozen (h.same (by rfl))
  (ht.same (by rfl)).rinkRegs
/-! ## The dispatch and the step -/

/-- Every instruction and every event. An arm with a rule of its own cites it; the others follow their short definitions here. -/
theorem MemoryCanonical.exec (h : MemoryCanonical s) (i : Instr) : KeepsMemory (exec i s) := by
  cases i
  all_goals dsimp only [Machine.exec]
  case nop => exact h.issue fun _ _ _ ht => ht
  case prep => exact h.issue fun _ _ _ ht => ht.prepare
  case prepv => exact h.execPrepv
  case xfer => exact h.issue fun _ _ _ ht => .ite (ht.through fun _ ht1 => ht1) (.ite ht.trapAt ht)
  case call => exact h.issue fun _ _ _ ht => ht.through fun _ ht1 => ht1.prepare
  case ret => exact h.issue fun _ _ _ ht => ht.through fun _ ht1 => ht1
  case loop => exact h.issue fun _ _ _ ht => .ite ht.updWarp (ht.through fun _ ht1 => ht1.updWarp)
  case xfers => exact h.execXfers
  case join => exact h.execJoin
  case hold | sleep | exit => exact h.issue fun _ _ _ ht => ht.updWarp
  case icinv => exact h.issue fun _ _ _ ht => ht.staleWarp
  case trap => exact h.execTrap
  case targetFetchReady => exact .next h
  case holdDeferredTrap => exact h.execHoldDeferredTrap
  case holdOverrun => exact h.execHoldOverrun
  case iadd | isub | imul | imulh | imad | ineg | iabs | imin | imax | iclamp | iset | sel | shl | shr | sar | rotl | rotr | andOp | orOp | xorOp |
    andn | brev | bfx | bfi | bperm | mov | movi | keyf | keyr => exact h.laneOp
  case iaddc | isubb | imadw | icmp | logt | popc | clz | fnsb | trnode | rng | dot2h | cvt | pack | unpk => exact h.issue fun _ _ _ ht => ht.fixed
  case movx | movxw => exact h.moveIndexed
  case movs => exact h.execMovs
  case movsw => exact h.issue fun _ _ _ ht => .ite ht.trapAt ht.fixed
  case ld | st | ldro => exact h.memOp
  case pref => exact h.execPref
  case tlock => exact h.issue fun _ _ _ ht => ht.updWarp.enterOp.tryLock
  case tfree => exact h.issue fun _ _ _ ht => ht.freeLocks.simpleOp
  case portStamp => exact .next h.portStamp
  case frontierBroadcast => exact .next (.ite (h.same (by rfl)).noteSince h)
  case loadComplete => exact .next h.loadComplete
  case tlbLeaseExpire => exact .next h.dropExpired
  case fixedResultLand => exact .next h.landResults.landResults
  case waitFlagCountDown => exact .next (.foldl h fun _ ht _ => ht.landRegs.endOp)
  case lds | sts => exact h.padOp
  case sptag => exact h.issue fun _ _ _ ht => ht.detTags fun _ ht1 => ht1.fixed
  case spset => exact h.issue fun _ _ _ ht => ht.tagLanes
  case spclr => exact h.issue fun _ _ _ ht => .ite ht.tagLanes (ht.detTags fun _ ht1 => ht1.updCore.landIn)
  case coreFreezeEnd | rinkFrameExpire | timedStop | privateSlotRetry | pcieConfigRequest => exact .next (h.same (by rfl))
  case atom | red | cas => exact h.atomGlobal
  case atoms | cass => exact h.atomPad
  case fence => exact h.issue fun _ _ _ ht => .ite ht.simpleOp ht.addOp
  case cwt => exact h.issue fun _ _ _ ht => ht.memIssue
  case cwtPeriodicEval => exact .next (.foldl h fun _ ht _ => ht.lookAt)
  case cpy | cpym | cpyg | cscat => exact h.copyOp
  case copySourceReadDone => exact h.execCopySourceReadDone
  case copyDestWrite => exact h.execCopyDestWrite
  case cseal => exact h.issue fun _ _ _ ht => ht.updWarp.fixed
  case cwait => exact h.issue fun _ _ _ ht => ht.enterOp
  case batchComplete => exact .next (.foldl h fun _ ht _ => ht.endOp)
  case bar | bara => exact h.arriveOp
  case barw => exact h.execBarw
  case nbar => exact h.execNbar
  case gjoin => exact h.issue fun _ _ _ ht => .ite ht.simpleOp (.ite ht.trapAt ht.updWarp.groupOp)
  case gleave => exact h.issue fun _ _ _ ht => .ite ht.simpleOp (.ite ht.trapAt ht.groupOp)
  case barrierArrivalApply => exact h.execBarrierArrivalApply
  case barrierNotify => exact h.execBarrierNotify
  case bitset | bitwait => exact h.bitOp
  case parkedRecordWrite => exact h.execParkedRecordWrite
  case selectCommandStart => exact .next (.foldl (.foldl h fun _ ht _ => ht.selReturn) fun _ ht _ => ht.selStart)
  case selectCommandComplete => exact .next (.foldl (.foldl h fun _ ht _ => ht.selRead) fun _ ht _ => ht.selFinish)
  case qsbind => exact h.execQsbind
  case qsmask | qsrank | qsstep | qsrun | qsres => exact h.selCommand
  case pgspec | pgcmt | pgdrop => exact h.pageInstr
  case pageOpApply => exact h.execPageOpApply
  case sequenceFork => exact h.execSequenceFork
  case matrixCommandStart => exact h.execMatrixCommandStart
  case scratchAccessCycle => exact .next (.foldl h fun _ ht _ => ht.bankCycle)
  case matrixCommandComplete => exact h.execMatrixCommandComplete
  case matrixStatusUpdate => exact h.execMatrixStatusUpdate
  case mres => exact h.execMres
  case mrel | mldb | mlda | mma | mspr | mzero | mmov | mput | mstat => exact h.matInstr
  case handlerStart => exact h.execHandlerStart
  case handlerFail => exact h.execHandlerFail
  case faultReplay => exact .next (.foldl h fun _ ht _ => ht.updOp.settle)
  case tret => exact h.execTret
  case eject => exact h.handlerOp fun _ _ _ ht => ht.ejectLanes
  case pgmap => exact h.execPgmap
  case pgunmap => exact h.execPgunmap
  case unmapComplete => exact h.execUnmapComplete
  case tsnd => exact h.issue fun _ _ _ ht => ht.rinkIssue fun _ ht1 => .ite ht1.trapAt ht1.updRink.sendFrame.simpleOp
  case trcv => exact h.execTrcv
  case atc => exact h.issue fun _ _ _ ht => .ite ht (.ite ht.trapAt ht.updWarp)
  case drft => exact h.execDrft
  case drftPhaseStep | driftobsRefresh => exact .next (.ite h.updRink h)
  case timingFault => exact .next h.findFault
  case timingAbortReceive => exact .next (.ite h (.abortTask (.ite h.noteFault h.noteFault.flood)))
  case rinkLinkLost => exact .next (.ite h.memberFault h)
  case timingFlitReceive => exact .next (.ite h (.ite h.updRink h.updRink.memberFault))
  case rinkFrameArrive => exact .next (.ite h (.ite h.frameFault h.updRink))
  case rinkFrameRelay => exact h.execRinkFrameRelay
  case unplannedSkid => exact .next (.ite h.freeze h)
  case skidAnnounceReceive => exact .next (.ite h (.ite h.flood.updRink.memberFault h.flood.updRink))
  case skidTake => exact h.execSkidTake
  case skidEnd => exact .next (.ite (.foldl h.updRink fun _ ht _ => ht.trapTask) h)
  case plannedSkidAnnounce => exact .next h.planSkid
  case rinkPreemptAnnounce => exact h.execRinkPreemptAnnounce
  case preemptionAnnouncementReceive => exact .next (.ite h.learnStop h)
  case clusterPlace => exact h.execClusterPlace
  case clusterRestore => exact h.execClusterRestore
  case launch => exact h.execLaunch
  case yardFormTimeout => exact .next (.foldl h fun _ ht _ => ht.formYards)
  case yardpost => exact h.execYardpost
  case yardcreate => exact h.execYardcreate
  case yarddestroy => exact h.execYarddestroy
  case warpRetire => exact h.execWarpRetire
  case shareRecompute => exact .next (.ite h h.updWarp.updRing)
  case preemptRequest => exact h.execPreemptRequest
  case quantumExpire => exact .next (.foldl h fun _ ht _ => ht.requestCluster)
  case preempt => exact h.execPreempt
  case coreSeal => exact h.execCoreSeal
  case clusterSave => exact h.execClusterSave
  case presume => exact h.execPresume
  case cresume => exact h.execCresume
  case doorbellWrite => exact .next (h.hostPage fun _ ht => ht.setRreg.updRing)
  case crheadWrite => exact .next (h.hostPage fun _ ht => ht.setRreg)
  case ringEntryRead => exact h.execRingEntryRead
  case rekey => exact .ite (.next h) (h.command fun _ ht => .ite ht.reportFail ht.reportDone)
  case completionRecordWrite => exact h.execCompletionRecordWrite
  case ringRestart => exact h.execRingRestart
  case shgrant => exact h.execShgrant
  case tmplset => exact h.execTmplset
  case xmap => exact h.execXmap
  case xmapLeaseDrained => exact h.execXmapLeaseDrained
  case xunmap => exact h.execXunmap
  case bgzeroLine => exact h.execBgzeroLine
  case bgzeroPassEnd => exact .next (.foldl h fun _ ht _ => ht.updPdk)
  case pdcreate => exact h.execPdcreate
  case pddestroy => exact h.execPddestroy
  case pdbudget => exact h.command fun _ ht => .ite ht.reportFail (.ite ht.reportFail ht.updPdk.extendEntry.reportDone)
  case rkform => exact h.execRkform
  case rinkStartFlit => exact h.execRinkStart
  case htest => exact .ite (.next h) (h.command fun _ ht => .ite ht.reportFail (.ite ht.reportFail ht.closePdk.updCmd))
  case htestComplete => exact h.execHtestComplete
  case shfl | shflx | shflu | shfld => exact h.exchange
  case bcast => exact h.execBcast
  case vote | ballot | matchOp | redi | redf | scan | compact => exact h.crossOp fun _ _ _ ht => ht.fixed
  case redm => exact h.crossOp fun _ _ _ ht => .ite ht.fixed ht.fixed
  case mext | shab | edsign => exact h.rootInstr fun _ _ _ _ ht => ht.rootOp
  case pageWalkComplete => exact h.execPageWalkComplete
  case homeApply => exact h.execHomeApply
  case scrub => exact h.rootInstr fun _ _ _ _ ht => .ite ht.status (.ite ht.status ht.addOp.startScrub)
  case lockif => exact h.execLockif
  case scrubComplete => exact .next (.foldl (.endDestroys (.foldl h fun _ ht _ => ht.startScrub)) fun _ ht _ => ht.endScrub)
  case getVersion => exact h.spdmFree fun _ ht => .updSpdm (.foldl ht fun _ ht1 _ => ht1.endSession)
  case getCapabilities | negotiateAlgorithms | keyUpdate => exact h.spdmRequest fun _ ht => ht.updSpdm
  case getCertificate => exact h.spdmRequest fun _ ht => ht
  case challenge => exact h.execChallenge
  case getMeasurements => exact h.spdmRequest fun _ ht => ht.spdmMeasurements
  case keyExchange => exact h.execKeyExchange
  case finish => exact h.execFinish
  case spdmDecryptFail => exact .next h.endSession.spdmReply
  case spdmUnsupportedRequest => exact h.spdmFree fun _ ht => ht.spdmReply
  case lockInterfaceRequest => exact h.tdisp fun _ _ ht => ht.lockIf
  case startInterfaceRequest => exact h.tdisp fun _ _ ht => ht.setIf
  case stopInterfaceRequest => exact h.tdisp fun _ _ ht => ht.beginStop
  case hostMemoryWrite => exact h.execHostMemoryWrite
  case hostMemoryRead => exact h.execHostMemoryRead
  case flrVf => exact .next (.ite h.unhold (.ite h.hold h.unhold.resetPdk))
  case dieReset => exact .next (.ite h.hold (.foldl h.unhold fun _ ht _ => ht.resetPdk))
  case deviceReset => exact .next (.ite h.coldBoot (h.same (by rfl)))
  case thermalTrip => exact .next (.ite h h.coldBoot)
  case powerLoss => exact h.execPowerLoss
  case powerGood => exact h.execPowerGood
  case bootReady => exact .next (.ite h.setStage h)
  case throttleStart => exact .next (.ite h (h.updCore.same (by rfl)))
  case throttleEnd => exact .next h.updCore
  case portLinkDown => exact .next (.ite h (.updPort (.ite h.memberFault h)))
  case portLinkUp | flowControlFrameReceive => exact .next (.ite h h.updPort)
  case ethSendDescriptor => exact h.execEthSendDescriptor
  case ethFrameReceive => exact h.execEthFrameReceive
  case fadd | fsub | fmul | ffma | fmin | fmax | fminp | fmaxp | frnd => exact h.floatOp
  case fcmp | fclass | fscale => exact h.floatIssue fun _ _ _ ht => ht.fixed
  case fexp => exact h.floatIssue fun _ _ _ ht => .ite (.ite ht.fixed ht.fixed) ht.fixed
  case fdiv | fsqrt => exact h.divideOp
  case divideUnitAccept => exact h.execDivideUnitAccept
  case divideComplete => exact h.execDivideComplete
  case dot4 | dot8 => exact h.dotInt
  case dotf8 | dotf4 => exact h.dotScaledOp
  case slotIssue => exact h.execSlotIssue
  case timedLaunchStart => exact .next (.foldl h fun _ ht _ => .ite ht.beginLaunch ht.missStart.sweep)
  case registerWrite => exact .next (h.pageWrite fun _ ht => ht.putReg)
  case nqctlWrite => exact .next (.ite h (h.pageWrite fun _ ht => ht.putNqctl))
  case rcp | rsq | ex2 | lg2 | fsin | fcos | tanh | sigm => exact h.sfuOp

theorem MemoryCanonical.step (h : MemoryCanonical s) : KeepsMemory (step s) := by
  unfold Machine.step
  split
  · exact (h.same (by rfl)).exec _
  · split
    · split
      · exact .next h.fetchFault
      · split
        · exact h.exec _
        · exact .fault
    · split
      · exact h.exec _
      · exact .next h.tick

/-- Settles O58: the head of the agenda, the word that issues, the event that is due and the passing of a cycle each keep the form. -/
theorem stepKeepsMemory : Obligations.StepKeepsMemory := fun _ t h e => h.step t e

end Sys2Proof.Safety
end

/-! SUPPORT. What the device's own reads and writes (R13, R81, R108, R403, R432) and the lanes that leave an operation (R15, R107) keep: launches,
the agenda, identifiers, the images and drains of the paddocks, who is in a warp, and the parked records. -/
namespace Sys2Proof.Machine
open Sys2Proof

/-! ## The relation -/

/-- Which lanes a warp has, and whose they are. -/
def Warp.roll (w : Warp) : Lanes × Lanes × Lanes × SMap 16 := (w.live, w.park, w.held, w.asid)
/-- What of a paddock only a command or a handler changes: its images, its drains, and the offset of its TSC. -/
def Pdk.book (q : Pdk) : List Image × List Job × BitVec 64 := (q.images, q.jobs, q.reg 0x0A0)
/-- R106: a lane of the operation waits for the handler. -/
def Op.touched (x : Op) : Prop := ∃ a ∈ x.accs, a.stage = .touch

/-- From one state to another, nothing is launched, mapped, numbered or asked for, no lane enters or leaves a warp, no operation is added and none
begins to wait for a handler; a parked record takes at most results of operations of its warp (R16). -/
structure State.Keeps (s t : State) : Prop where
  agenda : t.agenda = s.agenda
  launches : t.launches = s.launches
  nextId : t.nextId = s.nextId
  hasPdk : ∀ p, t.hasPdk p = s.hasPdk p
  book : ∀ p, (t.pdk p).book = (s.pdk p).book
  hasWarp : ∀ v, t.hasWarp v = s.hasWarp v
  roll : ∀ v, (t.warp v).roll = (s.warp v).roll
  ops : ∀ y ∈ t.ops, ∃ x ∈ s.ops, x.wid = y.wid ∧ (y.touched → x.touched)
  parked : ∀ r ∈ s.parked, ∃ b, { r with before := b } ∈ t.parked ∧ ((∀ x ∈ s.ops, x.wid ≠ r.wid) → b = r.before)

theorem State.Keeps.trans {s t u : State} (h : s.Keeps t) (k : t.Keeps u) : s.Keeps u where
  agenda := k.agenda.trans h.agenda
  launches := k.launches.trans h.launches
  nextId := k.nextId.trans h.nextId
  hasPdk p := (k.hasPdk p).trans (h.hasPdk p)
  book p := (k.book p).trans (h.book p)
  hasWarp v := (k.hasWarp v).trans (h.hasWarp v)
  roll v := (k.roll v).trans (h.roll v)
  ops z hz := by
    obtain ⟨y, hy, e, f⟩ := k.ops z hz
    obtain ⟨x, hx, e', f'⟩ := h.ops y hy
    exact ⟨x, hx, e'.trans e, f' ∘ f⟩
  parked r hr := by
    obtain ⟨b, hb, e⟩ := h.parked r hr
    obtain ⟨c, hc, e'⟩ := k.parked _ hb
    refine ⟨c, hc, fun hn => (e' fun y hy he => ?_).trans (e hn)⟩
    obtain ⟨x, hx, ex, -⟩ := h.ops y hy
    exact hn x hx (ex.trans he)

/-- The parts of a state that the relation speaks of. -/
theorem State.Keeps.same {s t : State} (e : (t.agenda, t.launches, t.nextId, t.pdks, t.warps, t.ops, t.parked) =
    (s.agenda, s.launches, s.nextId, s.pdks, s.warps, s.ops, s.parked)) : s.Keeps t := by
  simp only [Prod.mk.injEq] at e
  obtain ⟨ea, el, ei, ep, ew, eo, er⟩ := e
  exact ⟨ea, el, ei, fun _ => by rw [State.hasPdk, ep]; rfl, fun _ => by rw [State.pdk, ep]; rfl, fun _ => by rw [State.hasWarp, ew]; rfl,
    fun _ => by rw [State.warp, ew]; rfl, fun y hy => ⟨y, eo ▸ hy, rfl, id⟩, fun r hr => ⟨r.before, er ▸ hr, fun _ => rfl⟩⟩
theorem State.Keeps.refl (s : State) : s.Keeps s := .same rfl
theorem State.Keeps.ite {s a b : State} {c : Prop} [Decidable c] (ha : s.Keeps a) (hb : s.Keeps b) : s.Keeps (if c then a else b) := by
  split
  · exact ha
  · exact hb
/-- Both branches go on from one state. -/
theorem State.Keeps.ite_of {s t a b : State} {c : Prop} [Decidable c] (h : s.Keeps t) (ha : t.Keeps a) (hb : t.Keeps b) :
    s.Keeps (if c then a else b) := .ite (h.trans ha) (h.trans hb)
theorem State.keeps_foldl {α : Type} (l : List α) (k : State → α → State) (hk : ∀ (t : State) a, t.Keeps (k t a)) (s : State) :
    s.Keeps (l.foldl k s) := List.foldlRecOn l k (.refl s) fun t ht a _ => ht.trans (hk t a)

/-! ## Paddocks -/

theorem State.hasPdk_updPdk (s : State) (p q : Nat) (g : Pdk → Pdk) (hg : ∀ x, (g x).no = x.no) : (s.updPdk p g).hasPdk q = s.hasPdk q := by
  show (s.pdks.map _).any _ = s.pdks.any _
  rw [List.any_map]
  congr 1
  funext x
  by_cases h : x.no = p <;> simp [h, hg]
/-- A change of a paddock that keeps its number and a part of it keeps that part of every paddock. -/
theorem State.pdk_updPdk_keep {α : Type} (s : State) (p q : Nat) (g : Pdk → Pdk) (r : Pdk → α) (hg : ∀ x, (g x).no = x.no)
    (hr : ∀ x, r (g x) = r x) : r ((s.updPdk p g).pdk q) = r (s.pdk q) := by
  have := find?_map_key Pdk.no s.pdks p q g hg
  show r (((s.pdks.map _).find? _).getD { no := q }) = r ((s.pdks.find? _).getD { no := q })
  rw [this]
  cases s.pdks.find? fun x => x.no == q with
  | none => rfl
  | some x =>
    simp only [Option.map_some, Option.getD_some]
    split
    · exact hr x
    · rfl
theorem State.keeps_updPdk (s : State) (p : Nat) (g : Pdk → Pdk) (hn : ∀ q, (g q).no = q.no) (hb : ∀ q, (g q).book = q.book) :
    s.Keeps (s.updPdk p g) :=
  { State.Keeps.refl s with
    hasPdk := fun q => s.hasPdk_updPdk p q g hn
    book := fun q => s.pdk_updPdk_keep p q g Pdk.book hn hb }
theorem Pdk.book_setReg (q : Pdk) (off : Nat) (v : BitVec 64) (h : off ≠ 0x0A0) : (q.setReg off v).book = q.book := by
  simp only [Pdk.book, Pdk.setReg, Pdk.reg, mget_mset_ne q.regs off 0x0A0 v h.symm]
theorem State.keeps_setReg (s : State) (p off : Nat) (v : Pdk → BitVec 64) (h : off ≠ 0x0A0) : s.Keeps (s.updPdk p fun q => q.setReg off (v q)) :=
  s.keeps_updPdk p _ (fun _ => rfl) fun q => q.book_setReg off _ h

/-! ## Warps, operations and records -/

theorem State.keeps_mapWarps (s : State) (g : Warp → Warp) (hi : ∀ w, (g w).id = w.id) (hr : ∀ w, (g w).roll = w.roll) :
    s.Keeps { s with warps := s.warps.map g } := by
  have find (v : Nat) : (s.warps.map g).find? (·.id == v) = (s.warps.find? (·.id == v)).map g := by
    rw [List.find?_map]
    congr 2
    funext w
    simp [hi]
  refine { State.Keeps.refl s with hasWarp := fun v => ?_, roll := fun v => ?_ }
  · show (s.warps.map g).any _ = s.warps.any _
    rw [List.any_map]
    congr 1
    funext w
    simp [hi]
  · show (((s.warps.map g).find? _).getD {}).roll = ((s.warps.find? _).getD {}).roll
    rw [find]
    cases s.warps.find? (·.id == v) with
    | none => rfl
    | some w => exact hr w
theorem State.keeps_updWarp (s : State) (wid : Nat) (g : Warp → Warp) (hi : ∀ w, (g w).id = w.id) (hr : ∀ w, (g w).roll = w.roll) :
    s.Keeps (s.updWarp wid g) :=
  s.keeps_mapWarps _ (fun w => by split <;> simp [hi]) (fun w => by split <;> simp [hr])
theorem State.keeps_mapOps (s : State) (g : Op → Op) (hw : ∀ x, (g x).wid = x.wid) (ht : ∀ x, (g x).touched → x.touched) : s.Keeps (s.mapOps g) :=
  { State.Keeps.refl s with
    ops := fun y hy => by
      obtain ⟨x, hx, rfl⟩ := List.mem_map.1 hy
      exact ⟨x, hx, (hw x).symm, ht x⟩ }
theorem State.keeps_updOp (s : State) (o : Nat) (g : Op → Op) (hw : ∀ x, (g x).wid = x.wid) (ht : ∀ x, (g x).touched → x.touched) :
    s.Keeps (s.updOp o g) :=
  s.keeps_mapOps _ (fun x => by split <;> simp [hw]) fun x => by split; exacts [ht x, id]
theorem State.keeps_filterOps (s : State) (p : Op → Bool) : s.Keeps { s with ops := s.ops.filter p } :=
  { State.Keeps.refl s with ops := fun y hy => ⟨y, (List.mem_filter.1 hy).1, rfl, id⟩ }
theorem State.keeps_mapParked (s : State) (g : Parked → Parked) (ds : List Deferred)
    (hg : ∀ r, ∃ b, g r = { r with before := b } ∧ ((∀ x ∈ s.ops, x.wid ≠ r.wid) → b = r.before)) :
    s.Keeps { s with parked := s.parked.map g, deferred := ds } :=
  { State.Keeps.refl s with
    parked := fun r hr => by
      obtain ⟨b, e, h⟩ := hg r
      exact ⟨b, e ▸ List.mem_map_of_mem hr, h⟩ }

/-- A change of the lanes' accesses that starts no wait for a handler. -/
theorem Op.touched_mapAccs {x : Op} {g : Acc → Acc} (hg : ∀ a, (g a).stage = .touch → a.stage = .touch) (h : (x.mapAccs g).touched) : x.touched := by
  obtain ⟨_, hb, e⟩ := h
  obtain ⟨a, ha, rfl⟩ := List.mem_map.1 hb
  exact ⟨a, ha, hg a e⟩
theorem Acc.touch_of_drop {a : Acc} {stores : Bool} (h : (a.drop stores).stage = .touch) : a.stage = .touch := by
  unfold Acc.drop at h
  split at h
  · exact h
  · split at h <;> cases h
theorem Op.touched_dropAccs {x : Op} {p : Nat → Bool} (h : (x.dropAccs p).touched) : x.touched :=
  Op.touched_mapAccs (fun a e => by split at e; exacts [Acc.touch_of_drop e, e]) h

/-! ## The end of operations (R15, R41, R53) -/

theorem Warp.flagDown_roll (w : Warp) (n : Option Nat) : (w.flagDown n).roll = w.roll := by cases n <;> rfl
theorem State.keeps_flagDown (s : State) (wid : Nat) (n : Option Nat) : s.Keeps (s.updWarp wid fun w => w.flagDown n) :=
  s.keeps_updWarp wid _ (fun w => w.flagDown_id n) fun w => w.flagDown_roll n
/-- A value that an operation lands reaches the records of its own warp alone. -/
theorem State.keeps_landRegs (s : State) (x : Op) (hx : x ∈ s.ops) (o : Nat) (ws : List (Nat × Word)) : s.Keeps (s.landRegs x.wid o ws) := by
  refine ((s.keeps_updWarp x.wid (fun w => { w with regs := msetAll w.regs ws }) (fun _ => rfl) fun _ => rfl).trans
    (State.keeps_mapOps _ (fun y => if y.wid == x.wid && decide (o < y.id) then
      { y with before := y.before.landBefore (s.now (s.warp x.wid)) ws } else y) (fun y => by split <;> rfl) fun y => by split <;> exact id)).trans
    (State.keeps_mapParked _ _ _ fun r => ?_)
  dsimp only
  split
  · rename_i h
    simp only [Bool.and_eq_true, beq_iff_eq] at h
    refine ⟨_, rfl, fun hn => absurd ?_ (hn _ (List.mem_map_of_mem hx))⟩
    split <;> exact h.1.symm
  · exact ⟨r.before, rfl, fun _ => rfl⟩
theorem State.keeps_endOp (s : State) (o : Nat) : s.Keeps (s.endOp o) := by
  cases h : s.op? o with
  | none => unfold State.endOp; rw [h]; exact .refl s
  | some x => rw [State.endOp_some h]; exact (s.keeps_flagDown _ _).trans (State.keeps_filterOps (s.updWarp x.wid _) _)
theorem State.keeps_leaveOp (s : State) (x : Op) : s.Keeps (s.leaveOp x) :=
  (s.keeps_flagDown _ _).trans (State.keeps_updOp _ _ _ (fun _ => rfl) fun _ ⟨a, ha, e⟩ => ⟨a, (List.mem_filter.1 ha).1, e⟩)
theorem State.keeps_settle (s : State) (o : Nat) : s.Keeps (s.settle o) := by
  unfold State.settle
  split
  · exact .refl s
  · rename_i x h
    have hl := s.keeps_landRegs x (State.op?_mem h) o x.lastWrites
    exact .ite (.refl s) (.ite (hl.trans (State.keeps_leaveOp _ _)) (hl.trans (State.keeps_endOp _ _)))
theorem State.keeps_dropLanes (s : State) (wid o : Nat) (m : Lanes) : s.Keeps (s.dropLanes wid o m) := by
  refine (s.keeps_mapOps _ (fun x => ?_) fun x => ?_).trans (State.keeps_foldl _ _ State.keeps_settle _)
  · dsimp only
    split <;> rfl
  · dsimp only
    split
    · exact fun h => Op.touched_dropAccs (x := x) h
    · exact id
theorem State.keeps_unwait (s : State) (wid o : Nat) (m : Lanes) : s.Keeps (s.unwait wid o m) := by
  refine (s.keeps_mapOps _ (fun x => ?_) fun x => ?_).trans (State.keeps_foldl _ _ State.keeps_settle _)
  · dsimp only
    split
    · split <;> rfl
    · rfl
  · dsimp only
    split
    · split <;> exact id
    · exact id

/-! ## Reads and writes of the device (R13, R81, R403) -/

theorem State.keeps_retire {s t : State} {p pa : Nat} (h : s.retire p pa = some t) : s.Keeps t := by
  unfold State.retire at h
  split at h
  · cases h
  · rename_i pool _
    cases h
    exact (s.keeps_updPdk p (fun q => { q with pool }) (fun _ => rfl) fun _ => rfl).trans (.same (by rfl))
theorem State.keeps_eccMark (s : State) (p pa : Nat) (spec : Bool) (m : Option LineMark) : s.Keeps (s.eccMark none p pa spec m).2 := by
  unfold State.eccMark
  split
  · exact .refl s
  · exact .same rfl
  · exact .refl s
  · dsimp only [State.retried]
    split
    · exact .refl s
    · cases h : s.retire p pa with
      | none => exact .refl s
      | some t => exact State.keeps_retire h
theorem State.keeps_ecc (s : State) (p pa n : Nat) (spec : Bool) : s.Keeps (s.ecc none p pa n spec).2 := by
  unfold State.ecc
  split
  · exact .refl s
  · exact s.keeps_eccMark p pa spec _
theorem State.keeps_eccWrite (s : State) (p pa n : Nat) (spec : Bool) : s.Keeps (s.eccWrite none p pa n spec).2 := by
  unfold State.eccWrite
  split
  · exact s.keeps_eccMark p pa spec _
  · exact s.keeps_ecc p pa n spec
theorem State.keeps_noteS2 (s : State) (p pa : Nat) : s.Keeps (s.noteS2 p pa) := State.keeps_foldl _ _ (fun t _ => t.keeps_ecc _ _ _ _) s
theorem State.keeps_noteReads (s : State) (p : Nat) (reads : List (Nat × Nat)) : s.Keeps (s.noteReads p reads) := by
  refine State.keeps_foldl _ _ (fun t r => ?_) s
  dsimp only
  split
  · exact (t.keeps_noteS2 _ _).trans (State.keeps_foldl _ _ (fun u _ => u.keeps_ecc _ _ _ _) _)
  · exact t.keeps_noteS2 _ _
theorem State.keeps_evalWait (s : State) (o : Nat) : s.Keeps (s.evalWait o) := by
  unfold State.evalWait
  split
  · exact .refl s
  · refine .ite (.refl s) (.ite (.refl s) ?_)
    dsimp only
    refine .ite_of ((State.keeps_foldl _ _ (fun t a => .ite (.refl t) (.same (by rfl))) s).trans
      (State.keeps_updOp _ o _ (fun _ => by rfl) fun x h => ?_)) (.refl _) (State.keeps_settle _ _)
    refine Op.touched_mapAccs (fun a e => ?_) h
    split at e
    · cases e
    · exact e
theorem State.keeps_wake (s : State) (pa : Nat) : s.Keeps (s.wake pa) := State.keeps_foldl _ _ (fun t _ => t.keeps_evalWait _) s
theorem State.keeps_applyWrite (s : State) (p pa : Nat) (bs : List (BitVec 8)) (st : SMap 48) : s.Keeps (s.applyWrite p pa bs st) :=
  State.Keeps.trans (.same (by rfl)) (State.keeps_wake _ pa)
theorem State.keeps_devStore (s : State) (p die pa : Nat) (bs : List (BitVec 8)) : s.Keeps (s.devStore p die pa bs) := by
  refine .ite (.refl s) ((.same (by rfl) : s.Keeps (s.stampAt die).2).trans (State.keeps_foldl _ _ (fun t x => ?_) _))
  have he := t.keeps_eccWrite p x.1 x.2 (t.specDev p x.1)
  exact .ite (he.trans (State.keeps_applyWrite _ _ _ _ _)) he
theorem State.keeps_ifError (s : State) (p cause : Nat) : s.Keeps (s.ifError p cause) := by
  have stop (t : State) : t.Keeps { t with warps := t.warps.map fun w => if w.pdk == p then { w with stopped := true } else w } :=
    t.keeps_mapWarps _ (fun w => by split <;> rfl) fun w => by split <;> rfl
  have state (v : BitVec 64) := s.keeps_setReg p 0x0DC (fun _ => v) (by decide)
  exact .ite (.refl s) (.ite_of (.ite_of (.ite_of (state _) (State.keeps_setReg _ p 0x06C _ (by decide)) (.refl _)) (.refl _) (.same (by rfl)))
    (.refl _) (stop _))
theorem State.keeps_devWrite (s : State) (p pa : Nat) (bs : List (BitVec 8)) : s.Keeps (s.devWrite p pa bs) := by
  unfold State.devWrite
  dsimp only
  split
  · exact (s.keeps_noteS2 p pa).trans (State.keeps_devStore _ _ _ _ _)
  · exact (s.keeps_noteS2 p pa).trans (State.keeps_ifError _ _ _)
theorem State.keeps_postFault (s : State) (p asid code block bitmap events : Nat) (write : Bool) (pc : Nat) (lid : Word) (idx : Nat) :
    s.Keeps (s.postFault p asid code block bitmap events write pc lid idx) := by
  unfold State.postFault
  have posted (t : State) : t.Keeps ((t.updPdk p fun q => q.setReg 0x018 (q.reg 0x018 ||| 2)).raise p 0) :=
    (t.keeps_setReg p 0x018 _ (by decide)).trans (.same rfl)
  refine .ite (.refl s) ?_
  dsimp only
  split
  · exact s.keeps_ifError p 4
  · split
    · exact ((s.keeps_noteReads _ _).trans (State.keeps_devStore _ _ _ _ _)).trans (posted _)
    · exact .ite ((s.keeps_noteReads _ _).trans (State.keeps_setReg _ p 0x018 _ (by decide)))
        ((((s.keeps_noteReads _ _).trans (State.keeps_devStore _ _ _ _ _)).trans (State.keeps_setReg _ p 0x01C _ (by decide))).trans (posted _))

end Sys2Proof.Machine

/-! O53. A warp trap outside a region ejects the ASIDs of its warp one after another, and each takes with it the lanes that the record says; inside
a region it waits (R16, R106, R380, R465). -/
namespace Sys2Proof.Safety
open Sys2Proof Sys2Proof.Machine

/-! ## Masks of lanes -/

theorem mem_lanesOf {m : Lanes} {i : Nat} : i ∈ lanesOf m ↔ m.getLsbD i = true := by
  simp only [lanesOf, lanes32, List.mem_filter, List.mem_range, and_iff_right_iff_imp]
  exact BitVec.lt_of_getLsbD
theorem getLsbD_maskOf (p : Nat → Bool) {i : Nat} (hi : i < 32) : (maskOf p).getLsbD i = p i := by
  have fold (l : List Nat) (m : Lanes) :
      (l.foldl (fun m i => if p i then m ||| (1#32 <<< i) else m) m).getLsbD i = (m.getLsbD i || (decide (i ∈ l) && p i)) := by
    induction l generalizing m with
    | nil => simp
    | cons k r ih =>
      rw [List.foldl_cons, ih]
      by_cases hk : i = k
      · subst hk
        cases p i <;> simp [hi]
      · have shift : (1#32 <<< k).getLsbD i = false := by
          simp only [BitVec.getLsbD_shiftLeft, BitVec.getLsbD_one]
          simp
          omega
        cases p k <;> simp [hk, shift]
  rw [maskOf, fold]
  simp [lanes32, hi]
/-- The lanes of a warp whose ASID is none of some. -/
def lanesBut (w : Warp) (l : List Nat) : Lanes := maskOf fun i => !l.contains (w.asidOf i)

theorem and_lanesBut_nil (w : Warp) (m : Lanes) : m &&& lanesBut w [] = m := by
  refine BitVec.eq_of_getLsbD_eq fun i hi => ?_
  simp [lanesBut, getLsbD_maskOf _ hi, -BitVec.getLsbD_eq_getElem]
theorem and_asidMask_of_not_mem {w : Warp} {l : List Nat} {a : Nat} (m : Lanes) (ha : a ∉ l) :
    m &&& lanesBut w l &&& w.asidMask a = m &&& w.asidMask a := by
  refine BitVec.eq_of_getLsbD_eq fun i hi => ?_
  simp only [lanesBut, Warp.asidMask, BitVec.getLsbD_and, getLsbD_maskOf _ hi]
  by_cases e : w.asidOf i = a
  · simp [e, ha]
  · simp [beq_false_of_ne e]
theorem and_lanesBut_append (w : Warp) (l : List Nat) (a : Nat) (m : Lanes) :
    m &&& lanesBut w l &&& ~~~(m &&& w.asidMask a) = m &&& lanesBut w (l ++ [a]) := by
  refine BitVec.eq_of_getLsbD_eq fun i hi => ?_
  simp only [lanesBut, Warp.asidMask, BitVec.getLsbD_and, BitVec.getLsbD_not, getLsbD_maskOf _ hi]
  by_cases e : w.asidOf i = a <;> cases m.getLsbD i <;> simp [e, hi]
/-- No lane of a mask is left once the ASIDs of all of its lanes are taken out. -/
theorem and_lanesBut_asids {w : Warp} {m n : Lanes} (h : ∀ i, m.getLsbD i = true → n.getLsbD i = true) : m &&& lanesBut w (w.asids n) = 0 := by
  refine BitVec.eq_of_getLsbD_eq fun i hi => ?_
  simp only [lanesBut, BitVec.getLsbD_and, getLsbD_maskOf _ hi]
  cases e : m.getLsbD i with
  | false => simp
  | true =>
    have : w.asidOf i ∈ w.asids n := List.mem_eraseDups.2 (List.mem_map_of_mem (mem_lanesOf.2 (h i e)))
    simp [this]

/-! ## One ASID is ejected (R106) -/

/-- The lanes of an ASID, as they stand in `v`, are parked. -/
def withoutAsid (v : Warp) (a : Nat) (w : Warp) : Warp :=
  { w with park := w.park ||| (v.alive &&& v.asidMask a) ||| (v.held &&& v.asidMask a), held := w.held &&& ~~~(v.held &&& v.asidMask a) }
theorem alive_withoutAsid (w : Warp) (a : Nat) : (withoutAsid w a w).alive = w.alive &&& ~~~(w.alive &&& w.asidMask a) := by
  refine BitVec.eq_of_getLsbD_eq fun i hi => ?_
  simp only [withoutAsid, Warp.alive, BitVec.getLsbD_and, BitVec.getLsbD_or, BitVec.getLsbD_not, hi, decide_true, Bool.true_and]
  cases w.live.getLsbD i <;> cases w.park.getLsbD i <;> cases (w.asidMask a).getLsbD i <;> simp

/-- An ASID with lanes that live, or are HELD, and none of which waits for a handler, leaves for a record that resumes where the trap is. -/
theorem ejectAsid_parks {s : State} {wid a o n : Nat} {pc : DWord} {w0 : Warp} {fs : List LaneFault}
    (hl : ((s.warp wid).alive &&& (s.warp wid).asidMask a) ||| ((s.warp wid).held &&& (s.warp wid).asidMask a) ≠ 0)
    (hw : ∀ x ∈ s.ops, x.wid = wid → ¬x.touched) :
    let e := (s.warp wid).alive &&& (s.warp wid).asidMask a
    ∃ r : Parked, r.wid = wid ∧ r.asid = a ∧ r.pc = pc ∧ r.lanes = w0.active &&& e ∧ r.before = w0.landAll ∧
      (s.ejectAsid wid a pc w0 o fs n).2 = ((({ s with nextId := s.nextId + 1, parked := s.parked ++ [r] } : State).updWarp wid
        (withoutAsid (s.warp wid) a)).dropLanes wid o e).unwait wid o e := by
  have hnone : s.waitingOp wid o ((s.warp wid).alive &&& (s.warp wid).asidMask a) = none := by
    refine List.find?_eq_none.2 fun x hx hc => ?_
    simp only [Bool.and_eq_true, beq_iff_eq, List.any_eq_true] at hc
    obtain ⟨⟨he, -⟩, y, hy, ht, -⟩ := hc
    exact hw x hx he ⟨y, hy, ht⟩
  simp only [State.ejectAsid, hnone, beq_iff_eq, hl, if_false, State.takeId]
  exact ⟨_, rfl, rfl, rfl, rfl, rfl, rfl⟩

theorem nodup_eraseDups : ∀ l : List Nat, l.eraseDups.Nodup
  | [] => List.nodup_nil
  | a :: r => by
    rw [List.eraseDups_cons]
    exact List.nodup_cons.2 ⟨by simp [List.mem_eraseDups], nodup_eraseDups _⟩
termination_by l => l.length
decreasing_by exact Nat.lt_succ_of_le (List.length_filter_le _ _)

/-! ## The ASIDs of a trapping warp leave it one after another (R380) -/

/-- Where a warp trap stands once the lanes of some ASIDs have left: `w0` is the warp before the trapping word. -/
structure Leaving (s : State) (wid : Nat) (w0 : Warp) (out : List Nat) (t : State) : Prop where
  has : t.hasWarp wid = true
  asid : (t.warp wid).asid = (s.warp wid).asid
  alive : (t.warp wid).alive = (s.warp wid).alive &&& lanesBut (s.warp wid) out
  held : (t.warp wid).held = (s.warp wid).held &&& lanesBut (s.warp wid) out
  agenda : t.agenda = s.agenda
  calm : ∀ x ∈ t.ops, x.wid = wid → ¬x.touched
  idle : (∀ x ∈ s.ops, x.wid ≠ wid) → ∀ x ∈ t.ops, x.wid ≠ wid
  stay : ∀ r ∈ s.parked, ∃ b, { r with before := b } ∈ t.parked
  parks : ∀ a ∈ out, ∃ r ∈ t.parked, r.wid = wid ∧ r.asid = a ∧ r.pc = w0.pc ∧
    r.lanes = w0.active &&& ((s.warp wid).alive &&& (s.warp wid).asidMask a) ∧ ((∀ x ∈ s.ops, x.wid ≠ wid) → r.before = w0.landAll)

theorem Leaving.start {s : State} {wid : Nat} (w0 : Warp) (h : s.hasWarp wid = true) (hw : ∀ x ∈ s.ops, x.wid = wid → ¬x.touched) :
    Leaving s wid w0 [] s where
  has := h
  asid := rfl
  alive := (and_lanesBut_nil _ _).symm
  held := (and_lanesBut_nil _ _).symm
  agenda := rfl
  calm := hw
  idle h := h
  stay r hr := ⟨r.before, hr⟩
  parks := nofun

theorem Leaving.keeps {s t u : State} {wid : Nat} {w0 : Warp} {out : List Nat} (h : Leaving s wid w0 out t) (k : t.Keeps u) :
    Leaving s wid w0 out u := by
  obtain ⟨hlive, hpark, hheld, hasid⟩ : _ ∧ _ ∧ _ ∧ _ := by simpa only [Warp.roll, Prod.mk.injEq] using k.roll wid
  exact {
    has := (k.hasWarp wid).trans h.has
    asid := hasid.trans h.asid
    alive := by rw [← h.alive, Warp.alive, hlive, hpark]; rfl
    held := hheld.trans h.held
    agenda := k.agenda.trans h.agenda
    calm := fun y hy e ht => by
      obtain ⟨x, hx, ex, hxt⟩ := k.ops y hy
      exact h.calm x hx (ex.trans e) (hxt ht)
    idle := fun hn y hy e => by
      obtain ⟨x, hx, ex, -⟩ := k.ops y hy
      exact h.idle hn x hx (ex.trans e)
    stay := fun r hr => by
      obtain ⟨b, hb⟩ := h.stay r hr
      obtain ⟨c, hc, -⟩ := k.parked _ hb
      exact ⟨c, hc⟩
    parks := fun a ha => by
      obtain ⟨r, hr, hw, e⟩ := h.parks a ha
      obtain ⟨b, hb, hbe⟩ := k.parked r hr
      refine ⟨_, hb, hw, e.1, e.2.1, e.2.2.1, fun hn => ?_⟩
      exact (hbe (hw ▸ h.idle hn)).trans (e.2.2.2 hn) }

theorem Leaving.eject {s t : State} {wid a o n : Nat} {w0 : Warp} {out : List Nat} {fs : List LaneFault} (h : Leaving s wid w0 out t)
    (ha : a ∉ out) (hm : a ∈ (s.warp wid).asids ((s.warp wid).alive ||| (s.warp wid).held)) :
    Leaving s wid w0 (out ++ [a]) (t.ejectAsid wid a w0.pc w0 o fs n).2 := by
  have hmask : (t.warp wid).asidMask a = (s.warp wid).asidMask a := by simp only [Warp.asidMask, Warp.asidOf, h.asid]
  have he : (t.warp wid).alive &&& (t.warp wid).asidMask a = (s.warp wid).alive &&& (s.warp wid).asidMask a := by
    rw [hmask, h.alive, and_asidMask_of_not_mem _ ha]
  have hh : (t.warp wid).held &&& (t.warp wid).asidMask a = (s.warp wid).held &&& (s.warp wid).asidMask a := by
    rw [hmask, h.held, and_asidMask_of_not_mem _ ha]
  have hne : ((t.warp wid).alive &&& (t.warp wid).asidMask a) ||| ((t.warp wid).held &&& (t.warp wid).asidMask a) ≠ 0 := by
    obtain ⟨i, hi, rfl⟩ := List.mem_map.1 (List.mem_eraseDups.1 hm)
    have hi := mem_lanesOf.1 hi
    have hlt := BitVec.lt_of_getLsbD hi
    refine fun hz => Bool.false_ne_true ?_
    calc false = (0 : Lanes).getLsbD i := by simp
      _ = true := by
        rw [← hz, he, hh]
        simpa only [Warp.asidMask, BitVec.getLsbD_or, BitVec.getLsbD_and, getLsbD_maskOf _ hlt, beq_self_eq_true, Bool.and_true] using hi
  obtain ⟨r, hw, hasid, hpc, hlanes, hbefore, e⟩ := ejectAsid_parks (pc := w0.pc) (w0 := w0) (fs := fs) (o := o) (n := n) hne h.calm
  rw [e]
  refine Leaving.keeps ?_ ((State.keeps_dropLanes _ _ _ _).trans (State.keeps_unwait _ _ _ _))
  have hwarp := State.warp_updWarp { t with nextId := t.nextId + 1, parked := t.parked ++ [r] } wid (withoutAsid (t.warp wid) a) (fun _ => rfl) h.has
  exact {
    has := (State.hasWarp_updWarp _ wid wid (withoutAsid _ a) fun _ => rfl).trans h.has
    asid := by rw [hwarp]; exact h.asid
    alive := by
      rw [hwarp, ← and_lanesBut_append, ← and_asidMask_of_not_mem _ ha, ← hmask, ← h.alive]
      exact alive_withoutAsid _ a
    held := by
      rw [hwarp, ← and_lanesBut_append, ← and_asidMask_of_not_mem _ ha, ← hmask, ← h.held]
      rfl
    agenda := h.agenda
    calm := h.calm
    idle := h.idle
    stay := fun x hx => by
      obtain ⟨b, hb⟩ := h.stay x hx
      exact ⟨b, List.mem_append_left _ hb⟩
    parks := fun b hb => by
      rcases List.mem_append.1 hb with hb | hb
      · obtain ⟨x, hx, hrest⟩ := h.parks b hb
        exact ⟨x, List.mem_append_left _ hx, hrest⟩
      · cases List.mem_singleton.1 hb
        exact ⟨r, List.mem_append_right _ (List.mem_singleton_self r), hw, hasid, hpc, hlanes.trans (congrArg _ he), fun _ => hbefore⟩ }

/-- The ASIDs of a list leave, each once. -/
theorem Leaving.foldl {s : State} {wid : Nat} {w0 : Warp} {k : State → Nat → State}
    (hk : ∀ t out a, Leaving s wid w0 out t → a ∉ out → a ∈ (s.warp wid).asids ((s.warp wid).alive ||| (s.warp wid).held) →
      Leaving s wid w0 (out ++ [a]) (k t a))
    (l out : List Nat) (t : State) (h : Leaving s wid w0 out t) (hn : (out ++ l).Nodup)
    (hl : ∀ a ∈ l, a ∈ (s.warp wid).asids ((s.warp wid).alive ||| (s.warp wid).held)) : Leaving s wid w0 (out ++ l) (l.foldl k t) := by
  induction l generalizing out t with
  | nil => simpa using h
  | cons a r ih =>
    have ha : a ∉ out := fun hm => (List.nodup_append.1 hn).2.2 a hm a List.mem_cons_self rfl
    rw [List.append_cons] at hn ⊢
    exact ih _ _ (hk t out a h ha (hl a List.mem_cons_self)) hn fun b hb => hl b (List.mem_cons_of_mem _ hb)

/-! ## Nothing is written where fault records are off (R109) -/

theorem near_dropLanes (s : State) (wid o : Nat) (m : Lanes) : s.Near (s.dropLanes wid o m) :=
  (s.near_mapOps _).trans (State.near_foldl _ _ State.near_settle _)
theorem near_unwait (s : State) (wid o : Nat) (m : Lanes) : s.Near (s.unwait wid o m) :=
  (s.near_mapOps _).trans (State.near_foldl _ _ State.near_settle _)
theorem ejectAsid_mem_pdks (s : State) (wid a o n : Nat) (pc : DWord) (w0 : Warp) (fs : List LaneFault) :
    (s.ejectAsid wid a pc w0 o fs n).2.mem = s.mem ∧ (s.ejectAsid wid a pc w0 o fs n).2.pdks = s.pdks := by
  have near (t : State) (e : Nat → Lanes) (o : Nat) : t.Near ((t.dropLanes wid o (e 0)).unwait wid o (e 0)) :=
    (near_dropLanes t wid o _).trans (near_unwait _ wid o _)
  unfold State.ejectAsid
  dsimp only
  split
  · exact ⟨rfl, rfl⟩
  · exact ⟨(near _ (fun _ => _) _).mem, (near _ (fun _ => _) _).pdks⟩
theorem postFault_off {s : State} {p : Nat} (h : bitAt ((s.pdk p).reg 0x010).toNat 0 = false) (asid code block bitmap events : Nat) (write : Bool)
    (pc : Nat) (lid : Word) (idx : Nat) : s.postFault p asid code block bitmap events write pc lid idx = s := by
  unfold State.postFault
  rw [if_pos (by simp [h])]

/-! ## The two cases -/

/-- R380: outside a region the ASIDs of the warp leave it, and it ends. -/
theorem trapNow_leaves {s : State} {wid : Nat} (code : Nat) {w0 : Warp} (h : s.hasWarp wid = true) (hk : (s.warp wid).kind ≠ .handler)
    (hc : ∀ x ∈ s.ops, x.wid = wid → ¬x.touched) :
    let t := s.trapNow wid code w0.pc w0.pc w0 s.nextId w0.leftAt
    ∃ u, Leaving s wid w0 ((s.warp wid).asids ((s.warp wid).alive ||| (s.warp wid).held)) u ∧
      (bitAt ((s.pdk (s.warp wid).pdk).reg 0x010).toNat 0 = false → u.mem = s.mem) ∧ t.parked = u.parked ∧ t.mem = u.mem ∧
      t.agenda = u.agenda ∧ t.warp wid = { u.warp wid with ended := true, region := none, held := 0 } := by
  unfold State.trapNow
  simp only [beq_iff_eq, hk, if_false]
  have leaves := Leaving.foldl (s := s) (wid := wid) (w0 := w0) (k := fun (t : State) a =>
    let r := t.ejectAsid wid a w0.pc w0 s.nextId ((lanesOf (((s.warp wid).alive ||| (s.warp wid).held) &&& (s.warp wid).asidMask a)).map
      fun i => { lane := i, code, va := w0.pc }) w0.leftAt
    r.2.postFault (s.warp wid).pdk a code (blockOf w0.pc.toNat) 0 (popcount (((s.warp wid).alive ||| (s.warp wid).held) &&& (s.warp wid).asidMask a))
      false w0.pc.toNat (s.lidOf (s.warp wid)) r.1) (fun t out a ht ha hm => (ht.eject ha hm).keeps (State.keeps_postFault _ _ _ _ _ _ _ _ _ _ _))
    _ [] s (.start w0 h hc) (nodup_eraseDups _) fun a ha => ha
  refine ⟨_, leaves, fun hoff => ?_, rfl, rfl, rfl, State.warp_updWarp _ wid _ (fun _ => rfl) leaves.has⟩
  refine And.left (List.foldlRecOn (motive := fun (t : State) => t.mem = s.mem ∧ t.pdks = s.pdks) _ _ ⟨rfl, rfl⟩ fun t ht a _ => ?_)
  obtain ⟨hm, hp⟩ := ejectAsid_mem_pdks t wid a s.nextId w0.leftAt w0.pc w0
    ((lanesOf (((s.warp wid).alive ||| (s.warp wid).held) &&& (s.warp wid).asidMask a)).map fun i => { lane := i, code, va := w0.pc })
  dsimp only
  rw [postFault_off]
  · exact ⟨hm.trans ht.1, hp.trans ht.2⟩
  · rw [State.pdk, hp.trans ht.2]
    exact hoff

/-- No operation is as young as the trapping word: none loses a lane. -/
theorem dropLanes_of_older {s : State} {o : Nat} (h : ∀ x ∈ s.ops, x.id < o) (wid : Nat) (m : Lanes) : s.dropLanes wid o m = s := by
  have mine (x : Op) (hx : x ∈ s.ops) : (x.wid == wid && decide (o ≤ x.id)) = false := by simp [Nat.not_le.2 (h x hx)]
  have hmap : s.ops.map (fun x => if (x.wid == wid && decide (o ≤ x.id)) = true then { x.dropAccs m.getLsbD with mask := x.mask &&& ~~~m } else x) = s.ops :=
    (List.map_congr_left fun x hx => by rw [mine x hx]; rfl).trans (List.map_id _)
  have hfilter : s.ops.filter (fun x => (x.wid == wid && decide (o ≤ x.id)) && !x.accs.isEmpty) = [] :=
    List.filter_eq_nil_iff.2 fun x hx => by simp [mine x hx]
  unfold State.dropLanes
  simp only [hfilter, State.mapOps, hmap]
  rfl

/-- Settles O53: outside a region by what leaves the warp with each of its ASIDs, inside one because no operation is as young as the trap. -/
theorem takingTraps : Obligations.TakingTraps := by
  refine ⟨fun s wid code w0 hw hk hr hcode htouch => ?_, fun s wid code w0 r hw hr hcode hid => ?_⟩
  · have ht : s.trapAt wid w0 code = s.trapNow wid code w0.pc w0.pc w0 s.nextId w0.leftAt := by
      simp only [State.trapAt, State.warpTrap, State.takeTrap, hr, beq_false_of_ne hcode, Bool.false_and, Bool.false_eq_true, if_false]
    have hcalm : ∀ x ∈ s.ops, x.wid = wid → ¬x.touched := fun x hx e ⟨a, ha, hs⟩ => htouch x hx e a ha hs
    obtain ⟨u, hu, hoff, hparked, hmem, hagenda, hwarp⟩ := trapNow_leaves code hw hk hcalm (w0 := w0)
    dsimp only
    rw [ht, hwarp, hparked, hmem, hagenda]
    refine ⟨rfl, ?_, rfl, hu.agenda, hu.stay, fun a ha => ?_, hoff⟩
    · refine (show _ = (u.warp wid).alive from rfl).trans (hu.alive.trans (and_lanesBut_asids fun i hi => ?_))
      simp [BitVec.getLsbD_or, hi]
    · exact hu.parks a ha
  · have ht : s.trapAt wid w0 code = ({ s with deferred := s.deferred ++
        [{ wid, pc := w0.pc, left := w0.leftAt, trap := some code, upto := s.nextId, before := w0 }] } : State).updWarp wid fun w =>
          { w with region := some { r with doomed := BitVec.allOnes 32 } } := by
      simp only [State.trapAt, State.warpTrap, State.takeTrap, hr, beq_false_of_ne hcode, Bool.false_and, Bool.false_eq_true, if_false]
      exact dropLanes_of_older (by exact hid) wid _
    dsimp only
    rw [ht]
    exact ⟨State.warp_updWarp _ wid _ (fun _ => rfl) hw, rfl, rfl, rfl, _, rfl, rfl, rfl, rfl⟩

end Sys2Proof.Safety

/-! SUPPORT. Commands (R351 to R353): a command that is the next to start runs; what a change of its ring leaves as it was; and its report. -/
namespace Sys2Proof.Safety
open Sys2Proof Sys2Proof.Machine

/-! ## A change of a ring -/

@[simp] theorem updRing_mem (s : State) (p : Nat) (g : Ring → Ring) : (s.updRing p g).mem = s.mem := by unfold State.updRing; split <;> rfl
@[simp] theorem updRing_launches (s : State) (p : Nat) (g : Ring → Ring) : (s.updRing p g).launches = s.launches := by
  unfold State.updRing; split <;> rfl
@[simp] theorem updRing_warps (s : State) (p : Nat) (g : Ring → Ring) : (s.updRing p g).warps = s.warps := by unfold State.updRing; split <;> rfl
@[simp] theorem updRing_agenda (s : State) (p : Nat) (g : Ring → Ring) : (s.updRing p g).agenda = s.agenda := by unfold State.updRing; split <;> rfl
@[simp] theorem updRing_nextId (s : State) (p : Nat) (g : Ring → Ring) : (s.updRing p g).nextId = s.nextId := by unfold State.updRing; split <;> rfl
@[simp] theorem updRing_hasPdk (s : State) (p q : Nat) (g : Ring → Ring) : (s.updRing p g).hasPdk q = s.hasPdk q := by
  unfold State.updRing
  split
  · rfl
  · exact s.hasPdk_updPdk p q _ fun _ => rfl
/-- What of a paddock is not its ring stays. -/
theorem pdk_updRing_keep {α : Type} (s : State) (p q : Nat) (g : Ring → Ring) (r : Pdk → α) (hr : ∀ x ring, r { x with ring } = r x) :
    r ((s.updRing p g).pdk q) = r (s.pdk q) := by
  unfold State.updRing
  split
  · rfl
  · exact s.pdk_updPdk_keep p q _ r (fun _ => rfl) fun x => hr x _
theorem ringOf_updRing {s : State} {p : Nat} (h : p = 0 ∨ s.hasPdk p = true) (g : Ring → Ring) : (s.updRing p g).ringOf p = g (s.ringOf p) := by
  unfold State.updRing State.ringOf
  split
  · rfl
  · exact congrArg Pdk.ring (s.pdk_updPdk p _ (fun _ => by rfl) (h.resolve_left ‹_›))
/-- A number that no paddock has reads as an empty one. -/
theorem pdk_of_not_hasPdk {s : State} {p : Nat} (h : s.hasPdk p ≠ true) : s.pdk p = { no := p } := by
  have : s.pdks.find? (·.no == p) = none := List.find?_eq_none.2 fun q hq e => h (List.any_eq_true.2 ⟨q, hq, e⟩)
  rw [State.pdk, this, Option.getD_none]
/-- A command stands only in a ring that there is. -/
theorem hasRing_of_mem {s : State} {p : Nat} {c : Cmd} (h : c ∈ (s.ringOf p).cmds) : p = 0 ∨ s.hasPdk p = true := by
  by_cases hp : p = 0
  · exact .inl hp
  · refine .inr (by_contra fun hn => ?_)
    rw [State.ringOf, if_neg hp, pdk_of_not_hasPdk hn] at h
    cases h

/-! ## A command that waits for its report (R353) -/

/-- A command of a ring has started and is not reported. -/
def Open (s : State) (p seq : Nat) (opc : Nat) : Prop :=
  ∃ c ∈ (s.ringOf p).cmds, c.seq = seq ∧ c.opc = opc ∧ c.started = true ∧ c.report = none

theorem Open.hasRing {s : State} {p seq opc : Nat} (h : Open s p seq opc) : p = 0 ∨ s.hasPdk p = true := by
  obtain ⟨c, hc, -⟩ := h
  exact hasRing_of_mem hc
theorem began_open {s : State} {p seq opc : Nat} {x : BitVec 256} (h : s.toStart p seq opc x = true) : Open (began s p seq) p seq opc := by
  unfold State.toStart at h
  split at h
  · rename_i c hc
    simp only [Bool.and_eq_true, beq_iff_eq, Option.isNone_iff_eq_none] at h
    obtain ⟨⟨⟨hs, ho⟩, -⟩, hr⟩ := h
    have hm := List.mem_of_find?_eq_some hc
    rw [Open, began, State.updCmd, ringOf_updRing (hasRing_of_mem hm)]
    exact ⟨{ c with started := true }, List.mem_map.2 ⟨c, hm, by simp [hs]⟩, hs, ho, rfl, hr⟩
  · cases h
theorem Open.of_ringOf {s t : State} {p seq opc : Nat} (e : t.ringOf p = s.ringOf p) (h : Open s p seq opc) : Open t p seq opc := by
  rw [Open, e]
  exact h
/-- The first report of a command stands. -/
theorem reported_of_mem {s : State} {p : Nat} {r : Report} {c : Cmd} (hc : c ∈ (s.ringOf p).cmds) (hs : c.seq = r.seq) (hr : c.report = none) :
    Reported (s.report p r) p r.seq r.status r.reason := by
  rw [Reported, State.report, ringOf_updRing (hasRing_of_mem hc)]
  exact ⟨{ c with report := some { r with tsc := s.tsc p } }, List.mem_map.2 ⟨c, hc, by simp [hs, hr]⟩, hs, _, rfl, rfl, rfl⟩
theorem Open.done {s : State} {p seq opc : Nat} (h : Open s p seq opc) : Reported (s.reportDone p seq) p seq 0 0 := by
  obtain ⟨c, hc, hs, -, -, hr⟩ := h
  exact reported_of_mem (r := { seq }) hc hs hr

/-- The next command to start runs: `k` does it. -/
theorem command_next {s : State} {p seq opc : Nat} {x : BitVec 256} (h : s.toStart p seq opc x = true) (k : State → State) :
    s.command p seq opc x k = .next (k (began s p seq)) := by
  rw [State.command, if_pos h]
  rfl

@[simp] theorem began_mem (s : State) (p seq : Nat) : (began s p seq).mem = s.mem := updRing_mem _ _ _
@[simp] theorem began_launches (s : State) (p seq : Nat) : (began s p seq).launches = s.launches := updRing_launches _ _ _
@[simp] theorem began_warps (s : State) (p seq : Nat) : (began s p seq).warps = s.warps := updRing_warps _ _ _
@[simp] theorem began_agenda (s : State) (p seq : Nat) : (began s p seq).agenda = s.agenda := updRing_agenda _ _ _
@[simp] theorem began_nextId (s : State) (p seq : Nat) : (began s p seq).nextId = s.nextId := updRing_nextId _ _ _
theorem pdk_began_keep {α : Type} (s : State) (p seq q : Nat) (r : Pdk → α) (hr : ∀ x ring, r { x with ring } = r x) :
    r ((began s p seq).pdk q) = r (s.pdk q) := pdk_updRing_keep s p q _ r hr

end Sys2Proof.Safety

/-! O45. RESUME, PREEMPT, CRESUME, code mapping, templates, shares and the rink: a theorem for each clause. Each command reads its request in a
state that the reads leave as it was (`Keeps`), or as it is (`Clean`), changes what the rules name, and is reported. -/
namespace Sys2Proof.Safety
open Sys2Proof Sys2Proof.Machine

/-! ## The context area (R389, R394, R432) -/

theorem keeps_ctxPut (s : State) (p pa : Nat) (bs : List (BitVec 8)) : s.Keeps (s.ctxPut p pa bs) := .ite (s.keeps_devWrite p pa bs) (s.keeps_ifError p 4)
theorem keeps_updRoom (s : State) (p idx : Nat) (g : Room → Room) : s.Keeps (s.updRoom p idx g) := by
  unfold State.updRoom
  split
  · exact .refl s
  · exact (s.keeps_updPdk p _ (fun _ => by rfl) fun _ => by rfl).trans (keeps_ctxPut _ _ _ _)
theorem keeps_ctxNote (s : State) (p : Nat) (reads : List (Nat × Nat)) : s.Keeps (s.ctxNote p reads) :=
  State.keeps_foldl _ _ (fun t _ => .ite (t.keeps_ifError p 4) (t.keeps_noteReads p _)) s
theorem keeps_adoptRoom (s : State) (p : Nat) (r : Room) : s.Keeps (s.adoptRoom p r) :=
  s.keeps_updPdk p _ (fun q => by split <;> rfl) fun q => by split <;> rfl
theorem keeps_noteWaiting (s : State) (p : Nat) : s.Keeps (s.noteWaiting p) := .ite (s.keeps_setReg p 0x06C _ (by decide)) (.refl s)

/-! ## PRESUME (R17, R396) -/

theorem launchRec_id {s : State} {i : Nat} (h : ∃ l ∈ s.launches, l.id = i) : (s.launchRec i).id = i := by
  obtain ⟨l, hl, rfl⟩ := h
  obtain ⟨m, hm⟩ := Option.isSome_iff_exists.1 (List.find?_isSome (p := fun x : Launch => x.id == l.id).2 ⟨l, hl, beq_self_eq_true _⟩)
  rw [State.launchRec, hm]
  simpa using List.find?_some hm

/-- R17: a parked record becomes a cluster of one warp at the end of its launch. -/
theorem resumeRecord_eq (s : State) (p seq : Nat) (r : Room) (k : Parked) (more : List Launch)
    (h : ∃ l ∈ s.launches ++ more, l.id = k.before.launch) :
    ∃ (u : State) (i : Nat) (c : Cluster) (w : Warp),
      s.resumeRecord p seq r k more = (u.updLaunch i fun l => { l with clusters := l.clusters ++ [c] }).noteWaiting p ∧
      u.launches = s.launches ++ more ∧ i = k.before.launch ∧ c.warps = [w] ∧ w.pc = k.pc ∧ w.live = k.lanes ∧ w.exm = k.lanes ∧
      w.held = k.held ∧ c.queued = true ∧ c.state = .waiting ∧ c.room = some r.idx ∧ c.cmd = some seq ∧
      c.rank = resumedRank + (s.nextId + more.length) :=
  ⟨_, _, _, _, rfl, ((keeps_updRoom _ p _ _).trans (keeps_ctxPut _ _ _ _)).launches, launchRec_id h, rfl, rfl, rfl, rfl, rfl, rfl, rfl, rfl, rfl, rfl⟩

theorem execPresume_next {s : State} {p seq : Nat} {x : BitVec 256} {r : Room} {k : Parked} {more : List Launch}
    (h : s.toStart p seq 0x24 x = true) (hz : unusedZero x [(244, 12)] = true) (hr : (began s p seq).room? p (fld x.toNat 244 12) 3 = some r)
    (hk : (began s p seq).readRecord p r = some (k, more)) :
    ∃ reads, execPresume p seq x s = .next (((began s p seq).ctxNote p reads).resumeRecord p seq r k more) := by
  unfold execPresume
  rw [command_next h]
  simp only [hz, hr, hk]
  exact ⟨_, rfl⟩

theorem presume_resumes (r : Room) (k : Parked) (more : List Launch) : Command .presume 0x24
    (fun u p _ x => unusedZero x [(244, 12)] = true ∧ u.room? p (fld x.toNat 244 12) 3 = some r ∧ u.readRecord p r = some (k, more) ∧
      ∃ l ∈ u.launches ++ more, l.id = k.before.launch)
    (fun s t _ seq _ => ∃ c w, c.warps = [w] ∧ w.pc = k.pc ∧ w.live = k.lanes ∧ w.exm = k.lanes ∧ w.held = k.held ∧ c.queued = true ∧
      c.state = .waiting ∧ c.room = some r.idx ∧ c.cmd = some seq ∧ c.rank = resumedRank + (s.nextId + more.length) ∧
      t.launches = (s.launches ++ more).map fun l => if l.id = k.before.launch then { l with clusters := l.clusters ++ [c] } else l) := by
  rintro s p seq x h ⟨hz, hr, hk, hl⟩
  obtain ⟨reads, e⟩ := execPresume_next h hz hr hk
  have note := keeps_ctxNote (began s p seq) p reads
  have launches : ((began s p seq).ctxNote p reads).launches = s.launches := note.launches.trans (began_launches s p seq)
  rw [began_launches, ← launches] at hl
  obtain ⟨u, i, c, w, eq, hu, rfl, hw, hpc, hlive, hexm, hheld, hq, hst, hroom, hcmd, hrank⟩ := resumeRecord_eq _ p seq r k more hl
  rw [note.nextId, began_nextId] at hrank
  refine ⟨_, e, c, w, hw, hpc, hlive, hexm, hheld, hq, hst, hroom, hcmd, hrank, ?_⟩
  rw [eq, (keeps_noteWaiting _ p).launches, State.updLaunch, hu, launches]
  simp only [beq_iff_eq]

/-! ## PREEMPT (R397) -/

theorem preempt_asks (l : Launch) : Command .preempt 0x25
    (fun u p _ x => unusedZero x [(192, 64)] = true ∧ u.byLid p (fld x.toNat 224 32) = some l ∧ l.desc.timed = false ∧
      ∃ c ∈ l.clusters, c.state = .resident)
    (fun s t p seq x => t.agenda = s.agenda ++ [.preemptRequest p (fld x.toNat 224 32) (fld x.toNat 192 32)] ∧ t.warps = s.warps ∧ t.mem = s.mem ∧
      ∃ c ∈ (t.ringOf p).cmds, c.seq = seq ∧ c.left = s.namedRooms l (fld x.toNat 192 32)) := by
  rintro s p seq x h ⟨hz, hl, ht, c, hc, hres⟩
  have hall : (l.clusters.all (·.state != .resident)) = false := List.all_eq_false.2 ⟨c, hc, by simp [hres]⟩
  have hnamed (t : State) : t.namedRooms l (fld x.toNat 192 32) = (l.named (fld x.toNat 192 32)).filterMap fun k => k.room.map (4096 * l.pdk + ·) := by
    simp only [State.namedRooms, ht, Bool.false_eq_true, if_false]
  obtain ⟨d, hd, hseq, -⟩ := began_open h
  rw [exec_preempt, execPreempt, command_next h]
  simp only [hz, hl, hall, ht, hnamed, Bool.not_true, Bool.false_eq_true, if_false]
  refine ⟨_, rfl, by rw [began_agenda], (updRing_warps _ _ _).trans (began_warps s p seq), (updRing_mem _ _ _).trans (began_mem s p seq), ?_⟩
  refine ⟨{ d with left := (l.named (fld x.toNat 192 32)).filterMap fun k => k.room.map (4096 * l.pdk + ·) }, ?_, hseq, rfl⟩
  show _ ∈ (((began s p seq).updCmd p seq _).ringOf p).cmds
  rw [State.updCmd, ringOf_updRing (hasRing_of_mem hd)]
  exact List.mem_map.2 ⟨d, hd, by simp [hseq]⟩

/-! ## CRESUME (R398) -/

theorem holdLeft_keeps {s t : State} (h : s.Keeps t) (w : Warp) : t.holdLeft w = s.holdLeft w := by
  unfold State.holdLeft Pdk.image
  rw [show (t.pdk w.pdk).images = (s.pdk w.pdk).images from congrArg Prod.fst (h.book w.pdk)]
/-- What is read back of a saved cluster comes from its bytes, and from parts of the state that the device's own reads keep. -/
theorem readCluster_keeps {s t : State} (h : s.Keeps t) (l : Launch) (c : Cluster) (bs : List (BitVec 8)) :
    t.readCluster l c bs = s.readCluster l c bs := by
  have off : (t.pdk l.pdk).reg 0x0A0 = (s.pdk l.pdk).reg 0x0A0 := congrArg (fun b : List Image × List Job × BitVec 64 => b.2.2) (h.book l.pdk)
  have warps (k : Nat) : t.readWarps l c bs k = s.readWarps l c bs k := by
    simp only [State.readWarps, off, h.nextId, holdLeft_keeps h]
  have sections (k : Nat) (ws : List Warp) : t.readSection l c bs k ws = s.readSection l c bs k ws := by
    simp only [State.readSection, h.nextId]
  simp only [State.readCluster, warps, sections]
theorem savedIn_state {s : State} {p : Nat} {r : Room} {l : Launch} {c : Cluster} {bs : List (BitVec 8)} (h : s.savedIn p r = some (l, c, bs)) :
    c.state = .saved := by
  unfold State.savedIn at h
  obtain ⟨_, -, h⟩ := Option.bind_eq_some_iff.1 h
  obtain ⟨_, -, h⟩ := Option.map_eq_some_iff.1 h
  dsimp only at h
  split at h
  · rename_i x hx
    cases h
    obtain ⟨m, -, hm⟩ := List.exists_of_findSome?_eq_some hx
    obtain ⟨d, hd, rfl⟩ := Option.map_eq_some_iff.1 hm
    have := List.find?_some hd
    simp only [Bool.and_eq_true, beq_iff_eq] at this
    exact this.1
  · cases h
    rfl
/-- R402: the launch and the cluster of a context are there once it is adopted. -/
theorem adopt_has (s : State) (l : Launch) (c : Cluster) : ∃ m ∈ (s.adopt l c).launches, m.id = l.id ∧ ∃ d ∈ m.clusters, d.no = c.no := by
  obtain ⟨m, hm, hid⟩ : ∃ m ∈ s.launches ++ s.newLaunch l, m.id = l.id := by
    unfold State.newLaunch
    split
    · rename_i h
      obtain ⟨m, hm, e⟩ := List.any_eq_true.1 h
      exact ⟨m, List.mem_append_left _ hm, by simpa using e⟩
    · exact ⟨l, List.mem_append_right _ (List.mem_singleton_self l), rfl⟩
  refine ⟨_, List.mem_map_of_mem hm, ?_⟩
  simp only [hid, beq_self_eq_true, if_true]
  split
  · rename_i h
    obtain ⟨d, hd, e⟩ := List.any_eq_true.1 h
    exact ⟨hid, d, hd, by simpa using e⟩
  · exact ⟨rfl, c, List.mem_append_right _ (List.mem_singleton_self c), rfl⟩

theorem cresume_queues (r : Room) (l : Launch) (c : Cluster) (bs : List (BitVec 8)) : Command .cresume 0x26
    (fun u p _ x => unusedZero x [(244, 12), (128, 64)] = true ∧ u.room? p (fld x.toNat 244 12) 2 = some r ∧ u.savedIn p r = some (l, c, bs) ∧
      l.desc.timed = false ∧ fld x.toNat 128 64 = 0 ∧ Clean u p)
    (fun s t p seq x => ∃ m ∈ t.launches, m.id = l.id ∧ ∃ d ∈ m.clusters, d.no = c.no ∧ d.state = .saved ∧ d.queued = true ∧
      d.cmd = some seq ∧ d.room = some (fld x.toNat 244 12) ∧ d.warps = ((began s p seq).readCluster l c bs).warps) := by
  rintro s p seq x h ⟨hz, hr, hs, ht, hnew, -⟩
  rw [exec_cresume, execCresume, command_next h]
  simp only [hz, hr, hs, ht, hnew, Bool.not_true, Bool.not_false, Bool.true_and, Bool.false_and, Bool.false_eq_true, if_false, BitVec.ofNat_eq_ofNat, bne_self_eq_false,
    Option.map_some, Option.getD_some, readCluster_keeps (keeps_ctxNote _ _ _)]
  refine ⟨_, rfl, ?_⟩
  rw [(keeps_noteWaiting _ p).launches]
  obtain ⟨m, hm, hid, d, hd, hno⟩ := adopt_has (((began s p seq).ctxNote p
    [(began s p seq).dirAt p (fld x.toNat 244 12), ((began s p seq).roomBase p r, bs.length)]).adoptRoom p r) l c
  refine ⟨_, List.mem_map_of_mem hm, ?_⟩
  simp only [hid, beq_self_eq_true, if_true, true_and]
  exact ⟨_, List.mem_map.2 ⟨d, hd, if_pos (by simp [hno])⟩, rfl, (savedIn_state hs :), rfl, rfl, rfl, rfl⟩

/-! ## Reads where nothing fails (R13, R431) -/

theorem Clean.poisoned {s : State} {p : Nat} (h : Clean s p) (pa n : Nat) : s.poisoned pa n = false := by
  simp only [State.poisoned, h.1, List.contains_nil, List.any_eq_false]
  exact fun _ _ => Bool.false_ne_true
theorem Clean.ecc {s : State} {p q : Nat} (h : Clean s p) (core : Option Nat) (pa n : Nat) (spec : Bool) (hq : q = p ∨ q = s.ownerOf pa) :
    s.ecc core q pa n spec = (true, s) := by
  have hm : s.markOf q pa = none := by rcases hq with rfl | rfl; exacts [(h.2 pa).1, (h.2 pa).2]
  rw [State.ecc, h.poisoned, hm]
  rfl
theorem Clean.noteS2 {s : State} {p : Nat} (h : Clean s p) (q pa : Nat) : s.noteS2 q pa = s :=
  List.foldl_fixed' (fun at_ => congrArg Prod.snd (h.ecc none at_ 8 false (.inr rfl))) _
theorem Clean.noteReads {s : State} {p : Nat} (h : Clean s p) (reads : List (Nat × Nat)) : s.noteReads p reads = s := by
  refine List.foldl_fixed' (fun r => ?_) reads
  dsimp only
  rw [h.noteS2]
  split
  · exact List.foldl_fixed' (fun l => congrArg Prod.snd (h.ecc none l 64 _ (.inl rfl))) _
  · rfl
theorem Clean.noteGets {s : State} {p : Nat} (h : Clean s p) (asid : Nat) (ranges : List (Nat × Nat)) : s.noteGets p asid ranges = s := by
  refine List.foldl_fixed' (fun x => ?_) _
  dsimp only
  rw [h.noteReads]
  split
  · exact congrArg Prod.snd (h.ecc none _ x.2 false (.inl rfl))
  · rfl
/-- Which lines fail does not depend on what of a paddock is neither its registers nor its keys. -/
theorem Clean.updPdk {s : State} {p : Nat} (h : Clean s p) (v : Nat) (g : Pdk → Pdk) (hn : ∀ q, (g q).no = q.no) (hr : ∀ q, (g q).regs = q.regs)
    (hw : ∀ q, (g q).world = q.world) : Clean (s.updPdk v g) p := by
  have owner (pa : Nat) : (s.updPdk v g).ownerOf pa = s.ownerOf pa := by
    have share (q : Pdk) : (if q.no == v then g q else q).reg 0x0C8 = q.reg 0x0C8 := by split; exacts [congrArg (mget · 0x0C8) (hr q), rfl]
    have no (q : Pdk) : (if q.no == v then g q else q).no = q.no := by split; exacts [hn q, rfl]
    simp only [State.ownerOf, State.updPdk, List.find?_map, Option.map_map, Function.comp_def, share, no]
  have mark (q pa : Nat) : (s.updPdk v g).markOf q pa = s.markOf q pa := by
    have world : (s.updPdk v g).worldOf q = s.worldOf q := congrArg (Prod.mk q) (s.pdk_updPdk_keep v q g Pdk.world hn hw)
    unfold State.markOf State.foreign
    rw [world]
    rfl
  exact ⟨h.1, fun pa => by rw [owner, mark, mark]; exact h.2 pa⟩

/-! ## XMAP (R61) -/

/-- R101: what a change of the page tables waits for enters the paddock's jobs. -/
theorem pdk_addDrain {s : State} {p : Nat} (h : s.hasPdk p = true) (id : Nat) (d : Drain) :
    ∃ j : Job, j.what = d ∧ (s.addDrain p id d).hasPdk p = true ∧ (s.addDrain p id d).pdk p = { s.pdk p with jobs := (s.pdk p).jobs ++ [j] } :=
  ⟨_, rfl, (s.hasPdk_updPdk p p _ fun _ => by rfl).trans h, s.pdk_updPdk p _ (fun _ => by rfl) h⟩

/-- R62: the frames of a code range enter the executable-frame table as its leases begin to run out. -/
theorem pdk_enterFrames {s : State} {p : Nat} (h : s.hasPdk p = true) (i id : Nat) (frames : List Nat) (d : Drain) :
    ∃ j : Job, j.what = d ∧ ((({ s with nextId := i } : State).updPdk p fun q => { q with exframes := q.exframes ++ frames }).addDrain p id d).pdk p =
      { s.pdk p with exframes := (s.pdk p).exframes ++ frames, jobs := (s.pdk p).jobs ++ [j] } := by
  have entered := State.pdk_updPdk { s with nextId := i } p (fun q => { q with exframes := q.exframes ++ frames }) (fun _ => rfl) h
  obtain ⟨j, hj, -, hd⟩ := pdk_addDrain ((State.hasPdk_updPdk { s with nextId := i } p p
    (fun q => { q with exframes := q.exframes ++ frames }) fun _ => rfl).trans h) id d
  exact ⟨j, hj, by rw [hd, entered]; rfl⟩

theorem xmap_maps (va len n entry : Nat) (bs : List (BitVec 8)) (frames : List Nat) : Command .xmap 0x28
    (fun u p _ x => unusedZero x [(176, 80)] = true ∧ u.hasPdk p = true ∧ Clean u p ∧ u.vgetBytes p (fld x.toNat 176 16) (fld x.toNat 192 64) 64 = some bs ∧
      parseMap (ofLe bs) = some (va, len, n, entry) ∧ u.codeFrames p (fld x.toNat 176 16) va len = some frames)
    (fun s t p seq x => (t.pdk p).exframes = (s.pdk p).exframes ++ frames ∧
      (∃ j im, (t.pdk p).jobs = (s.pdk p).jobs ++ [j] ∧ j.what = .xmap seq im ∧ im.va = va ∧ im.len = len ∧ im.n = n ∧ im.entry = entry ∧
        im.frames = frames ∧ im.asid = fld x.toNat 176 16) ∧ t.mem = s.mem) := by
  rintro s p seq x h ⟨hz, hp, hc, hb, hm, hf⟩
  rw [exec_xmap, execXmap, command_next h]
  -- What the request and the tables say is given by the hypotheses: nothing below depends on how it is read.
  generalize State.codeFrames = codeFrames at hf ⊢
  generalize State.vgetBytes = vgetBytes at hb ⊢
  generalize parseMap = parse at hm ⊢
  as_aux_lemma =>
    simp only [hz, hp, hb, hm, hf, hc.noteGets, Option.bind_some, Bool.not_true, Bool.false_eq_true, if_false, State.takeId]
    obtain ⟨j, hj, hd⟩ := pdk_enterFrames hp ((began s p seq).nextId + 1) (began s p seq).nextId frames
      (.xmap seq { handle := (began s p seq).nextId % 2 ^ 32, asid := fld x.toNat 176 16, va, len, n, entry, frames })
    have hframes : ((began s p seq).pdk p).exframes = (s.pdk p).exframes := pdk_began_keep s p seq p Pdk.exframes fun _ _ => rfl
    have hjobs : ((began s p seq).pdk p).jobs = (s.pdk p).jobs := pdk_began_keep s p seq p Pdk.jobs fun _ _ => rfl
    refine ⟨_, rfl, ?_⟩
    rw [hd, hframes, hjobs]
    exact ⟨rfl, ⟨j, _, rfl, hj, rfl, rfl, rfl, rfl, rfl, rfl⟩, began_mem s p seq⟩

/-! ## The end of a mapping (R61) -/

theorem keeps_setEx (s : State) (p asid va v : Nat) : s.Keeps (s.setEx p asid va v) := by
  unfold State.setEx
  split
  · exact .ite (s.keeps_devWrite p _ _) (.refl s)
  · exact .refl s

/-- The event serves the one job whose leases have run out (R61). -/
theorem execXmapLeaseDrained_next {s : State} {q : Pdk} {j : Job} (hs : s.pdks = [q]) (hj : s.xmapDue q = some j) :
    execXmapLeaseDrained s = .next (s.finishXmap q.no j) := by
  simp only [execXmapLeaseDrained, hs, List.findSome?_cons, hj, Option.map_some]
/-- The one paddock of a state without the job that is served. -/
theorem dropJob_single {s : State} {q : Pdk} (hs : s.pdks = [q]) (i : Nat) :
    s.updPdk q.no (fun q => { q with jobs := q.jobs.filter (·.id != i) }) = { s with pdks := [{ q with jobs := q.jobs.filter (·.id != i) }] } := by
  simp only [State.updPdk, hs, List.map_cons, List.map_nil, beq_self_eq_true, if_true]
theorem pdk_dropJob (s : State) (q : Pdk) (i : Nat) :
    ({ s with pdks := [{ q with jobs := q.jobs.filter (·.id != i) }] } : State).pdk q.no = { q with jobs := q.jobs.filter (·.id != i) } := by
  simp [State.pdk]
theorem hasPdk_dropJob (s : State) (q : Pdk) (i : Nat) :
    ({ s with pdks := [{ q with jobs := q.jobs.filter (·.id != i) }] } : State).hasPdk q.no = true := by simp [State.hasPdk]
theorem Clean.dropJob {s : State} {q : Pdk} (h : Clean s q.no) (hs : s.pdks = [q]) (i : Nat) :
    Clean { s with pdks := [{ q with jobs := q.jobs.filter (·.id != i) }] } q.no :=
  dropJob_single hs i ▸ h.updPdk q.no _ (fun _ => rfl) (fun _ => rfl) fun _ => rfl

theorem xmap_refused (q : Pdk) (j : Job) (seq : Nat) (im : Image) (ws : List IWord) (off why : Nat) : Does .xmapLeaseDrained
    (fun s => s.pdks = [q] ∧ s.xmapDue q = some j ∧ j.what = .xmap seq im ∧ q.no ≠ 0 ∧
      ({ s with pdks := [{ q with jobs := q.jobs.filter (·.id != j.id) }] } : State).codeWords q.no im = some ws ∧
      Clean s q.no ∧ scanImage ws im.n = some (off, why) ∧ ∃ c ∈ q.ring.cmds, c.seq = seq ∧ c.report = none)
    fun s t => Reported t q.no seq 1 0x0D ∧ (t.pdk q.no).images = q.images ∧ (t.pdk q.no).exframes = dropFrames q.exframes im.frames ∧
      t.mem = s.mem := by
  rintro s ⟨hs, hj, hw, h0, hcode, hc, hscan, c, hcmd, hseq, hrep⟩
  rw [exec_xmapLeaseDrained, execXmapLeaseDrained_next hs hj]
  simp only [State.finishXmap, hw, dropJob_single hs, hcode, hscan, (hc.dropJob hs j.id).noteGets]
  have undone := State.pdk_updPdk { s with pdks := [{ q with jobs := q.jobs.filter (·.id != j.id) }] } q.no
    (fun q => { q with exframes := dropFrames q.exframes im.frames }) (fun _ => rfl) (hasPdk_dropJob s q j.id)
  rw [pdk_dropJob] at undone
  refine ⟨_, rfl, reported_of_mem (c := c) ?_ hseq hrep, ?_, ?_, updRing_mem _ _ _⟩
  · rw [State.ringOf, if_neg h0, undone]
    exact hcmd
  · refine (pdk_updRing_keep _ _ _ _ Pdk.images fun _ _ => rfl).trans ?_
    rw [undone]
  · refine (pdk_updRing_keep _ _ _ _ Pdk.exframes fun _ _ => rfl).trans ?_
    rw [undone]

theorem xmap_accepted (q : Pdk) (j : Job) (seq : Nat) (im : Image) (ws : List IWord) : Does .xmapLeaseDrained
    (fun s => s.pdks = [q] ∧ s.xmapDue q = some j ∧ j.what = .xmap seq im ∧ q.no ≠ 0 ∧
      ({ s with pdks := [{ q with jobs := q.jobs.filter (·.id != j.id) }] } : State).codeWords q.no im = some ws ∧
      Clean s q.no ∧ scanImage ws im.n = none)
    fun _ t => (t.pdk q.no).images = q.images ++
      [{ im with ident := sha512 (ws.flatMap fun (w : IWord) => leBytes w.toNat 16), holds := holdInteriors ws }] := by
  rintro s ⟨hs, hj, hw, -, hcode, hc, hscan⟩
  rw [exec_xmapLeaseDrained, execXmapLeaseDrained_next hs hj]
  simp only [State.finishXmap, hw, dropJob_single hs, hcode, hscan, (hc.dropJob hs j.id).noteGets]
  refine ⟨_, rfl, (pdk_updRing_keep _ _ _ _ Pdk.images fun _ _ => rfl).trans ?_⟩
  -- Said of any list of pages, so that the image's own is not evaluated.
  have marked (l : List Nat) := State.keeps_foldl l (fun (t : State) va => t.setEx q.no im.asid va 1) (fun t va => keeps_setEx t _ _ _ _)
    { s with pdks := [{ q with jobs := q.jobs.filter (·.id != j.id) }] }
  have images (l : List Nat) : ((l.foldl (fun (t : State) va => t.setEx q.no im.asid va 1)
      { s with pdks := [{ q with jobs := q.jobs.filter (·.id != j.id) }] }).pdk q.no).images = q.images :=
    (congrArg Prod.fst ((marked l).book q.no)).trans (by rw [pdk_dropJob]; rfl)
  rw [State.pdk_updPdk _ q.no _ (fun _ => by rfl) (((marked _).hasPdk q.no).trans (hasPdk_dropJob s q j.id))]
  simp only [images]

/-! ## XUNMAP (R61) -/

/-- R205: STALE reaches warps, kept with the paddock or not, and nothing that a paddock books. -/
theorem stalePage_books (s : State) (p asid page v : Nat) :
    (s.stalePage p asid page).hasPdk v = s.hasPdk v ∧ ((s.stalePage p asid page).pdk v).book = (s.pdk v).book := by
  constructor
  · show (s.pdks.map _).any _ = s.pdks.any _
    rw [List.any_map]
    rfl
  · show Pdk.book (((s.pdks.map _).find? _).getD _) = Pdk.book ((s.pdks.find? _).getD _)
    rw [List.find?_map]
    show Pdk.book (((s.pdks.find? fun x => x.no == v).map _).getD _) = _
    cases s.pdks.find? fun x => x.no == v <;> rfl
/-- R61: an image leaves the table as its leases begin to run out. -/
theorem pdk_dropImage {s : State} {p : Nat} (h : s.hasPdk p = true) (i id : Nat) (d : Drain) (keep : Image → Bool) :
    ∃ j : Job, ((({ s with nextId := i } : State).addDrain p id d).updPdk p fun q => { q with images := q.images.filter keep }).pdk p =
      { s.pdk p with images := (s.pdk p).images.filter keep, jobs := (s.pdk p).jobs ++ [j] } := by
  obtain ⟨j, -, hh, hd⟩ := pdk_addDrain (s := { s with nextId := i }) h id d
  refine ⟨j, ?_⟩
  rw [State.pdk_updPdk _ p _ (fun _ => by rfl) hh, hd]
  rfl

/-- R61, R205: the EX marks of an unmapped image go, and its pages turn stale. -/
theorem foldl_stalePage_books (s : State) (p asid v : Nat) (pages : List Nat) :
    let t := pages.foldl (fun (t : State) va => (t.setEx p asid va 0).stalePage p asid (va / 2 ^ 18)) s
    t.hasPdk v = s.hasPdk v ∧ (t.pdk v).book = (s.pdk v).book := by
  refine List.foldlRecOn (motive := fun t : State => t.hasPdk v = s.hasPdk v ∧ (t.pdk v).book = (s.pdk v).book) pages _ ⟨rfl, rfl⟩
    fun t ⟨ht, hb⟩ va _ => ?_
  obtain ⟨hh, hk⟩ := stalePage_books (t.setEx p asid va 0) p asid (va / 2 ^ 18) v
  have kept := keeps_setEx t p asid va 0
  exact ⟨hh.trans ((kept.hasPdk v).trans ht), hk.trans ((kept.book v).trans hb)⟩

theorem xunmap_leaves (im : Image) : Command .xunmap 0x29
    (fun u p _ x => unusedZero x [(224, 32)] = true ∧ (u.pdk p).image (fld x.toNat 224 32) = some im)
    (fun s t p _ _ => (t.pdk p).images = (s.pdk p).images.filter (·.handle != im.handle) ∧
      ∃ j, (t.pdk p).jobs = (s.pdk p).jobs ++ [j]) := by
  rintro s p seq x h ⟨hz, him⟩
  have hp : (began s p seq).hasPdk p = true := by
    by_contra hn
    rw [pdk_of_not_hasPdk hn] at him
    cases him
  have began_book : ((began s p seq).pdk p).book = (s.pdk p).book := pdk_began_keep s p seq p Pdk.book fun _ _ => rfl
  rw [exec_xunmap, execXunmap, command_next h]
  -- Whichever pages the image has: nothing below depends on how they are counted.
  generalize Image.pages = pages
  as_aux_lemma =>
    simp only [hz, him, Bool.not_true, Bool.false_eq_true, if_false, State.takeId]
    obtain ⟨hh, hb⟩ := foldl_stalePage_books (began s p seq) p im.asid p (pages im)
    rw [began_book] at hb
    obtain ⟨j, hd⟩ := pdk_dropImage (hh.trans hp) _ _ (.unmap none [] [] im.frames ((pages im).map fun va => (im.asid, va / 2 ^ 18)) (some seq)) (·.handle != im.handle)
    refine ⟨_, rfl, (congrArg Pdk.images hd).trans ?_, j, (congrArg Pdk.jobs hd).trans ?_⟩
    · exact congrArg (fun b : List Image × List Job × BitVec 64 => b.1.filter (·.handle != im.handle)) hb
    · exact congrArg (fun b : List Image × List Job × BitVec 64 => b.2.1 ++ [j]) hb

/-! ## TMPLSET (R364) -/

theorem named_hasPdk {s : State} {p seq no : Nat} (h : s.named p seq = some no) : s.hasPdk no = true := by
  rcases List.mem_append.1 (List.mem_of_getElem? h) with hm | hm
  · split at hm
    · rename_i hp
      exact List.mem_singleton.1 hm ▸ hp
    · cases hm
  · obtain ⟨q, hq, rfl⟩ := List.mem_map.1 hm
    exact List.any_eq_true.2 ⟨q, (List.mem_filter.1 hq).1, beq_self_eq_true _⟩

/-- Several keys in a row are written. -/
theorem mget_foldl_mset {n : Nat} (a : Nat) (v : Nat → BitVec n) (l : List Nat) (m : SMap n) (hm : rising 0 m = true) (j : Nat) :
    mget (l.foldl (fun m k => mset m (a + k) (v k)) m) (a + j) = if j ∈ l then v j else mget m (a + j) := by
  induction l generalizing m with
  | nil => simp
  | cons k r ih =>
    rw [List.foldl_cons, ih _ (rising_mset m 0 (a + k) (v k) (Nat.zero_le _) hm), mget_mset m _ _ _ hm]
    by_cases hj : j = k
    · simp [hj]
    · simp [hj]

/-- A command stays open under a change of a paddock's other parts. -/
theorem Open.updPdk {s : State} {p seq opc : Nat} (h : Open s p seq opc) (v : Nat) (g : Pdk → Pdk) (hn : ∀ q, (g q).no = q.no)
    (hr : ∀ q, (g q).ring = q.ring) : Open (s.updPdk v g) p seq opc := by
  refine h.of_ringOf ?_
  unfold State.ringOf
  split
  · rfl
  · exact s.pdk_updPdk_keep v p g Pdk.ring hn hr

theorem tmplset_writes (no : Nat) (bs : List (BitVec 8)) : Command .tmplset 0x22
    (fun u p seq x => unusedZero x [(192, 64), (187, 5), (160, 16)] = true ∧ u.named p seq = some no ∧ Clean u no ∧
      rising 0 (u.pdk no).templates = true ∧ u.vgetBytes no (fld x.toNat 160 16) (fld x.toNat 192 64) 128 = some bs ∧
      templateOk ((List.range 64).map fun j => ofLe ((bs.drop (2 * j)).take 2)) = true)
    (fun s t p seq x => Reported t p seq 0 0 ∧ t.mem = s.mem ∧
      ∀ j < 64, mget (t.pdk no).templates (64 * fld x.toNat 187 5 + j) = BitVec.ofNat 16 (ofLe ((bs.drop (2 * j)).take 2))) := by
  rintro s p seq x h ⟨hz, hno, hc, hr, hb, hok⟩
  rw [exec_tmplset, execTmplset, command_next h]
  have hjs (j : Nat) (hj : j < 64) : j ∈ List.range 64 := List.mem_range.2 hj
  have entries (j : Nat) (hj : j < 64) : (((List.range 64).map fun j => ofLe ((bs.drop (2 * j)).take 2))[j]?).getD 0 = ofLe ((bs.drop (2 * j)).take 2) := by
    rw [List.getElem?_map, List.getElem?_range hj, Option.map_some, Option.getD_some]
  -- The entries are given by the hypotheses.
  simp only [hz, hno, hb, hc.noteGets, Bool.not_true, Bool.false_eq_true, if_false]
  generalize (List.range 64).map (fun j => ofLe ((bs.drop (2 * j)).take 2)) = es at hok entries ⊢
  generalize List.range 64 = js at hjs ⊢
  simp only [hok, Bool.not_true, Bool.false_eq_true, if_false]
  refine ⟨_, rfl, ((began_open h).updPdk no _ (fun _ => by rfl) fun _ => by rfl).done, (updRing_mem _ _ _).trans (began_mem s p seq), fun j hj => ?_⟩
  rw [State.reportDone, State.report, pdk_updRing_keep _ _ _ _ Pdk.templates fun _ _ => rfl,
    State.pdk_updPdk _ no _ (fun _ => by rfl) (named_hasPdk hno), ← entries j hj]
  exact (mget_foldl_mset _ _ _ _ hr j).trans (if_pos (hjs j hj))

/-! ## SHGRANT (R67) -/

theorem shgrant_enters : Command .shgrant 0x23
    (fun u p _ x => unusedZero x [(215, 41)] = true ∧ u.hasPdk p = true ∧ fld x.toNat 232 16 ≠ fld x.toNat 216 16 ∧ bitAt x.toNat 215 = false ∧
      ∀ g ∈ (u.pdk p).grants, g.no = fld x.toNat 248 8 → g.inA = false ∧ g.inB = false)
    (fun s t p seq x => Reported t p seq 0 0 ∧ t.mem = s.mem ∧
      ∃ g ∈ (t.pdk p).grants, g.no = fld x.toNat 248 8 ∧ g.a = fld x.toNat 232 16 ∧ g.b = fld x.toNat 216 16 ∧ g.inA = true ∧ g.inB = false) := by
  rintro s p seq x h ⟨hz, hp, hne, hrev, hg⟩
  have fresh : ((began s p seq).pdk p).grants.find? (fun g => g.no == fld x.toNat 248 8 && (g.inA || g.inB)) = none := by
    refine List.find?_eq_none.2 fun g hm e => ?_
    simp only [Bool.and_eq_true, beq_iff_eq, Bool.or_eq_true] at e
    obtain ⟨ha, hb⟩ := hg g hm e.1
    simp [ha, hb] at e
  rw [exec_shgrant, execShgrant, command_next h]
  simp only [hz, hp, hrev, fresh, beq_false_of_ne hne, Bool.not_true, Bool.or_false, Bool.false_eq_true, if_false, if_true]
  refine ⟨_, rfl, ((began_open h).updPdk p _ (fun _ => by rfl) fun _ => by rfl).done, (updRing_mem _ _ _).trans (began_mem s p seq), ?_⟩
  rw [State.reportDone, State.report, pdk_updRing_keep _ _ _ _ Pdk.grants fun _ _ => rfl, State.pdk_updPdk _ p _ (fun _ => by rfl) hp]
  exact ⟨_, List.mem_append_right _ (List.mem_singleton_self _), rfl, rfl, rfl, rfl, rfl⟩

/-! ## The commands that a formation reports (R353, R456) -/

theorem Reported.report {s : State} {p seq status reason : Nat} (r : Report) (h : Reported s p seq status reason) :
    Reported (s.report p r) p seq status reason := by
  obtain ⟨c, hc, hs, r', hr, hst⟩ := h
  rw [Reported, State.report, ringOf_updRing (hasRing_of_mem hc)]
  exact ⟨c, List.mem_map.2 ⟨c, hc, by simp [hr]⟩, hs, r', hr, hst⟩
theorem Open.report_other {s : State} {p seq opc : Nat} {r : Report} (hne : seq ≠ r.seq) (h : Open s p seq opc) : Open (s.report p r) p seq opc := by
  obtain ⟨c, hc, hs, ho, hst, hr⟩ := h
  rw [Open, State.report, ringOf_updRing (hasRing_of_mem hc)]
  exact ⟨c, List.mem_map.2 ⟨c, hc, by simp [hs, hne]⟩, hs, ho, hst, hr⟩
theorem Open.report {s : State} {p opc : Nat} {r : Report} (h : Open s p r.seq opc) : Reported (s.report p r) p r.seq r.status r.reason := by
  obtain ⟨c, hc, hs, -, -, hr⟩ := h
  exact reported_of_mem hc hs hr

/-- Where commands of the management ring are reported one after another with one status, `g` between them leaving the ring, each of them that
was open is reported with it. -/
theorem reported_foldl {g : State → Cmd → State} (hg : ∀ t c, (g t c).root = t.root) (status reason : Nat) {seq opc : Nat} (l : List Cmd) {s : State}
    (hs : Open s 0 seq opc) (hl : ∃ c ∈ l, c.seq = seq) :
    Reported (l.foldl (fun t c => (g t c).report 0 { seq := c.seq, status, reason }) s) 0 seq status reason := by
  induction l generalizing s with
  | nil => obtain ⟨c, hc, -⟩ := hl; cases hc
  | cons d l ih =>
    have hd : Open (g s d) 0 seq opc := hs.of_ringOf (hg s d)
    by_cases he : d.seq = seq
    · subst he
      refine List.foldlRecOn (motive := fun t => Reported t 0 d.seq status reason) l _ (hd.report (r := { seq := d.seq, status, reason })) fun t ht c _ => ?_
      exact Reported.report _ (s := g t c) (by rw [Reported, State.ringOf, if_pos rfl, hg]; exact ht)
    · refine ih (hd.report_other fun e => he e.symm) ?_
      obtain ⟨c, hc, hcs⟩ := hl
      exact ⟨c, (List.mem_cons.1 hc).resolve_left fun e => he (e ▸ hcs), hcs⟩
/-- An RKFORM that has started and waits is one of the commands that a formation reports. -/
theorem Open.mem_formings {s : State} {seq : Nat} (h : Open s 0 seq 0x30) : ∃ c ∈ s.formings, c.seq = seq := by
  obtain ⟨c, hc, hs, ho, hst, hr⟩ := h
  exact ⟨c, List.mem_filter.2 ⟨hc, by simp [ho, hst, hr]⟩, hs⟩
theorem formDone_reported {s : State} {seq : Nat} (h : Open s 0 seq 0x30) : Reported s.formDone 0 seq 0 0 :=
  reported_foldl (g := fun t c => t.extendEntry c.seq 0x30 c.payload) (fun _ _ => rfl) 0 0 s.formings h h.mem_formings
theorem failForm_reported {s : State} {seq : Nat} (came : Option Nat) (h : Open s 0 seq 0x30) : Reported (s.failForm came) 0 seq 1 2 :=
  reported_foldl (g := fun t _ => t) (fun _ _ => rfl) 1 2 s.formings (h.of_ringOf (by rfl)) h.mem_formings

/-! ## What a formation sends (R456) -/

/-- The reports of a formation change neither the rink nor what it sends nor the memory. -/
theorem formDone_keeps (s : State) : s.formDone.rink = s.rink ∧ s.formDone.rinkSent = s.rinkSent ∧ s.formDone.mem = s.mem :=
  List.foldlRecOn (motive := fun t : State => t.rink = s.rink ∧ t.rinkSent = s.rinkSent ∧ t.mem = s.mem) s.formings _ ⟨rfl, rfl, rfl⟩
    fun _ ht _ _ => ht
theorem mem_flood {s : State} {came : Option Nat} {mk : Nat → RinkSent} {q : Nat} (hq : q < 8) (hp : s.rinkPort q = true) (hc : came ≠ some q) :
    mk q ∈ (s.flood came mk).rinkSent :=
  List.mem_append_left _ (List.mem_reverse.2 (List.mem_map_of_mem (List.mem_filter.2 ⟨List.mem_range.2 hq, by simp [hp, hc]⟩)))
/-- A port's mode is that of its link, else that of RKCTL. -/
theorem rinkPort_congr {s t : State} (hp : t.ports = s.ports) (hm : mget t.mgmt 0x100 = mget s.mgmt 0x100) (q : Nat) : t.rinkPort q = s.rinkPort q := by
  rw [State.rinkPort, State.rinkPort, State.rkctl, State.rkctl, hp, hm]
theorem formRink_rkctl (s : State) (c : Nat) : mget (s.formRink c).mgmt 0x100 = mget s.mgmt 0x100 :=
  (mget_mset_ne _ 0x10C 0x100 0 (by decide)).trans (mget_mset_ne _ 0x108 0x100 0 (by decide))
/-- A formation that fails: the rink is down, and the word goes out on the other links. -/
theorem failForm_ends (s : State) (came : Option Nat) : (s.failForm came).rink.forming = false ∧ (s.failForm came).rink.formed = false ∧
    (∀ q < 8, s.rinkPort q = true → came ≠ some q → RinkSent.start q true ∈ (s.failForm came).rinkSent) ∧ (s.failForm came).mem = s.mem := by
  have kept := List.foldlRecOn (motive := fun t : State => t.rink.forming = false ∧ t.rink.formed = false ∧
      (∀ q < 8, s.rinkPort q = true → came ≠ some q → RinkSent.start q true ∈ t.rinkSent) ∧ t.mem = s.mem) s.formings
      (fun t c => t.reportFail 0 c.seq 2)
      (b := (s.updRink fun r => { r with forming := false, formed := false, was := r.keepReads }).flood came fun q => .start q true)
      ⟨rfl, rfl, fun q hq hp hc => mem_flood hq (by exact hp) hc, rfl⟩ fun _ ht _ _ => ht
  exact kept
/-- The rink is formed at a value of RINKC, and the start flit goes out on the other links. -/
theorem formRink_flood_ends (s : State) (c : Nat) (came : Option Nat) :
    let t := ((s.formRink c).flood came fun q => .start q false).formDone
    t.rink.formed = true ∧ t.rink.forming = false ∧ t.rink.rinkc = BitVec.ofNat 64 c ∧
      (∀ q < 8, s.rinkPort q = true → came ≠ some q → .start q false ∈ t.rinkSent) ∧ t.mem = s.mem := by
  intro t
  obtain ⟨hr, hs, hm⟩ := formDone_keeps ((s.formRink c).flood came fun q => .start q false)
  refine ⟨(congrArg Rink.formed hr).trans rfl, (congrArg Rink.forming hr).trans rfl, (congrArg Rink.rinkc hr).trans rfl, fun q hq hp hc => ?_, hm.trans rfl⟩
  exact hs ▸ mem_flood hq ((rinkPort_congr (t := s.formRink c) (s := s) rfl (formRink_rkctl s c) q).trans hp) hc

/-! ## The start flit (R456) -/

theorem startFlit_forms (port : Nat) : Does (.rinkStartFlit port false)
    (fun s => s.rink.forming = true ∧ port < 8 ∧ s.rinkPort port = true ∧ s.memberId ≠ fld s.rkctl 32 8) fun s t =>
    t.rink.formed = true ∧ t.rink.forming = false ∧ t.rink.rinkc = BitVec.ofNat 64 ((mget s.rink.hop port).toNat * s.hopsTo (fld s.rkctl 32 8)) ∧
      (∀ q < 8, s.rinkPort q = true → some port ≠ some q → .start q false ∈ t.rinkSent) ∧ t.mem = s.mem := by
  rintro s ⟨hf, hlt, hp, hne⟩
  refine ⟨_, ?_, formRink_flood_ends s ((mget s.rink.hop port).toNat * s.hopsTo (fld s.rkctl 32 8)) (some port)⟩
  rw [exec_rinkStartFlit, execRinkStart]
  simp [hf, hp, hlt, beq_false_of_ne hne]

theorem startFlit_of_member (port : Nat) : Does (.rinkStartFlit port false)
    (fun s => s.rink.forming = true ∧ 8 ≤ port ∧ s.memberId = fld s.rkctl 32 8) fun s t =>
    t.rink.formed = true ∧ t.rink.forming = false ∧ t.rink.rinkc = 0 ∧
      (∀ q < 8, s.rinkPort q = true → none ≠ some q → .start q false ∈ t.rinkSent) ∧ t.mem = s.mem := by
  rintro s ⟨hf, hle, hid⟩
  obtain ⟨hformed, hforming, hc, hsent, hm⟩ := formRink_flood_ends s 0 (some port)
  refine ⟨_, ?_, hformed, hforming, hc, fun q hq hp _ => hsent q hq hp ?_, hm⟩
  · rw [exec_rinkStartFlit, execRinkStart]
    simp [hf, hle, hid]
  · simp only [ne_eq, Option.some.injEq]
    omega

theorem startFlit_fails (port : Nat) : Does (.rinkStartFlit port true)
    (fun s => s.rink.forming = true ∧ port < 8 ∧ s.rinkPort port = true) fun s t =>
    t.rink.formed = false ∧ t.rink.forming = false ∧
      (∀ q < 8, s.rinkPort q = true → some port ≠ some q → .start q true ∈ t.rinkSent) ∧ t.mem = s.mem := by
  rintro s ⟨hf, hlt, hp⟩
  obtain ⟨hforming, hformed, hsent, hm⟩ := failForm_ends s (some port)
  refine ⟨_, ?_, hformed, hforming, hsent, hm⟩
  rw [exec_rinkStartFlit, execRinkStart]
  simp [hf, hp, hlt]

/-! ## RKFORM (R407, R456) -/

/-- The transit of each link is the next free value (log 5). -/
theorem foldl_freeVal (l : List Nat) (acc : List (Nat × BitVec 10)) (s : State) :
    l.foldl (fun (r : List (Nat × BitVec 10) × State) k => (r.1 ++ [(k, r.2.freeVal.1.truncate 10)], r.2.freeVal.2)) (acc, s) =
      (acc ++ l.mapIdx fun i k => (k, (Config.freeWord (s.fresh + i)).truncate 10), { s with fresh := s.fresh + l.length }) := by
  induction l generalizing acc s with
  | nil => simp
  | cons k l ih =>
    rw [List.foldl_cons, ih]
    simp [State.freeVal, Nat.add_assoc, Nat.add_comm 1]
/-- A link's transit is beyond its bound. -/
theorem any_transit_iff (l : List Nat) (f : Nat) :
    ((l.mapIdx fun i k => (k, ((Config.freeWord (f + i)).truncate 10 : BitVec 10))).any fun h => decide (600 < h.2.toNat)) = true ↔
      ∃ k < l.length, 600 < (Config.freeWord (f + k)).toNat % 1024 := by
  rw [List.any_eq_true]
  constructor
  · rintro ⟨h, hm, hlt⟩
    obtain ⟨i, hi, rfl⟩ := List.mem_mapIdx.1 hm
    exact ⟨i, hi, by simpa using hlt⟩
  · rintro ⟨i, hi, hlt⟩
    exact ⟨_, List.mem_mapIdx.2 ⟨i, hi, rfl⟩, by simpa using hlt⟩

/-- What the measurement of the links leaves (R456). -/
def Measured (s u : State) : Prop :=
  u.root = s.root ∧ u.ports = s.ports ∧ mget u.mgmt 0x100 = mget s.mgmt 0x100

/-- An RKFORM of a member that may form measures its links; it then fails, forms a rink of one, or waits. -/
theorem execRkform_measured {s : State} {seq : Nat} (h : s.toStart 0 seq 0x30 0 = true) (hctl : bitAt (began s 0 seq).rkctl 0 = true)
    (hd : (began s 0 seq).diam ≠ 0) :
    ∃ u, Measured (began s 0 seq) u ∧ execRkform 0 seq 0 s = .next
      (if (u.rinkPorts.any fun k => !(u.ports.any fun x => x.no == k && x.up && x.rink)) = true ∨
          ∃ k < s.rinkPorts.length, 600 < (Config.freeWord (s.fresh + k)).toNat % 1024 then u.failForm none
        else if (u.rinkPorts.isEmpty && u.memberId == fld u.rkctl 32 8) = true then (u.formRink 0).formDone
        else u.updRink fun r => { r with forming := true, formed := false, was := r.keepReads }) := by
  rw [execRkform, command_next h]
  simp only [hctl, hd, bne_self_eq_false, Bool.not_true, Bool.or_false, Bool.false_eq_true, decide_false, if_false]
  simp only [foldl_freeVal, List.nil_append, Bool.or_eq_true, any_transit_iff]
  refine ⟨_, ⟨?_, ?_, ?_⟩, rfl⟩
  · rfl
  · rfl
  · exact (mget_mset_ne _ 0x128 0x100 _ (by decide)).trans (mget_mset_ne _ 0x120 0x100 _ (by decide))

theorem rkform_forms : Command .rkform 0x30
    (fun u p _ x => x = 0 ∧ p = 0 ∧ bitAt u.rkctl 0 = true ∧ u.diam ≠ 0 ∧
      (∀ k ∈ u.rinkPorts, ∃ y ∈ u.ports, y.no = k ∧ y.up = true ∧ y.rink = true) ∧ rising 0 u.mgmt = true)
    (fun s t _ seq _ =>
      if ∃ k < s.rinkPorts.length, 600 < (Config.freeWord (s.fresh + k)).toNat % 1024 then
        Reported t 0 seq 1 2 ∧ t.rink.forming = false ∧ t.rink.formed = false ∧
          ∀ q < 8, s.rinkPort q = true → none ≠ some q → .start q true ∈ t.rinkSent
      else if s.rinkPorts = [] ∧ s.memberId = fld s.rkctl 32 8 then t.rink.formed = true ∧ t.rink.rinkc = 0 ∧ Reported t 0 seq 0 0
      else t.rink.forming = true ∧ t.rink.formed = false) := by
  rintro s p seq x h ⟨rfl, rfl, hctl, hd, hup, -⟩
  obtain ⟨u, ⟨hroot, hports, hmgmt⟩, hexec⟩ := execRkform_measured h hctl hd
  have hopen : Open u 0 seq 0x30 := (began_open h).of_ringOf hroot
  have hrk : u.rkctl = s.rkctl := congrArg BitVec.toNat hmgmt
  have hid : u.memberId = s.memberId := congrArg (fun v : BitVec 64 => fld v.toNat 24 8) hmgmt
  have hps : u.rinkPorts = s.rinkPorts := by rw [State.rinkPorts, hrk]; rfl
  have hdown : ¬ (s.rinkPorts.any fun k => !(u.ports.any fun x => x.no == k && x.up && x.rink)) = true := by
    intro e
    obtain ⟨k, hk, hn⟩ := List.any_eq_true.1 e
    obtain ⟨y, hy, hno, hyu, hyr⟩ := hup k hk
    rw [hports] at hn
    have : (began s 0 seq).ports.any (fun x => x.no == k && x.up && x.rink) = true := List.any_eq_true.2 ⟨y, hy, by simp [hno, hyu, hyr]⟩
    rw [this] at hn
    cases hn
  simp only [hdown, Bool.false_eq_true, false_or, hps, hid, hrk, Bool.and_eq_true, List.isEmpty_iff, beq_iff_eq] at hexec
  rw [exec_rkform, hexec]
  refine ⟨_, rfl, ?_⟩
  dsimp only
  split_ifs with hlong hone
  · obtain ⟨hforming, hformed, hsent, -⟩ := failForm_ends u none
    exact ⟨failForm_reported none hopen, hforming, hformed, fun q hq hp => hsent q hq ((rinkPort_congr hports hmgmt q).trans hp)⟩
  · obtain ⟨hr, -, -⟩ := formDone_keeps (u.formRink 0)
    exact ⟨(congrArg Rink.formed hr).trans rfl, (congrArg Rink.rinkc hr).trans rfl, formDone_reported (hopen.of_ringOf (by rfl))⟩
  · exact ⟨rfl, rfl⟩

/-- Settles O45: a clause for each command and event. -/
theorem contextAndCodeCommands : Obligations.ContextAndCodeCommands :=
  ⟨presume_resumes, preempt_asks, cresume_queues, xmap_maps, xmap_refused, xmap_accepted, xunmap_leaves, tmplset_writes, shgrant_enters, rkform_forms,
    startFlit_forms, startFlit_of_member, startFlit_fails⟩

end Sys2Proof.Safety

/-! O51, O54, O56. What an issue and a landing change (R37, R40, R41, R51); what a step runs (R7, R37, R56); words that the chapters write out. -/
namespace Sys2Proof.Safety
open Sys2Proof Sys2Proof.Machine

/-! ## A step (R7, R37, R56) -/

theorem fetch_of_fetchAt {s : State} {w : Warp} {a : Nat} (h : s.fetchAt w = some a) : s.fetch w = some (wordOfBytes (s.peek a 16)) := by
  rw [State.fetch, h, Option.map_some]
theorem fetch_none {s : State} {w : Warp} (h : s.fetchAt w = none) : s.fetch w = none := by rw [State.fetch, h, Option.map_none]
/-- The registers of RKSTAT and RKSKIDS are all that the end of a cycle writes besides what it counts. -/
theorem rinkRegs_wall (s : State) : s.rinkRegs.wall = s.wall := by unfold State.rinkRegs; dsimp only; split <;> rfl

/-- Settles O54: the cases of `step`, in its order. -/
theorem stepRunsDecoded : Obligations.StepRunsDecoded := by
  refine ⟨fun s i r ha => ?_, fun s wid a i ha hi hf hd => ?_, fun s wid a r ha hi hf hd => ?_, fun s wid ha hi hf => ?_, fun s i ha hi hd => ?_,
    fun s ha hi hd => ⟨?_, rinkRegs_wall _⟩⟩
  · rw [step, ha]
  · simp only [step, ha, hi, fetch_of_fetchAt hf, hd]
  · simp only [step, ha, hi, fetch_of_fetchAt hf, hd]
  · simp only [step, ha, hi, fetch_none hf]
  · simp only [step, ha, hi, hd]
  · simp only [step, ha, hi, hd]

/-! ## An issue (R37, R40, R41) -/

theorem mget_addFlag {w : Warp} (h : rising 0 w.flags = true) (n k : Nat) (d : BitVec 6) :
    mget (w.addFlag n d).flags k = mget w.flags k + if n = k then d else 0 := by
  rw [Warp.addFlag, mget_mset _ _ _ _ h]
  by_cases e : k = n
  · simp [e]
  · simp [e, Ne.symm e]

/-- R41: the flag that the word counts, if any, goes up by one. -/
theorem issuedWarp_flags (s : State) (f : Fields) {w : Warp} (h : rising 0 w.flags = true) (k : Nat) :
    mget (s.issuedWarp f w).flags k = mget w.flags k + if f.flag = some k then 1 else 0 := by
  unfold State.issuedWarp
  cases f.flag with
  | none => simp
  | some n => simpa using mget_addFlag h n k 1

/-! ## A landing (R41, R51) -/

theorem mget_msetAll_of_not_mem {n : Nat} (kvs m : List (Nat × BitVec n)) {j : Nat} (h : j ∉ kvs.map Prod.fst) : mget (msetAll m kvs) j = mget m j := by
  induction kvs generalizing m with
  | nil => rfl
  | cons x r ih =>
    rw [List.map_cons, List.mem_cons, not_or] at h
    exact (ih _ h.2).trans (mget_mset_ne m x.1 j x.2 h.1)
/-- Of writes to different keys each reads back. -/
theorem mget_msetAll_of_mem {n : Nat} {kvs m : List (Nat × BitVec n)} {x : Nat × BitVec n} (hm : rising 0 m = true) (hn : (kvs.map Prod.fst).Nodup)
    (hx : x ∈ kvs) : mget (msetAll m kvs) x.1 = x.2 := by
  induction kvs generalizing m with
  | nil => cases hx
  | cons y r ih =>
    rw [List.map_cons, List.nodup_cons] at hn
    cases hx with
    | head => exact (mget_msetAll_of_not_mem r _ hn.1).trans (mget_mset_self m 0 x.1 x.2 hm)
    | tail _ hx => exact ih (rising_mset m 0 y.1 y.2 (Nat.zero_le _) hm) hn.2 hx

theorem regWrites_keys (r lane n v : Nat) : (regWrites r lane n v).map Prod.fst = (List.range n).map fun k => 32 * (r + k) + lane := by
  rw [regWrites, List.map_map]
  rfl
theorem nodup_regWrites_keys (r lane n v : Nat) : ((regWrites r lane n v).map Prod.fst).Nodup := by
  rw [regWrites_keys]
  exact List.nodup_range.map fun a b h => by simpa using h
/-- R5, R44: the registers of a lane that a value takes are those from the first on, and no others. -/
theorem mem_regWrites_keys {r lane n v q i : Nat} (hl : lane < 32) (hi : i < 32) :
    32 * q + i ∈ (regWrites r lane n v).map Prod.fst ↔ i = lane ∧ r ≤ q ∧ q < r + n := by
  rw [regWrites_keys, List.mem_map]
  constructor
  · rintro ⟨k, hk, e⟩
    have := List.mem_range.1 hk
    omega
  · rintro ⟨rfl, hle, hlt⟩
    exact ⟨q - r, List.mem_range.2 (by omega), by omega⟩

theorem flagDown_flags {w : Warp} (h : rising 0 w.flags = true) (n : Option Nat) (k : Nat) :
    mget (w.flagDown n).flags k = mget w.flags k - if n = some k then 1 else 0 := by
  cases n with
  | none => simp [Warp.flagDown]
  | some n =>
    rw [Warp.flagDown, mget_addFlag h]
    simp only [Option.some.injEq]
    split
    · exact (BitVec.sub_eq_add_neg _ _).symm
    · simp

/-- R51: a result that writes no EXM counts its flag down and writes its registers; the rest of the warp stays. -/
theorem landOne_eq (w : Warp) (l : Landing) (h : l.exm = none) : w.landOne l = { w.flagDown l.flag with regs := msetAll w.regs l.writes } := by
  rw [Warp.landOne, h]

/-- Settles O51: by the flag that an issue counts, and by the keys of the registers that a result writes. -/
theorem issueAndLanding : Obligations.IssueAndLanding := by
  refine ⟨fun s f w h => ?_, fun w due flag r lane n v hregs hflags hlane => ?_⟩
  · refine ⟨rfl, rfl, rfl, ?_, ?_, ?_, ?_, ?_, ?_, ?_, ?_, ?_, issuedWarp_flags s f h⟩
    all_goals
      unfold State.issuedWarp
      cases f.flag <;> rfl
  · dsimp only
    rw [landOne_eq w _ rfl]
    refine ⟨fun k hk => ?_, fun q i hi hne => ?_, fun k => flagDown_flags hflags flag k, ?_⟩
    · exact mget_msetAll_of_mem (x := (32 * (r + k) + lane, BitVec.ofNat 32 (v / 2 ^ (32 * k)))) hregs (nodup_regWrites_keys r lane n v)
        (List.mem_map_of_mem (List.mem_range.2 hk))
    · exact mget_msetAll_of_not_mem _ _ (mt (mem_regWrites_keys hlane hi).1 hne)
    · cases flag <;> exact ⟨rfl, rfl, rfl, rfl, rfl, rfl, rfl⟩

/-- Settles O56: each word is decoded. -/
theorem decodeWords : Obligations.DecodeWords := by
  unfold Obligations.DecodeWords Reads
  decide

end Sys2Proof.Safety

/-! O31. The results of a cycle land (R51, R229), and operations whose flag is due end (R41, R270). -/
namespace Sys2Proof.Safety
open Sys2Proof Sys2Proof.Machine

/-! ## The results of one warp -/

/-- R51, R52: where one result of a kind is due, it lands and leaves those on their way. -/
theorem landDue_one {w : Warp} {now : Nat} {late : Bool} {l : Landing}
    (h : w.pend.filter (fun x => decide (x.due ≤ now) && x.late == late) = [l]) :
    w.landDue now late = ({ w with pend := w.pend.filter fun x => !(decide (x.due ≤ now) && x.late == late) } : Warp).landOne l := by
  dsimp only [Warp.landDue]
  rw [h]
  rfl
/-- Where none of a kind is due, the warp stays as it is. -/
theorem landDue_none {w : Warp} {now : Nat} {late : Bool} (h : ∀ x ∈ w.pend, (decide (x.due ≤ now) && x.late == late) = false) :
    w.landDue now late = w := by
  have hdue : w.pend.filter (fun x => decide (x.due ≤ now) && x.late == late) = [] := List.filter_eq_nil_iff.2 fun x hx => by simp [h x hx]
  have hrest : w.pend.filter (fun x => !(decide (x.due ≤ now) && x.late == late)) = w.pend := List.filter_eq_self.2 fun x hx => by simp [h x hx]
  dsimp only [Warp.landDue]
  rw [hdue, hrest]
  rfl

/-- Only `l` is due: it lands among the results of its own kind, and none of the other kind is left or was there. -/
theorem landDue_both {w : Warp} {now : Nat} {l : Landing} (hexm : l.exm = none) (h : w.pend.filter (fun x => decide (x.due ≤ now)) = [l]) :
    (w.landDue now false).landDue now true = { w.flagDown l.flag with
      regs := msetAll w.regs l.writes, pend := w.pend.filter fun x => !decide (x.due ≤ now) } := by
  have only {x : Landing} (hx : x ∈ w.pend) (hd : x.due ≤ now) : x = l := by
    have : x ∈ w.pend.filter fun x => decide (x.due ≤ now) := List.mem_filter.2 ⟨hx, by simpa using hd⟩
    simpa [h] using this
  have hdue (late : Bool) (e : l.late = late) : w.pend.filter (fun x => decide (x.due ≤ now) && x.late == late) = [l] := by
    rw [← h]
    refine List.filter_congr fun x hx => ?_
    by_cases hd : x.due ≤ now
    · simp [only hx hd, e]
    · simp [hd]
  have hrest (late : Bool) (e : l.late = late) :
      w.pend.filter (fun x => !(decide (x.due ≤ now) && x.late == late)) = w.pend.filter fun x => !decide (x.due ≤ now) := by
    refine List.filter_congr fun x hx => ?_
    by_cases hd : x.due ≤ now
    · simp [only hx hd, e]
    · simp [hd]
  have lands : ({ w with pend := w.pend.filter fun x => !decide (x.due ≤ now) } : Warp).landOne l =
      { w.flagDown l.flag with regs := msetAll w.regs l.writes, pend := w.pend.filter fun x => !decide (x.due ≤ now) } := by
    rw [landOne_eq _ l hexm]
    cases l.flag <;> rfl
  cases e : l.late with
  | false =>
    rw [landDue_one (hdue false e), hrest false e, lands]
    exact landDue_none fun x hx => by
      have := (List.mem_filter.1 hx).2
      simp_all
  | true =>
    have first : w.landDue now false = w := landDue_none fun x hx => by
      by_cases hd : x.due ≤ now
      · simp [only hx hd, e]
      · simp [hd]
    rw [first, landDue_one (hdue true e), hrest true e, lands]

/-! ## The results of every warp -/

/-- R51: what the landing of results of a kind makes of a warp; a frozen core's stays as it is. -/
def landed (s : State) (late : Bool) (w : Warp) : Warp := if s.frozen w.core then w else w.landDue (s.now w) late

theorem landed_keeps (s : State) (late : Bool) (w : Warp) :
    (landed s late w).id = w.id ∧ (landed s late w).core = w.core ∧ (landed s late w).timed = w.timed := by
  unfold landed
  split
  · exact ⟨rfl, rfl, rfl⟩
  · exact w.landDue_keeps _ _
/-- A landing changes neither which cores are frozen nor their cycles. -/
theorem landed_mapWarps (s : State) (late b : Bool) : landed { s with warps := s.warps.map (landed s late) } b = landed s b := by
  funext w
  rw [landed, s.frozen_map (landed s late) fun v => (landed_keeps s late v).2]
  rfl
theorem padsDue_mapWarps (s : State) (late b : Bool) : State.padsDue { s with warps := s.warps.map (landed s late) } b = s.padsDue b := by
  unfold State.padsDue
  simp only [s.frozen_map (landed s late) fun v => (landed_keeps s late v).2]
  rfl
/-- Where no lane of a scratchpad access is due, results land in warps alone. -/
theorem landResults_eq {s : State} (h : ∀ b, s.padsDue b = []) (late : Bool) :
    s.landResults late = { s with warps := s.warps.map (landed s late) } := by
  have hpads := (padsDue_mapWarps s late !late).trans (h _)
  show (State.padsDue { s with warps := s.warps.map (landed s late) } !late).foldl _ _ = _
  rw [hpads]
  rfl
/-- Both kinds, one after the other. -/
theorem execFixedResultLand_eq {s : State} (h : ∀ b, s.padsDue b = []) :
    execFixedResultLand s = .next { s with warps := s.warps.map fun w => landed s true (landed s false w) } := by
  have h' (b : Bool) : State.padsDue { s with warps := s.warps.map (landed s false) } b = [] := (padsDue_mapWarps s false b).trans (h b)
  rw [execFixedResultLand, landResults_eq h, landResults_eq h']
  simp only [landed_mapWarps, List.map_map]
  rfl
theorem warp_mapWarps {s : State} {wid : Nat} (g : Warp → Warp) (hg : ∀ w, (g w).id = w.id) (h : s.hasWarp wid = true) :
    ({ s with warps := s.warps.map g } : State).warp wid = g (s.warp wid) := by
  obtain ⟨w, hw⟩ := (s.hasWarp_iff wid).1 h
  have hfind : (s.warps.map g).find? (·.id == wid) = some (g w) := by
    rw [List.find?_map, show ((fun v : Warp => v.id == wid) ∘ g) = (·.id == wid) from funext fun v => by simp [hg], hw]
    rfl
  rw [State.warp, State.warp, hw, hfind]
  rfl
/-- What becomes of a warp that is there. -/
theorem fixedResultLand_warp {s : State} {wid : Nat} (h : ∀ b, s.padsDue b = []) (hw : s.hasWarp wid = true) :
    ∃ t, exec .fixedResultLand s = .next t ∧ t.warp wid = landed s true (landed s false (s.warp wid)) ∧ t.mem = s.mem ∧ t.ops = s.ops := by
  rw [exec_fixedResultLand, execFixedResultLand_eq h]
  refine ⟨_, rfl, warp_mapWarps _ (fun w => ?_) hw, rfl, rfl⟩
  rw [(landed_keeps s true _).1, (landed_keeps s false w).1]

/-- On a core that runs, the results of a warp land in its unfrozen cycle. -/
theorem landed_of_runs {s : State} {w : Warp} (h : s.frozen w.core = false) :
    landed s true (landed s false w) = (w.landDue (s.now w) false).landDue (s.now w) true := by
  have hcore : (w.landDue (s.now w) false).core = w.core := (w.landDue_keeps _ _).2.1
  have first : landed s false w = w.landDue (s.now w) false := if_neg (by simp [h])
  have hnow : s.now (w.landDue (s.now w) false) = s.now w := congrArg s.ucyc hcore
  rw [first, landed, hcore, h, hnow]
  rfl

/-- R51: the one result that is due lands. -/
theorem fixedResult_lands (wid : Nat) (l : Landing) : Does .fixedResultLand
    (fun s => (∀ c, s.padsDue c = []) ∧ s.hasWarp wid = true ∧ s.frozen (s.warp wid).core = false ∧ l.exm = none ∧
      (s.warp wid).pend.filter (fun l => decide (l.due ≤ s.now (s.warp wid))) = [l])
    fun s t => t.warp wid = { ((s.warp wid).flagDown l.flag) with
        regs := msetAll (s.warp wid).regs l.writes
        pend := (s.warp wid).pend.filter fun l => !decide (l.due ≤ s.now (s.warp wid)) } ∧ t.mem = s.mem ∧ t.ops = s.ops := by
  rintro s ⟨hpads, hw, hruns, hexm, hdue⟩
  obtain ⟨t, e, hwarp, hmem, hops⟩ := fixedResultLand_warp hpads hw
  exact ⟨t, e, hwarp.trans ((landed_of_runs hruns).trans (landDue_both hexm hdue)), hmem, hops⟩

/-- R51: on a frozen core, or where none is due, nothing lands (log 6). -/
theorem fixedResult_waits (wid : Nat) : Does .fixedResultLand
    (fun s => (∀ c, s.padsDue c = []) ∧ s.hasWarp wid = true ∧
      (s.frozen (s.warp wid).core = true ∨ ∀ l ∈ (s.warp wid).pend, s.now (s.warp wid) < l.due))
    fun s t => t.warp wid = s.warp wid := by
  rintro s ⟨hpads, hw, hwaits⟩
  obtain ⟨t, e, hwarp, -⟩ := fixedResultLand_warp hpads hw
  refine ⟨t, e, hwarp.trans ?_⟩
  by_cases hf : s.frozen (s.warp wid).core = true
  · simp only [landed, hf, if_true]
  · have none (late : Bool) : (s.warp wid).landDue (s.now (s.warp wid)) late = s.warp wid :=
      landDue_none fun x hx => by simp [Nat.not_le.2 (hwaits.resolve_left hf x hx)]
    rw [landed_of_runs (by simpa using hf), none, none]

/-! ## Flags (R41, R270) -/

/-- R41: the one operation whose flag is due ends, with the values that land at its end. -/
theorem waitFlag_ends (x : Op) : Does .waitFlagCountDown (fun s => Flies s x ∧ s.ops.filter s.flagDue = [x]) fun s t =>
    Ended s t x x.lastWrites ∧ t.mem = s.mem ∧ t.cores = s.cores := by
  rintro s ⟨⟨hop, hw⟩, hdue⟩
  have near : s.Near ((s.landRegs x.wid x.id x.lastWrites).endOp x.id) := (s.near_landRegs _ _ _).trans (State.near_endOp _ _)
  rw [exec_waitFlagCountDown, execWaitFlagCountDown, hdue]
  refine ⟨_, rfl, ⟨State.op?_endOp_self _ _, ?_, ?_⟩, near.mem, near.cores⟩
  · exact (congrArg Warp.regs (State.warp_landEnd x.lastWrites hop hw)).trans (Warp.flagDown_regs _ _)
  · refine (congrArg Warp.flags (State.warp_landEnd x.lastWrites hop hw)).trans ?_
    rw [Warp.flagDown_with_regs]

/-- Where no flag is due, nothing happens (log 6). -/
theorem waitFlag_waits : Does .waitFlagCountDown (fun s => s.ops.filter s.flagDue = []) fun s t => t = s := by
  intro s hdue
  rw [exec_waitFlagCountDown, execWaitFlagCountDown, hdue]
  exact ⟨_, rfl, rfl⟩

/-- Settles O31: a clause for each event, due and not due. -/
theorem resultsLand : Obligations.ResultsLand := ⟨fixedResult_lands, fixedResult_waits, waitFlag_ends, waitFlag_waits⟩

end Sys2Proof.Safety

/-! O55. A word is the number whose digits are its fields (R37, R45, R49): packing and unpacking undo one another, and so do the operation codes of the
constructors and the constructors of the operation codes (R54). -/
namespace Sys2Proof

/-! ## Codes (R38, R45, R47) -/

theorem Ty.ofCode_code (t : Ty) : Ty.ofCode t.code = t := by cases t <;> rfl
theorem Ty.code_ofCode : ∀ c, (Ty.ofCode c).code = c := by decide
theorem Pat.ofCode_code (p : Pat) : Pat.ofCode (p.code.setWidth 3) = p := by cases p <;> rfl
theorem Pat.code_lt (p : Pat) : p.code.toNat < 8 := by cases p <;> decide
theorem Pat.code_ofCode : ∀ c, (Pat.ofCode c).code = 0#1 ++ c := by decide
theorem Half.ofCode_code (h : Half) : Half.ofCode h.code = h := by cases h <;> rfl
theorem Half.code_lt (h : Half) : h.code.toNat < 3 := by cases h <;> decide
/-- R45: 0b11 is no half select. -/
theorem Half.code_ofCode : ∀ c : BitVec 2, c ≠ 3 → (Half.ofCode c).code = c := by decide

end Sys2Proof

namespace Sys2Proof.Safety
open Sys2Proof Sys2Proof.Machine

/-! ## Fields of a word as digits of its number -/

theorem toNat_wbits (w : IWord) (lo n : Nat) : (wbits w lo n).toNat = fld w.toNat lo n := by
  rw [wbits, BitVec.extractLsb'_toNat, Nat.shiftRight_eq_div_pow]
  rfl
theorem getLsbD_eq_bitAt (w : IWord) (i : Nat) : w.getLsbD i = bitAt w.toNat i := (bitAt_eq w.toNat i).symm
theorem fld_fld (x lo n k m : Nat) (h : k + m ≤ n) : fld (fld x lo n) k m = fld x (lo + k) m := by
  refine Nat.eq_of_testBit_eq fun i => ?_
  simp only [testBit_fld]
  by_cases hi : i < m
  · simp [hi, show k + i < n by omega, Nat.add_assoc]
  · simp [hi]
theorem bitAt_of_fld {x lo n k : Nat} (h : k < n) : bitAt x (lo + k) = bitAt (fld x lo n) k := by simp [bitAt_fld, h]
theorem bitAt_eq_of_fld {x k : Nat} {b : Bool} (h : fld x k 1 = b.toNat) : bitAt x k = b := by
  rw [bitAt, show x / 2 ^ k % 2 = b.toNat from h]
  cases b <;> rfl
theorem toNat_append_eq {v m : Nat} (x : BitVec v) (y : BitVec m) : (x ++ y).toNat = x.toNat * 2 ^ m + y.toNat := by
  rw [BitVec.toNat_append, ← Nat.shiftLeft_add_eq_or_of_lt y.isLt, Nat.shiftLeft_eq]

/-- Adjacent fields are one. -/
theorem wbits_append (w : IWord) {hi lo m n : Nat} (h : hi = lo + m) : wbits w hi n ++ wbits w lo m = wbits w lo (n + m) :=
  BitVec.extractLsb'_append_extractLsb'_eq_extractLsb' h
theorem bitOf_getLsbD (w : IWord) (i : Nat) : bitOf (w.getLsbD i) = wbits w i 1 := by
  ext j hj
  obtain rfl : j = 0 := by omega
  simp [bitOf, wbits]

/-! ## A source field (R45) -/

theorem toNat_packSrc (s : Src) (b : Bool) : (packSrc s b).toNat =
    s.reg.toNat * 2 ^ 15 + s.pat.code.toNat * 2 ^ 11 + s.k.toNat * 2 ^ 6 + s.neg.toNat * 2 ^ 5 + s.abs.toNat * 2 ^ 4 + s.half.code.toNat * 2 ^ 2 + b.toNat := by
  unfold packSrc
  refine (toNat_append_eq _ _).trans ?_
  simp only [toNat_append_eq, bitOf, BitVec.toNat_ofBool, BitVec.ofNat_eq_ofNat, BitVec.toNat_ofNat]
  omega

/-- The digits of that number. -/
theorem fld_packSrc (s : Src) (b : Bool) :
    let v := (packSrc s b).toNat
    fld v 15 8 = s.reg.toNat ∧ fld v 14 1 = 0 ∧ fld v 11 3 = s.pat.code.toNat ∧ fld v 6 5 = s.k.toNat ∧ fld v 5 1 = s.neg.toNat ∧
      fld v 4 1 = s.abs.toNat ∧ fld v 2 2 = s.half.code.toNat ∧ fld v 1 1 = 0 ∧ fld v 0 1 = b.toNat := by
  have hreg := s.reg.isLt
  have hpat := s.pat.code_lt
  have hk := s.k.isLt
  have hneg := s.neg.toNat_le
  have habs := s.abs.toNat_le
  have hhalf := s.half.code_lt
  have hb := b.toNat_le
  rw [toNat_packSrc]
  simp only [fld]
  omega

/-- A source that is packed at bit `lo` of a word is read back, and none of its bits is reserved; bit 0 is the IMM bit. -/
theorem unpackSrc_of_packed {w : IWord} {lo : Nat} {s : Src} {b : Bool} (h : fld w.toNat lo 23 = (packSrc s b).toNat) :
    unpackSrc w lo = s ∧ ∀ isA, srcBitReasons w lo isA = if !isA && b then [8] else [] := by
  obtain ⟨hreg, h14, hpat, hk, hneg, habs, hhalf, h1, hb⟩ := fld_packSrc s b
  have field (k n : Nat) (hkn : k + n ≤ 23) : (wbits w (lo + k) n).toNat = fld (packSrc s b).toNat k n := by
    rw [toNat_wbits, ← fld_fld _ _ _ _ _ hkn, h]
  have bit {k : Nat} {d : Bool} (hk : k < 23) (hd : fld (packSrc s b).toNat k 1 = d.toNat) : w.getLsbD (lo + k) = d := by
    rw [getLsbD_eq_bitAt, bitAt_of_fld hk, h, bitAt_eq_of_fld hd]
  have ereg : wbits w (lo + 15) 8 = s.reg := BitVec.eq_of_toNat_eq ((field 15 8 (by decide)).trans hreg)
  have epat : wbits w (lo + 11) 3 = s.pat.code.setWidth 3 := by
    refine BitVec.eq_of_toNat_eq ((field 11 3 (by decide)).trans ?_)
    rw [hpat, BitVec.toNat_setWidth, Nat.mod_eq_of_lt s.pat.code_lt]
  have ek : wbits w (lo + 6) 5 = s.k := BitVec.eq_of_toNat_eq ((field 6 5 (by decide)).trans hk)
  have ehalf : wbits w (lo + 2) 2 = s.half.code := BitVec.eq_of_toNat_eq ((field 2 2 (by decide)).trans hhalf)
  have half3 : s.half.code ≠ 3 := by cases s.half <;> decide
  constructor
  · rw [unpackSrc, ereg, epat, ek, ehalf, bit (by decide) hneg, bit (by decide) habs, Pat.ofCode_code, Half.ofCode_code]
  · intro isA
    rw [srcBitReasons, ehalf, bit (d := false) (by decide) h14, bit (d := false) (by decide) h1, show w.getLsbD lo = b from bit (k := 0) (by decide) hb, beq_false_of_ne half3]
    rfl

/-- A source field without reserved bits is packed again. -/
theorem packSrc_unpackSrc {w : IWord} {lo : Nat} {isA : Bool} (h : srcBitReasons w lo isA = []) :
    packSrc (unpackSrc w lo) (w.getLsbD lo) = wbits w lo 23 ∧ (isA = false → w.getLsbD lo = false) := by
  simp only [srcBitReasons, List.append_eq_nil_iff, ite_eq_right_iff, List.cons_ne_nil, imp_false, Bool.not_eq_true, Bool.or_eq_false_iff,
    beq_eq_false_iff_ne, Bool.and_eq_false_imp, Bool.not_eq_true'] at h
  obtain ⟨⟨h14, hhalf, h1⟩, h0⟩ := h
  refine ⟨?_, h0⟩
  have hpat : (Pat.ofCode (wbits w (lo + 11) 3)).code = wbits w (lo + 11) 4 := by
    rw [Pat.code_ofCode, show 0#1 = wbits w (lo + 14) 1 by rw [← bitOf_getLsbD, h14]; rfl]
    exact wbits_append w rfl
  have hz : (0 : BitVec 1) = wbits w (lo + 1) 1 := by rw [← bitOf_getLsbD, h1]; rfl
  simp only [packSrc, unpackSrc, hpat, Half.code_ofCode _ hhalf, bitOf_getLsbD, hz]
  rw [wbits_append w (hi := lo + 15) (lo := lo + 11) rfl, wbits_append w (hi := lo + 11) (lo := lo + 6) rfl, wbits_append w (hi := lo + 6) (lo := lo + 5) rfl,
    wbits_append w (hi := lo + 5) (lo := lo + 4) rfl, wbits_append w (hi := lo + 4) (lo := lo + 2) rfl, wbits_append w (hi := lo + 2) (lo := lo + 1) rfl]
  exact wbits_append w (hi := lo + 1) (lo := lo) rfl

/-! ## The sources, or source a and the immediate (R49) -/

theorem toNat_packArgs_regs (a b c : Src) : (packArgs (.regs a b c)).toNat =
    (packSrc a false).toNat * 2 ^ 46 + (packSrc b false).toNat * 2 ^ 23 + (packSrc c false).toNat := by
  refine (toNat_append_eq _ _).trans ?_
  rw [toNat_append_eq]
  omega
theorem toNat_packArgs_imm (a : Src) (i : Word) : (packArgs (.imm a i)).toNat = (packSrc a true).toNat * 2 ^ 46 + i.toNat := by
  refine (toNat_append_eq _ _).trans ?_
  rw [toNat_append_eq]
  simp only [BitVec.ofNat_eq_ofNat, BitVec.toNat_ofNat]
  omega

/-- The operands of a word, as `unpack` has them. -/
def argsOf (w : IWord) : Args :=
  if immBit w then .imm (unpackSrc w 46) (wbits w 0 32) else .regs (unpackSrc w 46) (unpackSrc w 23) (unpackSrc w 0)

/-- Operands that are packed are read back, and none of their bits is reserved. -/
theorem argsOf_of_packed {w : IWord} {x : Args} (h : fld w.toNat 0 69 = (packArgs x).toNat) : argsOf w = x ∧ bitReasons w = [] := by
  have field (k n : Nat) (hkn : k + n ≤ 69) : fld w.toNat k n = fld (packArgs x).toNat k n := by
    rw [← h, fld_fld _ _ _ _ _ hkn, Nat.zero_add]
  have imm (b : Bool) (hb : fld (packArgs x).toNat 46 1 = b.toNat) : immBit w = b := by
    rw [immBit, getLsbD_eq_bitAt]
    exact bitAt_eq_of_fld ((field 46 1 (by decide)).trans hb)
  cases x with
  | regs a b c =>
    have ha := (packSrc a false).isLt
    have hb := (packSrc b false).isLt
    have hc := (packSrc c false).isLt
    have h0 := (fld_packSrc a false).2.2.2.2.2.2.2.2
    rw [toNat_packArgs_regs] at field imm
    obtain ⟨ea, ra⟩ := unpackSrc_of_packed (w := w) (lo := 46) (s := a) (b := false) ((field 46 23 (by decide)).trans (by simp only [fld]; omega))
    obtain ⟨eb, rb⟩ := unpackSrc_of_packed (w := w) (lo := 23) (s := b) (b := false) ((field 23 23 (by decide)).trans (by simp only [fld]; omega))
    obtain ⟨ec, rc⟩ := unpackSrc_of_packed (w := w) (lo := 0) (s := c) (b := false) ((field 0 23 (by decide)).trans (by simp only [fld]; omega))
    have ei := imm false (by simp only [fld] at h0 ⊢; omega)
    simp [argsOf, bitReasons, ei, ea, eb, ec, ra, rb, rc]
  | imm a i =>
    have ha := (packSrc a true).isLt
    have hi := i.isLt
    have h0 := (fld_packSrc a true).2.2.2.2.2.2.2.2
    rw [toNat_packArgs_imm] at field imm
    obtain ⟨ea, ra⟩ := unpackSrc_of_packed (w := w) (lo := 46) (s := a) (b := true) ((field 46 23 (by decide)).trans (by simp only [fld]; omega))
    have ei := imm true (by simp only [fld] at h0 ⊢; omega)
    have evalue : wbits w 0 32 = i := BitVec.eq_of_toNat_eq (by rw [toNat_wbits, field 0 32 (by decide)]; simp only [fld]; omega)
    have ezero : wbits w 32 14 = 0 := BitVec.eq_of_toNat_eq (by rw [toNat_wbits, field 32 14 (by decide)]; simp only [fld]; show _ = 0; omega)
    simp [argsOf, bitReasons, ei, ea, ra, evalue, ezero]

/-- Operands without reserved bits are packed again. -/
theorem packArgs_argsOf {w : IWord} (h : bitReasons w = []) : packArgs (argsOf w) = wbits w 0 69 := by
  rw [bitReasons, List.append_eq_nil_iff] at h
  obtain ⟨ha, hrest⟩ := h
  obtain ⟨ea, -⟩ := packSrc_unpackSrc ha
  change packSrc (unpackSrc w 46) (immBit w) = _ at ea
  unfold argsOf
  cases hi : immBit w with
  | false =>
    rw [hi] at ea hrest
    rw [if_neg Bool.false_ne_true, List.append_eq_nil_iff] at hrest
    obtain ⟨eb, hb⟩ := packSrc_unpackSrc hrest.1
    obtain ⟨ec, hc⟩ := packSrc_unpackSrc hrest.2
    rw [hb rfl] at eb
    rw [hc rfl] at ec
    show packSrc (unpackSrc w 46) false ++ packSrc (unpackSrc w 23) false ++ packSrc (unpackSrc w 0) false = wbits w 0 69
    rw [ea, eb, ec, wbits_append w (hi := 46) (lo := 23) rfl]
    exact wbits_append w (hi := 23) (lo := 0) rfl
  | true =>
    rw [hi] at ea hrest
    have ezero : wbits w 32 14 = 0 := by simpa using hrest
    show packSrc (unpackSrc w 46) true ++ (0 : BitVec 14) ++ wbits w 0 32 = wbits w 0 69
    rw [ea, ← ezero, wbits_append w (hi := 46) (lo := 32) rfl]
    exact wbits_append w (hi := 32) (lo := 0) rfl

/-! ## The whole word (R37) -/

theorem toNat_pack (op : BitVec 8) (f : Fields) : (pack op f).toNat =
    op.toNat * 2 ^ 120 + f.ty.code.toNat * 2 ^ 116 + f.var.toNat * 2 ^ 112 + f.sched.dist.toNat * 2 ^ 108 + f.sched.wait.toNat * 2 ^ 96 +
      f.sched.setf.toNat * 2 ^ 92 + f.sched.pen.toNat * 2 ^ 91 + f.sched.psense.toNat * 2 ^ 90 + f.sched.preg.toNat * 2 ^ 82 +
      f.sched.pbit.toNat * 2 ^ 77 + f.dst.toNat * 2 ^ 69 + (packArgs f.args).toNat := by
  unfold pack
  refine (toNat_append_eq _ _).trans ?_
  simp only [toNat_append_eq, bitOf, BitVec.toNat_ofBool]
  ring

theorem fld_pack (op : BitVec 8) (f : Fields) :
    let v := (pack op f).toNat
    fld v 120 8 = op.toNat ∧ fld v 116 4 = f.ty.code.toNat ∧ fld v 112 4 = f.var.toNat ∧ fld v 108 4 = f.sched.dist.toNat ∧
      fld v 96 12 = f.sched.wait.toNat ∧ fld v 92 4 = f.sched.setf.toNat ∧ fld v 91 1 = f.sched.pen.toNat ∧ fld v 90 1 = f.sched.psense.toNat ∧
      fld v 82 8 = f.sched.preg.toNat ∧ fld v 77 5 = f.sched.pbit.toNat ∧ fld v 69 8 = f.dst.toNat ∧ fld v 0 69 = (packArgs f.args).toNat := by
  have hop := op.isLt
  have hty := f.ty.code.isLt
  have hvar := f.var.isLt
  have hdist := f.sched.dist.isLt
  have hwait := f.sched.wait.isLt
  have hsetf := f.sched.setf.isLt
  have hpen := f.sched.pen.toNat_le
  have hsense := f.sched.psense.toNat_le
  have hpreg := f.sched.preg.isLt
  have hpbit := f.sched.pbit.isLt
  have hdst := f.dst.isLt
  have hargs := (packArgs f.args).isLt
  rw [toNat_pack]
  simp only [fld]
  omega

/-- The word of an operation code and fields holds them, and none of its bits is reserved. -/
theorem unpack_pack (op : BitVec 8) (f : Fields) :
    wbits (pack op f) 120 8 = op ∧ unpack (pack op f) = f ∧ bitReasons (pack op f) = [] := by
  obtain ⟨hop, hty, hvar, hdist, hwait, hsetf, hpen, hsense, hpreg, hpbit, hdst, hargs⟩ := fld_pack op f
  have field {lo n : Nat} {v : BitVec n} (h : fld (pack op f).toNat lo n = v.toNat) : wbits (pack op f) lo n = v :=
    BitVec.eq_of_toNat_eq ((toNat_wbits _ _ _).trans h)
  have bit {i : Nat} {b : Bool} (h : fld (pack op f).toNat i 1 = b.toNat) : (pack op f).getLsbD i = b :=
    (getLsbD_eq_bitAt _ _).trans (bitAt_eq_of_fld h)
  obtain ⟨eargs, hbits⟩ := argsOf_of_packed hargs
  refine ⟨field hop, ?_, hbits⟩
  rw [argsOf] at eargs
  rw [unpack, field hty, field hvar, field hdist, field hwait, field hsetf, field hpreg, field hpbit, field hdst, bit hpen, bit hsense, eargs,
    Ty.ofCode_code]

/-- A word without reserved bits is the word of its operation code and fields. -/
theorem pack_unpack {w : IWord} (h : bitReasons w = []) : pack (wbits w 120 8) (unpack w) = w := by
  have eargs := packArgs_argsOf h
  rw [argsOf] at eargs
  simp only [pack, unpack, eargs, Ty.code_ofCode, bitOf_getLsbD]
  rw [wbits_append w (hi := 120) (lo := 116) rfl, wbits_append w (hi := 116) (lo := 112) rfl, wbits_append w (hi := 112) (lo := 108) rfl,
    wbits_append w (hi := 108) (lo := 96) rfl, wbits_append w (hi := 96) (lo := 92) rfl, wbits_append w (hi := 92) (lo := 91) rfl,
    wbits_append w (hi := 91) (lo := 90) rfl, wbits_append w (hi := 90) (lo := 82) rfl, wbits_append w (hi := 82) (lo := 77) rfl,
    wbits_append w (hi := 77) (lo := 69) rfl]
  exact (wbits_append w (hi := 69) (lo := 0) rfl).trans BitVec.extractLsb'_eq_self

/-! ## Operation codes (R54) -/

/-- The constructor of an operation code is the one whose code it is. -/
theorem ofOp_of_opFields {i : Instr} {op : Nat} {f : Fields} (h : i.opFields = some (op, f)) : Instr.ofOp op f = some i ∧ op < 256 := by
  cases i <;> cases h <;> exact ⟨rfl, by decide⟩
/-- The code of a constructor is the one it was made from: one case for each code of a byte. -/
theorem opFields_of_ofOp {i : Instr} {op : Nat} {f : Fields} (hlt : op < 256) (h : Instr.ofOp op f = some i) : i.opFields = some (op, f) := by
  interval_cases op <;> cases h <;> rfl

/-! ## Decoding (R56) -/

theorem firstReason_eq_none {l : List Nat} : firstReason l = none ↔ l = [] := by cases l <;> simp [firstReason]

/-- A word decodes exactly where no check of the table fails and its operation code is a constructor's. -/
theorem decodeWord_ok {n : Nat} {w : IWord} {i : Instr} :
    decodeWord n w = .ok i ↔ wordReasons n w = [] ∧ Instr.ofOp (wbits w 120 8).toNat (unpack w) = some i := by
  unfold decodeWord
  rw [← firstReason_eq_none]
  cases firstReason (wordReasons n w) with
  | some r => simp
  | none => cases Instr.ofOp (wbits w 120 8).toNat (unpack w) <;> simp
/-- No check fails where none of the bits is reserved and none of the row's checks fails. -/
theorem wordReasons_eq_nil {n : Nat} {w : IWord} {i : Instr} (h : i.opFields = some ((wbits w 120 8).toNat, unpack w)) :
    wordReasons n w = [] ↔ bitReasons w = [] ∧ i.wf n = true := by
  rw [wordReasons, Instr.wf, Instr.reasons, h]
  dsimp only
  generalize rowOf (wbits w 120 8).toNat (unpack w) = row
  cases row with
  | none => simp
  | some r => simp

/-- Settles O55: the word of an instruction holds its code and its fields, and a word that is admitted is made of its own. -/
theorem decodeEncode : Obligations.DecodeEncode := by
  refine ⟨fun n i hop hwf => ?_, fun n w i h => ?_⟩
  · obtain ⟨⟨op, f⟩, e⟩ := Option.isSome_iff_exists.1 hop
    obtain ⟨hof, hlt⟩ := ofOp_of_opFields e
    obtain ⟨hw, hf, hbits⟩ := unpack_pack (BitVec.ofNat 8 op) f
    have henc : encode i = pack (BitVec.ofNat 8 op) f := by rw [encode, e]
    have hcode : (wbits (encode i) 120 8).toNat = op := by rw [henc, hw, BitVec.toNat_ofNat, Nat.mod_eq_of_lt hlt]
    have hfields : unpack (encode i) = f := henc ▸ hf
    refine decodeWord_ok.2 ⟨(wordReasons_eq_nil (i := i) (by rw [e, hcode, hfields])).2 ⟨henc ▸ hbits, hwf⟩, ?_⟩
    rw [hcode, hfields, hof]
  · obtain ⟨hr, hof⟩ := decodeWord_ok.1 h
    have e := opFields_of_ofOp (wbits w 120 8).isLt hof
    obtain ⟨hbits, hwf⟩ := (wordReasons_eq_nil e).1 hr
    refine ⟨?_, by rw [e]; rfl, hwf⟩
    rw [encode, e]
    dsimp only
    rw [BitVec.ofNat_toNat, BitVec.setWidth_eq, pack_unpack hbits]

end Sys2Proof.Safety

/-! O60. Every step keeps the identifiers of operations below the next one (R41), so that `takeId` gives one that none has.

Identifiers only ever come from the next one, and every operation keeps its own: in flight, saved with its cluster (R391), and back again (R393).
Beside `addOp`, the list of operations grows in `reopenWait`, by what was saved, and the saved ones in `sealCore`, by those in flight, and in
`readCluster`, by those of a copied context, whose numbers `adopt` takes (R401, R402). As what was saved is looked up before the steps that lead to
its return, the rules are about the identifiers and a bound `lo` that the next one never goes below. The rules stand in the order of the model's
files; the proof of each follows the branches of its definition and cites the rules of what it calls. `exec` and `step` are the last two. -/
namespace Sys2Proof.Safety
open Sys2Proof Sys2Proof.Machine

/-! ## Identifiers below a bound -/

/-- Every operation saved with a cluster of the launch has an identifier below the bound. -/
def WaitsBelow (k : Nat) (l : Launch) : Prop := ∀ c ∈ l.clusters, ∀ x ∈ c.waits, x.id < k
/-- The next identifier is not below `lo`, and every operation, in flight or saved, has one below the next. -/
structure IdsFrom (lo : Nat) (s : State) : Prop where
  le : lo ≤ s.nextId
  ops : ∀ x ∈ s.ops, x.id < s.nextId
  waits : ∀ l ∈ s.launches, WaitsBelow s.nextId l

theorem idsBelow_iff {s : State} : IdsBelow s ↔ IdsFrom s.nextId s :=
  ⟨fun h => ⟨Nat.le_refl _, h.1, h.2⟩, fun h => ⟨h.ops, h.waits⟩⟩

theorem WaitsBelow.mono {j k : Nat} {l : Launch} (h : WaitsBelow j l) (hk : j ≤ k) : WaitsBelow k l :=
  fun c hc x hx => Nat.lt_of_lt_of_le (h c hc x hx) hk
/-- A launch none of whose clusters holds a wait. -/
theorem WaitsBelow.of_nil {k : Nat} {l : Launch} (h : ∀ c ∈ l.clusters, c.waits = []) : WaitsBelow k l := by
  intro c hc x hx
  rw [h c hc] at hx
  cases hx
theorem WaitsBelow.addCluster {k : Nat} {l : Launch} {c : Cluster} (h : WaitsBelow k l) (hc : ∀ x ∈ c.waits, x.id < k) :
    WaitsBelow k { l with clusters := l.clusters ++ [c] } := by
  intro d hd
  exact (List.mem_append.1 hd).elim (h d) fun hd => List.mem_singleton.1 hd ▸ hc
/-- Every cluster changes, and what it holds of waits is what it held, or has identifiers below the bound. -/
theorem WaitsBelow.map {k : Nat} {l : Launch} {g : Cluster → Cluster} (h : WaitsBelow k l)
    (hg : ∀ c, ∀ x ∈ (g c).waits, x ∈ c.waits ∨ x.id < k) : WaitsBelow k { l with clusters := l.clusters.map g } := by
  intro d hd x hx
  obtain ⟨c, hc, rfl⟩ := List.mem_map.1 hd
  exact (hg c x hx).elim (h c hc x) id
theorem WaitsBelow.mapSame {k : Nat} {l : Launch} {g : Cluster → Cluster} (h : WaitsBelow k l)
    (hg : ∀ c, (g c).waits = c.waits) : WaitsBelow k { l with clusters := l.clusters.map g } :=
  h.map fun c _ hx => .inl (hg c ▸ hx)
theorem WaitsBelow.ite {k : Nat} {l m : Launch} {b : Prop} [Decidable b] (hl : WaitsBelow k l) (hm : WaitsBelow k m) :
    WaitsBelow k (if b then l else m) := by
  split
  · exact hl
  · exact hm
theorem Cluster.waits_ite {b : Prop} [Decidable b] {c d : Cluster} (h : d.waits = c.waits) : (if b then d else c).waits = c.waits := by
  split
  · exact h
  · rfl

section
-- One proof after another: many at once each hold a thread's stack, and the text is near the memory that the check gives it.
set_option Elab.async false
variable {lo : Nat} {s : State}

theorem IdsFrom.mono {k : Nat} (h : IdsFrom lo s) (hk : k ≤ lo) : IdsFrom k s := ⟨hk.trans h.le, h.ops, h.waits⟩
/-- The next identifier is itself a bound. -/
theorem IdsFrom.self (h : IdsFrom lo s) : IdsFrom s.nextId s := ⟨Nat.le_refl _, h.ops, h.waits⟩

/-! ## Answers that carry a state -/

/-- The state that an optional answer carries at `π`, if any, has its identifiers below the next one. -/
def YieldsIds (lo : Nat) {α : Type} (π : α → State) (o : Option α) : Prop := ∀ x, o = some x → IdsFrom lo (π x)
/-- So has the next state that an instruction or an event answers, if any. -/
def KeepsIds (lo : Nat) (o : Out) : Prop := ∀ t, o = .next t → IdsFrom lo t

theorem KeepsIds.next {t : State} (h : IdsFrom lo t) : KeepsIds lo (.next t) := by
  intro t' e
  cases e
  exact h
theorem KeepsIds.fault {e : Machine.Fault} : KeepsIds lo (.fault e) := fun _ h => by cases h
theorem KeepsIds.ite {a b : Out} {c : Prop} [Decidable c] (ha : KeepsIds lo a) (hb : KeepsIds lo b) : KeepsIds lo (if c then a else b) := by
  split
  · exact ha
  · exact hb

theorem YieldsIds.none {α : Type} {π : α → State} : YieldsIds lo π none := nofun
theorem YieldsIds.some {α : Type} {π : α → State} {x : α} (h : IdsFrom lo (π x)) : YieldsIds lo π (some x) := by
  intro y e
  cases e
  exact h
theorem YieldsIds.ite {α : Type} {π : α → State} {a b : Option α} {c : Prop} [Decidable c] (ha : YieldsIds lo π a) (hb : YieldsIds lo π b) :
    YieldsIds lo π (if c then a else b) := by
  split
  · exact ha
  · exact hb
theorem YieldsIds.map {α β : Type} {π : α → State} {o : Option β} {g : β → α} (hg : ∀ x, o = Option.some x → IdsFrom lo (π (g x))) :
    YieldsIds lo π (o.map g) := by
  intro y e
  obtain ⟨x, hx, rfl⟩ := Option.map_eq_some_iff.1 e
  exact hg x hx
theorem YieldsIds.bind {α β : Type} {π : α → State} {o : Option β} {g : β → Option α} (hg : ∀ x, o = Option.some x → YieldsIds lo π (g x)) :
    YieldsIds lo π (o.bind g) := by
  intro y e
  obtain ⟨x, hx, hy⟩ := Option.bind_eq_some_iff.1 e
  exact hg x hx y hy
/-- A fold that stops at the first step that answers nothing. -/
theorem IdsFrom.foldSome {α : Type} {g : State → α → Option State} {l : List α} (h : IdsFrom lo s)
    (hg : ∀ t, IdsFrom lo t → ∀ a, YieldsIds lo (·) (g t a)) : YieldsIds lo (·) (foldSome g s l) := by
  induction l generalizing s with
  | nil => exact .some h
  | cons a r ih => exact .bind fun t e => ih (hg s h a t e)

/-! ## How the bound goes through a term -/

/-- A change of other fields; the equation is given as `(by rfl)`, which is checked last, when the state after is known. -/
theorem IdsFrom.same {t : State} (e : (t.nextId, t.ops, t.launches) = (s.nextId, s.ops, s.launches)) (h : IdsFrom lo s) : IdsFrom lo t := by
  simp only [Prod.mk.injEq] at e
  obtain ⟨en, eo, el⟩ := e
  exact ⟨en ▸ h.le, en ▸ eo ▸ h.ops, en ▸ el ▸ h.waits⟩
theorem IdsFrom.setPoison {b} (h : IdsFrom lo s) : IdsFrom lo { s with poison := b } := h.same (by rfl)
theorem IdsFrom.setWarps {b} (h : IdsFrom lo s) : IdsFrom lo { s with warps := b } := h.same (by rfl)
theorem IdsFrom.setSeqs {b} (h : IdsFrom lo s) : IdsFrom lo { s with seqs := b } := h.same (by rfl)
theorem IdsFrom.setJobs {b} (h : IdsFrom lo s) : IdsFrom lo { s with jobs := b } := h.same (by rfl)
theorem IdsFrom.ite {a b : State} {c : Prop} [Decidable c] (ha : IdsFrom lo a) (hb : IdsFrom lo b) : IdsFrom lo (if c then a else b) := by
  split
  · exact ha
  · exact hb
/-- Both branches go on from one state. -/
theorem IdsFrom.ite_of {a b t : State} {c : Prop} [Decidable c] (h : IdsFrom lo t) (ha : IdsFrom lo t → IdsFrom lo a)
    (hb : IdsFrom lo t → IdsFrom lo b) : IdsFrom lo (if c then a else b) := .ite (ha h) (hb h)
theorem IdsFrom.snd_ite {α : Type} {a b : α × State} {c : Prop} [Decidable c] (ha : IdsFrom lo a.2) (hb : IdsFrom lo b.2) :
    IdsFrom lo (if c then a else b).2 := by
  split
  · exact ha
  · exact hb
theorem IdsFrom.snd_snd_ite {α β : Type} {a b : α × β × State} {c : Prop} [Decidable c] (ha : IdsFrom lo a.2.2) (hb : IdsFrom lo b.2.2) :
    IdsFrom lo (if c then a else b).2.2 := by
  split
  · exact ha
  · exact hb
theorem IdsFrom.snd_mk {α : Type} {a : α} {t : State} (h : IdsFrom lo t) : IdsFrom lo (a, t).2 := h
theorem IdsFrom.of_eq {α : Type} {p : α × State} {a : α} {t : State} (h : IdsFrom lo p.2) (e : p = (a, t)) : IdsFrom lo t := by
  cases e
  exact h
theorem IdsFrom.getD {o : Option State} (ho : YieldsIds lo (·) o) (h : IdsFrom lo s) : IdsFrom lo (o.getD s) := by
  cases o with
  | none => exact h
  | some t => exact ho t rfl
theorem IdsFrom.foldl {α : Type} {g : State → α → State} {l : List α} (h : IdsFrom lo s) (hg : ∀ t, IdsFrom lo t → ∀ a, IdsFrom lo (g t a)) :
    IdsFrom lo (l.foldl g s) := List.foldlRecOn l g h fun t ht a _ => hg t ht a
theorem IdsFrom.foldl_snd {α β : Type} {g : β × State → α → β × State} {l : List α} {p : β × State} (h : IdsFrom lo p.2)
    (hg : ∀ p a, IdsFrom lo p.2 → IdsFrom lo (g p a).2) : IdsFrom lo (l.foldl g p).2 :=
  List.foldlRecOn (motive := fun p => IdsFrom lo p.2) l g h fun p hp a _ => hg p a hp
theorem IdsFrom.foldl_snd_snd {α β γ : Type} {g : β × γ × State → α → β × γ × State} {l : List α} {p : β × γ × State} (h : IdsFrom lo p.2.2)
    (hg : ∀ p a, IdsFrom lo p.2.2 → IdsFrom lo (g p a).2.2) : IdsFrom lo (l.foldl g p).2.2 :=
  List.foldlRecOn (motive := fun p => IdsFrom lo p.2.2) l g h fun p hp a _ => hg p a hp

/-! ## Operations and launches that change -/

/-- The list of operations changes, and each that is there after has the identifier of one that was there before, or one below the next. -/
theorem IdsFrom.setOps {l : List Op} (h : IdsFrom lo s) (hl : ∀ y ∈ l, (∃ x ∈ s.ops, x.id = y.id) ∨ y.id < s.nextId) :
    IdsFrom lo { s with ops := l } where
  le := h.le
  ops y hy := (hl y hy).elim (fun ⟨x, hx, e⟩ => e ▸ h.ops x hx) id
  waits := h.waits
theorem IdsFrom.filterOps {p : Op → Bool} (h : IdsFrom lo s) : IdsFrom lo { s with ops := s.ops.filter p } :=
  h.setOps fun y hy => .inl ⟨y, (List.mem_filter.1 hy).1, rfl⟩
/-- Identifiers are taken. -/
theorem IdsFrom.skipIds {k : Nat} (h : IdsFrom lo s) (hk : s.nextId ≤ k) : IdsFrom lo { s with nextId := k } where
  le := h.le.trans hk
  ops x hx := Nat.lt_of_lt_of_le (h.ops x hx) hk
  waits l hl := (h.waits l hl).mono hk
/-- Operations and launches go. -/
theorem IdsFrom.of_subset {t : State} (h : IdsFrom lo s) (hn : t.nextId = s.nextId) (ho : t.ops ⊆ s.ops) (hl : t.launches ⊆ s.launches) :
    IdsFrom lo t := ⟨hn ▸ h.le, fun x hx => hn ▸ h.ops x (ho hx), fun l hm => hn ▸ h.waits l (hl hm)⟩
/-- Every launch changes, but what its clusters hold of waits stays below the next identifier. -/
theorem IdsFrom.mapLaunches {g : Launch → Launch} (h : IdsFrom lo s) (hg : ∀ l, WaitsBelow s.nextId l → WaitsBelow s.nextId (g l)) :
    IdsFrom lo { s with launches := s.launches.map g } where
  le := h.le
  ops := h.ops
  waits _ hl := by
    obtain ⟨l, hm, rfl⟩ := List.mem_map.1 hl
    exact hg l (h.waits l hm)
/-- Launches come, and some identifiers are taken. -/
theorem IdsFrom.addLaunches {ls : List Launch} {k : Nat} (h : IdsFrom lo s) (hk : s.nextId ≤ k) (hls : ∀ l ∈ ls, WaitsBelow s.nextId l) :
    IdsFrom k { s with launches := s.launches ++ ls, nextId := k } where
  le := Nat.le_refl k
  ops x hx := Nat.lt_of_lt_of_le (h.ops x hx) hk
  waits l hl := (List.mem_append.1 hl).elim (fun hm => (h.waits l hm).mono hk) fun hm => (hls l hm).mono hk

theorem Op.id_ite {c : Prop} [Decidable c] {x y : Op} (h : y.id = x.id) : (if c then y else x).id = x.id := by
  split
  · exact h
  · rfl

theorem IdsFrom.mapWarpsLaunches {ws g} (h : IdsFrom lo s) (hg : ∀ l, WaitsBelow s.nextId l → WaitsBelow s.nextId (g l)) :
    IdsFrom lo { s with warps := ws, launches := s.launches.map g } := (h.mapLaunches hg).setWarps (b := ws)

/-! ## Machine/Ops.lean -/

theorem IdsFrom.updWarp {wid f} (h : IdsFrom lo s) : IdsFrom lo (s.updWarp wid f) := h.same (by rfl)
theorem IdsFrom.updCore {c f} (h : IdsFrom lo s) : IdsFrom lo (s.updCore c f) := .ite (h.same (by rfl)) (h.same (by rfl))
/-- The operations change, but keep their identifiers, as most changes do by `rfl`. -/
theorem IdsFrom.mapOps {f} (h : IdsFrom lo s) (hf : ∀ x, (f x).id = x.id := by exact fun _ => rfl) : IdsFrom lo (s.mapOps f) :=
  h.setOps fun y hy => by
    obtain ⟨x, hx, rfl⟩ := List.mem_map.1 hy
    exact .inl ⟨x, hx, (hf x).symm⟩
theorem IdsFrom.updOp {o f} (h : IdsFrom lo s) (hf : ∀ x, (f x).id = x.id := by exact fun _ => rfl) : IdsFrom lo (s.updOp o f) :=
  h.mapOps fun x => Op.id_ite (hf x)
theorem IdsFrom.updPdk {p f} (h : IdsFrom lo s) : IdsFrom lo (s.updPdk p f) := h.same (by rfl)
/-- A launch changes, but not what its clusters hold of waits, as most changes do by `rfl`. -/
theorem IdsFrom.updLaunch {i f} (h : IdsFrom lo s)
    (hf : ∀ l, WaitsBelow s.nextId l → WaitsBelow s.nextId (f l) := by exact fun _ hl => hl) : IdsFrom lo (s.updLaunch i f) :=
  h.mapLaunches fun l hl => by
    split
    · exact hf l hl
    · exact hl
theorem IdsFrom.takeId (h : IdsFrom lo s) : IdsFrom lo s.takeId.2 := h.skipIds (Nat.le_succ _)
theorem IdsFrom.freeVal (h : IdsFrom lo s) : IdsFrom lo s.freeVal.2 := h.same (by rfl)
theorem IdsFrom.flood {came mk} (h : IdsFrom lo s) : IdsFrom lo (s.flood came mk) := h.same (by rfl)
theorem IdsFrom.ownSkid (h : IdsFrom lo s) : IdsFrom lo s.ownSkid := h.same (by rfl)
theorem IdsFrom.ownSkids {n} (h : IdsFrom lo s) : IdsFrom lo (s.ownSkids n) := by
  induction n generalizing s with
  | zero => exact h
  | succ n ih => exact ih h.ownSkid
theorem IdsFrom.freeze {c n} (h : IdsFrom lo s) : IdsFrom lo (s.freeze c n) := .ite h (.ite h.ownSkids h.updCore)
theorem IdsFrom.landRegs {wid o ws} (h : IdsFrom lo s) : IdsFrom lo (s.landRegs wid o ws) :=
  .same (by rfl) ((h.updWarp (wid := wid) (f := fun w => { w with regs := msetAll w.regs ws })).mapOps
    (f := fun x => if x.wid == wid && decide (o < x.id) then { x with before := x.before.landBefore (s.now (s.warp wid)) ws } else x)
    fun _ => Op.id_ite rfl)
theorem IdsFrom.endOp {o} (h : IdsFrom lo s) : IdsFrom lo (s.endOp o) := by
  unfold State.endOp
  split
  · exact h
  · exact (h.filterOps.updWarp).same (by rfl)
theorem IdsFrom.leaveOp {x} (h : IdsFrom lo s) : IdsFrom lo (s.leaveOp x) := h.updWarp.updOp
theorem IdsFrom.settle {o} (h : IdsFrom lo s) : IdsFrom lo (s.settle o) := by
  unfold State.settle
  split
  · exact h
  · exact .ite h (.ite h.landRegs.leaveOp h.landRegs.endOp)
theorem IdsFrom.poke {pa bs} (h : IdsFrom lo s) : IdsFrom lo (s.poke pa bs) := h.same (by rfl)
theorem IdsFrom.drawKeys {p} (h : IdsFrom lo s) : IdsFrom lo (s.drawKeys p) := h.same (by rfl)
theorem IdsFrom.raise {p vec} (h : IdsFrom lo s) : IdsFrom lo (s.raise p vec) := h.same (by rfl)
theorem IdsFrom.ifError {p cause} (h : IdsFrom lo s) : IdsFrom lo (s.ifError p cause) :=
  .ite h (.ite_of (.ite_of (.ite_of h.updPdk (·.updPdk) id) id (·.raise)) id (.same (by rfl)))
theorem IdsFrom.mgmtCount {off} (h : IdsFrom lo s) : IdsFrom lo (s.mgmtCount off) := h.same (by rfl)
theorem IdsFrom.retire {p pa} (h : IdsFrom lo s) : YieldsIds lo (·) (s.retire p pa) := by
  unfold State.retire
  split
  · exact .none
  · exact .some (.mgmtCount (h.same (by rfl)))
theorem IdsFrom.retried {core pa} (h : IdsFrom lo s) : IdsFrom lo (s.retried core pa) := by
  unfold State.retried
  split
  · exact .ite h.freeze h
  · exact h
theorem IdsFrom.eccMark {core p pa spec x} (h : IdsFrom lo s) : IdsFrom lo (s.eccMark core p pa spec x).2 := by
  unfold State.eccMark
  split
  · exact h
  · exact (h.same (by rfl)).mgmtCount.retried
  · exact h
  · exact .snd_ite h.retried (.getD h.retried.retire h.retried)
theorem IdsFrom.ecc {core p pa n spec} (h : IdsFrom lo s) : IdsFrom lo (s.ecc core p pa n spec).2 := .snd_ite h h.eccMark
theorem IdsFrom.eccWrite {core p pa n spec} (h : IdsFrom lo s) : IdsFrom lo (s.eccWrite core p pa n spec).2 :=
  .snd_ite h.eccMark h.ecc
theorem IdsFrom.noteS2 {p pa} (h : IdsFrom lo s) : IdsFrom lo (s.noteS2 p pa) := .foldl h fun _ ht _ => ht.ecc
theorem IdsFrom.noteReads {p reads} (h : IdsFrom lo s) : IdsFrom lo (s.noteReads p reads) := by
  unfold State.noteReads
  refine .foldl h fun _ ht _ => ?_
  dsimp only
  split
  · exact .foldl ht.noteS2 fun _ ht1 _ => ht1.ecc
  · exact ht.noteS2
theorem IdsFrom.fillCore {c e life} (h : IdsFrom lo s) : IdsFrom lo (s.fillCore c e life) := .ite h h.updCore
theorem IdsFrom.translate {c p asid va} (h : IdsFrom lo s) : IdsFrom lo (s.translate c p asid va).2 := by
  unfold State.translate
  split
  · exact h
  · dsimp only
    split
    · exact h.fillCore
    · split
      · exact h.noteReads
      · exact .ite h.noteReads.noteS2.fillCore (h.noteReads.noteS2.fillCore.same (by rfl))
theorem IdsFrom.mergeClock {die stamp} (h : IdsFrom lo s) : IdsFrom lo (s.mergeClock die stamp) := h.same (by rfl)
theorem IdsFrom.evalWait {o} (h : IdsFrom lo s) : IdsFrom lo (s.evalWait o) := by
  unfold State.evalWait
  split
  · exact h
  · exact .ite h (.ite h (.ite_of (.updOp (.foldl h fun _ ht _ => .ite ht ht.mergeClock)) id (·.settle)))
theorem IdsFrom.wake {pa} (h : IdsFrom lo s) : IdsFrom lo (s.wake pa) := .foldl h fun _ ht _ => ht.evalWait
theorem IdsFrom.applyWrite {p pa bs stamp} (h : IdsFrom lo s) : IdsFrom lo (s.applyWrite p pa bs stamp) :=
  (IdsFrom.same (by rfl) (h.poke (pa := pa) (bs := bs))).wake
theorem IdsFrom.stampAt {die} (h : IdsFrom lo s) : IdsFrom lo (s.stampAt die).2 := h.same (by rfl)
theorem IdsFrom.devStore {p die pa bs} (h : IdsFrom lo s) : IdsFrom lo (s.devStore p die pa bs) :=
  .ite h (.foldl h.stampAt fun _ ht _ => .ite ht.eccWrite.applyWrite ht.eccWrite)
theorem IdsFrom.devWrite {p pa bs} (h : IdsFrom lo s) : IdsFrom lo (s.devWrite p pa bs) := by
  unfold State.devWrite
  dsimp only
  split
  · exact h.noteS2.devStore
  · exact h.noteS2.ifError
theorem IdsFrom.postFault {p asid code block bitmap events write pc lid idx} (h : IdsFrom lo s) :
    IdsFrom lo (s.postFault p asid code block bitmap events write pc lid idx) := by
  unfold State.postFault
  refine .ite h ?_
  split
  · exact h.ifError
  · dsimp only
    split
    · exact h.noteReads.devStore.updPdk.raise
    · exact .ite h.noteReads.updPdk h.noteReads.devStore.updPdk.updPdk.raise
theorem IdsFrom.postLane {w asid f pc idx} (h : IdsFrom lo s) : IdsFrom lo (s.postLane w asid f pc idx) := h.postFault
theorem IdsFrom.countReg {p off n} (h : IdsFrom lo s) : IdsFrom lo (s.countReg p off n) := h.updPdk
theorem IdsFrom.dropLanes {wid o m} (h : IdsFrom lo s) : IdsFrom lo (s.dropLanes wid o m) :=
  .foldl (h.mapOps fun _ => Op.id_ite rfl) fun _ ht _ => ht.settle
theorem IdsFrom.unwait {wid o m} (h : IdsFrom lo s) : IdsFrom lo (s.unwait wid o m) :=
  .foldl (h.mapOps fun _ => by
    dsimp only
    split
    · exact Op.id_ite rfl
    · rfl) fun _ ht _ => ht.settle
theorem IdsFrom.ejectAsid {wid asid resume before o faults reopen} (h : IdsFrom lo s) :
    IdsFrom lo (s.ejectAsid wid asid resume before o faults reopen).2 := .snd_ite h (h.takeId.same (by rfl)).updWarp.dropLanes.unwait
theorem IdsFrom.handlerDies {wid o} (h : IdsFrom lo s) : IdsFrom lo (s.handlerDies wid o) := h.updWarp.dropLanes
theorem IdsFrom.trapNow {wid code pc resume before o reopen} (h : IdsFrom lo s) :
    IdsFrom lo (s.trapNow wid code pc resume before o reopen) :=
  .ite h.handlerDies (.updWarp (.filterOps (.filterOps (.mapOps (.foldl h fun _ ht _ => ht.ejectAsid.postFault) fun _ => Op.id_ite rfl))))
theorem IdsFrom.takeTrap {wid code pc before o} (h : IdsFrom lo s) : IdsFrom lo (s.takeTrap wid code pc before o) := by
  unfold State.takeTrap
  dsimp only
  split
  · exact (h.same (by rfl)).updWarp.dropLanes
  · exact h.trapNow
theorem IdsFrom.warpTrap {wid code pc before o timing} (h : IdsFrom lo s) : IdsFrom lo (s.warpTrap wid code pc before o timing) :=
  .ite (h.takeTrap.same (by rfl)) h.takeTrap
theorem IdsFrom.exitAsid {wid a} (h : IdsFrom lo s) : IdsFrom lo (s.exitAsid wid a) := h.updWarp
theorem IdsFrom.ejectServed {wid o pc resume before trapEnd faults} (h : IdsFrom lo s) :
    IdsFrom lo (s.ejectServed wid o pc resume before trapEnd faults) :=
  .foldl h fun _ ht _ => .foldl (.ite_of (.snd_ite ht.exitAsid ht.ejectAsid) id (·.postFault)) fun _ ht _ => ht.postLane
theorem IdsFrom.cancelExited {w o fs pc} (h : IdsFrom lo s) : IdsFrom lo (s.cancelExited w o fs pc) :=
  .foldl h fun _ ht _ => ht.countReg.postLane.updOp.settle
theorem IdsFrom.resolveNow {wid o pc before faults inPlace reopen} (h : IdsFrom lo s) :
    IdsFrom lo (s.resolveNow wid o pc before faults inPlace reopen) :=
  .settle (.updOp (.foldl h fun _ ht _ => .foldl ht.ejectAsid fun _ ht1 _ => ht1.postLane))
theorem IdsFrom.retarget {w asid o pc before faults} (h : IdsFrom lo s) : IdsFrom lo (s.retarget w asid o pc before faults) := by
  unfold State.retarget
  split
  · exact h.dropLanes
  · exact .dropLanes (.foldl (h.same (by rfl)) fun _ ht _ => ht.postLane)
theorem IdsFrom.laneFaults {wid o pc before faults} (h : IdsFrom lo s) : IdsFrom lo (s.laneFaults wid o pc before faults) := by
  unfold State.laneFaults
  refine .ite_of (.foldl h.cancelExited fun _ ht _ => ht.retarget) id fun ht => .ite ht.handlerDies ?_
  split
  · exact .dropLanes (.updWarp (.same (by rfl) ht))
  · exact ht.resolveNow

/-! ## Machine/Flags.lean -/

theorem IdsFrom.noteIssue {wid f} (h : IdsFrom lo s) : IdsFrom lo (s.noteIssue wid f) := h.updWarp.updCore.same (by rfl)
theorem IdsFrom.issue {f k} (h : IdsFrom lo s) (hk : ∀ wid w t, IdsFrom lo t → IdsFrom lo (k wid w t)) :
    KeepsIds lo (s.issue f k) := by
  unfold State.issue
  split
  · exact .next h
  · exact .next (hk _ _ _ h.noteIssue)
theorem IdsFrom.landIn {wid cycles l} (h : IdsFrom lo s) : IdsFrom lo (s.landIn wid cycles l) := h.updWarp
theorem IdsFrom.fixed {wid w f c n g} (h : IdsFrom lo s) : IdsFrom lo (s.fixed wid w f c n g) := h.landIn
theorem IdsFrom.laneOp {f c g} (h : IdsFrom lo s) : KeepsIds lo (laneOp s f c g) := h.issue fun _ _ _ ht => ht.fixed
theorem IdsFrom.addOp {x} (h : IdsFrom lo s) : IdsFrom lo (s.addOp x).2 where
  le := h.takeId.le
  ops y hy := (List.mem_append.1 hy).elim (h.takeId.ops y) fun hn => by
    rw [List.mem_singleton.1 hn]
    exact Nat.lt_succ_self _
  waits := h.takeId.waits
theorem IdsFrom.simpleOp {wid w f n} (h : IdsFrom lo s) : IdsFrom lo (s.simpleOp wid w f n) := h.addOp
theorem IdsFrom.trapAt {wid w code timing} (h : IdsFrom lo s) : IdsFrom lo (s.trapAt wid w code timing) := h.warpTrap

/-! ## Machine/Control.lean -/

theorem IdsFrom.goto {wid off prep} (h : IdsFrom lo s) : IdsFrom lo (s.goto wid off prep) := h.updWarp
theorem IdsFrom.through {wid w b k} (h : IdsFrom lo s) (hk : ∀ t, IdsFrom lo t → IdsFrom lo (k t)) :
    IdsFrom lo (s.through wid w b k) := by
  unfold State.through
  split
  · exact h.trapAt
  · exact .goto (hk _ h)
theorem IdsFrom.prepare {wid b target count} (h : IdsFrom lo s) : IdsFrom lo (s.prepare wid b target count) := h.updWarp
theorem IdsFrom.execPrepv {f} (h : IdsFrom lo s) : KeepsIds lo (execPrepv f s) := by
  unfold Machine.execPrepv
  refine h.issue fun _ _ _ ht => .ite ht ?_
  split
  · exact .ite ht.prepare ht.updWarp
  · exact ht.trapAt
theorem IdsFrom.execXfers {f} (h : IdsFrom lo s) : KeepsIds lo (execXfers f s) :=
  h.issue fun _ _ _ ht => .ite ht.trapAt (.ite ht.updWarp (ht.through fun _ ht1 => ht1.updWarp.updWarp))
theorem IdsFrom.execJoin {f} (h : IdsFrom lo s) : KeepsIds lo (execJoin f s) := by
  unfold Machine.execJoin
  refine h.issue fun _ _ _ ht => ?_
  split
  · exact ht.trapAt
  · exact .ite ht.updWarp.goto ht.updWarp.goto
theorem IdsFrom.staleWarp {wid p} (h : IdsFrom lo s) : IdsFrom lo (s.staleWarp wid p) := h.updWarp
theorem IdsFrom.execTrap {f} (h : IdsFrom lo s) : KeepsIds lo (execTrap f s) :=
  h.issue fun _ _ _ ht => .ite (.ite ht ht.updWarp) (.ite ht.updWarp (.ite (.ite ht.ejectServed ht.ejectServed.updWarp) (ht.same (by rfl))))
theorem IdsFrom.execHoldDeferredTrap (h : IdsFrom lo s) : KeepsIds lo (execHoldDeferredTrap s) := by
  unfold Machine.execHoldDeferredTrap
  refine .next ?_
  split
  · exact h
  · refine .updWarp (.foldl (h.same (by rfl)).updWarp ?_)
    intro _ ht _
    refine .ite ht ?_
    split
    · exact ht.trapNow
    · exact .ite ht ht.resolveNow
theorem IdsFrom.execHoldOverrun (h : IdsFrom lo s) : KeepsIds lo (execHoldOverrun s) := by
  unfold Machine.execHoldOverrun
  refine .next ?_
  split
  · exact h
  · refine .ite h ?_
    dsimp only
    split
    · exact .ite h.updWarp.warpTrap h.updWarp
    · exact h.updWarp

/-! ## Machine/Integer.lean -/

theorem IdsFrom.moveIndexed {f wide} (h : IdsFrom lo s) : KeepsIds lo (moveIndexed f s wide) :=
  h.issue fun _ _ _ ht => .ite ht.trapAt ht.fixed
theorem IdsFrom.execMovs {f} (h : IdsFrom lo s) : KeepsIds lo (execMovs f s) := by
  unfold Machine.execMovs
  refine h.issue fun _ _ _ ht => .ite (.ite ht.trapAt ht.fixed) (.ite ht.landIn ?_)
  split
  · exact ht.trapAt
  · exact ht.landIn

/-! ## Machine/Access.lean -/

theorem IdsFrom.search {c p asid va rd wr} (h : IdsFrom lo s) : IdsFrom lo (s.search c p asid va rd wr).2 := by
  unfold State.search
  split
  all_goals next e => exact h.translate.of_eq e
theorem IdsFrom.detCheck {w l} (h : IdsFrom lo s) : YieldsIds lo (·) (s.detCheck w l) := by
  induction l generalizing s with
  | nil => exact .some h
  | cons x r ih =>
    unfold State.detCheck
    dsimp only
    split
    · exact .none
    · exact ih (h.same (by rfl))
theorem IdsFrom.detOp {w x} (h : IdsFrom lo s) : YieldsIds lo (·) (s.detOp w x) := .ite (.none) h.detCheck
theorem IdsFrom.enterOp {wid w f x ps} (h : IdsFrom lo s) : IdsFrom lo (s.enterOp wid w f x ps).2 :=
  .snd_ite h.simpleOp (.ite h.addOp h.addOp.laneFaults)
theorem IdsFrom.queuePads {o k land} (h : IdsFrom lo s) : IdsFrom lo (s.queuePads o k land) := by
  unfold State.queuePads
  split
  · exact h
  · exact .ite h h.updOp.updCore
theorem IdsFrom.startPads {o} (h : IdsFrom lo s) : IdsFrom lo (s.startPads o) := by
  unfold State.startPads
  split
  · exact h
  · split
    · exact h.queuePads
    · exact h.queuePads
    · exact h
theorem IdsFrom.detGate {o k} (h : IdsFrom lo s) (hk : ∀ t, IdsFrom lo t → IdsFrom lo (k t)) :
    IdsFrom lo (s.detGate o k) := by
  unfold State.detGate
  split
  · exact h
  next e =>
    refine .ite (hk _ h) (.ite h ?_)
    split
    next e => exact hk _ (h.detOp _ e).updOp.startPads
    · exact h.warpTrap
theorem IdsFrom.updAcc {o lane f} (h : IdsFrom lo s) : IdsFrom lo (s.updAcc o lane f) := h.updOp
theorem IdsFrom.loadBytes {die pa n} (h : IdsFrom lo s) : IdsFrom lo (s.loadBytes die pa n).2 := h.mergeClock

/-! ## Machine/LoadStore.lean -/

theorem IdsFrom.memIssue {wid w f x mk spot rd wr timed pad} (h : IdsFrom lo s) :
    IdsFrom lo (s.memIssue wid w f x mk spot rd wr timed pad) := by
  unfold State.memIssue
  refine .ite h.trapAt (.ite h.trapAt ?_)
  dsimp only
  split
  · exact h.trapAt
  next e =>
    have ht := YieldsIds.ite h.detCheck (.some h) _ e
    split
    · exact .ite ht.enterOp ht.enterOp.queuePads
    · exact ht.enterOp
theorem IdsFrom.memOp {f k} (h : IdsFrom lo s) : KeepsIds lo (memOp f s k) := h.issue fun _ _ _ ht => ht.memIssue
theorem IdsFrom.fillRo {c pa} (h : IdsFrom lo s) : IdsFrom lo (s.fillRo c pa) := h.updCore
theorem IdsFrom.execPref {f} (h : IdsFrom lo s) : KeepsIds lo (execPref f s) :=
  h.issue fun _ _ _ ht => .ite_of (.ite (.foldl ht fun _ ht _ => ht.fillRo) ht) (·.simpleOp) (·.enterOp)
theorem IdsFrom.lockEntry {w k} (h : IdsFrom lo s) : IdsFrom lo (s.lockEntry w k) := h.updCore.updWarp
theorem IdsFrom.tryLock {o} (h : IdsFrom lo s) : IdsFrom lo (s.tryLock o) := by
  unfold State.tryLock
  split
  · exact h
  next e =>
    refine .ite h (.ite ?_ ?_)
    · refine .warpTrap (.foldl_snd h ?_)
      intro _ _ ht
      split
      all_goals next e => exact ht.translate.of_eq e
    · refine .settle (.updOp ?_)
      refine .foldl ?_ fun _ ht _ => ht.lockEntry
      refine .foldl_snd h fun _ _ ht => ?_
      split
      all_goals next e => exact ht.translate.of_eq e
theorem IdsFrom.freeLocks {wid} (h : IdsFrom lo s) : IdsFrom lo (s.freeLocks wid) := h.updCore.updWarp
theorem IdsFrom.walkLane {x a} (h : IdsFrom lo s) : IdsFrom lo (s.walkLane x a).2 := by
  unfold State.walkLane
  dsimp only
  split
  all_goals next e => exact h.search.of_eq e
theorem IdsFrom.walkLanes {x m} (h : IdsFrom lo s) : IdsFrom lo (s.walkLanes x m).2 := by
  unfold State.walkLanes
  refine .foldl_snd h fun _ _ ht => ?_
  dsimp only
  split <;> exact ht.walkLane.updAcc
theorem IdsFrom.afterWalk {x fs} (h : IdsFrom lo s) : IdsFrom lo (s.afterWalk x fs) := by
  unfold State.afterWalk
  split
  · exact .settle (.updOp (.ite (.foldl h fun _ ht _ => .ite ht.fillRo ht) h))
  · exact .tryLock (.ite h h.laneFaults)
  · exact .ite h h.laneFaults
theorem IdsFrom.walkWait {x m} (h : IdsFrom lo s) : IdsFrom lo (s.walkWait x m) := .ite h.warpTrap h.walkLanes.afterWalk
theorem IdsFrom.pageWalk {o m} (h : IdsFrom lo s) : IdsFrom lo (s.pageWalk o m) := by
  unfold State.pageWalk
  split
  · exact h
  · exact .ite h h.walkWait
theorem IdsFrom.homeFault {x a code} (h : IdsFrom lo s) : IdsFrom lo (s.homeFault x a code) :=
  .ite (h.updAcc.same (by rfl)).settle (h.updAcc.same (by rfl)).laneFaults
theorem IdsFrom.storeAt {x a stamp n} (h : IdsFrom lo s) : IdsFrom lo (s.storeAt x a stamp n) :=
  .ite h.homeFault (.ite h.eccWrite.homeFault
    (.ite_of (.ite h.eccWrite.applyWrite h.eccWrite) (·.updAcc) fun ht => .settle (.updAcc (.same (by rfl) ht))))
theorem IdsFrom.noteSince (h : IdsFrom lo s) : IdsFrom lo s.noteSince := h.mapOps
theorem IdsFrom.stampLane {o lane} (h : IdsFrom lo s) : IdsFrom lo (s.stampLane o lane) := by
  unfold State.stampLane
  split
  · exact h
  · split
    · exact h
    · exact .ite h (.ite_of (.ite (h.stampAt.updAcc.same (by rfl)) h.stampAt.updAcc) (·.storeAt) id)
theorem IdsFrom.timedFlag {o} (h : IdsFrom lo s) : IdsFrom lo (s.timedFlag o) := by
  unfold State.timedFlag
  split
  · exact h
  · exact .ite h.updWarp.updOp h
theorem IdsFrom.portStamp {o m} (h : IdsFrom lo s) : IdsFrom lo (s.portStamp o m) := by
  unfold State.portStamp
  split
  · exact h
  · exact .ite h (h.detGate fun _ ht => .noteSince (.timedFlag (.foldl ht fun _ ht1 _ => ht1.stampLane)))
theorem IdsFrom.atomAt {x a} (h : IdsFrom lo s) : IdsFrom lo (s.atomAt x a) := by
  unfold State.atomAt
  refine .ite h.homeFault (.ite ?_ (.ite h.ecc.updAcc h.ecc.homeFault))
  refine .updAcc ?_
  split
  · exact h.ecc.applyWrite
  · exact h.ecc
theorem IdsFrom.homeApply {o lane} (h : IdsFrom lo s) : IdsFrom lo (s.homeApply o lane) := by
  unfold State.homeApply
  split
  · exact h
  · split
    · exact h
    · exact .ite h (.ite (.ite h.storeAt h) (.ite (.settle (.foldl h fun _ ht _ => ht.atomAt)) h))
theorem IdsFrom.landLane {x a raw} (h : IdsFrom lo s) : IdsFrom lo (s.landLane x a raw) := h.landRegs.updAcc.settle
theorem IdsFrom.loadLane {o lane} (h : IdsFrom lo s) : IdsFrom lo (s.loadLane o lane) := by
  unfold State.loadLane
  split
  · exact h
  · split
    · exact h
    · refine .ite ?_ (.ite h (.ite (.ite h.ecc.landLane h.ecc.loadBytes.landLane) (.ite h.ecc.landRegs.updAcc.settle h.ecc.laneFaults)))
      refine .ite ?_ h
      split
      · exact h.landLane
      · exact h.updAcc.settle
theorem IdsFrom.loadComplete {o m} (h : IdsFrom lo s) : IdsFrom lo (s.loadComplete o m) := by
  unfold State.loadComplete
  split
  · exact h
  · refine .ite h ?_
    dsimp only
    split
    · exact h.detGate fun _ ht => .foldl ht fun _ ht1 _ => ht1.loadLane
    · exact .foldl h fun _ ht _ => ht.loadLane
theorem IdsFrom.dropExpired (h : IdsFrom lo s) : IdsFrom lo s.dropExpired := h.same (by rfl)
theorem IdsFrom.landResults {classV} (h : IdsFrom lo s) : IdsFrom lo (s.landResults classV) :=
  .foldl (h.same (by rfl)) fun _ ht _ => ht.loadLane

/-! ## Machine/Scratch.lean -/

theorem IdsFrom.padIssue {wid w f x mk off wr classV pad} (h : IdsFrom lo s) :
    IdsFrom lo (s.padIssue wid w f x mk off wr classV pad) := .ite (.ite h.simpleOp h.landIn) h.memIssue
theorem IdsFrom.padOp {f store} (h : IdsFrom lo s) : KeepsIds lo (padOp f s store) := h.issue fun _ _ _ ht => ht.padIssue
theorem IdsFrom.detTags {wid w ks k} (h : IdsFrom lo s) (hk : ∀ t, IdsFrom lo t → IdsFrom lo (k t)) :
    IdsFrom lo (s.detTags wid w ks k) := by
  unfold State.detTags
  refine .ite (hk _ h) ?_
  split
  next e => exact hk _ (h.detCheck _ e)
  · exact h.trapAt
theorem IdsFrom.tagLanes {wid w f slot tag} (h : IdsFrom lo s) : IdsFrom lo (s.tagLanes wid w f slot tag) :=
  h.detTags fun _ ht => .ite ht.updCore.landIn ht.updCore.landIn.laneFaults
theorem IdsFrom.retryElements {c es} (h : IdsFrom lo s) : IdsFrom lo (s.retryElements c es).2 :=
  .snd_ite (.foldl h fun _ ht _ => ht.mgmtCount) (by
    dsimp only
    exact .updCore (.foldl h fun _ ht _ => ht.mgmtCount))
theorem IdsFrom.padFault {x a write} (h : IdsFrom lo s) : IdsFrom lo (s.padFault x a write) := h.laneFaults
theorem IdsFrom.padLane {p lane} (h : IdsFrom lo s) : IdsFrom lo (s.padLane p lane) := by
  unfold State.padLane
  split
  · exact h
  · split
    · exact h
    · refine .ite h (.ite h.padFault ?_)
      split
      · exact h.updAcc
      · exact h.updCore.updAcc
      · refine .updAcc ?_
        split
        · exact h.updCore
        · exact h
theorem IdsFrom.wakePad {c} (h : IdsFrom lo s) : IdsFrom lo (s.wakePad c) := .foldl h fun _ ht _ => ht.evalWait
theorem IdsFrom.accessCycle {c units} (h : IdsFrom lo s) : IdsFrom lo (s.accessCycle c units) :=
  .freeze (.ite_of (.foldl h.retryElements.updCore fun _ ht _ => .foldl ht fun _ ht _ => ht.padLane) (·.wakePad) id)

/-! ## Machine/Atomic.lean -/

theorem IdsFrom.atomGlobal {f k ea data cmp result} (h : IdsFrom lo s) : KeepsIds lo (atomGlobal f s k ea data cmp result) :=
  h.issue fun _ _ _ ht => ht.memIssue
theorem IdsFrom.atomPad {f k pk data cmp} (h : IdsFrom lo s) : KeepsIds lo (atomPad f s k pk data cmp) :=
  h.issue fun _ _ _ ht => ht.padIssue
theorem IdsFrom.waitLane {o lane} (h : IdsFrom lo s) : IdsFrom lo (s.waitLane o lane) := by
  unfold State.waitLane
  split
  · exact h
  · exact .ite h (.ite (.ite h.retryElements.homeFault h.retryElements) (.ite h.ecc h.ecc.homeFault))
theorem IdsFrom.lookAt {x} (h : IdsFrom lo s) : IdsFrom lo (s.lookAt x) := .evalWait (.foldl h fun _ ht _ => ht.waitLane)

/-! ## Machine/Copy.lean -/

theorem IdsFrom.findPages {w asid rd wr walks l} (h : IdsFrom lo s) :
    IdsFrom lo (s.findPages w asid rd wr walks l).2 := by
  induction l generalizing s with
  | nil => exact h
  | cons x r ih =>
    unfold State.findPages
    split
    rename_i e
    have ht := IdsFrom.of_eq (.snd_ite h.search h) e
    split
    · exact ht
    · exact ht
    · split
      next e => exact ih ht |>.of_eq e
      · exact ih ht
theorem IdsFrom.copyPages {w a walks} (h : IdsFrom lo s) : IdsFrom lo (s.copyPages w a walks).2 := by
  unfold State.copyPages
  extract_lets sp dp fault run
  have hrun {t : State} {perm : Bool} (ht : IdsFrom lo t) : IdsFrom lo (run t perm).2 := by
    dsimp only [run]
    split
    next e => exact ht.findPages.of_eq e
    next e => exact ht.findPages.of_eq e
    next e =>
      split
      all_goals next e' => exact (ht.findPages.of_eq e).findPages.of_eq e'
  split
  next e => exact (hrun h).of_eq e
  next e => exact (hrun h).of_eq e
  next e =>
    split
    all_goals next e' => exact (hrun ((hrun h).of_eq e)).of_eq e'
theorem IdsFrom.copyGate {o} (h : IdsFrom lo s) : IdsFrom lo (s.copyGate o) := by
  unfold State.copyGate
  split
  · exact h
  next e =>
    refine .ite h ?_
    split
    next e => exact (h.detCheck _ e).updOp
    · exact h.warpTrap
theorem IdsFrom.copyOp {f form mk lane} (h : IdsFrom lo s) : KeepsIds lo (copyOp f s form mk lane) :=
  h.issue fun _ _ _ ht => .ite ht.trapAt ht.enterOp.copyGate
theorem IdsFrom.copyWalk {o m} (h : IdsFrom lo s) : IdsFrom lo (s.copyWalk o m) := by
  unfold State.copyWalk
  split
  · exact h
  · exact .ite h (.copyGate (.ite (.foldl_snd h fun _ _ ht => ht.copyPages.updAcc) (.laneFaults (.foldl_snd h fun _ _ ht => ht.copyPages.updAcc))))
theorem IdsFrom.copyRead {o lane off} (h : IdsFrom lo s) : IdsFrom lo (s.copyRead o lane off) := by
  unfold State.copyRead
  split
  · exact h
  · exact .ite h (.updAcc (.snd_snd_ite h.retryElements (.snd_snd_ite h.ecc.loadBytes (.snd_snd_ite h.ecc h.ecc))))
theorem IdsFrom.copyWrite {o lane off c stamp} (h : IdsFrom lo s) : IdsFrom lo (s.copyWrite o lane off c stamp) := by
  unfold State.copyWrite
  split
  · exact h
  · refine .ite h (.ite (.ite h.updAcc.laneFaults ?_) ?_)
    · refine .ite (.ite ?_ (.laneFaults ?_)) (.applyWrite (.ite (.setPoison ?_) ?_))
      all_goals exact (IdsFrom.setPoison h.updAcc).ecc
    · split
      · split
        · exact h.updAcc.updLaunch fun _ hl => hl.mapSame fun _ => Cluster.waits_ite rfl
        · split
          · exact h.updAcc.updCore
          · exact h.updAcc
      · exact h.updAcc.updCore
theorem IdsFrom.copyDone {o lane} (h : IdsFrom lo s) : IdsFrom lo (s.copyDone o lane) := by
  unfold State.copyDone
  split
  · exact h
  · exact .ite h.updAcc.settle h
theorem IdsFrom.execCopySourceReadDone {op} (h : IdsFrom lo s) : KeepsIds lo (execCopySourceReadDone op s) := by
  unfold Machine.execCopySourceReadDone
  refine .next ?_
  split
  · exact h
  · exact .ite h (.foldl (.updOp (.updWarp (.foldl h fun _ ht _ => .ite (.foldl ht fun _ ht1 _ => ht1.copyRead) ht))) fun _ ht _ => ht.copyDone)
theorem IdsFrom.execCopyDestWrite {op lane off count} (h : IdsFrom lo s) : KeepsIds lo (execCopyDestWrite op lane off count s) := by
  unfold Machine.execCopyDestWrite
  refine .next ?_
  split
  · exact h
  · exact .ite h (.copyDone (.foldl (.snd_ite (.foldl h fun _ ht _ => ht.copyRead) (.stampAt
    (.foldl h fun _ ht _ => ht.copyRead))) fun _ ht _ => .foldl ht fun _ ht1 _ => ht1.copyWrite))

/-! ## Machine/Barrier.lean -/

theorem IdsFrom.updRing {p f} (h : IdsFrom lo s) : IdsFrom lo (s.updRing p f) := .ite (h.same (by rfl)) h.updPdk
theorem IdsFrom.report {p r} (h : IdsFrom lo s) : IdsFrom lo (s.report p r) := by
  unfold State.report
  dsimp only
  exact h.updRing
theorem IdsFrom.reportDone {p seq} (h : IdsFrom lo s) : IdsFrom lo (s.reportDone p seq) := h.report
theorem IdsFrom.reportFail {p seq reason} (h : IdsFrom lo s) : IdsFrom lo (s.reportFail p seq reason) := h.report
theorem IdsFrom.devVWrite {p asid va bs lid} (h : IdsFrom lo s) : IdsFrom lo (s.devVWrite p asid va bs lid) := by
  unfold State.devVWrite
  split
  · exact h.devStore
  · exact h.postFault
theorem IdsFrom.mirror {p g} (h : IdsFrom lo s) : IdsFrom lo (s.mirror p g) := by
  unfold State.mirror
  split
  · exact h
  · exact h.devVWrite
theorem IdsFrom.updNbs {launch which f} (h : IdsFrom lo s) : IdsFrom lo (s.updNbs launch which f) :=
  h.updLaunch fun _ hl => hl.mapSame fun _ => Cluster.waits_ite rfl
theorem IdsFrom.phaseLimit {p g b b'} (h : IdsFrom lo s) : IdsFrom lo (s.phaseLimit p g b b') := by
  unfold State.phaseLimit
  split
  · exact h
  · refine .ite ?_ h
    dsimp only
    split
    · exact h.updLaunch.reportFail
    · exact h.updLaunch
theorem IdsFrom.changeGroup {p g turn f} (h : IdsFrom lo s) : IdsFrom lo (s.changeGroup p g turn f) := h.phaseLimit.updPdk.mirror
theorem IdsFrom.leaveGroup {w g} (h : IdsFrom lo s) : IdsFrom lo (s.leaveGroup w g) := h.changeGroup.updWarp.updNbs.updNbs
theorem IdsFrom.joinGroup {w g} (h : IdsFrom lo s) : IdsFrom lo (s.joinGroup w g) := h.changeGroup.updNbs
theorem IdsFrom.groupOp {wid w f k} (h : IdsFrom lo s) : IdsFrom lo (s.groupOp wid w f k) := h.addOp
theorem IdsFrom.arriveOp {f waits} (h : IdsFrom lo s) : KeepsIds lo (arriveOp f s waits) :=
  h.issue fun _ _ _ ht => .ite ht.simpleOp (.ite ht.trapAt ht.groupOp)
theorem IdsFrom.execBarw {f} (h : IdsFrom lo s) : KeepsIds lo (execBarw f s) := by
  unfold Machine.execBarw
  refine h.issue fun _ _ _ ht => .ite ht.simpleOp (.ite ht.trapAt ?_)
  split
  · exact ht.trapAt
  · exact ht.groupOp
theorem IdsFrom.execNbar {f} (h : IdsFrom lo s) : KeepsIds lo (execNbar f s) := by
  unfold Machine.execNbar
  refine h.issue fun _ _ _ ht => .ite ht.simpleOp ?_
  split
  · exact ht.trapAt
  · refine .ite ht.trapAt (.ite ?_ ht.groupOp)
    split
    · exact ht.trapAt
    · exact ht.groupOp
theorem IdsFrom.applyArrival {x nb g waits} (h : IdsFrom lo s) : IdsFrom lo (s.applyArrival x nb g waits) := by
  unfold State.applyArrival
  dsimp only
  split
  · exact h.endOp
  · refine .ite_of (.ite h.updNbs.updWarp (.updWarp (.changeGroup ?_))) (·.updOp) (·.landRegs.endOp)
    split
    · split
      · exact h.mergeClock
      · exact h
    · exact h
theorem IdsFrom.execBarrierArrivalApply {op} (h : IdsFrom lo s) : KeepsIds lo (execBarrierArrivalApply op s) := by
  unfold Machine.execBarrierArrivalApply
  refine .next ?_
  split
  · exact h
  · refine .ite h ?_
    split
    · exact h.applyArrival
    · exact h.joinGroup.endOp
    · exact h.leaveGroup.endOp
    · exact h
theorem IdsFrom.passPhase {w nb g t} (h : IdsFrom lo s) : IdsFrom lo (s.passPhase w nb g t) := .ite h.updWarp h
theorem IdsFrom.notify {x} (h : IdsFrom lo s) : IdsFrom lo (s.notify x) := by
  unfold State.notify
  refine .ite h ?_
  split
  · refine .endOp (.passPhase ?_)
    split
    · split
      · exact h.mergeClock
      · exact h
    · exact h
  · exact h
theorem IdsFrom.execBarrierNotify {op} (h : IdsFrom lo s) : KeepsIds lo (execBarrierNotify op s) := by
  unfold Machine.execBarrierNotify
  refine .next ?_
  split
  · exact h
  · exact .ite h.notify h
theorem IdsFrom.bitOp {f set} (h : IdsFrom lo s) : KeepsIds lo (bitOp f s set) := by
  unfold Machine.bitOp
  refine h.issue fun _ _ _ ht => .ite ht.simpleOp ?_
  split
  · exact ht.trapAt
  · exact .ite ht.trapAt ht.memIssue
theorem IdsFrom.bitsetWord {x a} (h : IdsFrom lo s) : IdsFrom lo (s.bitsetWord x a) :=
  .ite h (.ite h.laneFaults (.ite (.settle (.updOp (.ite h.ecc.stampAt.applyWrite h.ecc.stampAt))) h.ecc.laneFaults))

/-! ## Machine/Context.lean -/

theorem IdsFrom.dropRecs {c b n} (h : IdsFrom lo s) : IdsFrom lo (s.dropRecs c b n) := h.same (by rfl)
theorem IdsFrom.assignWindow {c p launch asid n} (h : IdsFrom lo s) : YieldsIds lo (·) (s.assignWindow c p launch asid n) :=
  .ite (.some h) (.map fun _ _ => h.dropRecs.updCore)
theorem IdsFrom.releaseWindows {c} (h : IdsFrom lo s) : IdsFrom lo (s.releaseWindows c) := h.updCore
theorem IdsFrom.setMapBit {p asid slot v} (h : IdsFrom lo s) : IdsFrom lo (s.setMapBit p asid slot v) := by
  unfold State.setMapBit
  split
  · exact h
  · exact h.ecc.devStore
theorem IdsFrom.takeSlots {w x} (h : IdsFrom lo s) (e : s.takeSlots w = .ok x) : IdsFrom lo x.2 := by
  unfold State.takeSlots at e
  dsimp only at e
  split at e
  · cases e
    exact h
  · revert x
    refine @fun x => List.foldlRecOn
      (motive := fun (r : Except (Option (Nat × Nat × Nat)) (SMap 32 × State)) => ∀ x, r = .ok x → IdsFrom lo x.2) _ _ ?_ ?_ x
    · intro x e
      cases e
      exact h
    · intro r hr i _ x e
      split at e
      · cases e
      · have ht := hr _ rfl
        split at e
        · cases e
          exact ht
        · split at e
          · cases e
          · cases e
          · cases e
            exact ht.setMapBit
theorem IdsFrom.freeSlots {w m} (h : IdsFrom lo s) : IdsFrom lo (s.freeSlots w m) := .foldl h fun _ ht _ => .ite ht ht.setMapBit
theorem IdsFrom.ctxPut {p pa bs} (h : IdsFrom lo s) : IdsFrom lo (s.ctxPut p pa bs) := .ite h.devWrite h.ifError
theorem IdsFrom.ctxWrite {p pa bs} (h : IdsFrom lo s) : IdsFrom lo (s.ctxWrite p pa bs) := .foldl h fun _ ht _ => ht.ctxPut
theorem IdsFrom.writeEntry {p r} (h : IdsFrom lo s) : IdsFrom lo (s.writeEntry p r) := h.ctxPut
theorem IdsFrom.updRoom {p idx f} (h : IdsFrom lo s) : IdsFrom lo (s.updRoom p idx f) := by
  unfold State.updRoom
  split
  · exact h
  · exact h.updPdk.writeEntry
theorem IdsFrom.freeRoom {p idx} (h : IdsFrom lo s) : IdsFrom lo (s.freeRoom p idx) := h.updRoom.updPdk
theorem IdsFrom.writeRoom {p idx bs} (h : IdsFrom lo s) : IdsFrom lo (s.writeRoom p idx bs) := by
  unfold State.writeRoom
  split
  · exact h
  · exact h.ctxWrite
theorem IdsFrom.reserveRoom {p n r} (h : IdsFrom lo s) : YieldsIds lo Prod.snd (s.reserveRoom p n r) := by
  unfold State.reserveRoom
  dsimp only
  split
  · exact .some h.updPdk.writeEntry
  · exact .none
theorem IdsFrom.execParkedRecordWrite (h : IdsFrom lo s) : KeepsIds lo (execParkedRecordWrite s) := by
  unfold Machine.execParkedRecordWrite
  refine .next ?_
  split
  · exact h
  · dsimp only
    split
    · exact h.same (by rfl)
    · exact (h.same (by rfl)).updRoom.updWarp.writeRoom

/-! ## Machine/Select.lean -/

theorem IdsFrom.updSel {c f} (h : IdsFrom lo s) : IdsFrom lo (s.updSel c f) := by
  unfold State.updSel
  dsimp only
  split
  · exact h.updCore.updWarp
  · exact h.updCore
theorem IdsFrom.freeSel {c} (h : IdsFrom lo s) : IdsFrom lo (s.freeSel c) := by
  unfold State.freeSel
  split
  · exact h
  · exact h.updCore.updWarp
theorem IdsFrom.selWord {p c u k} (h : IdsFrom lo s) : IdsFrom lo (s.selWord p c u k).2 := by
  unfold State.selWord
  split
  · dsimp only
    split
    next e => exact h.ecc.of_eq e
    next e => exact .snd_ite (h.ecc.of_eq e) (h.ecc.of_eq e).freeVal
  · exact .snd_ite h.freeVal h
theorem IdsFrom.selRead {c} (h : IdsFrom lo s) : IdsFrom lo (s.selRead c) := by
  unfold State.selRead
  exact .updSel (.foldl_snd h fun _ _ ht => ht.selWord)
theorem IdsFrom.selReturn {c} (h : IdsFrom lo s) : IdsFrom lo (s.selReturn c) := by
  unfold State.selReturn
  split
  · exact h
  · exact h.updCore.updSel
theorem IdsFrom.selGate {o} (h : IdsFrom lo s) : IdsFrom lo (s.selGate o) := by
  unfold State.selGate
  split
  · exact h
  next e =>
    refine .ite h ?_
    split
    next e => exact (h.detCheck _ e).updOp
    · exact h.warpTrap
theorem IdsFrom.selOrphans {wid q} (h : IdsFrom lo s) : IdsFrom lo (s.selOrphans wid q) := by
  unfold State.selOrphans
  refine .foldl h fun _ ht _ => ?_
  dsimp only
  split
  · exact ht.updOp
  · exact ht.updWarp.updOp
theorem IdsFrom.selStart {c} (h : IdsFrom lo s) : IdsFrom lo (s.selStart c) := by
  unfold State.selStart
  dsimp only
  split
  · exact h
  · split
    · exact .ite h.updSel.freeSel h.updSel
    · exact .ite h h.updSel
theorem IdsFrom.selFinish {c} (h : IdsFrom lo s) : IdsFrom lo (s.selFinish c) := by
  unfold State.selFinish
  dsimp only
  split
  · exact h
  · refine .ite_of (.endOp (.updSel ?_)) (·.freeSel.selOrphans) id
    split
    · exact h.landRegs
    · exact h
theorem IdsFrom.selWhole {wid w f g bind stream k} (h : IdsFrom lo s)
    (hk : ∀ v asid t, IdsFrom lo t → IdsFrom lo (k v asid t)) : IdsFrom lo (s.selWhole wid w f g bind stream k) := by
  unfold State.selWhole
  refine .ite h.simpleOp (.ite h.trapAt ?_)
  split
  · exact h.trapAt
  · exact h.trapAt
  · exact hk _ _ _ h
theorem IdsFrom.selQueue {c o k} (h : IdsFrom lo s) : IdsFrom lo (s.selQueue c o k) := h.updSel
theorem IdsFrom.selCommand {f g cmd} (h : IdsFrom lo s) : KeepsIds lo (selCommand f s g cmd) := by
  unfold Machine.selCommand
  refine h.issue fun _ _ _ ht => ht.selWhole fun _ _ _ ht1 => .ite ht1.addOp.selQueue ?_
  split
  · exact ht1.landIn
  · exact ht1.updWarp.simpleOp
theorem IdsFrom.selPages {w a walks} (h : IdsFrom lo s) : IdsFrom lo (s.selPages w a walks).2 := by
  unfold State.selPages
  split
  all_goals next e => exact h.findPages.of_eq e
theorem IdsFrom.selWalk {o m} (h : IdsFrom lo s) : IdsFrom lo (s.selWalk o m) := by
  unfold State.selWalk
  split
  · exact h
  · exact .ite h (.selGate (.ite (.foldl_snd h fun _ _ ht => ht.selPages.updAcc) (.laneFaults (.foldl_snd h fun _ _ ht => ht.selPages.updAcc))))
theorem IdsFrom.execQsbind {f} (h : IdsFrom lo s) : KeepsIds lo (execQsbind f s) := by
  unfold Machine.execQsbind
  refine .ite (.next (h.same (by rfl))) (h.issue fun _ _ _ ht => ht.selWhole fun _ _ _ ht => ?_)
  have henter {t : State} {c : Prop} [Decidable c] {core g x o cmd} (ht : IdsFrom lo t) :
      IdsFrom lo ((((if c then t else t.updSel core g).addOp x).2).selQueue core o cmd) := .selQueue (.addOp (.ite ht ht.updSel))
  refine .ite (henter ht) (.ite (.ite ht.trapAt ?_) (.ite ?_ (henter ht)))
  · dsimp only
    split
    · exact ht.trapAt
    next e =>
      have hu := YieldsIds.ite ht.detCheck (.some ht) _ e
      exact .ite (henter hu) (henter hu).laneFaults.selGate
  · dsimp only
    split
    next e => exact henter (ht.detCheck _ e)
    · exact ht.trapAt

/-! ## Machine/Draft.lean -/

theorem IdsFrom.copyLines {p src dst leave stamp} (h : IdsFrom lo s) : IdsFrom lo (s.copyLines p src dst leave stamp) :=
  .foldl (h.same (by rfl)) fun _ ht _ => ht.evalWait
theorem IdsFrom.clearMarks {dev} (h : IdsFrom lo s) : IdsFrom lo (s.clearMarks dev) := h.same (by rfl)
theorem IdsFrom.moveFrame {p dev} (h : IdsFrom lo s) : IdsFrom lo (s.moveFrame p dev) := by
  unfold State.moveFrame
  refine .ite h ?_
  split
  · exact h
  · exact .mgmtCount (h.same (by rfl))
theorem IdsFrom.pageCommit {p frame com drop stamp} (h : IdsFrom lo s) : YieldsIds lo (·) (s.pageCommit p frame com drop stamp) := by
  unfold State.pageCommit
  split
  · exact .ite (.none) (.ite (.some h.copyLines.moveFrame.clearMarks) (.some h.copyLines.copyLines.moveFrame.clearMarks))
  · exact .none
theorem IdsFrom.pageSpec {p asid va frame stamp} (h : IdsFrom lo s) : YieldsIds lo (·) (s.pageSpec p asid va frame stamp) := by
  unfold State.pageSpec
  split
  · exact .none
  · split
    · refine .ite (.none) (.some ?_)
      split
      · exact h.updPdk.copyLines.clearMarks.devWrite
      · exact h.updPdk.copyLines.clearMarks
    · exact .none
theorem IdsFrom.pageLane {w op a walks} (h : IdsFrom lo s) : IdsFrom lo (s.pageLane w op a walks).2 := by
  unfold State.pageLane
  dsimp only
  split
  next va _ =>
    have ht : IdsFrom lo (if walks then s.translate w.core w.pdk a.asid va
        else match s.tlbHit w.core w.pdk a.asid va with | some e => (.leaf e, s) | none => (.fault 0 false, s)).2 := by
      refine .snd_ite h.translate ?_
      split <;> exact h
    split
    · exact ht
    · exact ht
    · split
      · exact .snd_ite ht ht
      · exact ht
  · exact h
theorem IdsFrom.pageInstr {f op} (h : IdsFrom lo s) : KeepsIds lo (pageInstr f s op) :=
  h.issue fun _ _ _ ht => .ite ht.trapAt (.ite ht.trapAt ht.enterOp)
theorem IdsFrom.pageInstrWalk {o m op} (h : IdsFrom lo s) : IdsFrom lo (s.pageInstrWalk o m op) := by
  unfold State.pageInstrWalk
  split
  · exact h
  · exact .ite h (.ite (.foldl_snd h fun _ _ ht => ht.pageLane.updAcc) (.laneFaults (.foldl_snd h fun _ _ ht => ht.pageLane.updAcc)))
theorem IdsFrom.pageGate {x op k} (h : IdsFrom lo s) (hk : ∀ t, IdsFrom lo t → IdsFrom lo (k t)) :
    IdsFrom lo (s.pageGate x op k) := by
  unfold State.pageGate
  refine .ite (hk _ h) ?_
  split
  next e => exact hk _ (h.detCheck _ e).updOp
  · exact h.warpTrap
theorem IdsFrom.pageFrame {x op frame} (h : IdsFrom lo s) : IdsFrom lo (s.pageFrame x op frame) := by
  unfold State.pageFrame
  dsimp only
  split
  · exact h
  · split
    next t e =>
      refine (IdsFrom.updOp ?_).settle
      refine YieldsIds.ite (π := (·)) .none ?_ t e
      split
      · exact h.stampAt.pageCommit
      · exact .ite h.stampAt.pageSpec .none
    · exact h.stampAt.laneFaults
theorem IdsFrom.execPageOpApply {op frame} (h : IdsFrom lo s) : KeepsIds lo (execPageOpApply op frame s) := by
  unfold Machine.execPageOpApply
  refine .next ?_
  split
  · exact h
  · split
    · exact .ite h (h.pageGate fun _ ht => ht.pageFrame)
    · exact h
theorem IdsFrom.forkPage {p parent child va} (h : IdsFrom lo s) : YieldsIds lo (·) (s.forkPage p parent child va) := by
  unfold State.forkPage
  split
  · split
    · split
      · exact .ite (.none) (.some h.updPdk.copyLines.copyLines.clearMarks.clearMarks.devWrite)
      · exact .none
    · exact .none
  · exact .none
theorem IdsFrom.forkStream {p parent child f from_ to_} (h : IdsFrom lo s) : YieldsIds lo (·) (s.forkStream p parent child f from_ to_) := by
  unfold State.forkStream
  split
  · split
    · exact .none
    · split
      · exact .none
      · refine .some ?_
        dsimp only
        split
        · exact h.devWrite.devWrite
        · exact h.devWrite
  · exact .none
theorem IdsFrom.execSequenceFork {p parent child f pages streams} (h : IdsFrom lo s) :
    KeepsIds lo (execSequenceFork p parent child f pages streams s) := by
  unfold Machine.execSequenceFork
  refine .next ?_
  split
  · exact h.same (by rfl)
  next e =>
    refine .same (by rfl) (List.foldlRecOn (motive := YieldsIds lo (·)) _ _ ?_ (fun _ hr _ _ => .bind fun t e => (hr t e).forkStream) _ e)
    exact List.foldlRecOn (motive := YieldsIds lo (·)) _ _ (.some h) fun _ hr _ _ => .bind fun t e => (hr t e).forkPage

/-! ## Machine/Matrix.lean -/

theorem IdsFrom.updRes {c id f} (h : IdsFrom lo s) : IdsFrom lo (s.updRes c id f) := h.updCore
theorem IdsFrom.updJob {o f} (h : IdsFrom lo s) : IdsFrom lo (s.updJob o f) := h.same (by rfl)
theorem IdsFrom.placeMres {j} (h : IdsFrom lo s) : IdsFrom lo (s.placeMres j) := by
  unfold State.placeMres
  split
  · refine .ite h ?_
    dsimp only
    split
    · exact h.updJob
    · exact h.updCore.updJob
  · exact h
theorem IdsFrom.startEffect {j r} (h : IdsFrom lo s) : IdsFrom lo (s.startEffect j r) := by
  unfold State.startEffect
  dsimp only
  split
  · exact .ite h h.updRes.updJob
  · exact h.updCore
  · exact h.updCore
  · exact h.retryElements.updJob
  · exact h.retryElements.updJob
  · exact .updJob (.ite h.retryElements.updCore.updRes h.retryElements.updCore)
  · exact h
theorem IdsFrom.startJob {j} (h : IdsFrom lo s) : IdsFrom lo (s.startJob j) := by
  unfold State.startJob
  dsimp only
  split
  · exact h.updJob
  · split
    · exact h.updJob
    · refine .ite h.updJob ?_
      split
      · refine .updJob (.updJob ?_)
        refine .startEffect ?_
        split
        · exact h.updJob
        · exact h
      · exact h.updJob
theorem IdsFrom.tryStart {j} (h : IdsFrom lo s) : IdsFrom lo (s.tryStart j) :=
  .ite h (.ite (h.same (by rfl)) (.ite (h.same (by rfl)).endOp h.startJob))
theorem IdsFrom.withJob {o k} (h : IdsFrom lo s) (hk : ∀ t, IdsFrom lo t → ∀ j, IdsFrom lo (k t j)) :
    IdsFrom lo (s.withJob o k) := by
  unfold State.withJob
  split
  · exact hk _ h _
  · exact h
theorem IdsFrom.execMatrixCommandStart (h : IdsFrom lo s) : KeepsIds lo (execMatrixCommandStart s) :=
  .next (.foldl h fun _ ht _ => .withJob (ht.withJob fun _ ht1 _ => ht1.placeMres) fun _ ht1 _ => ht1.tryStart)
theorem IdsFrom.jobRead {j} (h : IdsFrom lo s) : IdsFrom lo (s.jobRead j) := h.updJob
theorem IdsFrom.bankCycle {c} (h : IdsFrom lo s) : IdsFrom lo (s.bankCycle c) :=
  .accessCycle (.foldl (.ite h.selRead h) fun _ ht _ => ht.jobRead)
theorem IdsFrom.statusCheck {j} (h : IdsFrom lo s) : YieldsIds lo (·) (s.statusCheck j) := .ite h.detCheck (.some h)
theorem IdsFrom.undoJob {j} (h : IdsFrom lo s) : IdsFrom lo (s.undoJob j) := by
  unfold State.undoJob
  extract_lets t u
  have ht : IdsFrom lo t := by
    refine .ite ?_ h
    split
    · exact h.updRes
    · exact h
  have hu : IdsFrom lo u := ht.same (by rfl)
  split
  · exact hu.warpTrap
  · exact hu
theorem IdsFrom.endEffect {j r} (h : IdsFrom lo s) : IdsFrom lo (s.endEffect j r).1 := by
  unfold State.endEffect
  dsimp only
  split
  · dsimp only
    exact h.updCore
  · dsimp only
    exact h.updRes.updCore
  · dsimp only
    exact h.updRes
  · dsimp only
    exact h.updRes.updCore
  · dsimp only
    exact h.updCore
  · split
    · exact h.updCore.laneFaults
    · exact h.landRegs
  · exact h
theorem IdsFrom.finishJob {j} (h : IdsFrom lo s) : IdsFrom lo (s.finishJob j) := by
  unfold State.finishJob
  refine .ite h ?_
  dsimp only
  split
  next r _ =>
    have ht := h.endEffect (j := j) (r := r)
    refine .ite (ht.same (by rfl)).endOp ?_
    split
    next e => exact (ht.statusCheck _ e).updJob
    · exact h.undoJob
  · refine .ite (h.same (by rfl)).endOp ?_
    split
    next e => exact (h.statusCheck _ e).updJob
    · exact h.undoJob
theorem IdsFrom.doStat {j clear} (h : IdsFrom lo s) : IdsFrom lo (s.doStat j clear) := by
  unfold State.doStat
  split
  · exact h.same (by rfl)
  · refine .ite h.warpTrap ?_
    split
    next e => exact (h.search.of_eq e).laneFaults
    next e => exact h.search.of_eq e
    next e =>
      have ht := h.search.of_eq e
      refine .ite ht ?_
      dsimp only
      split
      · exact ht.warpTrap
      next e =>
        have hu := YieldsIds.ite ht.detCheck (.some ht) _ e
        exact .ite hu.ecc.laneFaults (.settle (.setJobs (.updOp (.landRegs
          (.ite hu.ecc.mergeClock (.ite hu.ecc.mergeClock.devStore hu.ecc.mergeClock.devVWrite))))))
theorem IdsFrom.execMatrixCommandComplete (h : IdsFrom lo s) : KeepsIds lo (execMatrixCommandComplete s) := by
  unfold Machine.execMatrixCommandComplete
  refine .next (.foldl h ?_)
  intro _ ht _
  split
  · exact .ite ht.doStat ht
  · exact ht.finishJob
theorem IdsFrom.execMatrixStatusUpdate {cmd} (h : IdsFrom lo s) : KeepsIds lo (execMatrixStatusUpdate cmd s) := by
  unfold Machine.execMatrixStatusUpdate
  refine .next ?_
  split
  · exact h
  · exact .ite h (h.devVWrite.same (by rfl)).endOp
theorem IdsFrom.matInstr {f g cmd data} (h : IdsFrom lo s) : KeepsIds lo (matInstr f s g cmd data) := by
  unfold Machine.matInstr
  refine h.issue fun _ _ _ ht => .ite ht.trapAt ?_
  split
  · exact ht.trapAt
  · refine .ite ht.trapAt (.ite ht.trapAt (.ite ht.trapAt (.ite ht.trapAt (.ite ht.trapAt ?_))))
    split
    · exact ht.trapAt
    next e =>
      have hu := YieldsIds.ite ht.detCheck (.some ht) _ e
      exact .ite hu.simpleOp (.setJobs hu.addOp)
theorem IdsFrom.execMres {f} (h : IdsFrom lo s) : KeepsIds lo (execMres f s) := by
  unfold Machine.execMres
  exact h.matInstr

/-! ## Machine/Handler.lean -/

theorem IdsFrom.dropWarp {wid} (h : IdsFrom lo s) : IdsFrom lo (s.dropWarp wid) :=
  .same (by rfl) (.ite h.freeLocks.freeSel h.freeLocks)
theorem IdsFrom.ejectLanes {v m} (h : IdsFrom lo s) : IdsFrom lo (s.ejectLanes v m) := by
  unfold State.ejectLanes
  split
  · exact h
  · dsimp only
    split
    · exact h.ejectServed
    · split
      · exact h
      · exact h.ejectServed
theorem IdsFrom.release {v} (h : IdsFrom lo s) : IdsFrom lo (s.release v) := by
  unfold State.release
  split
  · exact h
  · exact .ite h.updWarp.updWarp h.updWarp
theorem IdsFrom.noHandler {c} (h : IdsFrom lo s) : IdsFrom lo (s.noHandler c) := by
  unfold State.noHandler
  dsimp only
  split
  · exact h.ejectServed
  · exact .ite h.ejectServed.updWarp h.ejectServed
theorem IdsFrom.formHandler {c im slot} (h : IdsFrom lo s) : IdsFrom lo (s.formHandler c im slot) :=
  (IdsFrom.updWarp (wid := c.wid) (f := fun w => { w.landAll with heldBy := some s.nextId }) h.takeId).same (by rfl)
theorem IdsFrom.dropDead {wid x} (h : IdsFrom lo s) : IdsFrom lo (s.dropDead wid x) := h.updOp.settle
theorem IdsFrom.execHandlerStart (h : IdsFrom lo s) : KeepsIds lo (execHandlerStart s) := by
  unfold Machine.execHandlerStart
  refine .next ?_
  split
  · exact h
  · extract_lets w t q room
    have ht : IdsFrom lo t := by
      dsimp only [t]
      split
      · exact .ite h h.dropDead
      · exact h.same (by rfl)
    refine .ite (.ite ht.updWarp ht) (.ite ht.noHandler ?_)
    split
    · exact ht.formHandler
    · exact ht.noHandler.countReg
theorem IdsFrom.execHandlerFail (h : IdsFrom lo s) : KeepsIds lo (execHandlerFail s) := by
  unfold Machine.execHandlerFail
  refine .next ?_
  split
  · exact h
  · exact h.countReg.ejectLanes.release.dropWarp
theorem IdsFrom.handlerOp {f k} (h : IdsFrom lo s) (hk : ∀ wid w t, IdsFrom lo t → IdsFrom lo (k wid w t)) :
    KeepsIds lo (handlerOp f s k) := h.issue fun _ _ _ ht => .ite (hk _ _ _ ht) ht.trapAt
theorem IdsFrom.execTret {f} (h : IdsFrom lo s) : KeepsIds lo (execTret f s) := by
  unfold Machine.execTret
  refine h.handlerOp fun _ _ _ ht => .dropWarp (.release ?_)
  split
  · exact ht.updOp fun _ => Op.id_ite rfl
  · exact ht
theorem IdsFrom.zeroFrame {dev} (h : IdsFrom lo s) : IdsFrom lo (s.zeroFrame dev) := h.same (by rfl)
theorem IdsFrom.mapLane {p asid va} (h : IdsFrom lo s) : IdsFrom lo (s.mapLane p asid va).2 := by
  unfold State.mapLane
  dsimp only
  split
  · exact h.noteReads
  · split
    · exact h.noteReads
    · split
      · exact h.noteReads
      · split
        · exact h.noteReads
        · exact h.noteReads.updPdk.zeroFrame.devWrite
theorem IdsFrom.execPgmap {f} (h : IdsFrom lo s) : KeepsIds lo (execPgmap f s) :=
  h.handlerOp fun _ _ _ ht => .ite ht.simpleOp (.landIn (.takeId (.foldl_snd ht fun _ _ ht1 => ht1.mapLane)))
theorem IdsFrom.stalePage {p asid page} (h : IdsFrom lo s) : IdsFrom lo (s.stalePage p asid page) where
  le := h.le
  ops := h.ops
  waits _ hl := by
    obtain ⟨l, hm, rfl⟩ := List.mem_map.1 hl
    exact (h.waits l hm).mapSame fun _ => rfl
theorem IdsFrom.unmapLane {p asid va ft} (h : IdsFrom lo s) : IdsFrom lo (s.unmapLane p asid va ft).2 := by
  unfold State.unmapLane
  dsimp only
  split
  · exact h.noteReads
  · split
    · exact h.noteReads
    · split
      · exact h.noteReads
      · exact .snd_ite h.noteReads (.snd_ite h.noteReads (.ite h.noteReads.devWrite.stalePage h.noteReads.devWrite))
theorem IdsFrom.addDrain {p id d} (h : IdsFrom lo s) : IdsFrom lo (s.addDrain p id d) := h.updPdk
theorem IdsFrom.execPgunmap {f} (h : IdsFrom lo s) : KeepsIds lo (execPgunmap f s) :=
  h.handlerOp fun _ _ _ ht => .ite ht.simpleOp (.addDrain (.addOp (.foldl_snd ht fun _ _ ht1 => ht1.unmapLane)))
theorem IdsFrom.finishUnmap {p j} (h : IdsFrom lo s) : IdsFrom lo (s.finishUnmap p j) := by
  unfold State.finishUnmap
  split
  · exact h
  · extract_lets covers t again u v
    have hu : IdsFrom lo u := IdsFrom.mapOps (IdsFrom.updPdk h) fun _ => Op.id_ite rfl
    have hv : IdsFrom lo v := by
      dsimp only [v]
      split
      · exact hu.landRegs.endOp
      · exact hu
    split
    · exact hv.reportDone
    · exact hv
theorem IdsFrom.execUnmapComplete (h : IdsFrom lo s) : KeepsIds lo (execUnmapComplete s) := by
  unfold Machine.execUnmapComplete
  refine .next ?_
  split
  · exact h
  · exact h.finishUnmap

/-! ## Machine/Rink.lean -/

theorem IdsFrom.updRink {f} (h : IdsFrom lo s) : IdsFrom lo (s.updRink f) := h.same (by rfl)
theorem IdsFrom.rinkIssue {wid w port k} (h : IdsFrom lo s) (hk : ∀ t, IdsFrom lo t → IdsFrom lo (k t)) :
    IdsFrom lo (s.rinkIssue wid w port k) := .ite h.trapAt (hk _ h)
theorem IdsFrom.sendFrame {port bits} (h : IdsFrom lo s) : IdsFrom lo (s.sendFrame port bits) := .ite (h.same (by rfl)) h
theorem IdsFrom.execTrcv {f} (h : IdsFrom lo s) : KeepsIds lo (execTrcv f s) := by
  unfold Machine.execTrcv
  refine h.issue fun _ _ _ ht => ht.rinkIssue fun _ ht1 => ?_
  dsimp only
  split
  · exact ht1.updRink.trapAt
  · exact ht1.updRink.updRink.landIn
theorem IdsFrom.execDrft {f} (h : IdsFrom lo s) : KeepsIds lo (execDrft f s) := by
  unfold Machine.execDrft
  refine h.issue fun _ _ _ ht => ht.rinkIssue fun _ ht1 => .ite ht1 ?_
  split
  · exact ht1.trapAt
  · exact ht1.updRink
theorem IdsFrom.trapTask {tstart} (h : IdsFrom lo s) : IdsFrom lo (s.trapTask tstart) := .foldl h fun _ ht _ => ht.takeTrap
theorem IdsFrom.dropKept {tstart} (h : IdsFrom lo s) : IdsFrom lo (s.dropKept tstart) := by
  unfold State.dropKept
  dsimp only
  split
  · exact h.updRink.freeRoom
  · exact h.updRink
theorem IdsFrom.abortTask {tstart} (h : IdsFrom lo s) : IdsFrom lo (s.abortTask tstart) :=
  .ite h.updRink.dropKept.updRink h.updRink.dropKept.trapTask
theorem IdsFrom.noteFault {member cause} (h : IdsFrom lo s) : IdsFrom lo (s.noteFault member cause) := .ite h (h.same (by rfl))
theorem IdsFrom.findFault {cause tstart} (h : IdsFrom lo s) : IdsFrom lo (s.findFault cause tstart) := h.noteFault.flood.abortTask
theorem IdsFrom.memberFault {cause} (h : IdsFrom lo s) : IdsFrom lo (s.memberFault cause) :=
  .foldl h.noteFault fun _ ht _ => ht.findFault
theorem IdsFrom.frameFault {cause chan} (h : IdsFrom lo s) : IdsFrom lo (s.frameFault cause chan) := by
  unfold State.frameFault
  split
  · exact h.findFault
  · exact h.memberFault
theorem IdsFrom.execRinkFrameRelay (h : IdsFrom lo s) : KeepsIds lo (execRinkFrameRelay s) := by
  unfold Machine.execRinkFrameRelay
  refine .next ?_
  split
  · exact h
  · exact .ite h.updRink.updRink.sendFrame h.updRink.frameFault
theorem IdsFrom.execSkidTake (h : IdsFrom lo s) : KeepsIds lo (execSkidTake s) := by
  unfold Machine.execSkidTake
  refine .next ?_
  split
  · exact h
  · exact h.updRink
theorem IdsFrom.planSkid (h : IdsFrom lo s) : IdsFrom lo s.planSkid := .ite h (h.same (by rfl))
theorem IdsFrom.joinTimed {old : State} {c} (h : IdsFrom lo s) : IdsFrom lo (old.joinTimed s c) :=
  .ite h (.ite h.freeze.planSkid h.freeze)
theorem IdsFrom.learnStop {came tstart stop} (h : IdsFrom lo s) : IdsFrom lo (s.learnStop came tstart stop) :=
  .ite h h.updRink.flood
theorem IdsFrom.execRinkPreemptAnnounce {p lid} (h : IdsFrom lo s) : KeepsIds lo (execRinkPreemptAnnounce p lid s) := by
  unfold Machine.execRinkPreemptAnnounce
  refine .next ?_
  split
  · exact .ite h.learnStop h
  · exact h

/-! ## Machine/Place.lean -/

theorem IdsFrom.seat {c w} (h : IdsFrom lo s) : YieldsIds lo (·) (s.seat c w) := .map fun _ e => h.same (by rfl)
theorem IdsFrom.seatCore {slots ws c} (h : IdsFrom lo s) : YieldsIds lo (·) (s.seatCore slots ws c) :=
  .bind fun _ e => ((h.foldSome fun _ ht _ => ht.assignWindow) _ e).foldSome fun _ ht _ => ht.seat
theorem IdsFrom.seatCores {α : Type} {sit : State → α → Nat → Option State} {cs gs}
    (h : IdsFrom lo s) (hsit : ∀ t, IdsFrom lo t → ∀ g c, YieldsIds lo (·) (sit t g c)) :
    YieldsIds lo Prod.snd (Machine.seatCores sit s cs gs) := by
  fun_induction Machine.seatCores sit s cs gs with
  | case1 => exact .some h
  | case2 => exact .none
  | case3 s c cs g gs l t e ih =>
    obtain ⟨u, hu, e⟩ := Option.bind_eq_some_iff.1 e
    exact .some (ih u (hsit s h g c u hu) (l, t) e)
  | case4 s c cs g gs e _ ih => exact ih h
theorem IdsFrom.seatSlices {α : Type} {sit : State → α → Nat → Option State} {parts l}
    (h : IdsFrom lo s) (hsit : ∀ t, IdsFrom lo t → ∀ g c, YieldsIds lo (·) (sit t g c)) :
    YieldsIds lo (·.2.2) (Machine.seatSlices sit s parts l) := by
  induction l with
  | nil => exact .none
  | cons sl r ih =>
    unfold Machine.seatSlices
    split
    next e => exact .some (h.seatCores hsit _ e)
    · exact ih
theorem IdsFrom.openWindow {c x} (h : IdsFrom lo s) : YieldsIds lo (·) (s.openWindow c x) :=
  .ite (.some h) (.map fun _ e => .updCore (.same (by rfl) (h.assignWindow _ e)))
theorem IdsFrom.openRes {c x} (h : IdsFrom lo s) : YieldsIds lo (·) (s.openRes c x) := by
  unfold State.openRes
  refine .ite (.none) ?_
  split
  · exact .some h.updCore
  · exact .none
theorem IdsFrom.openSel {c z u} (h : IdsFrom lo s) : IdsFrom lo (s.openSel c z u) := h.updCore
theorem IdsFrom.seatSaved {slots g c} (h : IdsFrom lo s) : YieldsIds lo (·) (s.seatSaved slots g c) := by
  unfold State.seatSaved
  refine .bind fun _ e => .bind fun _ e1 => .map fun _ e2 => ?_
  split
  · exact (((((h.foldSome fun _ ht _ => ht.openWindow) _ e).seatCore _ e1).foldSome fun _ ht _ => ht.openRes) _ e2).openSel
  · exact ((((h.foldSome fun _ ht _ => ht.openWindow) _ e).seatCore _ e1).foldSome fun _ ht _ => ht.openRes) _ e2
theorem IdsFrom.applyReplay {l cores e} (h : IdsFrom lo s) : IdsFrom lo (s.applyReplay l cores e) := by
  unfold State.applyReplay
  split
  · exact h
  · split
    · exact h
    · exact h.updCore
theorem IdsFrom.relock {wid} (h : IdsFrom lo s) : IdsFrom lo (s.relock wid) := by
  unfold State.relock
  refine .foldl h.updWarp fun _ ht _ => ?_
  dsimp only
  split
  next e => exact .ite (ht.translate.of_eq e).lockEntry ht
  · exact ht
/-- A saved operation comes back with the identifier it was saved with. -/
theorem IdsFrom.reopenWait {cores cl x} (h : IdsFrom lo s) (hx : x.id < lo) : IdsFrom lo (s.reopenWait cores cl x) where
  le := h.le
  ops y hy := (List.mem_append.1 hy).elim (h.ops y) fun hn => by
    rw [List.mem_singleton.1 hn]
    exact Nat.lt_of_lt_of_le hx h.le
  waits := h.waits
theorem IdsFrom.reopenEval {o} (h : IdsFrom lo s) : IdsFrom lo (s.reopenEval o) := by
  unfold State.reopenEval
  split
  · exact h
  · exact .ite h.walkWait.evalWait h.notify
theorem IdsFrom.warpRooms {l wid} (h : IdsFrom lo s) : YieldsIds lo (·) (s.warpRooms l wid) :=
  h.foldSome fun _ ht _ => .map fun _ e => (ht.reserveRoom _ e).updWarp
/-- A cluster changes, but not what it holds of waits, as most changes do by `rfl`, or waits below the next identifier come. -/
theorem IdsFrom.updCluster {l no f} (h : IdsFrom lo s)
    (hf : ∀ c, ∀ x ∈ (f c).waits, x ∈ c.waits ∨ x.id < s.nextId := by exact fun _ _ hx => .inl hx) : IdsFrom lo (s.updCluster l no f) :=
  h.updLaunch fun _ hl => hl.map fun c x hx => by
    split at hx
    · exact hf c x hx
    · exact .inl hx
theorem IdsFrom.seatCluster {l cl die} (h : IdsFrom lo s) : YieldsIds lo (·.2.2.2) (s.seatCluster l cl die) := by
  unfold State.seatCluster
  refine .map fun x e => .foldl ?_ fun _ ht _ => ht.joinTimed
  refine YieldsIds.ite (π := (·.2.2)) ?_ ?_ x e
  · exact .seatSlices (.ite (h.skipIds (Nat.le_add_right _ _)) h) fun _ ht _ _ => ht.seatSaved
  · exact .seatSlices (.ite (h.skipIds (Nat.le_add_right _ _)) h) fun _ ht _ _ => ht.seatCore
theorem IdsFrom.roomsFor {l cl cores ids} (h : IdsFrom lo s) : YieldsIds lo Prod.snd (s.roomsFor l cl cores ids) := by
  unfold State.roomsFor
  split
  · exact .some h.updRoom
  · exact .bind fun _ e1 => .map fun _ e2 => (((h.reserveRoom _ e1).foldSome fun _ ht _ => ht.warpRooms) _ e2)
theorem IdsFrom.seated {l cl slice cores ids room} (h : IdsFrom lo s) : IdsFrom lo (s.seated l cl slice cores ids room) := by
  unfold State.seated
  dsimp only
  exact .setWarps (h.updCluster fun _ _ hx => by cases hx)
theorem IdsFrom.reopen {l cl cores ids} (h : IdsFrom lo s) (hcl : ∀ x ∈ cl.waits, x.id < lo) : IdsFrom lo (s.reopen l cl cores ids) :=
  .foldl (List.foldlRecOn (motive := IdsFrom lo) cl.waits _ (.foldl (.foldl h fun _ ht _ => ht.applyReplay) fun _ ht _ => ht.relock)
    fun _ ht x hx => ht.reopenWait (hcl x hx)) fun _ ht _ => ht.reopenEval
/-- A try that places leaves the identifiers of operations below the next one. -/
def PlacesIds (lo : Nat) (r : Placed) : Prop := ∀ t, r = .done t → IdsFrom lo t
theorem IdsFrom.done (h : IdsFrom lo s) : PlacesIds lo (.done s) := by
  intro t e
  cases e
  exact h
theorem PlacesIds.noRoom : PlacesIds lo .noRoom := by
  intro t e
  cases e
theorem PlacesIds.noSlots {w e} : PlacesIds lo (.noSlots w e) := by
  intro t e
  cases e
theorem PlacesIds.firstPlaced {α : Type} {try_ : α → Placed} {l : List α} (h : ∀ a, PlacesIds lo (try_ a)) :
    PlacesIds lo (Machine.firstPlaced try_ l) := by
  refine List.foldlRecOn (motive := PlacesIds lo) l _ .noRoom fun r hr a _ => ?_
  split
  · exact hr
  · exact h a
  · split
    next e => exact (h a _ e).done
    · exact .noSlots
theorem IdsFrom.slotsAll {l} (h : IdsFrom lo s) : PlacesIds lo (s.slotsAll l) := by
  induction l generalizing s with
  | nil => exact h.done
  | cons wid r ih =>
    unfold State.slotsAll
    split
    · exact .noSlots
    next e => exact ih (h.takeSlots e).updWarp
theorem IdsFrom.placeOne {l cl die} (h : IdsFrom lo s) (hcl : ∀ x ∈ cl.waits, x.id < lo) : PlacesIds lo (s.placeOne l cl die) := by
  unfold State.placeOne
  split
  · exact .noRoom
  next e =>
    split
    · exact .noRoom
    next e' =>
      have hroom := (h.seatCluster _ e).roomsFor _ e'
      split
      next e =>
        refine IdsFrom.done ?_
        split
        · exact ((hroom.slotsAll _ e).seated.reopen hcl).reportDone
        · exact (hroom.slotsAll _ e).seated.reopen hcl
      · exact hroom.slotsAll
theorem IdsFrom.placeUnit {one l cs} (h : IdsFrom lo s) (hcs : ∀ c ∈ cs, ∀ x ∈ c.waits, x.id < lo)
    (hone : ∀ t, IdsFrom lo t → ∀ l cl die, (∀ x ∈ cl.waits, x.id < lo) → PlacesIds lo (one t l cl die)) :
    PlacesIds lo (s.placeUnit one l cs) := by
  induction cs generalizing s with
  | nil => exact h.done
  | cons cl r ih =>
    have hcl := fun die => hone _ h (s.launchRec l) cl die (hcs cl List.mem_cons_self)
    unfold State.placeUnit
    refine .firstPlaced fun die => ?_
    split
    next e => exact ih (hcl die _ e) fun c hc => hcs c (List.mem_cons_of_mem _ hc)
    · exact hcl die
theorem mem_of_mem_insertBy {α : Type} {key : α → Nat} {a b : α} {l : List α} (h : a ∈ insertBy key b l) : a = b ∨ a ∈ l := by
  induction l with
  | nil => exact .inl (List.mem_singleton.1 h)
  | cons y r ih =>
    unfold insertBy at h
    split at h
    · exact List.mem_cons.1 h
    · exact (List.mem_cons.1 h).elim (fun e => .inr (e ▸ List.mem_cons_self)) fun h => (ih h).imp id (List.mem_cons_of_mem y)
theorem mem_of_mem_sortBy {α : Type} {key : α → Nat} {a : α} {l : List α} (h : a ∈ sortBy key l) : a ∈ l :=
  List.foldlRecOn (motive := fun r => a ∈ r → a ∈ l) l _ (fun h => absurd h List.not_mem_nil)
    (fun _ hr _ hx h => (mem_of_mem_insertBy h).elim (fun e => e ▸ hx) hr) h
/-- What is queued is a cluster of a launch. -/
theorem queue_mem {x : Launch × Cluster} (h : x ∈ s.queue) : x.1 ∈ s.launches ∧ x.2 ∈ x.1.clusters := by
  obtain ⟨l, hl, h⟩ := List.mem_flatMap.1 (mem_of_mem_sortBy (mem_of_mem_sortBy (mem_of_mem_sortBy h)))
  obtain ⟨c, hc, rfl⟩ := List.mem_map.1 h
  exact ⟨hl, (List.mem_filter.1 hc).1⟩
theorem IdsFrom.placeHead {p x} (h : IdsFrom lo s) (e : s.placeHead p = some x) : PlacesIds lo x.2.2 := by
  have hs : PlacesIds s.nextId x.2.2 := by
    unfold State.placeHead at e
    split at e
    · cases e
    next l cl eq =>
      obtain ⟨hl, hc⟩ := queue_mem (List.mem_of_find?_eq_some eq)
      have hw := h.waits l hl
      split at e
      · cases e
      · split at e
        · cases e
          exact h.self.placeUnit (fun c hc => hw c (List.mem_filter.1 hc).1) fun _ ht _ _ _ hcl => ht.placeOne hcl
        · cases e
          exact .firstPlaced fun _ => h.self.placeOne (hw cl hc)
  exact fun t et => (hs t et).mono h.le
theorem IdsFrom.noteWaiting {p} (h : IdsFrom lo s) : IdsFrom lo (s.noteWaiting p) := .ite h.updPdk h
theorem IdsFrom.slotsMissing {l cl w e} (h : IdsFrom lo s) : IdsFrom lo (s.slotsMissing l cl w e) := by
  unfold State.slotsMissing
  dsimp only
  split
  · exact h.updCluster
  · refine .postFault ?_
    split
    · exact h.updCluster.ecc
    · exact h.updCluster
theorem IdsFrom.execClusterPlace {p} (h : IdsFrom lo s) : KeepsIds lo (execClusterPlace p s) := by
  unfold Machine.execClusterPlace
  refine .next ?_
  split
  next e => exact (h.placeHead e _ rfl).noteWaiting
  · exact .ite h.slotsMissing h
  · exact h.noteWaiting
theorem IdsFrom.execClusterRestore {p idx} (h : IdsFrom lo s) : KeepsIds lo (execClusterRestore p idx s) := by
  unfold Machine.execClusterRestore
  refine .next ?_
  split
  next e => exact .ite (h.placeHead e _ rfl).noteWaiting h
  · exact h
theorem IdsFrom.retryQueue {p} (h : IdsFrom lo s) : IdsFrom lo (s.retryQueue p) :=
  h.mapLaunches fun _ hl => WaitsBelow.ite (hl.mapSame fun _ => rfl) hl

/-! ## Machine/Launch.lean -/

theorem IdsFrom.updCmd {p seq f} (h : IdsFrom lo s) : IdsFrom lo (s.updCmd p seq f) := h.updRing
theorem IdsFrom.command {p seq opc payload k} (h : IdsFrom lo s) (hk : ∀ t, IdsFrom lo t → IdsFrom lo (k t)) :
    KeepsIds lo (s.command p seq opc payload k) := .next (.ite (hk _ h.updCmd) h)
theorem IdsFrom.noteGets {p asid ranges} (h : IdsFrom lo s) : IdsFrom lo (s.noteGets p asid ranges) := by
  unfold State.noteGets
  refine .foldl h fun _ ht _ => ?_
  dsimp only
  split
  · exact ht.noteReads.ecc
  · exact ht.noteReads
theorem IdsFrom.enterLaunch {gs l} (h : IdsFrom lo s) (hl : WaitsBelow s.nextId l) : IdsFrom lo (s.enterLaunch gs l) :=
  have ha := (h.addLaunches (Nat.le_succ s.nextId) (ls := [l]) fun _ hm => List.mem_singleton.1 hm ▸ hl).mono (Nat.le_succ_of_le h.le)
  .noteWaiting (.foldl ha.updPdk fun _ ht _ => .ite ht.mirror.devVWrite ht.mirror)
/-- The clusters of an accepted launch are new. -/
theorem checkLaunch_waits {p seq payload gs l k} (e : s.checkLaunch p seq payload = .ok (gs, l)) : WaitsBelow k l := by
  have hc : ∃ d gs', l.clusters = s.clustersOf d gs' := by
    revert e
    unfold State.checkLaunch
    dsimp only
    repeat' split
    all_goals
      intro e
      cases e
    exact ⟨_, _, rfl⟩
  obtain ⟨d, gs', hc⟩ := hc
  refine .of_nil fun c hm => ?_
  rw [hc] at hm
  obtain ⟨r, -, rfl⟩ := List.mem_map.1 hm
  rfl
theorem IdsFrom.execLaunch {p seq payload} (h : IdsFrom lo s) : KeepsIds lo (execLaunch p seq payload s) := by
  unfold Machine.execLaunch
  refine h.command fun _ ht => .ite ht.reportFail (.ite ht.reportFail ?_)
  dsimp only
  split
  · exact ht.noteGets.reportFail
  next e => exact ht.noteGets.enterLaunch (checkLaunch_waits e)
theorem IdsFrom.updYard {p y f} (h : IdsFrom lo s) : IdsFrom lo (s.updYard p y f) := h.updPdk
theorem IdsFrom.formYardWarp {p y l} (h : IdsFrom lo s) : IdsFrom lo (s.formYardWarp p y l) := by
  unfold State.formYardWarp
  split
  · exact h
  · refine (IdsFrom.addLaunches h.takeId.takeId.updPdk (Nat.le_refl _) ?_).mono h.takeId.takeId.le |>.same (by rfl)
    intro m hm
    rw [List.mem_singleton.1 hm]
    exact .of_nil fun c hc => by rw [List.mem_singleton.1 hc]
theorem IdsFrom.formYards {p} (h : IdsFrom lo s) : IdsFrom lo (s.formYards p) :=
  .noteWaiting (.foldl h fun _ ht _ => ht.formYardWarp)
theorem IdsFrom.execYardpost {p seq payload} (h : IdsFrom lo s) : KeepsIds lo (execYardpost p seq payload s) := by
  unfold Machine.execYardpost
  refine h.command fun _ ht => .ite ht.reportFail (.ite ht.reportFail ?_)
  split
  · exact ht.reportFail
  · exact .ite ht.reportFail (.ite ht.reportFail (.ite ht.updYard.formYards ht.updYard))
theorem IdsFrom.execYardcreate {p seq payload} (h : IdsFrom lo s) : KeepsIds lo (execYardcreate p seq payload s) := by
  unfold Machine.execYardcreate
  refine h.command fun _ ht => .ite ht.reportFail ?_
  split
  · exact ht.reportFail
  · refine .ite ht.reportFail ?_
    dsimp only
    split
    · exact ht.noteGets.reportFail
    · refine .ite ht.noteGets.reportFail ?_
      split
      · exact ht.noteGets.reportFail
      · exact ht.noteGets.updPdk.reportDone
theorem IdsFrom.execYarddestroy {p seq payload} (h : IdsFrom lo s) : KeepsIds lo (execYarddestroy p seq payload s) := by
  unfold Machine.execYarddestroy
  refine h.command fun _ ht => .ite ht.reportFail ?_
  split
  · exact ht.reportFail
  · exact .reportDone (.updPdk (.foldl ht fun _ ht1 _ => ht1.reportFail))
theorem IdsFrom.reportLanes {wid} (h : IdsFrom lo s) : IdsFrom lo (s.reportLanes wid) :=
  .foldl (h.same (by rfl)) fun _ ht _ => ht.reportDone
theorem IdsFrom.endWarp {wid} (h : IdsFrom lo s) : IdsFrom lo (s.endWarp wid) :=
  .reportLanes (.updWarp (.filterOps (.ite_of (.freeLocks (.freeSlots (.foldl h fun _ ht _ => ht.leaveGroup))) (·.freeSel) id)))
theorem IdsFrom.clearOut {wid} (h : IdsFrom lo s) : IdsFrom lo (s.clearOut wid) :=
  .retryQueue (.releaseWindows (.dropWarp (.foldl h fun _ ht _ => ht.freeRoom)))
theorem IdsFrom.retireCluster {l c} (h : IdsFrom lo s) : IdsFrom lo (s.retireCluster l c) := by
  unfold State.retireCluster
  refine .updCluster ?_
  split
  · exact .ite_of (.foldl h fun _ ht _ => ht.clearOut) id (·.freeRoom)
  · exact .foldl h fun _ ht _ => ht.clearOut
theorem IdsFrom.closeLaunch {l} (h : IdsFrom lo s) : IdsFrom lo (s.closeLaunch l) := by
  unfold State.closeLaunch
  extract_lets t own u
  have hu : IdsFrom lo u := h.of_subset rfl (List.Subset.refl _) List.filter_sublist.subset
  split
  · exact hu
  · split
    · exact hu.reportFail
    · exact hu.reportDone
theorem IdsFrom.sweep (h : IdsFrom lo s) : IdsFrom lo s.sweep := by
  unfold State.sweep
  refine .foldl ?_ fun _ ht _ => ht.closeLaunch
  refine .foldl h fun _ ht _ => .foldl ht fun _ ht1 _ => ?_
  dsimp only
  split
  · exact .ite ht1.retireCluster ht1
  · exact ht1
theorem IdsFrom.execWarpRetire (h : IdsFrom lo s) : KeepsIds lo (execWarpRetire s) := by
  unfold Machine.execWarpRetire
  refine .next ?_
  split
  · exact h.sweep
  · exact .sweep (.ite h.endWarp h.endWarp.clearOut)
theorem IdsFrom.missStart {l} (h : IdsFrom lo s) : IdsFrom lo (s.missStart l) := by
  unfold State.missStart
  refine .noteWaiting (.updLaunch ?_ fun _ hl => hl.mapSame fun _ => rfl)
  refine .foldl ?_ fun _ ht _ => ht.reportFail
  refine .foldl (.foldl h fun _ ht _ => ht.endWarp.clearOut) fun _ ht _ => ?_
  split
  · exact ht.freeRoom
  · exact ht
theorem IdsFrom.startLaunch {l} (h : IdsFrom lo s) : IdsFrom lo (s.startLaunch l) := .setWarps h.updLaunch

/-! ## Machine/Saved.lean: the waits of a context -/

theorem newLaunch_eq {l m : Launch} (hm : m ∈ s.newLaunch l) : m = l := by
  unfold State.newLaunch at hm
  split at hm
  · cases hm
  · exact List.mem_singleton.1 hm
theorem readWait_id {w kept v data x} (e : readWait w kept v data = some x) : x.id = kept.id := by
  obtain ⟨k, -, rfl⟩ := Option.map_eq_some_iff.1 e
  rfl
/-- The waits of a warp block are those kept, or are numbered from `next` on. -/
theorem readWaits_below {w kept next b k} (hk : ∀ x ∈ kept, x.id < k) (hn : next + 12 ≤ k) : ∀ x ∈ readWaits w kept next b, x.id < k := by
  intro x hx
  refine (List.mem_append.1 hx).elim (fun hx => ?_) fun hx => hk x (List.mem_of_mem_drop hx)
  obtain ⟨j, hj, e⟩ := List.mem_filterMap.1 hx
  have hj := List.mem_range.1 hj
  rw [readWait_id e]
  cases ej : kept[j]? with
  | none => exact Nat.lt_of_lt_of_le (Nat.add_lt_add_left hj next) hn
  | some y => exact hk y (List.mem_of_getElem? ej)
/-- Each queued command of a binding has the operation that `at_` names for one of 1,024. -/
theorem readSel_queue {kept wins wid at_ bs q} (hq : q ∈ (readSel kept wins wid at_ bs).queue) : ∃ j, j < 1024 ∧ q.2 = at_ j := by
  obtain ⟨j, hj, rfl⟩ := List.mem_map.1 hq
  exact ⟨j, Nat.lt_of_lt_of_le (List.mem_range.1 hj) (Nat.min_le_right _ _), rfl⟩
/-- A number that some waits have, or another. -/
theorem numberOf_below {ws : List Op} {o : Option Nat} {n k : Nat} (hw : ∀ x ∈ ws, x.id < k) (hn : n < k) :
    (o.filter fun i => ws.any (·.id == i)).getD n < k := by
  cases e : o.filter fun i => ws.any (·.id == i) with
  | none => exact hn
  | some i =>
    obtain ⟨x, hx, ei⟩ := List.any_eq_true.1 (Option.filter_eq_some_iff.1 e).2
    exact beq_iff_eq.1 ei ▸ hw x hx
/-- One of some operations, or another. -/
theorem found_below {ws : List Op} {p : Op → Bool} {d : Op} {k : Nat} (hw : ∀ x ∈ ws, x.id < k) (hd : d.id < k) : ((ws.find? p).getD d).id < k := by
  cases e : ws.find? p with
  | none => exact hd
  | some x => exact hw x (List.mem_of_find?_eq_some e)
/-- The waits and queued commands of a core section are those of the cluster, or have the numbers of the core. -/
theorem readSection_below {l : Launch} {c : Cluster} {bs j ws k} (hc : ∀ x ∈ c.waits, x.id < k) (hws : ws.length ≤ 16)
    (hk : s.nextId + 64 + 2 ^ 12 * j + 2 ^ 11 + 1024 ≤ k) : ∀ x ∈ (s.readSection l c bs j ws).2.1, x.id < k := by
  unfold State.readSection
  extract_lets o at_ area kept next windows holder old sel cmds selOps waits replays
  have hcmds : ∀ q ∈ cmds, q.2 < k := by
    intro q hq
    dsimp only [cmds, sel] at hq
    split at hq
    · cases hq
    · obtain ⟨i, hi, e⟩ := readSel_queue hq
      rw [e]
      exact numberOf_below hc (by omega)
  have hwaits : ∀ x ∈ waits, x.id < k := by
    intro x hx
    obtain ⟨m, hm, hx⟩ := List.mem_flatMap.1 hx
    have hm := List.mem_range.1 hm
    exact readWaits_below (fun y hy => hc y (List.mem_filter.1 hy).1) (by omega) x hx
  have hsel : ∀ x ∈ selOps, x.id < k := by
    intro x hx
    obtain ⟨i, hi, rfl⟩ := List.mem_map.1 hx
    have hi := List.mem_range.1 hi
    refine found_below hc (hcmds _ ?_)
    rw [List.getElem?_eq_getElem hi]
    exact List.getElem_mem hi
  intro x hx
  exact (List.mem_append.1 hx).elim (hwaits x) (hsel x)
theorem readWarps_length {l c bs k} : (s.readWarps l c bs k).length ≤ 16 := by
  simp [State.readWarps]
theorem readCluster_below {l : Launch} {c : Cluster} {bs} (hc : ∀ x ∈ c.waits, x.id < s.nextId) :
    ∀ x ∈ (s.readCluster l c bs).waits, x.id < s.nextId + 2 ^ 12 * (c.cores.length + 2) := by
  intro x hx
  obtain ⟨z, hz, hx⟩ := List.mem_flatMap.1 hx
  obtain ⟨j, hj, rfl⟩ := List.mem_map.1 hz
  have hj := List.mem_range.1 hj
  exact readSection_below (fun y hy => Nat.lt_of_lt_of_le (hc y hy) (Nat.le_add_right _ _)) readWarps_length (by omega) x hx

/-! ## Machine/Saved.lean -/

theorem IdsFrom.ctxNote {p reads} (h : IdsFrom lo s) : IdsFrom lo (s.ctxNote p reads) :=
  .foldl h fun _ ht _ => .ite ht.ifError ht.noteReads
theorem IdsFrom.adoptRoom {p r} (h : IdsFrom lo s) : IdsFrom lo (s.adoptRoom p r) := h.updPdk
theorem IdsFrom.adopt {l c} (h : IdsFrom lo s) (hl : WaitsBelow s.nextId l) (hc : ∀ x ∈ c.waits, x.id < s.nextId) :
    IdsFrom (s.nextId + 2 ^ 12 * (c.cores.length + 2)) (s.adopt l c) :=
  (h.addLaunches (Nat.le_add_right _ _) fun m hm => newLaunch_eq hm ▸ hl).updLaunch fun x hx => by
    dsimp only
    split
    · exact hx
    · exact hx.addCluster fun y hy => Nat.lt_of_lt_of_le (hc y hy) (Nat.le_add_right _ _)
/-- The launch of a copied room is one of those there are, or has no clusters. -/
theorem IdsFrom.launchFor {p r asid w d} (h : IdsFrom lo s) : WaitsBelow s.nextId (s.launchFor p r asid w d) := by
  unfold State.launchFor
  split
  next e => exact h.waits _ (List.mem_of_find?_eq_some e)
  · exact .of_nil nofun
  · split <;> exact .of_nil nofun
theorem IdsFrom.readRecord {p r k} (h : IdsFrom lo s) (e : s.readRecord p r = some k) : ∀ m ∈ k.2, WaitsBelow s.nextId m := by
  obtain ⟨hd, -, e⟩ := Option.bind_eq_some_iff.1 e
  obtain ⟨bs, -, rfl⟩ := Option.map_eq_some_iff.1 e
  intro m hm
  dsimp only at hm
  split at hm
  · cases hm
  · exact newLaunch_eq hm ▸ h.launchFor
/-- What is found in a room is a cluster of a launch, or has no waits. -/
theorem IdsFrom.savedIn {p r l c bs} (h : IdsFrom lo s) (e : s.savedIn p r = some (l, c, bs)) :
    WaitsBelow s.nextId l ∧ ∀ x ∈ c.waits, x.id < s.nextId := by
  obtain ⟨hd, -, e⟩ := Option.bind_eq_some_iff.1 e
  obtain ⟨bs', -, e⟩ := Option.map_eq_some_iff.1 e
  dsimp only at e
  split at e
  next x ex =>
    cases e
    obtain ⟨m, hm, em⟩ := List.exists_of_findSome?_eq_some ex
    obtain ⟨d, hd, rfl⟩ := Option.map_eq_some_iff.1 em
    have hw := h.waits m (List.mem_filter.1 hm).1
    exact ⟨hw, hw d (List.mem_of_find?_eq_some hd)⟩
  · cases e
    exact ⟨h.launchFor, fun _ hx => absurd hx List.not_mem_nil⟩

/-! ## Machine/Preempt.lean -/

theorem IdsFrom.requestCluster {l cl why} (h : IdsFrom lo s) : IdsFrom lo (s.requestCluster l cl why) := .setWarps h.updCluster
theorem IdsFrom.execPreemptRequest {p lid clid} (h : IdsFrom lo s) : KeepsIds lo (execPreemptRequest p lid clid s) := by
  unfold Machine.execPreemptRequest
  refine .next ?_
  split
  · exact h
  · exact .ite h (.foldl h fun _ ht _ => ht.requestCluster)
theorem IdsFrom.execPreempt {p seq payload} (h : IdsFrom lo s) : KeepsIds lo (execPreempt p seq payload s) := by
  unfold Machine.execPreempt
  refine h.command fun _ ht => .ite ht.reportFail ?_
  split
  · exact ht.reportFail
  · exact .ite ht.reportFail (ht.updCmd.same (by rfl))
theorem IdsFrom.sealCore {l cl k c} (h : IdsFrom lo s) : IdsFrom lo (s.sealCore l cl k c) := by
  unfold State.sealCore
  extract_lets ws mine own co now windows z waits t u
  have ht : IdsFrom s.nextId t := h.self.updCore
  have hu : IdsFrom s.nextId u := ht.filterOps
  exact (hu.updCluster fun _ x hx => (List.mem_append.1 hx).imp id fun hw =>
    Nat.lt_of_lt_of_le (h.ops x (List.mem_filter.1 hw).1) hu.le).mono h.le
theorem IdsFrom.execCoreSeal (h : IdsFrom lo s) : KeepsIds lo (execCoreSeal s) := by
  unfold Machine.execCoreSeal
  refine .next ?_
  split
  · exact h
  · exact h.sealCore
theorem IdsFrom.notePreempted {p room} (h : IdsFrom lo s) : IdsFrom lo (s.notePreempted p room) := h.same (by rfl)
theorem IdsFrom.saveFrames {l} (h : IdsFrom lo s) : IdsFrom lo (s.saveFrames l) := by
  unfold State.saveFrames
  refine .ite h ?_
  dsimp only
  split
  · exact h.updRink
  next e => exact (h.updRink.reserveRoom _ e).updRoom.writeRoom
theorem IdsFrom.leaveCore {l cl mine c} (h : IdsFrom lo s) : IdsFrom lo (s.leaveCore l cl mine c) := by
  unfold State.leaveCore
  refine .releaseWindows (.updCore ?_)
  split
  · exact .ite h.freeSel h
  · exact h
theorem IdsFrom.saveCluster {l cl} (h : IdsFrom lo s) : IdsFrom lo (s.saveCluster l cl) := by
  unfold State.saveCluster
  refine .noteWaiting (.retryQueue ?_)
  refine .saveFrames ?_
  split
  · exact .updCluster (.foldl (h.same (by rfl)) fun _ ht _ => ht.leaveCore)
  · exact .notePreempted (.writeRoom (.updRoom (.updCluster (.foldl (h.same (by rfl)) fun _ ht _ => ht.leaveCore))))
theorem IdsFrom.execClusterSave (h : IdsFrom lo s) : KeepsIds lo (execClusterSave s) := by
  unfold Machine.execClusterSave
  refine .next ?_
  split
  · exact h
  · exact h.saveCluster
theorem IdsFrom.resumeRecord {p seq r rec' more} (h : IdsFrom lo s) (hm : ∀ m ∈ more, WaitsBelow s.nextId m) :
    IdsFrom lo (s.resumeRecord p seq r rec' more) := by
  have ha : IdsFrom lo { s.adoptRoom p r with launches := s.launches ++ more, nextId := s.nextId + more.length } :=
    (h.adoptRoom.addLaunches (Nat.le_add_right _ _) hm).mono (h.le.trans (Nat.le_add_right _ _))
  unfold State.resumeRecord
  dsimp only
  exact .noteWaiting (.updLaunch (.setSeqs ha.takeId.updRoom.ctxPut) fun _ hl => hl.addCluster fun _ hx => absurd hx List.not_mem_nil)
theorem IdsFrom.execPresume {p seq payload} (h : IdsFrom lo s) : KeepsIds lo (execPresume p seq payload s) := by
  unfold Machine.execPresume
  refine h.command fun _ ht => .ite ht.reportFail ?_
  dsimp only
  split
  · exact ht.ctxNote.reportFail
  · split
    next e => exact ht.ctxNote.resumeRecord fun m hm => (ht.readRecord e m hm).mono ht.self.ctxNote.le
    · exact ht.ctxNote.reportFail
theorem IdsFrom.rebaseTask {l new} (h : IdsFrom lo s) : IdsFrom lo (s.rebaseTask l new) := by
  unfold State.rebaseTask
  dsimp only
  split
  · exact h.updLaunch
  · split
    · exact (h.updRink.mapLaunches fun _ hl => by exact WaitsBelow.ite (m := _) hl hl).freeRoom
    · exact h.updRink.mapLaunches fun _ hl => by exact WaitsBelow.ite hl hl
/-- R398: a cluster is adopted, and replaced by what was read from its room, whose waits have the numbers that `adopt` takes. -/
theorem IdsFrom.readopt {p r l c new} {b : Bool} {c' : Cluster} (h : IdsFrom lo s) (hl : WaitsBelow lo l) (hc : ∀ x ∈ c.waits, x.id < lo)
    (hc' : ∀ x ∈ c'.waits, x.id < s.nextId + 2 ^ 12 * (c.cores.length + 2)) :
    IdsFrom lo ((if b then ((s.adoptRoom p r).adopt l c).rebaseTask l new else (s.adoptRoom p r).adopt l c).updCluster l.id c.no fun _ => c') := by
  have ha := h.adoptRoom (p := p) (r := r) |>.adopt (hl.mono h.le) fun x hx => Nat.lt_of_lt_of_le (hc x hx) h.le
  have hr := IdsFrom.ite (c := b) (ha.rebaseTask (l := l) (new := new)) ha
  exact (hr.updCluster fun _ x hx => .inr (Nat.lt_of_lt_of_le (hc' x hx) hr.le)).mono (h.le.trans (Nat.le_add_right _ _))
theorem IdsFrom.execCresume {p seq payload} (h : IdsFrom lo s) : KeepsIds lo (execCresume p seq payload s) := by
  unfold Machine.execCresume
  refine h.command fun _ ht => .ite ht.reportFail ?_
  split
  · exact ht.ctxNote.reportFail
  · dsimp only
    split
    · exact ht.ctxNote.reportFail
    next l c bs e =>
      refine .ite ht.ctxNote.reportFail (.ite ht.ctxNote.reportFail ?_)
      obtain ⟨hl, hc⟩ := ht.savedIn e
      refine .noteWaiting ((ht.self.ctxNote.readopt hl hc ?_).mono ht.le)
      exact readCluster_below fun x hx => Nat.lt_of_lt_of_le (hc x hx) ht.self.ctxNote.le

/-! ## Machine/Ring.lean -/

theorem IdsFrom.setRreg {p off v} (h : IdsFrom lo s) : IdsFrom lo (s.setRreg p off v) := .ite (h.same (by rfl)) h.updPdk
theorem IdsFrom.crstat {p bit on} (h : IdsFrom lo s) : IdsFrom lo (s.crstat p bit on) := h.setRreg
theorem IdsFrom.writeHeader {p} (h : IdsFrom lo s) : IdsFrom lo (s.writeHeader p) := .ite h.updRing h.updRing.devWrite
theorem IdsFrom.hostPage {via p k} (h : IdsFrom lo s) (hk : ∀ t, IdsFrom lo t → IdsFrom lo (k t)) :
    IdsFrom lo (s.hostPage via p k) := by
  unfold State.hostPage
  split
  · exact h.same (by rfl)
  · exact .ite (h.same (by rfl)) (.same (by rfl) (hk _ h))
theorem IdsFrom.ringFail {p cause} (h : IdsFrom lo s) : IdsFrom lo (s.ringFail p cause) := .ite h.crstat h.ifError
theorem IdsFrom.acceptEntry {p e x} (h : IdsFrom lo s) : IdsFrom lo (s.acceptEntry p e x) :=
  .ite_of (.ite_of h.setRreg.writeHeader.updRing (·.crstat) id) (·.reportFail) id
theorem IdsFrom.execRingEntryRead {p} (h : IdsFrom lo s) : KeepsIds lo (execRingEntryRead p s) := by
  unfold Machine.execRingEntryRead
  refine .next (.ite h ?_)
  dsimp only
  split
  · exact h.noteReads.ringFail
  · exact .ite h.noteReads.setRreg.updRing (.ite h.noteReads.ringFail (.ite h.noteReads.ringFail (.ite h.noteReads.ringFail h.noteReads.acceptEntry)))
theorem IdsFrom.reportAll {p} (h : IdsFrom lo s) : IdsFrom lo (s.reportAll p) := by
  unfold State.reportAll
  refine .foldl ?_ fun _ ht _ => .ite ht.report (.ite ht.reportDone ht)
  refine .foldl (.foldl h fun _ ht _ => ht.reportLanes) fun _ ht _ => ?_
  split
  · exact .ite ht.reportFail ht
  · exact ht
theorem IdsFrom.hostPut {a bs} (h : IdsFrom lo s) : IdsFrom lo (s.hostPut a bs) := h.same (by rfl)
theorem IdsFrom.putRecord {p c r} (h : IdsFrom lo s) : IdsFrom lo (s.putRecord p c r) :=
  .ite h.hostPut.raise.updRing.setRreg.setRreg.setRreg.crstat.crstat.updRing.writeHeader h.hostPut.raise.updRing.setRreg.crstat.writeHeader
theorem IdsFrom.execCompletionRecordWrite {p} (h : IdsFrom lo s) : KeepsIds lo (execCompletionRecordWrite p s) := by
  unfold Machine.execCompletionRecordWrite
  refine .next ?_
  split
  · exact h.reportAll
  · exact .ite h.reportAll.putRecord h.reportAll.crstat
theorem IdsFrom.failAll {p status reason} (h : IdsFrom lo s) : IdsFrom lo (s.failAll p status reason) := h.updRing
theorem IdsFrom.flushRecords {p n} (h : IdsFrom lo s) : IdsFrom lo (s.flushRecords p n) := by
  induction n generalizing s with
  | zero => exact h
  | succ n ih =>
    unfold State.flushRecords
    split
    · exact .ite (ih h.putRecord) h
    · exact h
theorem IdsFrom.restartRing {p v} (h : IdsFrom lo s) : IdsFrom lo (s.restartRing p v) :=
  h.setRreg.setRreg.updRing.writeHeader.flushRecords
theorem IdsFrom.abortSaved {p host size ack d n} (h : IdsFrom lo s) : IdsFrom lo (s.abortSaved p host size ack d n).2 := by
  induction n generalizing s d with
  | zero => exact h
  | succ n ih => exact .snd_ite h (.snd_ite h.crstat (ih h.hostPut.raise.setRreg.crstat))
theorem IdsFrom.execRingRestart {p} (h : IdsFrom lo s) : KeepsIds lo (execRingRestart p s) := by
  unfold Machine.execRingRestart
  refine .next ?_
  split
  · exact h
  · exact .ite h (h.setRreg.setRreg.abortSaved.writeHeader.same (by rfl))
theorem IdsFrom.putMgmt {off v} (h : IdsFrom lo s) : IdsFrom lo (s.putMgmt off v) :=
  .ite (h.same (by rfl)) (.ite h.updRink (.ite h.updRink (h.same (by rfl))))
theorem IdsFrom.putReg {page off val} (h : IdsFrom lo s) : IdsFrom lo (s.putReg page off val) :=
  .ite (.ite (.foldl h fun _ ht _ => ht.ifError) (.ite h h.putMgmt)) (.ite h (.ite h.ifError (.ite h h.updPdk)))
theorem IdsFrom.hold {i} (h : IdsFrom lo s) : IdsFrom lo (s.hold i) := .ite h (h.same (by rfl))
theorem IdsFrom.unhold {i} (h : IdsFrom lo s) : IdsFrom lo (s.unhold i) := h.same (by rfl)

/-! ## Machine/Commands.lean -/

theorem IdsFrom.execShgrant {p seq payload} (h : IdsFrom lo s) : KeepsIds lo (execShgrant p seq payload s) := by
  unfold Machine.execShgrant
  refine h.command fun _ ht => .ite ht.reportFail (.ite ht.reportFail ?_)
  dsimp only
  split
  · exact .ite ht.reportFail (.ite ht.updPdk.reportDone ht.updPdk.updCmd)
  · exact .reportDone (.ite ht ht.updPdk)
theorem IdsFrom.execTmplset {p seq payload} (h : IdsFrom lo s) : KeepsIds lo (execTmplset p seq payload s) := by
  unfold Machine.execTmplset
  refine h.command fun _ ht => .ite ht.reportFail ?_
  split
  · exact ht.reportFail
  · dsimp only
    split
    · exact ht.noteGets.reportFail
    · exact .ite ht.noteGets.reportFail ht.noteGets.updPdk.reportDone
theorem IdsFrom.execXmap {p seq payload} (h : IdsFrom lo s) : KeepsIds lo (execXmap p seq payload s) := by
  unfold Machine.execXmap
  refine h.command fun _ ht => .ite ht.reportFail (.ite ht.reportFail ?_)
  extract_lets at_ read t
  have ht : IdsFrom lo t := ht.noteGets
  -- the walk of the code range as a variable, so that checking the splits does not evaluate it
  obtain ⟨walk, e⟩ : ∃ walk, t.codeFrames p (fld payload.toNat 176 16) = walk := ⟨_, rfl⟩
  rw [e]
  split
  · exact ht.reportFail
  · split
    · exact ht.reportFail
    · exact ht.takeId.updPdk.addDrain
theorem IdsFrom.setEx {p asid va v} (h : IdsFrom lo s) : IdsFrom lo (s.setEx p asid va v) := by
  unfold State.setEx
  split
  · exact .ite h.devWrite h
  · exact h
theorem IdsFrom.finishXmap {p j} (h : IdsFrom lo s) : IdsFrom lo (s.finishXmap p j) := by
  unfold State.finishXmap
  split
  · exact h
  · dsimp only
    split
    · exact h.updPdk.noteGets.updPdk.reportFail
    · split
      · exact h.updPdk.noteGets.updPdk.report
      · exact .report (.updPdk (.foldl h.updPdk.noteGets fun _ ht _ => ht.setEx))
theorem IdsFrom.execXmapLeaseDrained (h : IdsFrom lo s) : KeepsIds lo (execXmapLeaseDrained s) := by
  unfold Machine.execXmapLeaseDrained
  refine .next ?_
  split
  · exact h
  · exact h.finishXmap
theorem IdsFrom.execXunmap {p seq payload} (h : IdsFrom lo s) : KeepsIds lo (execXunmap p seq payload s) := by
  unfold Machine.execXunmap
  refine h.command fun _ ht => .ite ht.reportFail ?_
  split
  · exact ht.reportFail
  · exact .updPdk (.addDrain (.takeId (.foldl ht fun _ ht1 _ => ht1.setEx.stalePage)))
theorem IdsFrom.setMeas {k v} (h : IdsFrom lo s) : IdsFrom lo (s.setMeas k v) := h.same (by rfl)
theorem IdsFrom.extend {k v} (h : IdsFrom lo s) : IdsFrom lo (s.extend k v) := h.setMeas
theorem IdsFrom.extendEntry {seq opc payload} (h : IdsFrom lo s) : IdsFrom lo (s.extendEntry seq opc payload) := h.extend
theorem IdsFrom.scramble {p} (h : IdsFrom lo s) : IdsFrom lo (s.scramble p) :=
  h.same (by rfl)
theorem IdsFrom.scrubWorld {p} (h : IdsFrom lo s) : IdsFrom lo (s.scrubWorld p) :=
  h.of_subset rfl List.filter_sublist.subset List.filter_sublist.subset
theorem IdsFrom.execBgzeroLine {p line} (h : IdsFrom lo s) : KeepsIds lo (execBgzeroLine p line s) := by
  unfold Machine.execBgzeroLine
  refine .next ?_
  split
  · exact .ite h h.updPdk
  · exact h
theorem IdsFrom.giveSlices {p mask add} (h : IdsFrom lo s) : IdsFrom lo (s.giveSlices p mask add) := .ite h h.updPdk
theorem IdsFrom.execPdcreate {p seq payload} (h : IdsFrom lo s) : KeepsIds lo (execPdcreate p seq payload s) :=
  h.command fun _ ht => .ite ht.reportFail (.ite ht.reportFail (ht.giveSlices.same (by rfl)).drawKeys.scramble.extendEntry.reportDone)
theorem IdsFrom.closePdk {no} (h : IdsFrom lo s) : IdsFrom lo (s.closePdk no) := (h.same (by rfl)).updPdk.failAll.flushRecords
theorem IdsFrom.destroyPdk {p c no} (h : IdsFrom lo s) : IdsFrom lo (s.destroyPdk p c no) :=
  (h.scrubWorld.giveSlices.same (by rfl)).extendEntry.reportDone
theorem IdsFrom.endDestroys (h : IdsFrom lo s) : IdsFrom lo s.endDestroys := .foldl h fun _ ht _ => ht.destroyPdk
theorem IdsFrom.execPddestroy {p seq payload} (h : IdsFrom lo s) : KeepsIds lo (execPddestroy p seq payload s) :=
  .ite (.next h) (h.command fun _ ht => .ite ht.reportFail (.ite ht.reportFail ht.closePdk.updCmd.endDestroys))
theorem IdsFrom.formRink {c} (h : IdsFrom lo s) : IdsFrom lo (s.formRink c) := h.same (by rfl)
theorem IdsFrom.formDone (h : IdsFrom lo s) : IdsFrom lo s.formDone := .foldl h fun _ ht _ => ht.extendEntry.reportDone
theorem IdsFrom.failForm {came} (h : IdsFrom lo s) : IdsFrom lo (s.failForm came) :=
  .foldl h.updRink.flood fun _ ht _ => ht.reportFail
theorem IdsFrom.execRkform {p seq payload} (h : IdsFrom lo s) : KeepsIds lo (execRkform p seq payload s) := by
  unfold Machine.execRkform
  refine h.command fun t ht => .ite ht.reportFail (.ite ht.reportFail ?_)
  have hops := IdsFrom.foldl_snd (l := t.rinkPorts) (p := (([] : List (Nat × BitVec 10)), t))
    (g := fun r k => (r.1 ++ [(k, r.2.freeVal.1.truncate 10)], r.2.freeVal.2)) ht fun _ _ hr => hr.freeVal
  exact .ite (.failForm (.same (by rfl) hops)) (.ite (.formDone (.formRink (.same (by rfl) hops))) (.updRink (.same (by rfl) hops)))
theorem IdsFrom.execRinkStart {port fails} (h : IdsFrom lo s) : KeepsIds lo (execRinkStart port fails s) :=
  .next (.ite h (.ite h.failForm h.formRink.flood.formDone))
theorem IdsFrom.retireShare {p} (h : IdsFrom lo s) : IdsFrom lo (s.retireShare p).2 :=
  .updPdk (.foldl h.updPdk fun _ ht _ => ht.moveFrame)
theorem IdsFrom.execHtestComplete {p report} (h : IdsFrom lo s) : KeepsIds lo (execHtestComplete p report s) := by
  unfold Machine.execHtestComplete
  refine .next ?_
  split
  · exact h
  · exact h.retireShare.scrubWorld.updPdk.extend.reportDone.same (by rfl)

/-! ## Machine/CrossLane.lean -/

theorem IdsFrom.crossOp {f k} (h : IdsFrom lo s) (hk : ∀ wid w t, IdsFrom lo t → IdsFrom lo (k wid w t)) :
    KeepsIds lo (crossOp f s k) := h.issue fun _ _ _ ht => hk _ _ _ ht
theorem IdsFrom.exchange {f index} (h : IdsFrom lo s) : KeepsIds lo (exchange f s index) := h.crossOp fun _ _ _ ht => ht.fixed
theorem IdsFrom.execBcast {f} (h : IdsFrom lo s) : KeepsIds lo (execBcast f s) := by
  unfold Machine.execBcast
  refine h.issue fun _ _ _ ht => .ite ?_ ht.fixed
  dsimp only
  split
  · exact .ite ht.fixed ht.trapAt
  · exact ht.fixed

/-! ## Machine/Root.lean -/

theorem IdsFrom.rootInstr {α : Type} [BEq α] {f} {v : Warp → Nat → α} {k} (h : IdsFrom lo s)
    (hk : ∀ wid w x t, IdsFrom lo t → IdsFrom lo (k wid w x t)) : KeepsIds lo (rootInstr f s v k) := by
  unfold Machine.rootInstr
  refine h.issue fun _ _ _ ht => .ite ht.trapAt (.ite ht.trapAt (.ite ht.simpleOp ?_))
  split
  · exact ht.trapAt
  · exact hk _ _ _ _ ht
theorem IdsFrom.status {wid w f v} (h : IdsFrom lo s) : IdsFrom lo (s.status wid w f v) := h.addOp
theorem IdsFrom.rootPages {w a perm walks l} (h : IdsFrom lo s) : IdsFrom lo (s.rootPages w a perm walks l).2 := by
  induction l generalizing s with
  | nil => exact h
  | cons r rest ih =>
    unfold State.rootPages
    split
    next e => exact h.findPages.of_eq e
    next e => exact h.findPages.of_eq e
    next e => exact ih (h.findPages.of_eq e)
theorem IdsFrom.rootLane {w x what a walks} (h : IdsFrom lo s) : IdsFrom lo (s.rootLane w x what a walks).2 := by
  unfold State.rootLane
  split
  · exact h
  · dsimp only
    split
    next e1 => exact h.rootPages.of_eq e1
    next e1 => exact h.rootPages.of_eq e1
    next e1 =>
      split
      all_goals next e2 => exact (h.rootPages.of_eq e1).rootPages.of_eq e2
theorem IdsFrom.rootOp {wid w f what v nregs} (h : IdsFrom lo s) : IdsFrom lo (s.rootOp wid w f what v nregs) :=
  .ite h.trapAt h.enterOp
theorem IdsFrom.rootWalk {o m what} (h : IdsFrom lo s) : IdsFrom lo (s.rootWalk o m what) := by
  unfold State.rootWalk
  split
  · exact h
  · exact .ite h (.ite (.foldl_snd h fun _ _ ht => ht.rootLane.updAcc) (.laneFaults (.foldl_snd h fun _ _ ht => ht.rootLane.updAcc)))
theorem IdsFrom.rootRead {x a l} (h : IdsFrom lo s) : IdsFrom lo (s.rootRead x a l).2 := by
  induction l generalizing s with
  | nil => exact h
  | cons p r ih =>
    unfold State.rootRead
    refine .snd_ite h.ecc ?_
    dsimp only
    split
    next e => exact (ih (.snd_ite h.ecc.loadBytes h.ecc)).of_eq e
    · exact ih (.snd_ite h.ecc.loadBytes h.ecc)
theorem IdsFrom.rootWrite {x a stamp l bs} (h : IdsFrom lo s) : IdsFrom lo (s.rootWrite x a stamp l bs).2 := by
  induction l generalizing s bs with
  | nil => exact h
  | cons p r ih => exact .snd_ite h (.snd_ite h.eccWrite (ih (.ite h.eccWrite.applyWrite h.eccWrite)))
theorem IdsFrom.rootInputs {x a l} (h : IdsFrom lo s) : IdsFrom lo (s.rootInputs x a l).2 := by
  induction l generalizing s with
  | nil => exact h
  | cons r rest ih =>
    unfold State.rootInputs
    refine .snd_ite (ih h) ?_
    split
    next e => exact h.rootRead.of_eq e
    next e =>
      have ht := ih (h.rootRead.of_eq e)
      split
      next e => exact ht.of_eq e
      · exact ht
theorem IdsFrom.rootAct {x what a} (h : IdsFrom lo s) : IdsFrom lo (s.rootAct x what a) := by
  unfold State.rootAct
  dsimp only
  split
  next e => exact (h.rootInputs.of_eq e).laneFaults
  next ins t e =>
    have ht := h.rootInputs.of_eq e
    split
    · refine IdsFrom.laneFaults ?_
      split
      · exact ht.stampAt.rootWrite
      · exact ht
    · refine (IdsFrom.updOp ?_).settle
      split
      · refine IdsFrom.setMeas ?_
        split
        · exact ht.stampAt.rootWrite
        · exact ht
      · split
        · exact ht.stampAt.rootWrite
        · exact ht
theorem IdsFrom.rootApply {x what} (h : IdsFrom lo s) : IdsFrom lo (s.rootApply x what) := by
  unfold State.rootApply
  refine .ite h ?_
  split
  · exact h.warpTrap
  next e =>
    split
    · exact (YieldsIds.ite h.detCheck (.some h) _ e).updOp.rootAct
    · exact YieldsIds.ite h.detCheck (.some h) _ e
theorem IdsFrom.execPageWalkComplete {op lanes} (h : IdsFrom lo s) : KeepsIds lo (execPageWalkComplete op lanes s) := by
  unfold Machine.execPageWalkComplete
  refine .next ?_
  split
  · exact h
  · split
    · exact h.copyWalk
    · exact h.pageInstrWalk
    · exact h.selWalk
    · exact h.rootWalk
    · exact h.updOp
    · exact h.pageWalk
theorem IdsFrom.execHomeApply {op lane} (h : IdsFrom lo s) : KeepsIds lo (execHomeApply op lane s) := by
  unfold Machine.execHomeApply
  refine .next ?_
  split
  · exact h
  · split
    · exact h.detGate fun _ ht => ht.bitsetWord
    · exact h.rootApply
    · exact h.homeApply
theorem IdsFrom.startScrub {p o stop} (h : IdsFrom lo s) : IdsFrom lo (s.startScrub p o stop) :=
  .ite h.updPdk.scrubWorld.updRing h.updPdk.scrubWorld
theorem IdsFrom.setIf {p v} (h : IdsFrom lo s) : IdsFrom lo (s.setIf p v) := h.updPdk
theorem IdsFrom.lockIf {p} (h : IdsFrom lo s) : IdsFrom lo (s.lockIf p) := h.updPdk
theorem IdsFrom.errIf {p} (h : IdsFrom lo s) : IdsFrom lo (s.errIf p) := .ite h.setIf h.ifError
theorem IdsFrom.scrubClosed {p o} (h : IdsFrom lo s) : IdsFrom lo (s.scrubClosed p o) := .ite h.startScrub h.updPdk
theorem IdsFrom.stopIf {p o} (h : IdsFrom lo s) : IdsFrom lo (s.stopIf p o) := h.closePdk.scrubClosed
theorem IdsFrom.execLockif {f} (h : IdsFrom lo s) : KeepsIds lo (execLockif f s) := by
  unfold Machine.execLockif
  refine h.rootInstr fun _ _ _ _ ht => .ite ht.status (.ite ht.status ?_)
  split
  · exact ht.lockIf.status
  · exact ht.setIf.status
  · exact ht.addOp.stopIf
  · exact ht.errIf.status
theorem IdsFrom.answerStop {p} (h : IdsFrom lo s) : IdsFrom lo (s.answerStop p) := .ite (h.same (by rfl)) h
theorem IdsFrom.endScrub {q} (h : IdsFrom lo s) : IdsFrom lo (s.endScrub q) :=
  .answerStop (.foldl (.ite h.updPdk.setIf h.updPdk) fun _ ht _ => ht.landRegs.endOp)

/-! ## Machine/Spdm.lean -/

theorem IdsFrom.updSpdm {f} (h : IdsFrom lo s) : IdsFrom lo (s.updSpdm f) := h.same (by rfl)
theorem IdsFrom.spdmReply {r} (h : IdsFrom lo s) : IdsFrom lo (s.spdmReply r) := h.updSpdm
theorem IdsFrom.spdmFree {k} (h : IdsFrom lo s) (hk : ∀ t, IdsFrom lo t → IdsFrom lo (k t)) : KeepsIds lo (s.spdmFree k) :=
  .next (.ite h.spdmReply (hk _ h))
theorem IdsFrom.spdmRequest {inOrder ver ok k} (h : IdsFrom lo s) (hk : ∀ t, IdsFrom lo t → IdsFrom lo (k t).2) :
    KeepsIds lo (s.spdmRequest inOrder ver ok k) :=
  h.spdmFree fun _ ht => .ite ht.spdmReply (.ite ht.spdmReply (.ite ht.spdmReply (hk _ ht).spdmReply))
theorem IdsFrom.signed {content} (h : IdsFrom lo s) : IdsFrom lo (s.signed content).2 := h.same (by rfl)
theorem IdsFrom.spdmMeasurements {block} (h : IdsFrom lo s) : IdsFrom lo (s.spdmMeasurements block).2 :=
  h.signed (content := (s.spdmBlocks block).flatMap fun b => digestBytes b.2)
theorem IdsFrom.endSession {id} (h : IdsFrom lo s) : IdsFrom lo (s.endSession id) := by
  unfold State.endSession
  split
  · exact h
  · exact .ite_of (.ite_of h.updSpdm (·.updRing) fun ht => ht) (·.ifError) fun ht => ht
theorem IdsFrom.execChallenge {ver slot} (h : IdsFrom lo s) : KeepsIds lo (execChallenge ver slot s) :=
  h.spdmRequest fun _ ht => ht.signed (content := [])
theorem IdsFrom.execKeyExchange {ver iface} (h : IdsFrom lo s) : KeepsIds lo (execKeyExchange ver iface s) :=
  h.spdmRequest fun _ ht => .same (by rfl) (ht.signed (content := []))
theorem IdsFrom.execFinish {ver session} (h : IdsFrom lo s) : KeepsIds lo (execFinish ver session s) := by
  unfold Machine.execFinish
  refine h.spdmRequest fun _ ht => ?_
  dsimp only
  split
  · exact ht
  · exact ht.updSpdm.updRing.crstat
theorem IdsFrom.tdisp {session v k} (h : IdsFrom lo s) (hk : ∀ q t, IdsFrom lo t → IdsFrom lo (k q t)) :
    KeepsIds lo (s.tdisp session v k) := by
  unfold State.tdisp
  refine h.spdmFree fun _ ht => ?_
  split
  · exact ht.spdmReply
  · exact .ite ht.spdmReply (.spdmReply (hk _ _ ht))
theorem IdsFrom.beginStop {p} (h : IdsFrom lo s) : IdsFrom lo (s.beginStop p) := h.stopIf.updSpdm

/-! ## Machine/Pcie.lean -/

theorem IdsFrom.hostPoke {pa p bs} (h : IdsFrom lo s) : IdsFrom lo (s.hostPoke pa p bs) :=
  .ite h.eccWrite.devStore (h.eccWrite.same (by rfl))
theorem IdsFrom.execHostMemoryWrite {via addr bytes} (h : IdsFrom lo s) : KeepsIds lo (execHostMemoryWrite via addr bytes s) := by
  unfold Machine.execHostMemoryWrite
  refine .next ?_
  split
  · exact h.hold
  · exact h.same (by rfl)
  · exact .ite h.hold (.foldl_snd (h.same (by rfl)) fun _ _ ht => ht.hostPoke)
theorem IdsFrom.execHostMemoryRead {via addr len} (h : IdsFrom lo s) : KeepsIds lo (execHostMemoryRead via addr len s) := by
  unfold Machine.execHostMemoryRead
  refine .next (.ite (h.same (by rfl)) ?_)
  dsimp only
  split
  · exact h.hold
  · exact h.same (by rfl)
  · exact .same (by rfl) (.foldl_snd_snd h.unhold fun _ _ hr => hr.ecc)
theorem IdsFrom.resetPdk {p v} (h : IdsFrom lo s) : IdsFrom lo (s.resetPdk p v) := (h.same (by rfl)).restartRing.scrubClosed
theorem IdsFrom.coldBoot {flash powered} (h : IdsFrom lo s) : IdsFrom lo (s.coldBoot flash powered) := 
  ⟨h.le, fun _ hx => absurd hx List.not_mem_nil, fun _ hl => absurd hl List.not_mem_nil⟩
theorem IdsFrom.execPowerLoss (h : IdsFrom lo s) : KeepsIds lo (execPowerLoss s) :=
  .next (.same (by rfl) (h.coldBoot (flash := []) (powered := false)))
theorem IdsFrom.deriveAlias (h : IdsFrom lo s) : IdsFrom lo s.deriveAlias :=
  have hseed (v : BitVec 256) : IdsFrom lo { s with aliasSeed := v } := h.same (by rfl)
  hseed _
theorem IdsFrom.setStage {stage fail} (h : IdsFrom lo s) : IdsFrom lo (s.setStage stage fail) := h.same (by rfl)
theorem IdsFrom.execPowerGood {rootImage others fail} (h : IdsFrom lo s) : KeepsIds lo (execPowerGood rootImage others fail s) :=
  have hpowered : IdsFrom lo { s with powered := true } := h.same (by rfl)
  .next (.ite h (.ite hpowered.setStage
    (.ite_of (.foldl hpowered.extend.deriveAlias fun _ ht _ => ht.extend) (·.setStage) (·.setStage))))

/-! ## Machine/Ethernet.lean -/

theorem IdsFrom.updPort {n f} (h : IdsFrom lo s) : IdsFrom lo (s.updPort n f) := h.same (by rfl)
theorem IdsFrom.nqError {p k cause} (h : IdsFrom lo s) : IdsFrom lo (s.nqError p k cause) := h.updPdk
theorem IdsFrom.putNqctl {p q val} (h : IdsFrom lo s) : IdsFrom lo (s.putNqctl p q val) :=
  .ite h (.ite h.ifError (.ite h.nqError h.updPdk))
theorem IdsFrom.nqNote {p asid base size} (h : IdsFrom lo s) : IdsFrom lo (s.nqNote p asid base size) := h.noteGets
theorem IdsFrom.nqStore {p asid va bs} (h : IdsFrom lo s) : IdsFrom lo (s.nqStore p asid va bs) := by
  unfold State.nqStore
  refine .foldl_snd h fun _ _ ht => ?_
  split
  · exact ht.devStore
  · exact ht
theorem IdsFrom.nqDone {p asid base at_ cons status} (h : IdsFrom lo s) : IdsFrom lo (s.nqDone p asid base at_ cons status) :=
  h.nqStore.nqStore
theorem IdsFrom.notePause {port prio} (h : IdsFrom lo s) : IdsFrom lo (s.notePause port prio) := .ite h (h.same (by rfl))
theorem IdsFrom.netTake {p len} (h : IdsFrom lo s) : IdsFrom lo (s.netTake p len) := h.updPdk
theorem IdsFrom.execEthSendDescriptor {p q} (h : IdsFrom lo s) : KeepsIds lo (execEthSendDescriptor p q s) := by
  unfold Machine.execEthSendDescriptor
  refine .next (.ite h.notePause ?_)
  dsimp only
  split
  · exact h.notePause.nqNote.nqError
  · refine .ite h.notePause.nqNote.updPdk.nqDone ?_
    split
    · exact h.notePause.nqNote.updPdk.noteGets.nqDone
    · exact (h.notePause.nqNote.updPdk.noteGets.same (by rfl)).netTake.nqDone
theorem IdsFrom.nqReceive {p asid base at_ cons d bs} (h : IdsFrom lo s) : IdsFrom lo (s.nqReceive p asid base at_ cons d bs) :=
  .nqDone (.nqStore (.ite h.nqStore h))
theorem IdsFrom.nqDrop {p k} (h : IdsFrom lo s) : IdsFrom lo (s.nqDrop p k) := h.updPdk
theorem IdsFrom.nqDeliver {p k c bytes} (h : IdsFrom lo s) : IdsFrom lo (s.nqDeliver p k c bytes) := by
  unfold State.nqDeliver
  refine .notePause ?_
  split
  · exact h.nqNote.nqError
  · exact .ite h.nqNote.nqReceive h.nqNote.nqDrop
theorem IdsFrom.execEthFrameReceive {port fcsOk vlan bytes} (h : IdsFrom lo s) :
    KeepsIds lo (execEthFrameReceive port fcsOk vlan bytes s) := by
  unfold Machine.execEthFrameReceive
  refine .next (.ite h.unhold ?_)
  split
  · exact h.unhold.mgmtCount
  · exact .ite h.unhold.nqDeliver h.hold

/-! ## Machine/FloatOps.lean -/

theorem IdsFrom.f64Block {w f} (h : IdsFrom lo s) : IdsFrom lo (s.f64Block w f) := .ite h.updCore h
theorem IdsFrom.floatIssue {f k} (h : IdsFrom lo s) (hk : ∀ wid w t, IdsFrom lo t → IdsFrom lo (k wid w t)) :
    KeepsIds lo (floatIssue f s k) := h.issue fun _ _ _ ht => .ite ht.trapAt (hk _ _ _ ht)
theorem IdsFrom.floatOp {f block g} (h : IdsFrom lo s) : KeepsIds lo (floatOp f s block g) :=
  h.floatIssue fun _ _ _ ht => .ite (.fixed (.ite ht.f64Block ht)) (.fixed (.ite ht.f64Block ht))
theorem IdsFrom.divAccept {x} (h : IdsFrom lo s) : IdsFrom lo (s.divAccept x) := h.updCore.updOp
theorem IdsFrom.divideOp {f root g} (h : IdsFrom lo s) : KeepsIds lo (divideOp f s root g) := by
  unfold Machine.divideOp
  refine h.issue fun _ _ _ ht => .ite ht.trapAt (.ite ?_ (.addOp (.ite ht.simpleOp ht)))
  split
  · exact .divAccept (.addOp (.ite ht.simpleOp ht))
  · exact .addOp (.ite ht.simpleOp ht)
theorem IdsFrom.execDivideUnitAccept (h : IdsFrom lo s) : KeepsIds lo (execDivideUnitAccept s) := by
  unfold Machine.execDivideUnitAccept
  refine .next ?_
  split
  · exact h.divAccept
  · exact h
theorem IdsFrom.execDivideComplete (h : IdsFrom lo s) : KeepsIds lo (execDivideComplete s) := by
  unfold Machine.execDivideComplete
  refine .next ?_
  split
  · exact h
  · exact h.landRegs.endOp
theorem IdsFrom.dotInt {f} (h : IdsFrom lo s) : KeepsIds lo (dotInt f s) := h.issue fun _ _ _ ht => ht.fixed
theorem IdsFrom.dotScaledOp {f} (h : IdsFrom lo s) : KeepsIds lo (dotScaledOp f s) := h.issue fun _ _ _ ht => ht.fixed

/-! ## Machine/Fetch.lean -/

theorem IdsFrom.fetchFault {wid} (h : IdsFrom lo s) : IdsFrom lo (s.fetchFault wid) :=
  .laneFaults (.ite h.noteIssue (h.same (by rfl)))

/-! ## Machine/Issue.lean -/

theorem IdsFrom.execSlotIssue {core slot} (h : IdsFrom lo s) : KeepsIds lo (execSlotIssue core slot s) := by
  unfold Machine.execSlotIssue
  refine .next ?_
  split
  · exact h.same (by rfl)
  · exact h.trapAt
  · exact h
theorem IdsFrom.beginLaunch {l} (h : IdsFrom lo s) : IdsFrom lo (s.beginLaunch l) := .ite h.startLaunch.trapTask h.startLaunch
theorem IdsFrom.pageWrite {own at_ k} (h : IdsFrom lo s) (hk : ∀ t, IdsFrom lo t → IdsFrom lo (k t)) :
    IdsFrom lo (s.pageWrite own at_ k) := .ite h.hold (h.unhold.hostPage fun _ ht => hk _ ht)

/-! ## Machine/Sfu.lean -/

theorem IdsFrom.sfuOp {f g} (h : IdsFrom lo s) : KeepsIds lo (sfuOp f s g) := h.laneOp

/-! ## Machine/Schedule.lean -/

theorem IdsFrom.countFrozen (h : IdsFrom lo s) : IdsFrom lo s.countFrozen := .foldl h fun _ ht _ => ht.updCore
theorem IdsFrom.rinkRegs (h : IdsFrom lo s) : IdsFrom lo s.rinkRegs := .ite (h.same (by rfl)) h
theorem IdsFrom.tick (h : IdsFrom lo s) : IdsFrom lo s.tick :=
  have ht : IdsFrom lo (State.countFrozen { s with warps := s.warps.map fun w => w.countWait.endCycle }) := .countFrozen (h.same (by rfl))
  (ht.same (by rfl)).rinkRegs
/-! ## The dispatch and the step -/

/-- Every instruction and every event. An arm with a rule of its own cites it; the others follow their short definitions here. -/
theorem IdsFrom.exec (h : IdsFrom lo s) (i : Instr) : KeepsIds lo (exec i s) := by
  cases i
  all_goals dsimp only [Machine.exec]
  case nop => exact h.issue fun _ _ _ ht => ht
  case prep => exact h.issue fun _ _ _ ht => ht.prepare
  case prepv => exact h.execPrepv
  case xfer => exact h.issue fun _ _ _ ht => .ite (ht.through fun _ ht1 => ht1) (.ite ht.trapAt ht)
  case call => exact h.issue fun _ _ _ ht => ht.through fun _ ht1 => ht1.prepare
  case ret => exact h.issue fun _ _ _ ht => ht.through fun _ ht1 => ht1
  case loop => exact h.issue fun _ _ _ ht => .ite ht.updWarp (ht.through fun _ ht1 => ht1.updWarp)
  case xfers => exact h.execXfers
  case join => exact h.execJoin
  case hold | sleep | exit => exact h.issue fun _ _ _ ht => ht.updWarp
  case icinv => exact h.issue fun _ _ _ ht => ht.staleWarp
  case trap => exact h.execTrap
  case targetFetchReady => exact .next h
  case holdDeferredTrap => exact h.execHoldDeferredTrap
  case holdOverrun => exact h.execHoldOverrun
  case iadd | isub | imul | imulh | imad | ineg | iabs | imin | imax | iclamp | iset | sel | shl | shr | sar | rotl | rotr | andOp | orOp | xorOp |
    andn | brev | bfx | bfi | bperm | mov | movi | keyf | keyr => exact h.laneOp
  case iaddc | isubb | imadw | icmp | logt | popc | clz | fnsb | trnode | rng | dot2h | cvt | pack | unpk => exact h.issue fun _ _ _ ht => ht.fixed
  case movx | movxw => exact h.moveIndexed
  case movs => exact h.execMovs
  case movsw => exact h.issue fun _ _ _ ht => .ite ht.trapAt ht.fixed
  case ld | st | ldro => exact h.memOp
  case pref => exact h.execPref
  case tlock => exact h.issue fun _ _ _ ht => ht.updWarp.enterOp.tryLock
  case tfree => exact h.issue fun _ _ _ ht => ht.freeLocks.simpleOp
  case portStamp => exact .next h.portStamp
  case frontierBroadcast => exact .next (.ite (h.same (by rfl)).noteSince h)
  case loadComplete => exact .next h.loadComplete
  case tlbLeaseExpire => exact .next h.dropExpired
  case fixedResultLand => exact .next h.landResults.landResults
  case waitFlagCountDown => exact .next (.foldl h fun _ ht _ => ht.landRegs.endOp)
  case lds | sts => exact h.padOp
  case sptag => exact h.issue fun _ _ _ ht => ht.detTags fun _ ht1 => ht1.fixed
  case spset => exact h.issue fun _ _ _ ht => ht.tagLanes
  case spclr => exact h.issue fun _ _ _ ht => .ite ht.tagLanes (ht.detTags fun _ ht1 => ht1.updCore.landIn)
  case coreFreezeEnd | rinkFrameExpire | pcieConfigRequest => exact .next (h.same (by rfl))
  case timedStop | privateSlotRetry => exact .next (h.mapWarpsLaunches fun _ hl => hl.mapSame fun _ => Cluster.waits_ite rfl)
  case atom | red | cas => exact h.atomGlobal
  case atoms | cass => exact h.atomPad
  case fence => exact h.issue fun _ _ _ ht => .ite ht.simpleOp ht.addOp
  case cwt => exact h.issue fun _ _ _ ht => ht.memIssue
  case cwtPeriodicEval => exact .next (.foldl h fun _ ht _ => ht.lookAt)
  case cpy | cpym | cpyg | cscat => exact h.copyOp
  case copySourceReadDone => exact h.execCopySourceReadDone
  case copyDestWrite => exact h.execCopyDestWrite
  case cseal => exact h.issue fun _ _ _ ht => ht.updWarp.fixed
  case cwait => exact h.issue fun _ _ _ ht => ht.enterOp
  case batchComplete => exact .next (.foldl h fun _ ht _ => ht.endOp)
  case bar | bara => exact h.arriveOp
  case barw => exact h.execBarw
  case nbar => exact h.execNbar
  case gjoin => exact h.issue fun _ _ _ ht => .ite ht.simpleOp (.ite ht.trapAt ht.updWarp.groupOp)
  case gleave => exact h.issue fun _ _ _ ht => .ite ht.simpleOp (.ite ht.trapAt ht.groupOp)
  case barrierArrivalApply => exact h.execBarrierArrivalApply
  case barrierNotify => exact h.execBarrierNotify
  case bitset | bitwait => exact h.bitOp
  case parkedRecordWrite => exact h.execParkedRecordWrite
  case selectCommandStart => exact .next (.foldl (.foldl h fun _ ht _ => ht.selReturn) fun _ ht _ => ht.selStart)
  case selectCommandComplete => exact .next (.foldl (.foldl h fun _ ht _ => ht.selRead) fun _ ht _ => ht.selFinish)
  case qsbind => exact h.execQsbind
  case qsmask | qsrank | qsstep | qsrun | qsres => exact h.selCommand
  case pgspec | pgcmt | pgdrop => exact h.pageInstr
  case pageOpApply => exact h.execPageOpApply
  case sequenceFork => exact h.execSequenceFork
  case matrixCommandStart => exact h.execMatrixCommandStart
  case scratchAccessCycle => exact .next (.foldl h fun _ ht _ => ht.bankCycle)
  case matrixCommandComplete => exact h.execMatrixCommandComplete
  case matrixStatusUpdate => exact h.execMatrixStatusUpdate
  case mres => exact h.execMres
  case mrel | mldb | mlda | mma | mspr | mzero | mmov | mput | mstat => exact h.matInstr
  case handlerStart => exact h.execHandlerStart
  case handlerFail => exact h.execHandlerFail
  case faultReplay => exact .next (.foldl h fun _ ht _ => ht.updOp.settle)
  case tret => exact h.execTret
  case eject => exact h.handlerOp fun _ _ _ ht => ht.ejectLanes
  case pgmap => exact h.execPgmap
  case pgunmap => exact h.execPgunmap
  case unmapComplete => exact h.execUnmapComplete
  case tsnd => exact h.issue fun _ _ _ ht => ht.rinkIssue fun _ ht1 => .ite ht1.trapAt ht1.updRink.sendFrame.simpleOp
  case trcv => exact h.execTrcv
  case atc => exact h.issue fun _ _ _ ht => .ite ht (.ite ht.trapAt ht.updWarp)
  case drft => exact h.execDrft
  case drftPhaseStep | driftobsRefresh => exact .next (.ite h.updRink h)
  case timingFault => exact .next h.findFault
  case timingAbortReceive => exact .next (.ite h (.abortTask (.ite h.noteFault h.noteFault.flood)))
  case rinkLinkLost => exact .next (.ite h.memberFault h)
  case timingFlitReceive => exact .next (.ite h (.ite h.updRink h.updRink.memberFault))
  case rinkFrameArrive => exact .next (.ite h (.ite h.frameFault h.updRink))
  case rinkFrameRelay => exact h.execRinkFrameRelay
  case unplannedSkid => exact .next (.ite h.freeze h)
  case skidAnnounceReceive => exact .next (.ite h (.ite h.flood.updRink.memberFault h.flood.updRink))
  case skidTake => exact h.execSkidTake
  case skidEnd => exact .next (.ite (.foldl h.updRink fun _ ht _ => ht.trapTask) h)
  case plannedSkidAnnounce => exact .next h.planSkid
  case rinkPreemptAnnounce => exact h.execRinkPreemptAnnounce
  case preemptionAnnouncementReceive => exact .next (.ite h.learnStop h)
  case clusterPlace => exact h.execClusterPlace
  case clusterRestore => exact h.execClusterRestore
  case launch => exact h.execLaunch
  case yardFormTimeout => exact .next (.foldl h fun _ ht _ => ht.formYards)
  case yardpost => exact h.execYardpost
  case yardcreate => exact h.execYardcreate
  case yarddestroy => exact h.execYarddestroy
  case warpRetire => exact h.execWarpRetire
  case shareRecompute => exact .next (.ite h h.updWarp.updRing)
  case preemptRequest => exact h.execPreemptRequest
  case quantumExpire => exact .next (.foldl h fun _ ht _ => ht.requestCluster)
  case preempt => exact h.execPreempt
  case coreSeal => exact h.execCoreSeal
  case clusterSave => exact h.execClusterSave
  case presume => exact h.execPresume
  case cresume => exact h.execCresume
  case doorbellWrite => exact .next (h.hostPage fun _ ht => ht.setRreg.updRing)
  case crheadWrite => exact .next (h.hostPage fun _ ht => ht.setRreg)
  case ringEntryRead => exact h.execRingEntryRead
  case rekey => exact .ite (.next h) (h.command fun _ ht => .ite ht.reportFail ht.reportDone)
  case completionRecordWrite => exact h.execCompletionRecordWrite
  case ringRestart => exact h.execRingRestart
  case shgrant => exact h.execShgrant
  case tmplset => exact h.execTmplset
  case xmap => exact h.execXmap
  case xmapLeaseDrained => exact h.execXmapLeaseDrained
  case xunmap => exact h.execXunmap
  case bgzeroLine => exact h.execBgzeroLine
  case bgzeroPassEnd => exact .next (.foldl h fun _ ht _ => ht.updPdk)
  case pdcreate => exact h.execPdcreate
  case pddestroy => exact h.execPddestroy
  case pdbudget => exact h.command fun _ ht => .ite ht.reportFail (.ite ht.reportFail ht.updPdk.extendEntry.reportDone)
  case rkform => exact h.execRkform
  case rinkStartFlit => exact h.execRinkStart
  case htest => exact .ite (.next h) (h.command fun _ ht => .ite ht.reportFail (.ite ht.reportFail ht.closePdk.updCmd))
  case htestComplete => exact h.execHtestComplete
  case shfl | shflx | shflu | shfld => exact h.exchange
  case bcast => exact h.execBcast
  case vote | ballot | matchOp | redi | redf | scan | compact => exact h.crossOp fun _ _ _ ht => ht.fixed
  case redm => exact h.crossOp fun _ _ _ ht => .ite ht.fixed ht.fixed
  case mext | shab | edsign => exact h.rootInstr fun _ _ _ _ ht => ht.rootOp
  case pageWalkComplete => exact h.execPageWalkComplete
  case homeApply => exact h.execHomeApply
  case scrub => exact h.rootInstr fun _ _ _ _ ht => .ite ht.status (.ite ht.status ht.addOp.startScrub)
  case lockif => exact h.execLockif
  case scrubComplete => exact .next (.foldl (.endDestroys (.foldl h fun _ ht _ => ht.startScrub)) fun _ ht _ => ht.endScrub)
  case getVersion => exact h.spdmFree fun _ ht => .updSpdm (.foldl ht fun _ ht1 _ => ht1.endSession)
  case getCapabilities | negotiateAlgorithms | keyUpdate => exact h.spdmRequest fun _ ht => .snd_mk ht.updSpdm
  case getCertificate => exact h.spdmRequest fun _ ht => ht
  case challenge => exact h.execChallenge
  case getMeasurements => exact h.spdmRequest fun _ ht => ht.spdmMeasurements
  case keyExchange => exact h.execKeyExchange
  case finish => exact h.execFinish
  case spdmDecryptFail => exact .next h.endSession.spdmReply
  case spdmUnsupportedRequest => exact h.spdmFree fun _ ht => ht.spdmReply
  case lockInterfaceRequest => exact h.tdisp fun _ _ ht => ht.lockIf
  case startInterfaceRequest => exact h.tdisp fun _ _ ht => ht.setIf
  case stopInterfaceRequest => exact h.tdisp fun _ _ ht => ht.beginStop
  case hostMemoryWrite => exact h.execHostMemoryWrite
  case hostMemoryRead => exact h.execHostMemoryRead
  case flrVf => exact .next (.ite h.unhold (.ite h.hold h.unhold.resetPdk))
  case dieReset => exact .next (.ite h.hold (.foldl h.unhold fun _ ht _ => ht.resetPdk))
  case deviceReset => exact .next (.ite h.coldBoot (h.same (by rfl)))
  case thermalTrip => exact .next (.ite h h.coldBoot)
  case powerLoss => exact h.execPowerLoss
  case powerGood => exact h.execPowerGood
  case bootReady => exact .next (.ite h.setStage h)
  case throttleStart => exact .next (.ite h (h.updCore.same (by rfl)))
  case throttleEnd => exact .next h.updCore
  case portLinkDown => exact .next (.ite h (.updPort (.ite h.memberFault h)))
  case portLinkUp | flowControlFrameReceive => exact .next (.ite h h.updPort)
  case ethSendDescriptor => exact h.execEthSendDescriptor
  case ethFrameReceive => exact h.execEthFrameReceive
  case fadd | fsub | fmul | ffma | fmin | fmax | fminp | fmaxp | frnd => exact h.floatOp
  case fcmp | fclass | fscale => exact h.floatIssue fun _ _ _ ht => ht.fixed
  case fexp => exact h.floatIssue fun _ _ _ ht => .ite (.ite ht.fixed ht.fixed) ht.fixed
  case fdiv | fsqrt => exact h.divideOp
  case divideUnitAccept => exact h.execDivideUnitAccept
  case divideComplete => exact h.execDivideComplete
  case dot4 | dot8 => exact h.dotInt
  case dotf8 | dotf4 => exact h.dotScaledOp
  case slotIssue => exact h.execSlotIssue
  case timedLaunchStart => exact .next (.foldl h fun _ ht _ => .ite ht.beginLaunch ht.missStart.sweep)
  case registerWrite => exact .next (h.pageWrite fun _ ht => ht.putReg)
  case nqctlWrite => exact .next (.ite h (h.pageWrite fun _ ht => ht.putNqctl))
  case rcp | rsq | ex2 | lg2 | fsin | fcos | tanh | sigm => exact h.sfuOp

theorem IdsFrom.step (h : IdsFrom lo s) : KeepsIds lo (step s) := by
  unfold Machine.step
  split
  · exact (h.same (by rfl)).exec _
  · split
    · split
      · exact .next h.fetchFault
      · split
        · exact h.exec _
        · exact .fault
    · split
      · exact h.exec _
      · exact .next h.tick

/-- Settles O60: the head of the agenda, the word that issues, the event that is due and the passing of a cycle each keep the identifiers below the next
one. -/
theorem stepKeepsIds : Obligations.StepKeepsIds := fun _ t h e =>
  have ht := (idsBelow_iff.1 h).step t e
  ⟨ht.ops, ht.waits⟩

end
end Sys2Proof.Safety

/-! O59. Every step keeps the register maps canonical (R76, R402, R461).

A map only ever changes by `mset`, `msetAll` and `mdrop`, and each keeps the form (Laws/Memory). What takes the work is that a warp is carried about:
an operation, a scratchpad access, a deferred fault and a parked record each hold the warp as it stood before a word (R16), and a saved cluster its
warps and waits (R391). So the invariant speaks of every place that holds a warp, each kind of place by a predicate of its own, and a rule about a
function that is handed a warp or an operation asks for its soundness. The rules stand in the order of the model's files; the proof of each follows
the branches of its definition and cites the rules of what it calls. `exec` and `step` are the last two. -/
namespace Sys2Proof.Machine
open Sys2Proof

/-! ## Sound warps, and what holds them -/

/-- The registers are in the canonical form. -/
def Warp.Sound (w : Warp) : Prop := rising 0 w.regs = true
/-- The warps that the core's pipeline of scratchpad accesses holds are sound. -/
def Core.Sound (k : Core) : Prop := ∀ a ∈ k.padq, a.before.Sound
/-- The saved warps, and those that the saved waits hold, are sound. -/
def Cluster.Sound (c : Cluster) : Prop := (∀ w ∈ c.warps, w.Sound) ∧ ∀ x ∈ c.waits, x.before.Sound
def Launch.Sound (l : Launch) : Prop := ∀ c ∈ l.clusters, c.Sound
/-- The warp of the parked record that the room holds, if any, is sound. -/
def Room.Sound (r : Room) : Prop := ∀ k ∈ r.park, k.before.Sound
theorem Room.Sound.of_park {r : Room} (e : r.park = none) : r.Sound := by
  intro k hk
  rw [e] at hk
  cases hk
/-- The page's registers and the templates are in the canonical form, and the rooms are sound. -/
def Pdk.Sound (q : Pdk) : Prop := rising 0 q.regs = true ∧ rising 0 q.templates = true ∧ ∀ r ∈ q.rooms, r.Sound

theorem Warp.Sound.default : ({} : Warp).Sound := rfl
/-- Soundness is about the registers alone. -/
theorem Warp.Sound.of_regs {v w : Warp} (h : w.Sound) (e : v.regs = w.regs) : v.Sound := by
  unfold Warp.Sound
  rw [e]
  exact h
theorem Warp.Sound.setReopen {w : Warp} {n} (h : w.Sound) : ({ w with reopen := n } : Warp).Sound := h
theorem Warp.Sound.ite {c : Prop} [Decidable c] {v w : Warp} (hv : v.Sound) (hw : w.Sound) : (if c then v else w).Sound := by
  split
  · exact hv
  · exact hw
theorem Warp.Sound.flagDown {w : Warp} {n : Option Nat} (h : w.Sound) : (w.flagDown n).Sound := by
  unfold Warp.Sound
  rw [Warp.flagDown_regs]
  exact h
theorem Warp.Sound.selOrder {w : Warp} (h : w.Sound) : w.selOrder.Sound := by
  unfold Warp.selOrder
  exact h.of_regs rfl
theorem Warp.Sound.msetAll {w : Warp} {ws : List (Nat × Word)} (h : w.Sound) : ({ w with regs := Machine.msetAll w.regs ws } : Warp).Sound :=
  rising_msetAll _ _ h
theorem Warp.Sound.landOne {w : Warp} {l : Landing} (h : w.Sound) : (w.landOne l).Sound := by
  unfold Warp.landOne
  dsimp only
  split
  · exact h.msetAll
  · exact h.msetAll
theorem Warp.Sound.landOnes {w : Warp} {l : List Landing} (h : w.Sound) : (l.foldl Warp.landOne w).Sound :=
  List.foldlRecOn l _ h fun _ hw _ _ => hw.landOne
theorem Warp.Sound.landAll {w : Warp} (h : w.Sound) : w.landAll.Sound := landOnes h
theorem Warp.Sound.landDue {w : Warp} {now : Nat} {late : Bool} (h : w.Sound) : (w.landDue now late).Sound := landOnes h
theorem Warp.Sound.landWrites {w : Warp} {now : Nat} (h : w.Sound) : (w.landWrites now).Sound :=
  List.foldlRecOn (motive := fun m => rising 0 m = true) _ _ h fun _ hm _ _ => rising_msetAll _ _ hm
theorem Warp.Sound.landBefore {w : Warp} {now : Nat} {ws : List (Nat × Word)} (h : w.Sound) : (w.landBefore now ws).Sound :=
  .ite h h.landWrites.msetAll
theorem Warp.Sound.issued {s : State} {f : Fields} {w : Warp} (h : w.Sound) : (s.issuedWarp f w).Sound := by
  unfold State.issuedWarp
  split <;> exact h

theorem Core.Sound.idle {c : Nat} : ({ id := c } : Core).Sound := fun _ ha => absurd ha List.not_mem_nil
/-- Soundness is about the pipeline alone. -/
theorem Core.Sound.of_padq {j k : Core} (h : k.Sound) (e : j.padq = k.padq) : j.Sound := fun a ha => h a (e ▸ ha)
theorem Core.Sound.of_nil {k : Core} (e : k.padq = []) : k.Sound := by
  intro a ha
  rw [e] at ha
  exact absurd ha List.not_mem_nil
/-- An access enters the pipeline. -/
theorem Core.Sound.addPad {k : Core} {p : PadAccess} (h : k.Sound) (hp : p.before.Sound) : ({ k with padq := k.padq ++ [p] } : Core).Sound :=
  fun a ha => (List.mem_append.1 ha).elim (h a) fun e => List.mem_singleton.1 e ▸ hp
theorem Core.Sound.filterPads {k : Core} {p : PadAccess → Bool} (h : k.Sound) : ({ k with padq := k.padq.filter p } : Core).Sound :=
  fun a ha => h a (List.mem_filter.1 ha).1
theorem Core.Sound.ite {c : Prop} [Decidable c] {j k : Core} (hj : j.Sound) (hk : k.Sound) : (if c then j else k).Sound := by
  split
  · exact hj
  · exact hk

theorem Cluster.Sound.of_nil {c : Cluster} (hw : c.warps = []) (hx : c.waits = []) : c.Sound := by
  unfold Cluster.Sound
  rw [hw, hx]
  exact ⟨fun _ hw => absurd hw List.not_mem_nil, fun _ hx => absurd hx List.not_mem_nil⟩
theorem Cluster.Sound.ite {b : Prop} [Decidable b] {c d : Cluster} (hc : c.Sound) (hd : d.Sound) : (if b then c else d).Sound := by
  split
  · exact hc
  · exact hd
theorem Launch.Sound.ite {b : Prop} [Decidable b] {l m : Launch} (hl : l.Sound) (hm : m.Sound) : (if b then l else m).Sound := by
  split
  · exact hl
  · exact hm
theorem Launch.Sound.of_map {l m : Launch} {g : Cluster → Cluster} (h : l.Sound) (e : m.clusters = l.clusters.map g)
    (hg : ∀ c, c.Sound → (g c).Sound) : m.Sound := by
  intro d hd
  rw [e] at hd
  obtain ⟨c, hc, rfl⟩ := List.mem_map.1 hd
  exact hg c (h c hc)
theorem Launch.Sound.map {l : Launch} {g : Cluster → Cluster} (h : l.Sound) (hg : ∀ c, c.Sound → (g c).Sound) :
    ({ l with clusters := l.clusters.map g } : Launch).Sound := h.of_map rfl hg
theorem Launch.Sound.addCluster {l : Launch} {c : Cluster} (h : l.Sound) (hc : c.Sound) :
    ({ l with clusters := l.clusters ++ [c] } : Launch).Sound :=
  fun d hd => (List.mem_append.1 hd).elim (h d) fun e => List.mem_singleton.1 e ▸ hc

theorem Pdk.Sound.setReg {q : Pdk} {off : Nat} {v : BitVec 64} (h : q.Sound) : (q.setReg off v).Sound :=
  ⟨rising_mset _ 0 off v (Nat.zero_le _) h.1, h.2⟩
theorem Pdk.Sound.setWatch {q : Pdk} {l} (h : q.Sound) : ({ q with watch := l } : Pdk).Sound := ⟨h.1, h.2.1, h.2.2⟩
theorem Pdk.Sound.addRoom {q : Pdk} {r : Room} (h : q.Sound) (hr : r.Sound) : ({ q with rooms := r :: q.rooms } : Pdk).Sound :=
  ⟨h.1, h.2.1, fun x hx => (List.mem_cons.1 hx).elim (fun e => e ▸ hr) (h.2.2 x)⟩
theorem Pdk.Sound.ite {c : Prop} [Decidable c] {p q : Pdk} (hp : p.Sound) (hq : q.Sound) : (if c then p else q).Sound := by
  split
  · exact hp
  · exact hq

/-- Either of two operations. -/
theorem Op.before_ite {c : Prop} [Decidable c] {x y : Op} (hx : x.before.Sound) (hy : y.before.Sound) : (if c then x else y).before.Sound := by
  split
  · exact hx
  · exact hy

end Sys2Proof.Machine

namespace Sys2Proof.Safety
open Sys2Proof Sys2Proof.Machine

/-- Every map that the state holds is in the canonical form, place by place. -/
structure SoundMaps (s : State) : Prop where
  mgmt : rising 0 s.mgmt = true
  clocks : rising 0 s.clocks = true
  frontier : rising 0 s.frontier = true
  pdks : ∀ q ∈ s.pdks, q.Sound
  warps : ∀ w ∈ s.warps, w.Sound
  ops : ∀ x ∈ s.ops, x.before.Sound
  deferred : ∀ d ∈ s.deferred, d.before.Sound
  parked : ∀ r ∈ s.parked, r.before.Sound
  cores : ∀ k ∈ s.cores, k.Sound
  launches : ∀ l ∈ s.launches, l.Sound

theorem mem_allWarps {s : State} {w : Warp} : w ∈ allWarps s ↔
    w ∈ s.warps ∨ (∃ x ∈ s.ops, x.before = w) ∨ (∃ d ∈ s.deferred, d.before = w) ∨ (∃ r ∈ s.parked, r.before = w) ∨
      (∃ k ∈ s.cores, ∃ a ∈ k.padq, a.before = w) ∨ (∃ l ∈ s.launches, ∃ c ∈ l.clusters, w ∈ c.warps ∨ ∃ x ∈ c.waits, x.before = w) ∨
      ∃ q ∈ s.pdks, ∃ r ∈ q.rooms, ∃ k ∈ r.park, k.before = w := by
  simp only [allWarps, List.mem_append, List.mem_map, List.mem_flatMap, List.mem_filterMap, Option.map_eq_some_iff, or_assoc, Option.mem_def]

theorem mapsCanonical_iff {s : State} : MapsCanonical s ↔ SoundMaps s := by
  constructor
  · rintro ⟨⟨hm, hr⟩, hc, hf, ht, hw⟩
    have hw (w : Warp) (e : _) : w.Sound := hw w (mem_allWarps.2 e)
    exact
      { mgmt := hm, clocks := hc, frontier := hf
        pdks := fun q hq => ⟨hr q hq, ht q hq, fun r hr k hk => hw _ (.inr (.inr (.inr (.inr (.inr (.inr ⟨q, hq, r, hr, k, hk, rfl⟩))))))⟩
        warps := fun w h => hw w (.inl h)
        ops := fun x h => hw _ (.inr (.inl ⟨x, h, rfl⟩))
        deferred := fun d h => hw _ (.inr (.inr (.inl ⟨d, h, rfl⟩)))
        parked := fun r h => hw _ (.inr (.inr (.inr (.inl ⟨r, h, rfl⟩))))
        cores := fun k h a ha => hw _ (.inr (.inr (.inr (.inr (.inl ⟨k, h, a, ha, rfl⟩)))))
        launches := fun l h c hc =>
          ⟨fun w h' => hw w (.inr (.inr (.inr (.inr (.inr (.inl ⟨l, h, c, hc, .inl h'⟩)))))),
            fun x h' => hw _ (.inr (.inr (.inr (.inr (.inr (.inl ⟨l, h, c, hc, .inr ⟨x, h', rfl⟩⟩))))))⟩ }
  · intro h
    refine ⟨⟨h.mgmt, fun q hq => (h.pdks q hq).1⟩, h.clocks, h.frontier, fun q hq => (h.pdks q hq).2.1, fun w hw => ?_⟩
    obtain hw | ⟨x, hx, rfl⟩ | ⟨d, hd, rfl⟩ | ⟨r, hr, rfl⟩ | ⟨k, hk, a, ha, rfl⟩ | ⟨l, hl, c, hc, hw | ⟨x, hx, rfl⟩⟩ | ⟨q, hq, r, hr, k, hk, rfl⟩ :=
      mem_allWarps.1 hw
    · exact h.warps w hw
    · exact h.ops x hx
    · exact h.deferred d hd
    · exact h.parked r hr
    · exact h.cores k hk a ha
    · exact (h.launches l hl c hc).1 w hw
    · exact (h.launches l hl c hc).2 x hx
    · exact (h.pdks q hq).2.2 r hr k hk

section
-- One proof after another, as the text is near the memory that the check gives it.
set_option Elab.async false
variable {s : State}

/-! ## What a lookup finds is sound -/

theorem SoundMaps.warp {wid : Nat} (h : SoundMaps s) : (s.warp wid).Sound := by
  unfold State.warp
  cases e : s.warps.find? (·.id == wid) with
  | none => exact .default
  | some w => exact h.warps w (List.mem_of_find?_eq_some e)
theorem SoundMaps.op {o : Nat} {x : Op} (h : SoundMaps s) (e : s.op? o = some x) : x.before.Sound := h.ops x (State.op?_mem e)
theorem SoundMaps.opD {o : Nat} (h : SoundMaps s) : ((s.op? o).getD {}).before.Sound := by
  cases e : s.op? o with
  | none => exact .default
  | some x => exact h.op e
theorem SoundMaps.core {c : Nat} (h : SoundMaps s) : (s.core c).Sound := by
  unfold State.core
  cases e : s.cores.find? (·.id == c) with
  | none => exact .idle
  | some k => exact h.cores k (List.mem_of_find?_eq_some e)
theorem SoundMaps.pdk {p : Nat} (h : SoundMaps s) : (s.pdk p).Sound := by
  unfold State.pdk
  cases e : s.pdks.find? (·.no == p) with
  | none => exact ⟨rfl, rfl, fun _ hr => absurd hr List.not_mem_nil⟩
  | some q => exact h.pdks q (List.mem_of_find?_eq_some e)
theorem SoundMaps.launchRec {l : Nat} (h : SoundMaps s) : (s.launchRec l).Sound := by
  unfold State.launchRec
  cases e : s.launches.find? (·.id == l) with
  | none => exact fun _ hc => absurd hc List.not_mem_nil
  | some m => exact h.launches m (List.mem_of_find?_eq_some e)

/-! ## Answers that carry a state -/

/-- The state that an optional answer carries at `π`, if any, has sound maps. -/
def YieldsMaps {α : Type} (π : α → State) (o : Option α) : Prop := ∀ x, o = some x → SoundMaps (π x)
/-- So has the next state that an instruction or an event answers, if any. -/
def KeepsMaps (o : Out) : Prop := ∀ t, o = .next t → SoundMaps t

theorem KeepsMaps.next {t : State} (h : SoundMaps t) : KeepsMaps (.next t) := by
  intro t' e
  cases e
  exact h
theorem KeepsMaps.fault {e : Machine.Fault} : KeepsMaps (.fault e) := fun _ h => by cases h
theorem KeepsMaps.ite {a b : Out} {c : Prop} [Decidable c] (ha : KeepsMaps a) (hb : KeepsMaps b) : KeepsMaps (if c then a else b) := by
  split
  · exact ha
  · exact hb

theorem YieldsMaps.none {α : Type} {π : α → State} : YieldsMaps π none := nofun
theorem YieldsMaps.some {α : Type} {π : α → State} {x : α} (h : SoundMaps (π x)) : YieldsMaps π (some x) := by
  intro y e
  cases e
  exact h
theorem YieldsMaps.ite {α : Type} {π : α → State} {a b : Option α} {c : Prop} [Decidable c] (ha : YieldsMaps π a) (hb : YieldsMaps π b) :
    YieldsMaps π (if c then a else b) := by
  split
  · exact ha
  · exact hb
theorem YieldsMaps.map {α β : Type} {π : α → State} {o : Option β} {g : β → α} (hg : ∀ x, o = Option.some x → SoundMaps (π (g x))) :
    YieldsMaps π (o.map g) := by
  intro y e
  obtain ⟨x, hx, rfl⟩ := Option.map_eq_some_iff.1 e
  exact hg x hx
theorem YieldsMaps.bind {α β : Type} {π : α → State} {o : Option β} {g : β → Option α} (hg : ∀ x, o = Option.some x → YieldsMaps π (g x)) :
    YieldsMaps π (o.bind g) := by
  intro y e
  obtain ⟨x, hx, hy⟩ := Option.bind_eq_some_iff.1 e
  exact hg x hx y hy
/-- A fold that stops at the first step that answers nothing. -/
theorem SoundMaps.foldSome {α : Type} {g : State → α → Option State} {l : List α} (h : SoundMaps s)
    (hg : ∀ t, SoundMaps t → ∀ a ∈ l, YieldsMaps (·) (g t a)) : YieldsMaps (·) (foldSome g s l) := by
  induction l generalizing s with
  | nil => exact .some h
  | cons a r ih =>
    exact .bind fun t e => ih (hg s h a List.mem_cons_self t e) fun t ht b hb => hg t ht b (List.mem_cons_of_mem _ hb)

/-! ## How soundness goes through a term -/

/-- A change of other fields; the equation is given as `(by rfl)`, which is checked last, when the state after is known. -/
theorem SoundMaps.same {t : State}
    (e : (t.mgmt, t.clocks, t.frontier, t.pdks, t.warps, t.ops, t.deferred, t.parked, t.cores, t.launches) =
      (s.mgmt, s.clocks, s.frontier, s.pdks, s.warps, s.ops, s.deferred, s.parked, s.cores, s.launches)) (h : SoundMaps s) : SoundMaps t := by
  simp only [Prod.mk.injEq] at e
  obtain ⟨em, ec, ef, eq, ew, eo, ed, er, ek, el⟩ := e
  exact ⟨em ▸ h.mgmt, ec ▸ h.clocks, ef ▸ h.frontier, eq ▸ h.pdks, ew ▸ h.warps, eo ▸ h.ops, ed ▸ h.deferred, er ▸ h.parked, ek ▸ h.cores,
    el ▸ h.launches⟩
theorem SoundMaps.setPoison {b} (h : SoundMaps s) : SoundMaps { s with poison := b } := h.same (by rfl)
theorem SoundMaps.setIssuing {b} (h : SoundMaps s) : SoundMaps { s with issuing := b } := h.same (by rfl)
theorem SoundMaps.setOutbound {b} (h : SoundMaps s) : SoundMaps { s with outbound := b } := h.same (by rfl)
theorem SoundMaps.setSeqs {b} (h : SoundMaps s) : SoundMaps { s with seqs := b } := h.same (by rfl)
theorem SoundMaps.setJobs {b} (h : SoundMaps s) : SoundMaps { s with jobs := b } := h.same (by rfl)
theorem SoundMaps.ite {a b : State} {c : Prop} [Decidable c] (ha : SoundMaps a) (hb : SoundMaps b) : SoundMaps (if c then a else b) := by
  split
  · exact ha
  · exact hb
/-- Both branches go on from one state. -/
theorem SoundMaps.ite_of {a b t : State} {c : Prop} [Decidable c] (h : SoundMaps t) (ha : SoundMaps t → SoundMaps a)
    (hb : SoundMaps t → SoundMaps b) : SoundMaps (if c then a else b) := .ite (ha h) (hb h)
theorem SoundMaps.snd_ite {α : Type} {a b : α × State} {c : Prop} [Decidable c] (ha : SoundMaps a.2) (hb : SoundMaps b.2) :
    SoundMaps (if c then a else b).2 := by
  split
  · exact ha
  · exact hb
theorem SoundMaps.snd_snd_ite {α β : Type} {a b : α × β × State} {c : Prop} [Decidable c] (ha : SoundMaps a.2.2) (hb : SoundMaps b.2.2) :
    SoundMaps (if c then a else b).2.2 := by
  split
  · exact ha
  · exact hb
theorem SoundMaps.snd_mk {α : Type} {a : α} {t : State} (h : SoundMaps t) : SoundMaps (a, t).2 := h
theorem SoundMaps.of_eq {α : Type} {p : α × State} {a : α} {t : State} (h : SoundMaps p.2) (e : p = (a, t)) : SoundMaps t := by
  cases e
  exact h
theorem SoundMaps.getD {o : Option State} (ho : YieldsMaps (·) o) (h : SoundMaps s) : SoundMaps (o.getD s) := by
  cases o with
  | none => exact h
  | some t => exact ho t rfl
theorem SoundMaps.foldl {α : Type} {g : State → α → State} {l : List α} (h : SoundMaps s) (hg : ∀ t, SoundMaps t → ∀ a, SoundMaps (g t a)) :
    SoundMaps (l.foldl g s) := List.foldlRecOn l g h fun t ht a _ => hg t ht a
theorem SoundMaps.foldl_mem {α : Type} {g : State → α → State} {l : List α} (h : SoundMaps s)
    (hg : ∀ t, SoundMaps t → ∀ a ∈ l, SoundMaps (g t a)) : SoundMaps (l.foldl g s) := List.foldlRecOn l g h hg
theorem SoundMaps.foldl_snd {α β : Type} {g : β × State → α → β × State} {l : List α} {p : β × State} (h : SoundMaps p.2)
    (hg : ∀ p a, SoundMaps p.2 → SoundMaps (g p a).2) : SoundMaps (l.foldl g p).2 :=
  List.foldlRecOn (motive := fun p => SoundMaps p.2) l g h fun p hp a _ => hg p a hp
theorem SoundMaps.foldl_snd_snd {α β γ : Type} {g : β × γ × State → α → β × γ × State} {l : List α} {p : β × γ × State} (h : SoundMaps p.2.2)
    (hg : ∀ p a, SoundMaps p.2.2 → SoundMaps (g p a).2.2) : SoundMaps (l.foldl g p).2.2 :=
  List.foldlRecOn (motive := fun p => SoundMaps p.2.2) l g h fun p hp a _ => hg p a hp

/-! ## One field changes -/

theorem SoundMaps.setWarps {ws} (h : SoundMaps s) (hw : ∀ w ∈ ws, w.Sound) : SoundMaps { s with warps := ws } := { h with warps := hw }
/-- Every warp changes, but keeps its registers, as most changes do by `rfl`. -/
theorem SoundMaps.mapWarps {g : Warp → Warp} (h : SoundMaps s) (hg : ∀ w, w.Sound → (g w).Sound := by exact fun _ hw => hw.of_regs rfl) :
    SoundMaps { s with warps := s.warps.map g } :=
  h.setWarps fun _ hw => by
    obtain ⟨v, hv, rfl⟩ := List.mem_map.1 hw
    exact hg v (h.warps v hv)
theorem SoundMaps.setOps {l} (h : SoundMaps s) (hl : ∀ x ∈ l, x.before.Sound) : SoundMaps { s with ops := l } := { h with ops := hl }
theorem SoundMaps.filterOps {p : Op → Bool} (h : SoundMaps s) : SoundMaps { s with ops := s.ops.filter p } :=
  h.setOps fun x hx => h.ops x (List.mem_filter.1 hx).1
theorem SoundMaps.setDeferred {l} (h : SoundMaps s) (hl : ∀ d ∈ l, d.before.Sound) : SoundMaps { s with deferred := l } := { h with deferred := hl }
theorem SoundMaps.addDeferred {d : Deferred} (h : SoundMaps s) (hd : d.before.Sound) : SoundMaps { s with deferred := s.deferred ++ [d] } :=
  h.setDeferred fun y hy => (List.mem_append.1 hy).elim (h.deferred y) fun e => List.mem_singleton.1 e ▸ hd
theorem SoundMaps.setParked {l} (h : SoundMaps s) (hl : ∀ r ∈ l, r.before.Sound) : SoundMaps { s with parked := l } := { h with parked := hl }
theorem SoundMaps.addParked {r : Parked} (h : SoundMaps s) (hr : r.before.Sound) : SoundMaps { s with parked := s.parked ++ [r] } :=
  h.setParked fun q hq => (List.mem_append.1 hq).elim (h.parked q) fun e => List.mem_singleton.1 e ▸ hr
theorem SoundMaps.setMgmt {off v} (h : SoundMaps s) : SoundMaps { s with mgmt := mset s.mgmt off v } :=
  { h with mgmt := rising_mset _ 0 off v (Nat.zero_le _) h.mgmt }
theorem SoundMaps.setMgmtAll {kvs} (h : SoundMaps s) : SoundMaps { s with mgmt := msetAll s.mgmt kvs } :=
  { h with mgmt := rising_msetAll _ _ h.mgmt }
theorem SoundMaps.setFrontier {die v} (h : SoundMaps s) : SoundMaps { s with frontier := mset s.frontier die v } :=
  { h with frontier := rising_mset _ 0 die v (Nat.zero_le _) h.frontier }
/-- Every core changes, but not what its pipeline holds, as most changes do by `rfl`. -/
theorem SoundMaps.mapCores {g : Core → Core} (h : SoundMaps s) (hg : ∀ k, k.Sound → (g k).Sound := by exact fun _ hk a ha => hk a ha) :
    SoundMaps { s with cores := s.cores.map g } :=
  { h with
    cores := fun k hk => by
      obtain ⟨j, hj, rfl⟩ := List.mem_map.1 hk
      exact hg j (h.cores j hj) }
theorem SoundMaps.setPdks {l} (h : SoundMaps s) (hl : ∀ q ∈ l, q.Sound) : SoundMaps { s with pdks := l } := { h with pdks := hl }
theorem SoundMaps.setLaunches {l} (h : SoundMaps s) (hl : ∀ m ∈ l, m.Sound) : SoundMaps { s with launches := l } := { h with launches := hl }
theorem SoundMaps.mapLaunches {g : Launch → Launch} (h : SoundMaps s) (hg : ∀ l, l.Sound → (g l).Sound) :
    SoundMaps { s with launches := s.launches.map g } :=
  h.setLaunches fun _ hl => by
    obtain ⟨l, hm, rfl⟩ := List.mem_map.1 hl
    exact hg l (h.launches l hm)
theorem SoundMaps.addLaunches {ls : List Launch} (h : SoundMaps s) (hl : ∀ m ∈ ls, m.Sound) : SoundMaps { s with launches := s.launches ++ ls } :=
  h.setLaunches fun m hm => (List.mem_append.1 hm).elim (h.launches m) (hl m)

/-! ## Machine/Ops.lean -/

/-- A warp changes, but keeps its registers, as most changes do by `rfl`. -/
theorem SoundMaps.updWarp {wid f} (h : SoundMaps s) (hf : ∀ w, w.Sound → (f w).Sound := by exact fun _ hw => hw.of_regs rfl) :
    SoundMaps (s.updWarp wid f) :=
  h.mapWarps fun _ hw => .ite (hf _ hw) hw
/-- A core changes, but not what its pipeline holds, as most changes do by `rfl`. -/
theorem SoundMaps.updCore {c f} (h : SoundMaps s) (hf : ∀ k, k.Sound → (f k).Sound := by exact fun _ hk a ha => hk a ha) :
    SoundMaps (s.updCore c f) :=
  .ite (h.mapCores fun _ hk => .ite (hf _ hk) hk)
    { h with cores := fun k hk => (List.mem_cons.1 hk).elim (fun e => e ▸ hf _ .idle) (h.cores k) }
/-- The operations change, but not the warps they hold, as most changes do by `rfl`. -/
theorem SoundMaps.mapOps {f} (h : SoundMaps s) (hf : ∀ x, x.before.Sound → (f x).before.Sound := by exact fun _ hx => hx) :
    SoundMaps (s.mapOps f) :=
  h.setOps fun y hy => by
    obtain ⟨x, hx, rfl⟩ := List.mem_map.1 hy
    exact hf x (h.ops x hx)
theorem SoundMaps.updOp {o f} (h : SoundMaps s) (hf : ∀ x, x.before.Sound → (f x).before.Sound := by exact fun _ hx => hx) :
    SoundMaps (s.updOp o f) := h.mapOps fun _ hx => Op.before_ite (hf _ hx) hx
/-- Every paddock changes, but not the maps of its page, as most changes do by `rfl`. -/
theorem SoundMaps.mapPdks {g : Pdk → Pdk} (h : SoundMaps s) (hg : ∀ q, q.Sound → (g q).Sound := by exact fun _ hq => ⟨hq.1, hq.2.1, hq.2.2⟩) :
    SoundMaps { s with pdks := s.pdks.map g } :=
  h.setPdks fun _ hp => by
    obtain ⟨q, hq, rfl⟩ := List.mem_map.1 hp
    exact hg q (h.pdks q hq)
theorem SoundMaps.updPdk {p f} (h : SoundMaps s) (hf : ∀ q, q.Sound → (f q).Sound := by exact fun _ hq => ⟨hq.1, hq.2.1, hq.2.2⟩) :
    SoundMaps (s.updPdk p f) :=
  h.mapPdks fun _ hq => .ite (hf _ hq) hq
theorem SoundMaps.setReg {p off} {v : Pdk → BitVec 64} (h : SoundMaps s) :
    SoundMaps (s.updPdk p fun q => q.setReg off (v q)) := h.updPdk fun _ hq => hq.setReg
/-- A launch changes, but not the warps of its clusters, as most changes do by `rfl`. -/
theorem SoundMaps.updLaunch {i f} (h : SoundMaps s) (hf : ∀ l, l.Sound → (f l).Sound := by exact fun _ hl c hc => hl c hc) :
    SoundMaps (s.updLaunch i f) :=
  h.mapLaunches fun _ hl => .ite (hf _ hl) hl
theorem SoundMaps.takeId (h : SoundMaps s) : SoundMaps s.takeId.2 := h.same (by rfl)
theorem SoundMaps.freeVal (h : SoundMaps s) : SoundMaps s.freeVal.2 := h.same (by rfl)
theorem SoundMaps.flood {came mk} (h : SoundMaps s) : SoundMaps (s.flood came mk) := h.same (by rfl)
theorem SoundMaps.ownSkid (h : SoundMaps s) : SoundMaps s.ownSkid := h.same (by rfl)
theorem SoundMaps.ownSkids {n} (h : SoundMaps s) : SoundMaps (s.ownSkids n) := by
  induction n generalizing s with
  | zero => exact h
  | succ n ih => exact ih h.ownSkid
theorem SoundMaps.freeze {c n} (h : SoundMaps s) : SoundMaps (s.freeze c n) := .ite h (.ite h.ownSkids (h.updCore fun _ hk => .ite hk hk))
theorem SoundMaps.landRegs {wid o ws} (h : SoundMaps s) : SoundMaps (s.landRegs wid o ws) := by
  unfold State.landRegs
  extract_lets now t u late deferred
  have hu : SoundMaps u := (h.updWarp fun _ hw => hw.msetAll).mapOps fun _ hx => Op.before_ite hx.landBefore hx
  exact
    { hu with
      parked := fun r hr => by
        obtain ⟨q, hq, rfl⟩ := List.mem_map.1 hr
        split
        · exact (hu.parked q hq).landBefore
        · exact hu.parked q hq
      deferred := fun d hd => by
        obtain ⟨e, he, rfl⟩ := List.mem_map.1 hd
        split
        · exact (hu.deferred e he).landBefore
        · exact hu.deferred e he }
theorem SoundMaps.endOp {o} (h : SoundMaps s) : SoundMaps (s.endOp o) := by
  unfold State.endOp
  split
  · exact h
  · exact (h.filterOps.updWarp fun _ hw => hw.flagDown).same (by rfl)
theorem SoundMaps.leaveOp {x} (h : SoundMaps s) : SoundMaps (s.leaveOp x) := (h.updWarp fun _ hw => hw.flagDown).updOp
theorem SoundMaps.settle {o} (h : SoundMaps s) : SoundMaps (s.settle o) := by
  unfold State.settle
  split
  · exact h
  · exact .ite h (.ite h.landRegs.leaveOp h.landRegs.endOp)
theorem SoundMaps.poke {pa bs} (h : SoundMaps s) : SoundMaps (s.poke pa bs) := h.same (by rfl)
theorem SoundMaps.drawKeys {p} (h : SoundMaps s) : SoundMaps (s.drawKeys p) :=
  .same (by rfl) (h.mapPdks (g := fun q => if q.no == p then { q with world := s.draws + 1 } else q) fun _ hq => .ite hq hq)
theorem SoundMaps.raise {p vec} (h : SoundMaps s) : SoundMaps (s.raise p vec) := h.same (by rfl)
theorem SoundMaps.ifError {p cause} (h : SoundMaps s) : SoundMaps (s.ifError p cause) :=
  .ite h (.ite_of (.ite_of (.ite_of h.setReg (·.setReg) id) id (·.raise)) id fun ht => ht.mapWarps fun _ hw => .ite hw hw)
theorem SoundMaps.mgmtCount {off} (h : SoundMaps s) : SoundMaps (s.mgmtCount off) := h.setMgmt
theorem SoundMaps.retire {p pa} (h : SoundMaps s) : YieldsMaps (·) (s.retire p pa) := by
  unfold State.retire
  split
  · exact .none
  next r _ => exact .some (.mgmtCount (.same (by rfl) (h.updPdk (p := p) (f := fun q => { q with pool := r }))))
theorem SoundMaps.retried {core pa} (h : SoundMaps s) : SoundMaps (s.retried core pa) := by
  unfold State.retried
  split
  · exact .ite h.freeze h
  · exact h
theorem SoundMaps.eccMark {core p pa spec x} (h : SoundMaps s) : SoundMaps (s.eccMark core p pa spec x).2 := by
  unfold State.eccMark
  split
  · exact h
  · exact (h.same (by rfl)).mgmtCount.retried
  · exact h
  · exact .snd_ite h.retried (.getD h.retried.retire h.retried)
theorem SoundMaps.ecc {core p pa n spec} (h : SoundMaps s) : SoundMaps (s.ecc core p pa n spec).2 := .snd_ite h h.eccMark
theorem SoundMaps.eccWrite {core p pa n spec} (h : SoundMaps s) : SoundMaps (s.eccWrite core p pa n spec).2 :=
  .snd_ite h.eccMark h.ecc
theorem SoundMaps.noteS2 {p pa} (h : SoundMaps s) : SoundMaps (s.noteS2 p pa) := .foldl h fun _ ht _ => ht.ecc
theorem SoundMaps.noteReads {p reads} (h : SoundMaps s) : SoundMaps (s.noteReads p reads) := by
  unfold State.noteReads
  refine .foldl h fun _ ht _ => ?_
  dsimp only
  split
  · exact .foldl ht.noteS2 fun _ ht1 _ => ht1.ecc
  · exact ht.noteS2
theorem SoundMaps.fillCore {c e life} (h : SoundMaps s) : SoundMaps (s.fillCore c e life) := .ite h h.updCore
theorem SoundMaps.translate {c p asid va} (h : SoundMaps s) : SoundMaps (s.translate c p asid va).2 := by
  unfold State.translate
  split
  · exact h
  · dsimp only
    split
    · exact h.fillCore
    · split
      · exact h.noteReads
      · exact .ite h.noteReads.noteS2.fillCore (h.noteReads.noteS2.fillCore.same (by rfl))
theorem SoundMaps.mergeClock {die stamp} (h : SoundMaps s) : SoundMaps (s.mergeClock die stamp) :=
  { h with
    clocks := List.foldlRecOn (motive := fun m => rising 0 m = true) stamp _ h.clocks fun m hm kv _ => by
      split
      · exact rising_mset m 0 _ kv.2 (Nat.zero_le _) hm
      · exact hm }
theorem SoundMaps.evalWait {o} (h : SoundMaps s) : SoundMaps (s.evalWait o) := by
  unfold State.evalWait
  split
  · exact h
  · exact .ite h (.ite h (.ite_of (.updOp (.foldl h fun _ ht _ => .ite ht ht.mergeClock)) id (·.settle)))
theorem SoundMaps.wake {pa} (h : SoundMaps s) : SoundMaps (s.wake pa) := .foldl h fun _ ht _ => ht.evalWait
theorem SoundMaps.applyWrite {p pa bs stamp} (h : SoundMaps s) : SoundMaps (s.applyWrite p pa bs stamp) :=
  (SoundMaps.same (by rfl) (h.poke (pa := pa) (bs := bs))).wake
theorem SoundMaps.stampAt {die} (h : SoundMaps s) : SoundMaps (s.stampAt die).2 :=
  { h with clocks := rising_mset _ 0 _ _ (Nat.zero_le _) h.clocks }
theorem SoundMaps.devStore {p die pa bs} (h : SoundMaps s) : SoundMaps (s.devStore p die pa bs) :=
  .ite h (.foldl h.stampAt fun _ ht _ => .ite ht.eccWrite.applyWrite ht.eccWrite)
theorem SoundMaps.devWrite {p pa bs} (h : SoundMaps s) : SoundMaps (s.devWrite p pa bs) := by
  unfold State.devWrite
  dsimp only
  split
  · exact h.noteS2.devStore
  · exact h.noteS2.ifError
theorem SoundMaps.postFault {p asid code block bitmap events write pc lid idx} (h : SoundMaps s) :
    SoundMaps (s.postFault p asid code block bitmap events write pc lid idx) := by
  unfold State.postFault
  refine .ite h ?_
  split
  · exact h.ifError
  · dsimp only
    split
    · exact h.noteReads.devStore.setReg.raise
    · exact .ite h.noteReads.setReg h.noteReads.devStore.setReg.setReg.raise
theorem SoundMaps.postLane {w asid f pc idx} (h : SoundMaps s) : SoundMaps (s.postLane w asid f pc idx) := h.postFault
theorem SoundMaps.countReg {p off n} (h : SoundMaps s) : SoundMaps (s.countReg p off n) := h.setReg
theorem SoundMaps.dropLanes {wid o m} (h : SoundMaps s) : SoundMaps (s.dropLanes wid o m) :=
  .foldl (h.mapOps fun _ hx => Op.before_ite hx hx) fun _ ht _ => ht.settle
theorem SoundMaps.unwait {wid o m} (h : SoundMaps s) : SoundMaps (s.unwait wid o m) :=
  .foldl (h.mapOps fun _ hx => by
    dsimp only
    split
    · exact Op.before_ite hx hx
    · exact hx) fun _ ht _ => ht.settle
theorem SoundMaps.ejectAsid {wid asid resume before o faults reopen} (h : SoundMaps s) (hb : before.Sound := by assumption) :
    SoundMaps (s.ejectAsid wid asid resume before o faults reopen).2 := by
  refine .snd_ite h (.unwait (.dropLanes (.updWarp (.addParked h.takeId (.landAll ?_)))))
  split
  next e => exact h.ops _ (List.mem_of_find?_eq_some e)
  · exact hb
theorem SoundMaps.handlerDies {wid o} (h : SoundMaps s) : SoundMaps (s.handlerDies wid o) := h.updWarp.dropLanes
theorem SoundMaps.trapNow {wid code pc resume before o reopen} (h : SoundMaps s) (hb : before.Sound := by assumption) :
    SoundMaps (s.trapNow wid code pc resume before o reopen) :=
  .ite h.handlerDies (.updWarp (.filterOps (.filterOps
    (.mapOps (.foldl h fun _ ht _ => ht.ejectAsid.postFault) fun _ hx => Op.before_ite hx hx))))
theorem SoundMaps.takeTrap {wid code pc before o} (h : SoundMaps s) (hb : before.Sound := by assumption) :
    SoundMaps (s.takeTrap wid code pc before o) := by
  unfold State.takeTrap
  dsimp only
  split
  · exact (h.addDeferred hb).updWarp.dropLanes
  · exact h.trapNow
theorem SoundMaps.warpTrap {wid code pc before o timing} (h : SoundMaps s) (hb : before.Sound := by assumption) :
    SoundMaps (s.warpTrap wid code pc before o timing) := .ite (h.takeTrap.same (by rfl)) h.takeTrap
theorem SoundMaps.exitAsid {wid a} (h : SoundMaps s) : SoundMaps (s.exitAsid wid a) := h.updWarp
theorem SoundMaps.ejectServed {wid o pc resume before trapEnd faults} (h : SoundMaps s) (hb : before.Sound := by assumption) :
    SoundMaps (s.ejectServed wid o pc resume before trapEnd faults) :=
  .foldl h fun _ ht _ => .foldl (.ite_of (.snd_ite ht.exitAsid ht.ejectAsid) id (·.postFault)) fun _ ht _ => ht.postLane
theorem SoundMaps.cancelExited {w o fs pc} (h : SoundMaps s) : SoundMaps (s.cancelExited w o fs pc) :=
  .foldl h fun _ ht _ => ht.countReg.postLane.updOp.settle
theorem SoundMaps.resolveNow {wid o pc before faults inPlace reopen} (h : SoundMaps s) (hb : before.Sound := by assumption) :
    SoundMaps (s.resolveNow wid o pc before faults inPlace reopen) :=
  .settle (.updOp (.foldl h fun _ ht _ => .foldl ht.ejectAsid fun _ ht1 _ => ht1.postLane))
theorem SoundMaps.retarget {w asid o pc before faults} (h : SoundMaps s) (hb : before.Sound := by assumption) :
    SoundMaps (s.retarget w asid o pc before faults) := by
  unfold State.retarget
  split
  · exact h.dropLanes
  · refine .dropLanes (.foldl (h.setParked fun q hq => ?_) fun _ ht _ => ht.postLane)
    obtain ⟨r, hr, rfl⟩ := List.mem_map.1 hq
    split
    · exact hb.landAll
    · exact h.parked r hr
theorem SoundMaps.laneFaults {wid o pc before faults} (h : SoundMaps s) (hb : before.Sound := by assumption) :
    SoundMaps (s.laneFaults wid o pc before faults) := by
  unfold State.laneFaults
  refine .ite_of (.foldl h.cancelExited fun _ ht _ => ht.retarget) id fun ht => .ite ht.handlerDies ?_
  split
  · exact (ht.addDeferred hb).updWarp.dropLanes
  · exact ht.resolveNow

/-! ## Machine/Flags.lean -/

theorem SoundMaps.noteIssue {wid f} (h : SoundMaps s) : SoundMaps (s.noteIssue wid f) := .setIssuing (h.updWarp fun _ hw => hw.issued).updCore
/-- The word of a sound warp issues. -/
theorem SoundMaps.issue {f k} (h : SoundMaps s) (hk : ∀ wid w t, SoundMaps t → w.Sound → SoundMaps (k wid w t)) :
    KeepsMaps (s.issue f k) := by
  unfold State.issue
  split
  · exact .next h
  · exact .next (hk _ _ _ h.noteIssue h.warp)
theorem SoundMaps.landIn {wid cycles l} (h : SoundMaps s) : SoundMaps (s.landIn wid cycles l) := h.updWarp
theorem SoundMaps.fixed {wid w f c n g} (h : SoundMaps s) : SoundMaps (s.fixed wid w f c n g) := h.landIn
theorem SoundMaps.laneOp {f c g} (h : SoundMaps s) : KeepsMaps (laneOp s f c g) := h.issue fun _ _ _ ht _ => ht.fixed
theorem SoundMaps.addOp {x} (h : SoundMaps s) (hx : x.before.Sound := by assumption) : SoundMaps (s.addOp x).2 :=
  h.takeId.setOps fun y hy => (List.mem_append.1 hy).elim (h.ops y) fun e => List.mem_singleton.1 e ▸ hx
theorem SoundMaps.simpleOp {wid w f n} (h : SoundMaps s) (hw : w.Sound := by assumption) : SoundMaps (s.simpleOp wid w f n) := h.addOp
theorem SoundMaps.trapAt {wid w code timing} (h : SoundMaps s) (hw : w.Sound := by assumption) : SoundMaps (s.trapAt wid w code timing) := h.warpTrap

/-! ## Machine/Control.lean -/

theorem SoundMaps.goto {wid off prep} (h : SoundMaps s) : SoundMaps (s.goto wid off prep) := h.updWarp
theorem SoundMaps.through {wid w b k} (h : SoundMaps s) (hk : ∀ t, SoundMaps t → SoundMaps (k t)) (hw : w.Sound := by assumption) :
    SoundMaps (s.through wid w b k) := by
  unfold State.through
  split
  · exact h.trapAt
  · exact .goto (hk _ h)
theorem SoundMaps.prepare {wid b target count} (h : SoundMaps s) : SoundMaps (s.prepare wid b target count) := h.updWarp
theorem SoundMaps.execPrepv {f} (h : SoundMaps s) : KeepsMaps (execPrepv f s) := by
  unfold Machine.execPrepv
  refine h.issue fun _ _ _ ht _ => .ite ht ?_
  split
  · exact .ite ht.prepare ht.updWarp
  · exact ht.trapAt
theorem SoundMaps.execXfers {f} (h : SoundMaps s) : KeepsMaps (execXfers f s) :=
  h.issue fun _ _ _ ht _ => .ite ht.trapAt (.ite ht.updWarp (ht.through fun _ ht1 => ht1.updWarp.updWarp))
theorem SoundMaps.execJoin {f} (h : SoundMaps s) : KeepsMaps (execJoin f s) := by
  unfold Machine.execJoin
  refine h.issue fun _ _ _ ht _ => ?_
  split
  · exact ht.trapAt
  · exact .ite ht.updWarp.goto ht.updWarp.goto
theorem SoundMaps.staleWarp {wid p} (h : SoundMaps s) : SoundMaps (s.staleWarp wid p) := h.updWarp
theorem SoundMaps.execTrap {f} (h : SoundMaps s) : KeepsMaps (execTrap f s) :=
  h.issue fun _ _ _ ht _ => .ite (.ite ht ht.updWarp) (.ite ht.updWarp
    (.ite (.ite (ht.ejectServed ht.warp) (ht.ejectServed ht.warp).updWarp) (ht.same (by rfl))))
theorem SoundMaps.execHoldDeferredTrap (h : SoundMaps s) : KeepsMaps (execHoldDeferredTrap s) := by
  unfold Machine.execHoldDeferredTrap
  refine .next ?_
  split
  · exact h
  · refine .updWarp (.foldl_mem (h.setDeferred fun d hd => h.deferred d (List.mem_filter.1 hd).1).updWarp ?_) fun _ hw => .ite hw hw
    intro _ ht d hd
    have hb := h.deferred d (List.mem_filter.1 (mem_of_mem_sortBy hd)).1
    refine .ite ht ?_
    split
    · exact ht.trapNow
    · exact .ite ht ht.resolveNow
theorem SoundMaps.execHoldOverrun (h : SoundMaps s) : KeepsMaps (execHoldOverrun s) := by
  unfold Machine.execHoldOverrun
  refine .next ?_
  split
  · exact h
  next w _ =>
    have ht : SoundMaps (s.updWarp w.id fun w => { w with region := none }) := h.updWarp
    refine .ite h ?_
    dsimp only
    split
    · exact .ite (ht.warpTrap ht.warp) ht
    · exact ht

/-! ## Machine/Integer.lean -/

theorem SoundMaps.moveIndexed {f wide} (h : SoundMaps s) : KeepsMaps (moveIndexed f s wide) :=
  h.issue fun _ _ _ ht _ => .ite ht.trapAt ht.fixed
theorem SoundMaps.execMovs {f} (h : SoundMaps s) : KeepsMaps (execMovs f s) := by
  unfold Machine.execMovs
  refine h.issue fun _ _ _ ht _ => .ite (.ite ht.trapAt ht.fixed) (.ite ht.landIn ?_)
  split
  · exact ht.trapAt
  · exact ht.landIn
/-! ## Machine/Access.lean -/

theorem SoundMaps.search {c p asid va rd wr} (h : SoundMaps s) : SoundMaps (s.search c p asid va rd wr).2 := by
  unfold State.search
  split
  all_goals next e => exact h.translate.of_eq e
theorem SoundMaps.detCheck {w l} (h : SoundMaps s) : YieldsMaps (·) (s.detCheck w l) := by
  induction l generalizing s with
  | nil => exact .some h
  | cons x r ih =>
    unfold State.detCheck
    dsimp only
    split
    · exact .none
    · exact ih (h.same (by rfl))
theorem SoundMaps.detOp {w x} (h : SoundMaps s) : YieldsMaps (·) (s.detOp w x) := .ite .none h.detCheck
theorem SoundMaps.enterOp {wid w f x ps} (h : SoundMaps s) (hw : w.Sound := by assumption) (hx : x.before.Sound := by assumption) :
    SoundMaps (s.enterOp wid w f x ps).2 :=
  .snd_ite h.simpleOp (.ite h.addOp h.addOp.laneFaults)
theorem SoundMaps.queuePads {o k land} (h : SoundMaps s) : SoundMaps (s.queuePads o k land) := by
  unfold State.queuePads
  split
  · exact h
  next e => exact .ite h (h.updOp.updCore fun _ hk => hk.addPad (h.op e))
theorem SoundMaps.startPads {o} (h : SoundMaps s) : SoundMaps (s.startPads o) := by
  unfold State.startPads
  split
  · exact h
  · split
    · exact h.queuePads
    · exact h.queuePads
    · exact h
theorem SoundMaps.detGate {o k} (h : SoundMaps s) (hk : ∀ t, SoundMaps t → SoundMaps (k t)) :
    SoundMaps (s.detGate o k) := by
  unfold State.detGate
  split
  · exact h
  next ex =>
    refine .ite (hk _ h) (.ite h ?_)
    split
    next e => exact hk _ (h.detOp _ e).updOp.startPads
    · exact h.warpTrap (h.op ex)
theorem SoundMaps.updAcc {o lane f} (h : SoundMaps s) : SoundMaps (s.updAcc o lane f) := h.updOp
/-- The operation of a lane that is found. -/
theorem SoundMaps.opAcc {o lane x a} (h : SoundMaps s) (e : ((s.op? o).bind fun x => (x.acc? lane).map fun a => (x, a)) = some (x, a)) :
    x.before.Sound := by
  obtain ⟨y, hy, e⟩ := Option.bind_eq_some_iff.1 e
  obtain ⟨b, -, e⟩ := Option.map_eq_some_iff.1 e
  cases e
  exact h.op hy
theorem SoundMaps.loadBytes {die pa n} (h : SoundMaps s) : SoundMaps (s.loadBytes die pa n).2 := h.mergeClock

/-! ## Machine/LoadStore.lean -/

theorem SoundMaps.memIssue {wid w f x mk spot rd wr timed pad} (h : SoundMaps s) (hw : w.Sound := by assumption)
    (hx : x.before.Sound := by assumption) :
    SoundMaps (s.memIssue wid w f x mk spot rd wr timed pad) := by
  unfold State.memIssue
  refine .ite h.trapAt (.ite h.trapAt ?_)
  dsimp only
  split
  · exact h.trapAt
  next e =>
    have ht := YieldsMaps.ite h.detCheck (.some h) _ e
    split
    · exact .ite ht.enterOp ht.enterOp.queuePads
    · exact ht.enterOp
theorem SoundMaps.memOp {f k} (h : SoundMaps s) : KeepsMaps (memOp f s k) := h.issue fun _ _ _ ht _ => ht.memIssue
theorem SoundMaps.fillRo {c pa} (h : SoundMaps s) : SoundMaps (s.fillRo c pa) := h.updCore
theorem SoundMaps.execPref {f} (h : SoundMaps s) : KeepsMaps (execPref f s) :=
  h.issue fun _ _ _ ht _ => .ite_of (.ite (.foldl ht fun _ ht _ => ht.fillRo) ht) (·.simpleOp) (·.enterOp)
theorem SoundMaps.lockEntry {w k} (h : SoundMaps s) : SoundMaps (s.lockEntry w k) := h.updCore.updWarp
theorem SoundMaps.tryLock {o} (h : SoundMaps s) : SoundMaps (s.tryLock o) := by
  unfold State.tryLock
  split
  · exact h
  next e =>
    refine .ite h (.ite ?_ ?_)
    · refine .warpTrap (.foldl_snd h ?_) (h.op e)
      intro _ _ ht
      split
      all_goals next e => exact ht.translate.of_eq e
    · refine .settle (.updOp ?_)
      refine .foldl ?_ fun _ ht _ => ht.lockEntry
      refine .foldl_snd h fun _ _ ht => ?_
      split
      all_goals next e => exact ht.translate.of_eq e
theorem SoundMaps.freeLocks {wid} (h : SoundMaps s) : SoundMaps (s.freeLocks wid) := h.updCore.updWarp
theorem SoundMaps.walkLane {x a} (h : SoundMaps s) : SoundMaps (s.walkLane x a).2 := by
  unfold State.walkLane
  dsimp only
  split
  all_goals next e => exact h.search.of_eq e
theorem SoundMaps.walkLanes {x m} (h : SoundMaps s) : SoundMaps (s.walkLanes x m).2 := by
  unfold State.walkLanes
  refine .foldl_snd h fun _ _ ht => ?_
  dsimp only
  split <;> exact ht.walkLane.updAcc
theorem SoundMaps.afterWalk {x fs} (h : SoundMaps s) (hx : x.before.Sound := by assumption) : SoundMaps (s.afterWalk x fs) := by
  unfold State.afterWalk
  split
  · exact .settle (.updOp (.ite (.foldl h fun _ ht _ => .ite ht.fillRo ht) h))
  · exact .tryLock (.ite h h.laneFaults)
  · exact .ite h h.laneFaults
theorem SoundMaps.walkWait {x m} (h : SoundMaps s) (hx : x.before.Sound := by assumption) : SoundMaps (s.walkWait x m) :=
  .ite h.warpTrap h.walkLanes.afterWalk
theorem SoundMaps.pageWalk {o m} (h : SoundMaps s) : SoundMaps (s.pageWalk o m) := by
  unfold State.pageWalk
  split
  · exact h
  next e => exact .ite h (h.walkWait (h.op e))
theorem SoundMaps.homeFault {x a code} (h : SoundMaps s) (hx : x.before.Sound := by assumption) : SoundMaps (s.homeFault x a code) :=
  .ite (.settle (.setOutbound h.updAcc)) (.laneFaults (.setOutbound h.updAcc))
theorem SoundMaps.storeAt {x a stamp n} (h : SoundMaps s) (hx : x.before.Sound := by assumption) : SoundMaps (s.storeAt x a stamp n) :=
  .ite h.homeFault (.ite h.eccWrite.homeFault
    (.ite_of (.ite h.eccWrite.applyWrite h.eccWrite) (·.updAcc) fun ht => .settle (.updAcc (.setOutbound ht))))
theorem SoundMaps.noteSince (h : SoundMaps s) : SoundMaps s.noteSince := h.mapOps
theorem SoundMaps.stampLane {o lane} (h : SoundMaps s) : SoundMaps (s.stampLane o lane) := by
  unfold State.stampLane
  split
  · exact h
  next e =>
    split
    · exact h
    · exact .ite h (.ite_of (.ite (.setOutbound h.stampAt.updAcc) h.stampAt.updAcc) (·.storeAt (h.op e)) id)
theorem SoundMaps.timedFlag {o} (h : SoundMaps s) : SoundMaps (s.timedFlag o) := by
  unfold State.timedFlag
  split
  · exact h
  · exact .ite (h.updWarp fun _ hw => hw.flagDown).updOp h
theorem SoundMaps.portStamp {o m} (h : SoundMaps s) : SoundMaps (s.portStamp o m) := by
  unfold State.portStamp
  split
  · exact h
  · exact .ite h (h.detGate fun _ ht => .noteSince (.timedFlag (.foldl ht fun _ ht1 _ => ht1.stampLane)))
theorem SoundMaps.atomAt {x a} (h : SoundMaps s) (hx : x.before.Sound := by assumption) : SoundMaps (s.atomAt x a) := by
  unfold State.atomAt
  refine .ite h.homeFault (.ite ?_ (.ite h.ecc.updAcc h.ecc.homeFault))
  refine .updAcc ?_
  split
  · exact h.ecc.applyWrite
  · exact h.ecc
theorem SoundMaps.homeApply {o lane} (h : SoundMaps s) : SoundMaps (s.homeApply o lane) := by
  unfold State.homeApply
  split
  · exact h
  next e =>
    split
    · exact h
    · exact .ite h (.ite (.ite (h.storeAt (h.op e)) h) (.ite (.settle (.foldl h fun _ ht _ => ht.atomAt (h.op e))) h))
theorem SoundMaps.landLane {x a raw} (h : SoundMaps s) : SoundMaps (s.landLane x a raw) := h.landRegs.updAcc.settle
theorem SoundMaps.loadLane {o lane} (h : SoundMaps s) : SoundMaps (s.loadLane o lane) := by
  unfold State.loadLane
  split
  · exact h
  next e =>
    split
    · exact h
    · refine .ite ?_
        (.ite h (.ite (.ite h.ecc.landLane h.ecc.loadBytes.landLane) (.ite h.ecc.landRegs.updAcc.settle (h.ecc.laneFaults (h.op e)))))
      refine .ite ?_ h
      split
      · exact h.landLane
      · exact h.updAcc.settle
theorem SoundMaps.loadComplete {o m} (h : SoundMaps s) : SoundMaps (s.loadComplete o m) := by
  unfold State.loadComplete
  split
  · exact h
  · refine .ite h ?_
    dsimp only
    split
    · exact h.detGate fun _ ht => .foldl ht fun _ ht1 _ => ht1.loadLane
    · exact .foldl h fun _ ht _ => ht.loadLane
theorem SoundMaps.dropExpired (h : SoundMaps s) : SoundMaps s.dropExpired :=
  .same (by rfl) (h.mapCores (g := fun k => { k with tlb := k.tlb.filter fun e => decide (s.ucyc k.id < e.ends) }))
theorem SoundMaps.landResults {classV} (h : SoundMaps s) : SoundMaps (s.landResults classV) :=
  .foldl (h.mapWarps fun _ hw => .ite hw hw.landDue) fun _ ht _ => ht.loadLane

/-! ## Machine/Scratch.lean -/

theorem SoundMaps.padIssue {wid w f x mk off wr classV pad} (h : SoundMaps s) (hw : w.Sound := by assumption) (hx : x.before.Sound := by assumption) :
    SoundMaps (s.padIssue wid w f x mk off wr classV pad) := .ite (.ite h.simpleOp h.landIn) h.memIssue
theorem SoundMaps.padOp {f store} (h : SoundMaps s) : KeepsMaps (padOp f s store) := h.issue fun _ _ _ ht _ => ht.padIssue
theorem SoundMaps.detTags {wid w ks k} (h : SoundMaps s) (hk : ∀ t, SoundMaps t → SoundMaps (k t)) (hw : w.Sound := by assumption) :
    SoundMaps (s.detTags wid w ks k) := by
  unfold State.detTags
  refine .ite (hk _ h) ?_
  split
  next e => exact hk _ (h.detCheck _ e)
  · exact h.trapAt
theorem SoundMaps.tagLanes {wid w f slot tag} (h : SoundMaps s) (hw : w.Sound := by assumption) : SoundMaps (s.tagLanes wid w f slot tag) :=
  h.detTags fun _ ht => .ite ht.updCore.landIn ht.updCore.landIn.laneFaults
theorem SoundMaps.retryElements {c es} (h : SoundMaps s) : SoundMaps (s.retryElements c es).2 :=
  .snd_ite (.foldl h fun _ ht _ => ht.mgmtCount) (by
    dsimp only
    exact .updCore (.foldl h fun _ ht _ => ht.mgmtCount))
theorem SoundMaps.padFault {x a write} (h : SoundMaps s) (hx : x.before.Sound := by assumption) : SoundMaps (s.padFault x a write) := h.laneFaults
theorem SoundMaps.padLane {p lane} (h : SoundMaps s) : SoundMaps (s.padLane p lane) := by
  unfold State.padLane
  split
  · exact h
  next e =>
    obtain ⟨o, -, e⟩ := Option.bind_eq_some_iff.1 e
    split
    · exact h
    · refine .ite h (.ite (h.padFault (h.op e)) ?_)
      split
      · exact h.updAcc
      · exact h.updCore.updAcc
      · refine .updAcc ?_
        split
        · exact h.updCore
        · exact h
theorem SoundMaps.wakePad {c} (h : SoundMaps s) : SoundMaps (s.wakePad c) := .foldl h fun _ ht _ => ht.evalWait
theorem SoundMaps.accessCycle {c units} (h : SoundMaps s) : SoundMaps (s.accessCycle c units) :=
  .freeze (.ite_of (.foldl (h.retryElements.updCore (by exact fun _ hk => hk.filterPads))
    fun _ ht _ => .foldl ht fun _ ht _ => ht.padLane) (·.wakePad) id)

/-! ## Machine/Atomic.lean -/

theorem SoundMaps.atomGlobal {f k ea data cmp result} (h : SoundMaps s) : KeepsMaps (atomGlobal f s k ea data cmp result) :=
  h.issue fun _ _ _ ht _ => ht.memIssue
theorem SoundMaps.atomPad {f k pk data cmp} (h : SoundMaps s) : KeepsMaps (atomPad f s k pk data cmp) :=
  h.issue fun _ _ _ ht _ => ht.padIssue
theorem SoundMaps.waitLane {o lane} (h : SoundMaps s) : SoundMaps (s.waitLane o lane) := by
  unfold State.waitLane
  split
  · exact h
  next e =>
    have := h.opAcc e
    exact .ite h (.ite (.ite h.retryElements.homeFault h.retryElements) (.ite h.ecc h.ecc.homeFault))
theorem SoundMaps.lookAt {x} (h : SoundMaps s) : SoundMaps (s.lookAt x) := .evalWait (.foldl h fun _ ht _ => ht.waitLane)

/-! ## Machine/Copy.lean -/
/-! ## Machine/Copy.lean -/

theorem SoundMaps.findPages {w asid rd wr walks l} (h : SoundMaps s) :
    SoundMaps (s.findPages w asid rd wr walks l).2 := by
  induction l generalizing s with
  | nil => exact h
  | cons x r ih =>
    unfold State.findPages
    split
    rename_i e
    have ht := SoundMaps.of_eq (.snd_ite h.search h) e
    split
    · exact ht
    · exact ht
    · split
      next e => exact ih ht |>.of_eq e
      · exact ih ht
theorem SoundMaps.copyPages {w a walks} (h : SoundMaps s) : SoundMaps (s.copyPages w a walks).2 := by
  unfold State.copyPages
  extract_lets sp dp fault run
  have hrun {t : State} {perm : Bool} (ht : SoundMaps t) : SoundMaps (run t perm).2 := by
    dsimp only [run]
    split
    next e => exact ht.findPages.of_eq e
    next e => exact ht.findPages.of_eq e
    next e =>
      split
      all_goals next e' => exact (ht.findPages.of_eq e).findPages.of_eq e'
  split
  next e => exact (hrun h).of_eq e
  next e => exact (hrun h).of_eq e
  next e =>
    split
    all_goals next e' => exact (hrun ((hrun h).of_eq e)).of_eq e'
theorem SoundMaps.copyGate {o} (h : SoundMaps s) : SoundMaps (s.copyGate o) := by
  unfold State.copyGate
  split
  · exact h
  next ex =>
    refine .ite h ?_
    split
    next e => exact (h.detCheck _ e).updOp
    · exact h.warpTrap (h.op ex)
theorem SoundMaps.copyOp {f form mk lane} (h : SoundMaps s) : KeepsMaps (copyOp f s form mk lane) :=
  h.issue fun _ _ _ ht _ => .ite ht.trapAt ht.enterOp.copyGate
theorem SoundMaps.copyWalk {o m} (h : SoundMaps s) : SoundMaps (s.copyWalk o m) := by
  unfold State.copyWalk
  split
  · exact h
  next e =>
    have := h.op e
    exact .ite h (.copyGate (.ite (.foldl_snd h fun _ _ ht => ht.copyPages.updAcc) (.laneFaults (.foldl_snd h fun _ _ ht => ht.copyPages.updAcc))))
theorem SoundMaps.copyRead {o lane off} (h : SoundMaps s) : SoundMaps (s.copyRead o lane off) := by
  unfold State.copyRead
  split
  · exact h
  · exact .ite h (.updAcc (.snd_snd_ite h.retryElements (.snd_snd_ite h.ecc.loadBytes (.snd_snd_ite h.ecc h.ecc))))
theorem SoundMaps.copyWrite {o lane off c stamp} (h : SoundMaps s) : SoundMaps (s.copyWrite o lane off c stamp) := by
  unfold State.copyWrite
  split
  · exact h
  next e =>
    have := h.opAcc e
    refine .ite h (.ite (.ite h.updAcc.laneFaults ?_) ?_)
    · refine .ite (.ite ?_ (.laneFaults ?_)) (.applyWrite (.ite (.setPoison ?_) ?_))
      all_goals exact (SoundMaps.setPoison h.updAcc).ecc
    · split
      · split
        · exact h.updAcc.updLaunch fun _ hl => hl.map fun _ hc => .ite hc hc
        · split
          · exact h.updAcc.updCore
          · exact h.updAcc
      · exact h.updAcc.updCore
theorem SoundMaps.copyDone {o lane} (h : SoundMaps s) : SoundMaps (s.copyDone o lane) := by
  unfold State.copyDone
  split
  · exact h
  · exact .ite h.updAcc.settle h
theorem SoundMaps.execCopySourceReadDone {op} (h : SoundMaps s) : KeepsMaps (execCopySourceReadDone op s) := by
  unfold Machine.execCopySourceReadDone
  refine .next ?_
  split
  · exact h
  · exact .ite h (.foldl (.updOp (.updWarp (.foldl h fun _ ht _ => .ite (.foldl ht fun _ ht1 _ => ht1.copyRead) ht)
      fun _ hw => hw.flagDown)) fun _ ht _ => ht.copyDone)
theorem SoundMaps.execCopyDestWrite {op lane off count} (h : SoundMaps s) : KeepsMaps (execCopyDestWrite op lane off count s) := by
  unfold Machine.execCopyDestWrite
  refine .next ?_
  split
  · exact h
  · exact .ite h (.copyDone (.foldl (.snd_ite (.foldl h fun _ ht _ => ht.copyRead) (.stampAt
    (.foldl h fun _ ht _ => ht.copyRead))) fun _ ht _ => .foldl ht fun _ ht1 _ => ht1.copyWrite))

/-! ## Machine/Barrier.lean -/

theorem SoundMaps.updRing {p f} (h : SoundMaps s) : SoundMaps (s.updRing p f) := .ite (h.same (by rfl)) h.updPdk
theorem SoundMaps.report {p r} (h : SoundMaps s) : SoundMaps (s.report p r) := by
  unfold State.report
  dsimp only
  exact h.updRing
theorem SoundMaps.reportDone {p seq} (h : SoundMaps s) : SoundMaps (s.reportDone p seq) := h.report
theorem SoundMaps.reportFail {p seq reason} (h : SoundMaps s) : SoundMaps (s.reportFail p seq reason) := h.report
theorem SoundMaps.devVWrite {p asid va bs lid} (h : SoundMaps s) : SoundMaps (s.devVWrite p asid va bs lid) := by
  unfold State.devVWrite
  split
  · exact h.devStore
  · exact h.postFault
theorem SoundMaps.mirror {p g} (h : SoundMaps s) : SoundMaps (s.mirror p g) := by
  unfold State.mirror
  split
  · exact h
  · exact h.devVWrite
theorem SoundMaps.updNbs {launch which f} (h : SoundMaps s) : SoundMaps (s.updNbs launch which f) :=
  h.updLaunch fun _ hl => hl.map fun _ hc => .ite hc hc
theorem SoundMaps.phaseLimit {p g b b'} (h : SoundMaps s) : SoundMaps (s.phaseLimit p g b b') := by
  unfold State.phaseLimit
  split
  · exact h
  · refine .ite ?_ h
    dsimp only
    split
    · exact h.updLaunch.reportFail
    · exact h.updLaunch
theorem SoundMaps.changeGroup {p g turn f} (h : SoundMaps s) : SoundMaps (s.changeGroup p g turn f) := h.phaseLimit.updPdk.mirror
theorem SoundMaps.leaveGroup {w g} (h : SoundMaps s) : SoundMaps (s.leaveGroup w g) := h.changeGroup.updWarp.updNbs.updNbs
theorem SoundMaps.joinGroup {w g} (h : SoundMaps s) : SoundMaps (s.joinGroup w g) := h.changeGroup.updNbs
theorem SoundMaps.groupOp {wid w f k} (h : SoundMaps s) (hw : w.Sound := by assumption) : SoundMaps (s.groupOp wid w f k) := h.addOp
theorem SoundMaps.arriveOp {f waits} (h : SoundMaps s) : KeepsMaps (arriveOp f s waits) :=
  h.issue fun _ _ _ ht _ => .ite ht.simpleOp (.ite ht.trapAt ht.groupOp)
theorem SoundMaps.execBarw {f} (h : SoundMaps s) : KeepsMaps (execBarw f s) := by
  unfold Machine.execBarw
  refine h.issue fun _ _ _ ht _ => .ite ht.simpleOp (.ite ht.trapAt ?_)
  split
  · exact ht.trapAt
  · exact ht.groupOp
theorem SoundMaps.execNbar {f} (h : SoundMaps s) : KeepsMaps (execNbar f s) := by
  unfold Machine.execNbar
  refine h.issue fun _ _ _ ht _ => .ite ht.simpleOp ?_
  split
  · exact ht.trapAt
  · refine .ite ht.trapAt (.ite ?_ ht.groupOp)
    split
    · exact ht.trapAt
    · exact ht.groupOp
theorem SoundMaps.applyArrival {x nb g waits} (h : SoundMaps s) : SoundMaps (s.applyArrival x nb g waits) := by
  unfold State.applyArrival
  dsimp only
  split
  · exact h.endOp
  · refine .ite_of (.ite h.updNbs.updWarp (.updWarp (.changeGroup ?_))) (·.updOp) (·.landRegs.endOp)
    split
    · split
      · exact h.mergeClock
      · exact h
    · exact h
theorem SoundMaps.execBarrierArrivalApply {op} (h : SoundMaps s) : KeepsMaps (execBarrierArrivalApply op s) := by
  unfold Machine.execBarrierArrivalApply
  refine .next ?_
  split
  · exact h
  · refine .ite h ?_
    split
    · exact h.applyArrival
    · exact h.joinGroup.endOp
    · exact h.leaveGroup.endOp
    · exact h
theorem SoundMaps.passPhase {w nb g t} (h : SoundMaps s) : SoundMaps (s.passPhase w nb g t) := .ite h.updWarp h
theorem SoundMaps.notify {x} (h : SoundMaps s) : SoundMaps (s.notify x) := by
  unfold State.notify
  refine .ite h ?_
  split
  · refine .endOp (.passPhase ?_)
    split
    · split
      · exact h.mergeClock
      · exact h
    · exact h
  · exact h
theorem SoundMaps.execBarrierNotify {op} (h : SoundMaps s) : KeepsMaps (execBarrierNotify op s) := by
  unfold Machine.execBarrierNotify
  refine .next ?_
  split
  · exact h
  · exact .ite h.notify h
theorem SoundMaps.bitOp {f set} (h : SoundMaps s) : KeepsMaps (bitOp f s set) := by
  unfold Machine.bitOp
  refine h.issue fun _ _ _ ht _ => .ite ht.simpleOp ?_
  split
  · exact ht.trapAt
  · exact .ite ht.trapAt ht.memIssue
theorem SoundMaps.bitsetWord {x a} (h : SoundMaps s) (hx : x.before.Sound := by assumption) : SoundMaps (s.bitsetWord x a) :=
  .ite h (.ite h.laneFaults (.ite (.settle (.updOp (.ite h.ecc.stampAt.applyWrite h.ecc.stampAt))) h.ecc.laneFaults))

/-! ## Machine/Context.lean -/

theorem SoundMaps.dropRecs {c b n} (h : SoundMaps s) : SoundMaps (s.dropRecs c b n) := h.same (by rfl)
theorem SoundMaps.assignWindow {c p launch asid n} (h : SoundMaps s) : YieldsMaps (·) (s.assignWindow c p launch asid n) :=
  .ite (.some h) (.map fun _ _ => h.dropRecs.updCore)
theorem SoundMaps.releaseWindows {c} (h : SoundMaps s) : SoundMaps (s.releaseWindows c) := h.updCore
theorem SoundMaps.setMapBit {p asid slot v} (h : SoundMaps s) : SoundMaps (s.setMapBit p asid slot v) := by
  unfold State.setMapBit
  split
  · exact h
  · exact h.ecc.devStore
theorem SoundMaps.takeSlots {w x} (h : SoundMaps s) (e : s.takeSlots w = .ok x) : SoundMaps x.2 := by
  unfold State.takeSlots at e
  dsimp only at e
  split at e
  · cases e
    exact h
  · revert x
    refine @fun x => List.foldlRecOn
      (motive := fun (r : Except (Option (Nat × Nat × Nat)) (SMap 32 × State)) => ∀ x, r = .ok x → SoundMaps x.2) _ _ ?_ ?_ x
    · intro x e
      cases e
      exact h
    · intro r hr i _ x e
      split at e
      · cases e
      · have ht := hr _ rfl
        split at e
        · cases e
          exact ht
        · split at e
          · cases e
          · cases e
          · cases e
            exact ht.setMapBit
theorem SoundMaps.freeSlots {w m} (h : SoundMaps s) : SoundMaps (s.freeSlots w m) := .foldl h fun _ ht _ => .ite ht ht.setMapBit
theorem SoundMaps.ctxPut {p pa bs} (h : SoundMaps s) : SoundMaps (s.ctxPut p pa bs) := .ite h.devWrite h.ifError
theorem SoundMaps.ctxWrite {p pa bs} (h : SoundMaps s) : SoundMaps (s.ctxWrite p pa bs) := .foldl h fun _ ht _ => ht.ctxPut
theorem SoundMaps.writeEntry {p r} (h : SoundMaps s) : SoundMaps (s.writeEntry p r) := h.ctxPut
/-- A room changes, but not the record it holds, as most changes do by `rfl`. -/
theorem SoundMaps.updRoom {p idx f} (h : SoundMaps s) (hf : ∀ r, r.Sound → (f r).Sound := by exact fun _ hr => hr) :
    SoundMaps (s.updRoom p idx f) := by
  unfold State.updRoom
  split
  · exact h
  next r e =>
    refine .writeEntry (.updPdk h ?_)
    intro q hq
    refine ⟨hq.1, hq.2.1, fun x hx => ?_⟩
    obtain ⟨y, hy, rfl⟩ := List.mem_map.1 hx
    split
    · exact hf r (h.pdk.2.2 r (List.mem_of_find?_eq_some e))
    · exact hq.2.2 y hy
theorem SoundMaps.freeRoom {p idx} (h : SoundMaps s) : SoundMaps (s.freeRoom p idx) :=
  h.updRoom.updPdk fun _ hq => ⟨hq.1, hq.2.1, fun r hr => hq.2.2 r (List.mem_filter.1 hr).1⟩
theorem SoundMaps.writeRoom {p idx bs} (h : SoundMaps s) : SoundMaps (s.writeRoom p idx bs) := by
  unfold State.writeRoom
  split
  · exact h
  · exact h.ctxWrite
/-- A room is reserved that holds no record, or a sound one. -/
theorem SoundMaps.reserveRoom {p n r} (h : SoundMaps s) (hr : r.Sound) : YieldsMaps Prod.snd (s.reserveRoom p n r) := by
  unfold State.reserveRoom
  dsimp only
  split
  · refine .some (.writeEntry (.updPdk h ?_))
    exact fun _ hq => hq.addRoom hr
  · exact .none
theorem SoundMaps.execParkedRecordWrite (h : SoundMaps s) : KeepsMaps (execParkedRecordWrite s) := by
  unfold Machine.execParkedRecordWrite
  refine .next ?_
  split
  · exact h
  next r e =>
    have hr := h.parked r (List.mem_of_find?_eq_some e)
    have ht : SoundMaps { s with parked := s.parked.filter (·.id != r.id) } := h.setParked fun q hq => h.parked q (List.mem_filter.1 hq).1
    dsimp only
    split
    · exact ht
    · refine .writeRoom (.updWarp (.updRoom ht ?_))
      exact fun _ _ k hk => Option.some.inj hk ▸ hr

/-! ## Machine/Select.lean -/

theorem SoundMaps.updSel {c f} (h : SoundMaps s) : SoundMaps (s.updSel c f) := by
  unfold State.updSel
  dsimp only
  split
  · exact h.updCore.updWarp
  · exact h.updCore
theorem SoundMaps.freeSel {c} (h : SoundMaps s) : SoundMaps (s.freeSel c) := by
  unfold State.freeSel
  split
  · exact h
  · exact h.updCore.updWarp
theorem SoundMaps.selWord {p c u k} (h : SoundMaps s) : SoundMaps (s.selWord p c u k).2 := by
  unfold State.selWord
  split
  · dsimp only
    split
    next e => exact h.ecc.of_eq e
    next e => exact .snd_ite (h.ecc.of_eq e) (h.ecc.of_eq e).freeVal
  · exact .snd_ite h.freeVal h
theorem SoundMaps.selRead {c} (h : SoundMaps s) : SoundMaps (s.selRead c) := by
  unfold State.selRead
  exact .updSel (.foldl_snd h fun _ _ ht => ht.selWord)
theorem SoundMaps.selReturn {c} (h : SoundMaps s) : SoundMaps (s.selReturn c) := by
  unfold State.selReturn
  split
  · exact h
  · exact h.updCore.updSel
theorem SoundMaps.selGate {o} (h : SoundMaps s) : SoundMaps (s.selGate o) := by
  unfold State.selGate
  split
  · exact h
  next ex =>
    refine .ite h ?_
    split
    next e => exact (h.detCheck _ e).updOp
    · exact h.warpTrap (h.op ex)
theorem SoundMaps.selOrphans {wid q} (h : SoundMaps s) : SoundMaps (s.selOrphans wid q) := by
  unfold State.selOrphans
  refine .foldl h fun _ ht _ => ?_
  dsimp only
  split
  · exact ht.updOp
  · exact (ht.updWarp fun _ hw => hw.selOrder).updOp
theorem SoundMaps.selStart {c} (h : SoundMaps s) : SoundMaps (s.selStart c) := by
  unfold State.selStart
  dsimp only
  split
  · exact h
  · split
    · exact .ite h.updSel.freeSel h.updSel
    · exact .ite h h.updSel
theorem SoundMaps.selFinish {c} (h : SoundMaps s) : SoundMaps (s.selFinish c) := by
  unfold State.selFinish
  dsimp only
  split
  · exact h
  · refine .ite_of (.endOp (.updSel ?_)) (·.freeSel.selOrphans) id
    split
    · exact h.landRegs
    · exact h
theorem SoundMaps.selWhole {wid w f g bind stream k} (h : SoundMaps s)
    (hk : ∀ v asid t, SoundMaps t → SoundMaps (k v asid t)) (hw : w.Sound := by assumption) : SoundMaps (s.selWhole wid w f g bind stream k) := by
  unfold State.selWhole
  refine .ite h.simpleOp (.ite h.trapAt ?_)
  split
  · exact h.trapAt
  · exact h.trapAt
  · exact hk _ _ _ h
theorem SoundMaps.selQueue {c o k} (h : SoundMaps s) : SoundMaps (s.selQueue c o k) := h.updSel
theorem SoundMaps.selCommand {f g cmd} (h : SoundMaps s) : KeepsMaps (selCommand f s g cmd) := by
  unfold Machine.selCommand
  refine h.issue fun _ _ _ ht _ => ht.selWhole fun _ _ _ ht1 => .ite ht1.addOp.selQueue ?_
  split
  · exact ht1.landIn
  · exact (ht1.updWarp fun _ hw => hw.selOrder).simpleOp
theorem SoundMaps.selPages {w a walks} (h : SoundMaps s) : SoundMaps (s.selPages w a walks).2 := by
  unfold State.selPages
  split
  all_goals next e => exact h.findPages.of_eq e
theorem SoundMaps.selWalk {o m} (h : SoundMaps s) : SoundMaps (s.selWalk o m) := by
  unfold State.selWalk
  split
  · exact h
  next e =>
    have := h.op e
    exact .ite h (.selGate (.ite (.foldl_snd h fun _ _ ht => ht.selPages.updAcc) (.laneFaults (.foldl_snd h fun _ _ ht => ht.selPages.updAcc))))
theorem SoundMaps.execQsbind {f} (h : SoundMaps s) : KeepsMaps (execQsbind f s) := by
  unfold Machine.execQsbind
  refine .ite (.next h.setIssuing) (h.issue fun _ _ _ ht _ => ht.selWhole fun _ _ _ ht => ?_)
  have henter {t : State} {c : Prop} [Decidable c] {core g x o cmd} (ht : SoundMaps t) (hx : x.before.Sound := by assumption) :
      SoundMaps ((((if c then t else t.updSel core g).addOp x).2).selQueue core o cmd) := .selQueue (.addOp (.ite ht ht.updSel))
  refine .ite (henter ht) (.ite (.ite ht.trapAt ?_) (.ite ?_ (henter ht)))
  · dsimp only
    split
    · exact ht.trapAt
    next e =>
      have hu := YieldsMaps.ite ht.detCheck (.some ht) _ e
      exact .ite (henter hu) (henter hu).laneFaults.selGate
  · dsimp only
    split
    next e => exact henter (ht.detCheck _ e)
    · exact ht.trapAt

/-! ## Machine/Draft.lean -/

theorem SoundMaps.copyLines {p src dst leave stamp} (h : SoundMaps s) : SoundMaps (s.copyLines p src dst leave stamp) :=
  .foldl (h.same (by rfl)) fun _ ht _ => ht.evalWait
theorem SoundMaps.clearMarks {dev} (h : SoundMaps s) : SoundMaps (s.clearMarks dev) := h.same (by rfl)
theorem SoundMaps.moveFrame {p dev} (h : SoundMaps s) : SoundMaps (s.moveFrame p dev) := by
  unfold State.moveFrame
  refine .ite h ?_
  split
  · exact h
  next r _ => exact .mgmtCount (.same (by rfl) (h.updPdk (p := p) (f := fun q => { q with pool := r })))
theorem SoundMaps.pageCommit {p frame com drop stamp} (h : SoundMaps s) : YieldsMaps (·) (s.pageCommit p frame com drop stamp) := by
  unfold State.pageCommit
  split
  · exact .ite (.none) (.ite (.some h.copyLines.moveFrame.clearMarks) (.some h.copyLines.copyLines.moveFrame.clearMarks))
  · exact .none
theorem SoundMaps.pageSpec {p asid va frame stamp} (h : SoundMaps s) : YieldsMaps (·) (s.pageSpec p asid va frame stamp) := by
  unfold State.pageSpec
  split
  · exact .none
  · split
    · refine .ite (.none) (.some ?_)
      split
      · exact h.updPdk.copyLines.clearMarks.devWrite
      · exact h.updPdk.copyLines.clearMarks
    · exact .none
theorem SoundMaps.pageLane {w op a walks} (h : SoundMaps s) : SoundMaps (s.pageLane w op a walks).2 := by
  unfold State.pageLane
  dsimp only
  split
  next va _ =>
    have ht : SoundMaps (if walks then s.translate w.core w.pdk a.asid va
        else match s.tlbHit w.core w.pdk a.asid va with | some e => (.leaf e, s) | none => (.fault 0 false, s)).2 := by
      refine .snd_ite h.translate ?_
      split <;> exact h
    split
    · exact ht
    · exact ht
    · split
      · exact .snd_ite ht ht
      · exact ht
  · exact h
theorem SoundMaps.pageInstr {f op} (h : SoundMaps s) : KeepsMaps (pageInstr f s op) :=
  h.issue fun _ _ _ ht _ => .ite ht.trapAt (.ite ht.trapAt ht.enterOp)
theorem SoundMaps.pageInstrWalk {o m op} (h : SoundMaps s) : SoundMaps (s.pageInstrWalk o m op) := by
  unfold State.pageInstrWalk
  split
  · exact h
  next e =>
    have := h.op e
    exact .ite h (.ite (.foldl_snd h fun _ _ ht => ht.pageLane.updAcc) (.laneFaults (.foldl_snd h fun _ _ ht => ht.pageLane.updAcc)))
theorem SoundMaps.pageGate {x op k} (h : SoundMaps s) (hk : ∀ t, SoundMaps t → SoundMaps (k t)) (hx : x.before.Sound := by assumption) :
    SoundMaps (s.pageGate x op k) := by
  unfold State.pageGate
  refine .ite (hk _ h) ?_
  split
  next e => exact hk _ (h.detCheck _ e).updOp
  · exact h.warpTrap
theorem SoundMaps.pageFrame {x op frame} (h : SoundMaps s) (hx : x.before.Sound := by assumption) : SoundMaps (s.pageFrame x op frame) := by
  unfold State.pageFrame
  dsimp only
  split
  · exact h
  · split
    next t e =>
      refine (SoundMaps.updOp ?_).settle
      refine YieldsMaps.ite (π := (·)) .none ?_ t e
      split
      · exact h.stampAt.pageCommit
      · exact .ite h.stampAt.pageSpec .none
    · exact h.stampAt.laneFaults
theorem SoundMaps.execPageOpApply {op frame} (h : SoundMaps s) : KeepsMaps (execPageOpApply op frame s) := by
  unfold Machine.execPageOpApply
  refine .next ?_
  split
  · exact h
  next e =>
    have := h.op e
    split
    · exact .ite h (h.pageGate fun _ ht => ht.pageFrame)
    · exact h
theorem SoundMaps.forkPage {p parent child va} (h : SoundMaps s) : YieldsMaps (·) (s.forkPage p parent child va) := by
  unfold State.forkPage
  split
  · split
    · split
      · exact .ite (.none) (.some h.updPdk.copyLines.copyLines.clearMarks.clearMarks.devWrite)
      · exact .none
    · exact .none
  · exact .none
theorem SoundMaps.forkStream {p parent child f from_ to_} (h : SoundMaps s) : YieldsMaps (·) (s.forkStream p parent child f from_ to_) := by
  unfold State.forkStream
  split
  · split
    · exact .none
    · split
      · exact .none
      · refine .some ?_
        dsimp only
        split
        · exact h.devWrite.devWrite
        · exact h.devWrite
  · exact .none
theorem SoundMaps.execSequenceFork {p parent child f pages streams} (h : SoundMaps s) :
    KeepsMaps (execSequenceFork p parent child f pages streams s) := by
  unfold Machine.execSequenceFork
  refine .next ?_
  split
  · exact h.same (by rfl)
  next e =>
    refine .same (by rfl) (List.foldlRecOn (motive := YieldsMaps (·)) _ _ ?_ (fun _ hr _ _ => .bind fun t e => (hr t e).forkStream) _ e)
    exact List.foldlRecOn (motive := YieldsMaps (·)) _ _ (.some h) fun _ hr _ _ => .bind fun t e => (hr t e).forkPage

/-! ## Machine/Matrix.lean -/

theorem SoundMaps.updRes {c id f} (h : SoundMaps s) : SoundMaps (s.updRes c id f) := h.updCore
theorem SoundMaps.updJob {o f} (h : SoundMaps s) : SoundMaps (s.updJob o f) := h.same (by rfl)
theorem SoundMaps.placeMres {j} (h : SoundMaps s) : SoundMaps (s.placeMres j) := by
  unfold State.placeMres
  split
  · refine .ite h ?_
    dsimp only
    split
    · exact h.updJob
    · exact h.updCore.updJob
  · exact h
theorem SoundMaps.startEffect {j r} (h : SoundMaps s) : SoundMaps (s.startEffect j r) := by
  unfold State.startEffect
  dsimp only
  split
  · exact .ite h h.updRes.updJob
  · exact h.updCore
  · exact h.updCore
  · exact h.retryElements.updJob
  · exact h.retryElements.updJob
  · exact .updJob (.ite h.retryElements.updCore.updRes h.retryElements.updCore)
  · exact h
theorem SoundMaps.startJob {j} (h : SoundMaps s) : SoundMaps (s.startJob j) := by
  unfold State.startJob
  dsimp only
  split
  · exact h.updJob
  · split
    · exact h.updJob
    · refine .ite h.updJob ?_
      split
      · refine .updJob (.updJob ?_)
        refine .startEffect ?_
        split
        · exact h.updJob
        · exact h
      · exact h.updJob
theorem SoundMaps.tryStart {j} (h : SoundMaps s) : SoundMaps (s.tryStart j) :=
  .ite h (.ite (h.same (by rfl)) (.ite (h.same (by rfl)).endOp h.startJob))
theorem SoundMaps.withJob {o k} (h : SoundMaps s) (hk : ∀ t, SoundMaps t → ∀ j, SoundMaps (k t j)) :
    SoundMaps (s.withJob o k) := by
  unfold State.withJob
  split
  · exact hk _ h _
  · exact h
theorem SoundMaps.execMatrixCommandStart (h : SoundMaps s) : KeepsMaps (execMatrixCommandStart s) :=
  .next (.foldl h fun _ ht _ => .withJob (ht.withJob fun _ ht1 _ => ht1.placeMres) fun _ ht1 _ => ht1.tryStart)
theorem SoundMaps.jobRead {j} (h : SoundMaps s) : SoundMaps (s.jobRead j) := h.updJob
theorem SoundMaps.bankCycle {c} (h : SoundMaps s) : SoundMaps (s.bankCycle c) :=
  .accessCycle (.foldl (.ite h.selRead h) fun _ ht _ => ht.jobRead)
theorem SoundMaps.statusCheck {j} (h : SoundMaps s) : YieldsMaps (·) (s.statusCheck j) := .ite h.detCheck (.some h)
theorem SoundMaps.undoJob {j} (h : SoundMaps s) : SoundMaps (s.undoJob j) := by
  unfold State.undoJob
  extract_lets t u
  have ht : SoundMaps t := by
    refine .ite ?_ h
    split
    · exact h.updRes
    · exact h
  have hu : SoundMaps u := ht.same (by rfl)
  split
  next e => exact hu.warpTrap (hu.op e)
  · exact hu
theorem SoundMaps.endEffect {j r} (h : SoundMaps s) : SoundMaps (s.endEffect j r).1 := by
  unfold State.endEffect
  dsimp only
  split
  · dsimp only
    exact h.updCore
  · dsimp only
    exact h.updRes.updCore
  · dsimp only
    exact h.updRes
  · dsimp only
    exact h.updRes.updCore
  · dsimp only
    exact h.updCore fun _ _ => .ite (h.core.of_padq rfl) (h.core.of_padq rfl)
  · split
    · exact h.updCore.laneFaults h.opD
    · exact h.landRegs
  · exact h
theorem SoundMaps.finishJob {j} (h : SoundMaps s) : SoundMaps (s.finishJob j) := by
  unfold State.finishJob
  refine .ite h ?_
  dsimp only
  split
  next r _ =>
    have ht := h.endEffect (j := j) (r := r)
    refine .ite (ht.same (by rfl)).endOp ?_
    split
    next e => exact (ht.statusCheck _ e).updJob
    · exact h.undoJob
  · refine .ite (h.same (by rfl)).endOp ?_
    split
    next e => exact (h.statusCheck _ e).updJob
    · exact h.undoJob
theorem SoundMaps.doStat {j clear} (h : SoundMaps s) : SoundMaps (s.doStat j clear) := by
  unfold State.doStat
  split
  · exact h.same (by rfl)
  next e =>
    have := h.op e
    refine .ite h.warpTrap ?_
    split
    next e => exact (h.search.of_eq e).laneFaults
    next e => exact h.search.of_eq e
    next e =>
      have ht := h.search.of_eq e
      refine .ite ht ?_
      dsimp only
      split
      · exact ht.warpTrap
      next e =>
        have hu := YieldsMaps.ite ht.detCheck (.some ht) _ e
        exact .ite hu.ecc.laneFaults (.settle (.setJobs (.updOp (.landRegs
          (.ite hu.ecc.mergeClock (.ite hu.ecc.mergeClock.devStore hu.ecc.mergeClock.devVWrite))))))
theorem SoundMaps.execMatrixCommandComplete (h : SoundMaps s) : KeepsMaps (execMatrixCommandComplete s) := by
  unfold Machine.execMatrixCommandComplete
  refine .next (.foldl h ?_)
  intro _ ht _
  split
  · exact .ite ht.doStat ht
  · exact ht.finishJob
theorem SoundMaps.execMatrixStatusUpdate {cmd} (h : SoundMaps s) : KeepsMaps (execMatrixStatusUpdate cmd s) := by
  unfold Machine.execMatrixStatusUpdate
  refine .next ?_
  split
  · exact h
  · exact .ite h (h.devVWrite.same (by rfl)).endOp
theorem SoundMaps.matInstr {f g cmd data} (h : SoundMaps s) : KeepsMaps (matInstr f s g cmd data) := by
  unfold Machine.matInstr
  refine h.issue fun _ _ _ ht _ => .ite ht.trapAt ?_
  split
  · exact ht.trapAt
  · refine .ite ht.trapAt (.ite ht.trapAt (.ite ht.trapAt (.ite ht.trapAt (.ite ht.trapAt ?_))))
    split
    · exact ht.trapAt
    next e =>
      have hu := YieldsMaps.ite ht.detCheck (.some ht) _ e
      exact .ite hu.simpleOp (.setJobs hu.addOp)
theorem SoundMaps.execMres {f} (h : SoundMaps s) : KeepsMaps (execMres f s) := by
  unfold Machine.execMres
  exact h.matInstr

/-! ## Machine/Handler.lean -/

theorem SoundMaps.dropWarp {wid} (h : SoundMaps s) : SoundMaps (s.dropWarp wid) :=
  have ht := SoundMaps.ite (c := ((s.freeLocks wid).core (s.warp wid).core).sel.holder == some wid) h.freeLocks.freeSel h.freeLocks
  ht.setWarps fun w hw => ht.warps w (List.mem_filter.1 hw).1
theorem SoundMaps.ejectLanes {v m} (h : SoundMaps s) : SoundMaps (s.ejectLanes v m) := by
  unfold State.ejectLanes
  split
  · exact h
  · dsimp only
    split
    next e =>
      obtain ⟨o, _, e⟩ := Option.bind_eq_some_iff.1 e
      exact h.ejectServed (h.op e)
    · split
      · exact h
      · exact h.ejectServed h.warp
theorem SoundMaps.release {v} (h : SoundMaps s) : SoundMaps (s.release v) := by
  unfold State.release
  split
  · exact h
  · exact .ite h.updWarp.updWarp h.updWarp
theorem SoundMaps.noHandler {c} (h : SoundMaps s) (hc : ∀ x ∈ c.op, x.before.Sound) : SoundMaps (s.noHandler c) := by
  unfold State.noHandler
  dsimp only
  split
  next e => exact h.ejectServed (hc _ e)
  · exact .ite (h.ejectServed h.warp).updWarp (h.ejectServed h.warp)
theorem SoundMaps.formHandler {c im slot} (h : SoundMaps s) : SoundMaps (s.formHandler c im slot) :=
  have ht : SoundMaps (s.takeId.2.updWarp c.wid fun w => { w.landAll with heldBy := some s.nextId }) :=
    h.takeId.updWarp fun _ hw => hw.landAll.of_regs rfl
  ht.setWarps fun w hw => (List.mem_append.1 hw).elim (ht.warps w) fun e => List.mem_singleton.1 e ▸ Warp.Sound.default.of_regs rfl
theorem SoundMaps.dropDead {wid x} (h : SoundMaps s) : SoundMaps (s.dropDead wid x) := h.updOp.settle
theorem SoundMaps.caseOp {c} (h : SoundMaps s) (hc : c ∈ s.cases) : ∀ x ∈ c.op, x.before.Sound := by
  intro x e
  obtain hc | hc := List.mem_append.1 hc
  · obtain ⟨y, hy, rfl⟩ := List.mem_map.1 hc
    exact Option.some.inj e ▸ h.ops y (List.mem_filter.1 hy).1
  · obtain ⟨y, _, rfl⟩ := List.mem_map.1 hc
    cases e
theorem SoundMaps.execHandlerStart (h : SoundMaps s) : KeepsMaps (execHandlerStart s) := by
  unfold Machine.execHandlerStart
  refine .next ?_
  split
  · exact h
  next c ec =>
    have hc := h.caseOp (List.mem_of_mem_head? ec)
    extract_lets w t q room
    have ht : SoundMaps t := by
      dsimp only [t]
      split
      · exact .ite h h.dropDead
      · exact h.same (by rfl)
    refine .ite (.ite ht.updWarp ht) (.ite (ht.noHandler hc) ?_)
    split
    · exact ht.formHandler
    · exact (ht.noHandler hc).countReg
theorem SoundMaps.execHandlerFail (h : SoundMaps s) : KeepsMaps (execHandlerFail s) := by
  unfold Machine.execHandlerFail
  refine .next ?_
  split
  · exact h
  · exact h.countReg.ejectLanes.release.dropWarp
theorem SoundMaps.handlerOp {f k} (h : SoundMaps s) (hk : ∀ wid w t, SoundMaps t → w.Sound → SoundMaps (k wid w t)) :
    KeepsMaps (handlerOp f s k) := h.issue fun _ _ _ ht hw => .ite (hk _ _ _ ht hw) ht.trapAt
theorem SoundMaps.execTret {f} (h : SoundMaps s) : KeepsMaps (execTret f s) := by
  unfold Machine.execTret
  refine h.handlerOp fun _ _ _ ht _ => .dropWarp (.release ?_)
  split
  · exact ht.updOp fun _ hx => Op.before_ite hx hx
  · exact ht
theorem SoundMaps.zeroFrame {dev} (h : SoundMaps s) : SoundMaps (s.zeroFrame dev) := h.same (by rfl)
theorem SoundMaps.mapLane {p asid va} (h : SoundMaps s) : SoundMaps (s.mapLane p asid va).2 := by
  unfold State.mapLane
  dsimp only
  split
  · exact h.noteReads
  · split
    · exact h.noteReads
    · split
      · exact h.noteReads
      · split
        · exact h.noteReads
        · exact h.noteReads.updPdk.zeroFrame.devWrite
theorem SoundMaps.execPgmap {f} (h : SoundMaps s) : KeepsMaps (execPgmap f s) :=
  h.handlerOp fun _ _ _ ht _ => .ite ht.simpleOp (.landIn (.takeId (.foldl_snd ht fun _ _ ht1 => ht1.mapLane)))
theorem SoundMaps.stalePage {p asid page} (h : SoundMaps s) : SoundMaps (s.stalePage p asid page) := by
  unfold State.stalePage
  extract_lets hit stale
  have hst (w : Warp) (hw : w.Sound) : (stale w).Sound := .ite (hw.of_regs rfl) hw
  have hmap (ws : List Warp) (hws : ∀ w ∈ ws, w.Sound) : ∀ w ∈ ws.map stale, w.Sound := by
    intro w hw
    obtain ⟨v, hv, rfl⟩ := List.mem_map.1 hw
    exact hst v (hws v hv)
  refine ⟨h.mgmt, h.clocks, h.frontier, fun q hq => ?_, hmap _ h.warps, h.ops, h.deferred, fun r hr => ?_, h.cores, fun l hl => ?_⟩
  · obtain ⟨p, hp, rfl⟩ := List.mem_map.1 hq
    obtain ⟨hreg, htem, hroom⟩ := h.pdks p hp
    refine ⟨hreg, htem, fun r hr k hk => ?_⟩
    obtain ⟨o, ho, rfl⟩ := List.mem_map.1 hr
    obtain ⟨j, hj, rfl⟩ := Option.map_eq_some_iff.1 hk
    exact hst _ (hroom o ho j hj)
  · obtain ⟨q, hq, rfl⟩ := List.mem_map.1 hr
    exact hst _ (h.parked q hq)
  · obtain ⟨m, hm, rfl⟩ := List.mem_map.1 hl
    exact (h.launches m hm).map fun c hc => ⟨hmap _ hc.1, hc.2⟩
theorem SoundMaps.unmapLane {p asid va ft} (h : SoundMaps s) : SoundMaps (s.unmapLane p asid va ft).2 := by
  unfold State.unmapLane
  dsimp only
  split
  · exact h.noteReads
  · split
    · exact h.noteReads
    · split
      · exact h.noteReads
      · exact .snd_ite h.noteReads (.snd_ite h.noteReads (.ite h.noteReads.devWrite.stalePage h.noteReads.devWrite))
theorem SoundMaps.addDrain {p id d} (h : SoundMaps s) : SoundMaps (s.addDrain p id d) := h.updPdk
theorem SoundMaps.execPgunmap {f} (h : SoundMaps s) : KeepsMaps (execPgunmap f s) :=
  h.handlerOp fun _ _ _ ht _ => .ite ht.simpleOp (.addDrain (.addOp (.foldl_snd ht fun _ _ ht1 => ht1.unmapLane)))
theorem SoundMaps.finishUnmap {p j} (h : SoundMaps s) : SoundMaps (s.finishUnmap p j) := by
  unfold State.finishUnmap
  split
  · exact h
  · extract_lets covers t again u v
    have hu : SoundMaps u := SoundMaps.mapOps (SoundMaps.updPdk h) fun _ hx => Op.before_ite hx hx
    have hv : SoundMaps v := by
      dsimp only [v]
      split
      · exact hu.landRegs.endOp
      · exact hu
    split
    · exact hv.reportDone
    · exact hv
theorem SoundMaps.execUnmapComplete (h : SoundMaps s) : KeepsMaps (execUnmapComplete s) := by
  unfold Machine.execUnmapComplete
  refine .next ?_
  split
  · exact h
  · exact h.finishUnmap

/-! ## Machine/Rink.lean -/

theorem SoundMaps.updRink {f} (h : SoundMaps s) : SoundMaps (s.updRink f) := h.same (by rfl)
theorem SoundMaps.rinkIssue {wid w port k} (h : SoundMaps s) (hk : ∀ t, SoundMaps t → SoundMaps (k t)) (hw : w.Sound := by assumption) :
    SoundMaps (s.rinkIssue wid w port k) := .ite h.trapAt (hk _ h)
theorem SoundMaps.sendFrame {port bits} (h : SoundMaps s) : SoundMaps (s.sendFrame port bits) := .ite (h.same (by rfl)) h
theorem SoundMaps.execTrcv {f} (h : SoundMaps s) : KeepsMaps (execTrcv f s) := by
  unfold Machine.execTrcv
  refine h.issue fun _ _ _ ht _ => ht.rinkIssue fun _ ht1 => ?_
  dsimp only
  split
  · exact ht1.updRink.trapAt
  · exact ht1.updRink.updRink.landIn
theorem SoundMaps.execDrft {f} (h : SoundMaps s) : KeepsMaps (execDrft f s) := by
  unfold Machine.execDrft
  refine h.issue fun _ _ _ ht _ => ht.rinkIssue fun _ ht1 => .ite ht1 ?_
  split
  · exact ht1.trapAt
  · exact ht1.updRink
theorem SoundMaps.trapTask {tstart} (h : SoundMaps s) : SoundMaps (s.trapTask tstart) := .foldl h fun _ ht _ => ht.takeTrap ht.warp
theorem SoundMaps.dropKept {tstart} (h : SoundMaps s) : SoundMaps (s.dropKept tstart) := by
  unfold State.dropKept
  dsimp only
  split
  · exact h.updRink.freeRoom
  · exact h.updRink
theorem SoundMaps.abortTask {tstart} (h : SoundMaps s) : SoundMaps (s.abortTask tstart) :=
  .ite h.updRink.dropKept.updRink h.updRink.dropKept.trapTask
theorem SoundMaps.noteFault {member cause} (h : SoundMaps s) : SoundMaps (s.noteFault member cause) := .ite h h.setMgmt
theorem SoundMaps.findFault {cause tstart} (h : SoundMaps s) : SoundMaps (s.findFault cause tstart) := h.noteFault.flood.abortTask
theorem SoundMaps.memberFault {cause} (h : SoundMaps s) : SoundMaps (s.memberFault cause) :=
  .foldl h.noteFault fun _ ht _ => ht.findFault
theorem SoundMaps.frameFault {cause chan} (h : SoundMaps s) : SoundMaps (s.frameFault cause chan) := by
  unfold State.frameFault
  split
  · exact h.findFault
  · exact h.memberFault
theorem SoundMaps.execRinkFrameRelay (h : SoundMaps s) : KeepsMaps (execRinkFrameRelay s) := by
  unfold Machine.execRinkFrameRelay
  refine .next ?_
  split
  · exact h
  · exact .ite h.updRink.updRink.sendFrame h.updRink.frameFault
theorem SoundMaps.execSkidTake (h : SoundMaps s) : KeepsMaps (execSkidTake s) := by
  unfold Machine.execSkidTake
  refine .next ?_
  split
  · exact h
  · exact h.updRink
theorem SoundMaps.planSkid (h : SoundMaps s) : SoundMaps s.planSkid := .ite h h.updRink.flood.setMgmt
theorem SoundMaps.joinTimed {old : State} {c} (h : SoundMaps s) : SoundMaps (old.joinTimed s c) :=
  .ite h (.ite h.freeze.planSkid h.freeze)
theorem SoundMaps.learnStop {came tstart stop} (h : SoundMaps s) : SoundMaps (s.learnStop came tstart stop) :=
  .ite h h.updRink.flood
theorem SoundMaps.execRinkPreemptAnnounce {p lid} (h : SoundMaps s) : KeepsMaps (execRinkPreemptAnnounce p lid s) := by
  unfold Machine.execRinkPreemptAnnounce
  refine .next ?_
  split
  · exact .ite h.learnStop h
  · exact h

/-! ## Machine/Place.lean -/

theorem SoundMaps.seat {c w} (h : SoundMaps s) (hw : w.Sound) : YieldsMaps (·) (s.seat c w) :=
  .map fun _ _ => h.setWarps fun v hv => (List.mem_append.1 hv).elim (h.warps v) fun e => List.mem_singleton.1 e ▸ hw.of_regs rfl
theorem SoundMaps.seatCore {slots ws c} (h : SoundMaps s) (hws : ∀ w ∈ ws, w.Sound) : YieldsMaps (·) (s.seatCore slots ws c) :=
  .bind fun _ e => ((h.foldSome fun _ ht _ _ => ht.assignWindow) _ e).foldSome fun _ ht w hw => ht.seat (hws w hw)
theorem SoundMaps.seatCores {α : Type} {sit : State → α → Nat → Option State} {cs gs}
    (h : SoundMaps s) (hsit : ∀ t, SoundMaps t → ∀ g ∈ gs, ∀ c, YieldsMaps (·) (sit t g c)) :
    YieldsMaps Prod.snd (Machine.seatCores sit s cs gs) := by
  fun_induction Machine.seatCores sit s cs gs with
  | case1 => exact .some h
  | case2 => exact .none
  | case3 s c cs g gs l t e ih =>
    obtain ⟨u, hu, e⟩ := Option.bind_eq_some_iff.1 e
    exact .some (ih u (hsit s h g List.mem_cons_self c u hu) (fun v hv k hk => hsit v hv k (List.mem_cons_of_mem g hk)) (l, t) e)
  | case4 s c cs g gs e _ ih => exact ih h hsit
theorem SoundMaps.seatSlices {α : Type} {sit : State → α → Nat → Option State} {parts l}
    (h : SoundMaps s) (hsit : ∀ t, SoundMaps t → ∀ g ∈ parts, ∀ c, YieldsMaps (·) (sit t g c)) :
    YieldsMaps (·.2.2) (Machine.seatSlices sit s parts l) := by
  induction l with
  | nil => exact .none
  | cons sl r ih =>
    unfold Machine.seatSlices
    split
    next e => exact .some (h.seatCores hsit _ e)
    · exact ih
theorem SoundMaps.openWindow {c x} (h : SoundMaps s) : YieldsMaps (·) (s.openWindow c x) :=
  .ite (.some h) (.map fun _ e => .updCore (.same (by rfl) (h.assignWindow _ e)))
theorem SoundMaps.openRes {c x} (h : SoundMaps s) : YieldsMaps (·) (s.openRes c x) := by
  unfold State.openRes
  refine .ite (.none) ?_
  split
  · exact .some h.updCore
  · exact .none
theorem SoundMaps.openSel {c z u} (h : SoundMaps s) : SoundMaps (s.openSel c z u) := h.updCore
theorem SoundMaps.seatSaved {slots g c} (h : SoundMaps s) (hg : ∀ w ∈ g.2, w.Sound) : YieldsMaps (·) (s.seatSaved slots g c) := by
  unfold State.seatSaved
  refine .bind fun _ e => .bind fun _ e1 => .map fun _ e2 => ?_
  have ht := (((h.foldSome fun _ ht _ _ => ht.openWindow) _ e).seatCore hg _ e1).foldSome (fun _ ht _ _ => ht.openRes) _ e2
  split
  · exact ht.openSel
  · exact ht
theorem SoundMaps.applyReplay {l cores e} (h : SoundMaps s) : SoundMaps (s.applyReplay l cores e) := by
  unfold State.applyReplay
  split
  · exact h
  · split
    · exact h
    · exact h.updCore
theorem SoundMaps.relock {wid} (h : SoundMaps s) : SoundMaps (s.relock wid) := by
  unfold State.relock
  refine .foldl h.updWarp fun _ ht _ => ?_
  dsimp only
  split
  next e => exact .ite (ht.translate.of_eq e).lockEntry ht
  · exact ht
theorem SoundMaps.reopenWait {cores cl x} (h : SoundMaps s) (hx : x.before.Sound) : SoundMaps (s.reopenWait cores cl x) :=
  h.setOps fun y hy => (List.mem_append.1 hy).elim (h.ops y) fun e => List.mem_singleton.1 e ▸ hx.of_regs rfl
theorem SoundMaps.reopenEval {o} (h : SoundMaps s) : SoundMaps (s.reopenEval o) := by
  unfold State.reopenEval
  split
  · exact h
  next e =>
    have := h.op e
    exact .ite h.walkWait.evalWait h.notify
theorem SoundMaps.warpRooms {l wid} (h : SoundMaps s) : YieldsMaps (·) (s.warpRooms l wid) :=
  h.foldSome fun _ ht _ _ => .map fun _ e => (ht.reserveRoom (.of_park rfl) _ e).updWarp
/-- A cluster changes, but not its warps and waits, as most changes do by `rfl`. -/
theorem SoundMaps.updCluster {l no f} (h : SoundMaps s) (hf : ∀ c, c.Sound → (f c).Sound := by exact fun _ hc => ⟨hc.1, hc.2⟩) :
    SoundMaps (s.updCluster l no f) := h.updLaunch fun _ hl => hl.map fun _ hc => .ite (hf _ hc) hc
theorem freshWarp_sound {id kind l pc live asid arg} : (freshWarp id kind l pc live asid arg).Sound := rising_msetAll _ _ rfl
theorem gridWarp_sound {l cl id k m} : (s.gridWarp l cl id k m).Sound := by
  unfold State.gridWarp
  extract_lets d x y ord w
  exact Warp.Sound.of_regs (w := w) freshWarp_sound rfl
theorem partsOf_sound {l : Launch} {cl : Cluster} (hcl : cl.Sound) : ∀ ws ∈ s.partsOf l cl, ∀ w ∈ ws, w.Sound := by
  intro ws hws w hw
  unfold State.partsOf at hws
  split at hws
  · obtain ⟨c, _, rfl⟩ := List.mem_map.1 hws
    exact hcl.1 w (List.mem_filter.1 hw).1
  · split at hws
    · obtain ⟨k, _, rfl⟩ := List.mem_map.1 hws
      obtain ⟨m, _, rfl⟩ := List.mem_map.1 hw
      exact gridWarp_sound
    · exact hcl.1 w (List.mem_singleton.1 hws ▸ hw)
theorem SoundMaps.seatCluster {l cl die} (h : SoundMaps s) (hcl : cl.Sound) : YieldsMaps (·.2.2.2) (s.seatCluster l cl die) := by
  unfold State.seatCluster
  refine .map fun x e => .foldl ?_ fun _ ht _ => ht.joinTimed
  have hparts := partsOf_sound (s := s) (l := l) hcl
  refine YieldsMaps.ite (π := (·.2.2)) ?_ ?_ x e
  · refine .seatSlices (.ite (h.same (by rfl)) h) fun _ ht g hg _ => ht.seatSaved fun w hw => ?_
    obtain ⟨k, _, rfl⟩ := List.mem_map.1 hg
    cases ek : (s.partsOf l cl)[k]? with
    | none => exact absurd (ek ▸ hw) List.not_mem_nil
    | some ws => exact hparts ws (List.mem_of_getElem? ek) w (by simpa [ek] using hw)
  · exact .seatSlices (.ite (h.same (by rfl)) h) fun _ ht ws hws _ => ht.seatCore (hparts ws hws)
theorem SoundMaps.roomsFor {l cl cores ids} (h : SoundMaps s) : YieldsMaps Prod.snd (s.roomsFor l cl cores ids) := by
  unfold State.roomsFor
  split
  · refine .some ?_
    dsimp only
    exact h.updRoom fun _ _ => .of_park rfl
  · exact .bind fun _ e1 => .map fun _ e2 => (((h.reserveRoom (.of_park rfl) _ e1).foldSome fun _ ht _ _ => ht.warpRooms) _ e2)
theorem SoundMaps.seated {l cl slice cores ids room} (h : SoundMaps s) : SoundMaps (s.seated l cl slice cores ids room) := by
  unfold State.seated
  dsimp only
  refine .mapWarps (h.updCluster fun _ _ => .of_nil rfl rfl) fun w hw => ?_
  exact .ite hw (.ite (hw.of_regs rfl) (hw.of_regs rfl))
theorem SoundMaps.reopen {l cl cores ids} (h : SoundMaps s) (hcl : cl.Sound) : SoundMaps (s.reopen l cl cores ids) :=
  .foldl (.foldl_mem (.foldl (.foldl h fun _ ht _ => ht.applyReplay) fun _ ht _ => ht.relock) fun _ ht x hx => ht.reopenWait (hcl.2 x hx))
    fun _ ht _ => ht.reopenEval
/-- A try that places keeps the maps sound. -/
def PlacesMaps (r : Placed) : Prop := ∀ t, r = .done t → SoundMaps t
theorem SoundMaps.done (h : SoundMaps s) : PlacesMaps (.done s) := by
  intro t e
  cases e
  exact h
theorem PlacesMaps.noRoom : PlacesMaps .noRoom := by
  intro t e
  cases e
theorem PlacesMaps.noSlots {w e} : PlacesMaps (.noSlots w e) := by
  intro t e
  cases e
theorem PlacesMaps.firstPlaced {α : Type} {try_ : α → Placed} {l : List α} (h : ∀ a, PlacesMaps (try_ a)) :
    PlacesMaps (Machine.firstPlaced try_ l) := by
  refine List.foldlRecOn (motive := PlacesMaps) l _ .noRoom fun r hr a _ => ?_
  split
  · exact hr
  · exact h a
  · split
    next e => exact (h a _ e).done
    · exact .noSlots
theorem SoundMaps.slotsAll {l} (h : SoundMaps s) : PlacesMaps (s.slotsAll l) := by
  induction l generalizing s with
  | nil => exact h.done
  | cons wid r ih =>
    unfold State.slotsAll
    split
    · exact .noSlots
    next e => exact ih (h.takeSlots e).updWarp
theorem SoundMaps.placeOne {l cl die} (h : SoundMaps s) (hcl : cl.Sound) : PlacesMaps (s.placeOne l cl die) := by
  unfold State.placeOne
  split
  · exact .noRoom
  next e =>
    split
    · exact .noRoom
    next e' =>
      have hroom := (h.seatCluster hcl _ e).roomsFor _ e'
      split
      next e =>
        refine SoundMaps.done ?_
        split
        · exact ((hroom.slotsAll _ e).seated.reopen hcl).reportDone
        · exact (hroom.slotsAll _ e).seated.reopen hcl
      · exact hroom.slotsAll
theorem SoundMaps.placeUnit {one l cs} (h : SoundMaps s) (hcs : ∀ c ∈ cs, c.Sound)
    (hone : ∀ t, SoundMaps t → ∀ l cl die, cl.Sound → PlacesMaps (one t l cl die)) :
    PlacesMaps (s.placeUnit one l cs) := by
  induction cs generalizing s with
  | nil => exact h.done
  | cons cl r ih =>
    have hcl := fun die => hone _ h (s.launchRec l) cl die (hcs cl List.mem_cons_self)
    unfold State.placeUnit
    refine .firstPlaced fun die => ?_
    split
    next e => exact ih (hcl die _ e) fun c hc => hcs c (List.mem_cons_of_mem _ hc)
    · exact hcl die
theorem SoundMaps.placeHead {p x} (h : SoundMaps s) (e : s.placeHead p = some x) : PlacesMaps x.2.2 := by
  unfold State.placeHead at e
  split at e
  · cases e
  next l cl eq =>
    obtain ⟨hl, hc⟩ := queue_mem (List.mem_of_find?_eq_some eq)
    have hw := h.launches l hl
    split at e
    · cases e
    · split at e
      · cases e
        exact h.placeUnit (fun c hc => hw c (List.mem_filter.1 hc).1) fun _ ht _ _ _ hcl => ht.placeOne hcl
      · cases e
        exact .firstPlaced fun _ => h.placeOne (hw cl hc)
theorem SoundMaps.noteWaiting {p} (h : SoundMaps s) : SoundMaps (s.noteWaiting p) := .ite h.setReg h
theorem SoundMaps.slotsMissing {l cl w e} (h : SoundMaps s) : SoundMaps (s.slotsMissing l cl w e) := by
  unfold State.slotsMissing
  dsimp only
  split
  · exact h.updCluster
  · refine .postFault ?_
    split
    · exact h.updCluster.ecc
    · exact h.updCluster
theorem SoundMaps.execClusterPlace {p} (h : SoundMaps s) : KeepsMaps (execClusterPlace p s) := by
  unfold Machine.execClusterPlace
  refine .next ?_
  split
  next e => exact (h.placeHead e _ rfl).noteWaiting
  · exact .ite h.slotsMissing h
  · exact h.noteWaiting
theorem SoundMaps.execClusterRestore {p idx} (h : SoundMaps s) : KeepsMaps (execClusterRestore p idx s) := by
  unfold Machine.execClusterRestore
  refine .next ?_
  split
  next e => exact .ite (h.placeHead e _ rfl).noteWaiting h
  · exact h
theorem SoundMaps.retryQueue {p} (h : SoundMaps s) : SoundMaps (s.retryQueue p) :=
  h.mapLaunches fun _ hl => Launch.Sound.ite (hl.map fun _ hc => ⟨hc.1, hc.2⟩) hl
/-! ## Machine/Launch.lean -/

theorem SoundMaps.updCmd {p seq f} (h : SoundMaps s) : SoundMaps (s.updCmd p seq f) := h.updRing
theorem SoundMaps.command {p seq opc payload k} (h : SoundMaps s) (hk : ∀ t, SoundMaps t → SoundMaps (k t)) :
    KeepsMaps (s.command p seq opc payload k) := .next (.ite (hk _ h.updCmd) h)
theorem SoundMaps.noteGets {p asid ranges} (h : SoundMaps s) : SoundMaps (s.noteGets p asid ranges) := by
  unfold State.noteGets
  refine .foldl h fun _ ht _ => ?_
  dsimp only
  split
  · exact ht.noteReads.ecc
  · exact ht.noteReads
theorem SoundMaps.enterLaunch {gs l} (h : SoundMaps s) (hl : l.Sound) : SoundMaps (s.enterLaunch gs l) :=
  have ht : SoundMaps { s with nextId := s.nextId + 1, launches := s.launches ++ [l] } :=
    .same (by rfl) (h.addLaunches fun _ hm => List.mem_singleton.1 hm ▸ hl)
  .noteWaiting (.foldl ht.updPdk fun _ ht _ => .ite ht.mirror.devVWrite ht.mirror)
/-- The clusters of an accepted launch are new: they hold no warps and no waits. -/
theorem checkLaunch_sound {p seq payload gs l} (e : s.checkLaunch p seq payload = .ok (gs, l)) : l.Sound := by
  have hc : ∃ d gs', l.clusters = s.clustersOf d gs' := by
    revert e
    unfold State.checkLaunch
    dsimp only
    repeat' split
    all_goals
      intro e
      cases e
    exact ⟨_, _, rfl⟩
  obtain ⟨d, gs', hc⟩ := hc
  intro c hm
  rw [hc] at hm
  obtain ⟨r, -, rfl⟩ := List.mem_map.1 hm
  exact .of_nil rfl rfl
theorem SoundMaps.execLaunch {p seq payload} (h : SoundMaps s) : KeepsMaps (execLaunch p seq payload s) := by
  unfold Machine.execLaunch
  refine h.command fun _ ht => .ite ht.reportFail (.ite ht.reportFail ?_)
  dsimp only
  split
  · exact ht.noteGets.reportFail
  next e => exact ht.noteGets.enterLaunch (checkLaunch_sound e)
theorem SoundMaps.updYard {p y f} (h : SoundMaps s) : SoundMaps (s.updYard p y f) := h.updPdk
theorem SoundMaps.formYardWarp {p y l} (h : SoundMaps s) : SoundMaps (s.formYardWarp p y l) := by
  unfold State.formYardWarp
  split
  · exact h
  · refine .setSeqs (SoundMaps.addLaunches h.takeId.takeId.updPdk fun m hm c hc => ?_)
    cases List.mem_singleton.1 hm
    cases List.mem_singleton.1 hc
    exact ⟨fun w hw => List.mem_singleton.1 hw ▸ rising_msetAll _ _ rfl, fun _ hx => absurd hx List.not_mem_nil⟩
theorem SoundMaps.formYards {p} (h : SoundMaps s) : SoundMaps (s.formYards p) :=
  .noteWaiting (.foldl h fun _ ht _ => ht.formYardWarp)
theorem SoundMaps.execYardpost {p seq payload} (h : SoundMaps s) : KeepsMaps (execYardpost p seq payload s) := by
  unfold Machine.execYardpost
  refine h.command fun _ ht => .ite ht.reportFail (.ite ht.reportFail ?_)
  split
  · exact ht.reportFail
  · exact .ite ht.reportFail (.ite ht.reportFail (.ite ht.updYard.formYards ht.updYard))
theorem SoundMaps.execYardcreate {p seq payload} (h : SoundMaps s) : KeepsMaps (execYardcreate p seq payload s) := by
  unfold Machine.execYardcreate
  refine h.command fun _ ht => .ite ht.reportFail ?_
  split
  · exact ht.reportFail
  · refine .ite ht.reportFail ?_
    dsimp only
    split
    · exact ht.noteGets.reportFail
    · refine .ite ht.noteGets.reportFail ?_
      split
      · exact ht.noteGets.reportFail
      · exact ht.noteGets.updPdk.reportDone
theorem SoundMaps.execYarddestroy {p seq payload} (h : SoundMaps s) : KeepsMaps (execYarddestroy p seq payload s) := by
  unfold Machine.execYarddestroy
  refine h.command fun _ ht => .ite ht.reportFail ?_
  split
  · exact ht.reportFail
  · exact .reportDone (.updPdk (.foldl ht fun _ ht1 _ => ht1.reportFail))
theorem SoundMaps.reportLanes {wid} (h : SoundMaps s) : SoundMaps (s.reportLanes wid) :=
  .foldl (h.same (by rfl)) fun _ ht _ => ht.reportDone
theorem SoundMaps.endWarp {wid} (h : SoundMaps s) : SoundMaps (s.endWarp wid) :=
  .reportLanes (.updWarp (.filterOps (.ite_of (.freeLocks (.freeSlots (.foldl h fun _ ht _ => ht.leaveGroup))) (·.freeSel) id)))
theorem SoundMaps.clearOut {wid} (h : SoundMaps s) : SoundMaps (s.clearOut wid) :=
  .retryQueue (.releaseWindows (.dropWarp (.foldl h fun _ ht _ => ht.freeRoom)))
theorem SoundMaps.retireCluster {l c} (h : SoundMaps s) : SoundMaps (s.retireCluster l c) := by
  unfold State.retireCluster
  refine .updCluster ?_
  split
  · exact .ite_of (.foldl h fun _ ht _ => ht.clearOut) id (·.freeRoom)
  · exact .foldl h fun _ ht _ => ht.clearOut
theorem SoundMaps.closeLaunch {l} (h : SoundMaps s) : SoundMaps (s.closeLaunch l) := by
  unfold State.closeLaunch
  extract_lets t own u
  have ht : SoundMaps t := h.updPdk
  have hu : SoundMaps u := SoundMaps.mapCores (s := { t with launches := _ }) (ht.setLaunches fun m hm => ht.launches m (List.mem_filter.1 hm).1)
  split
  · exact hu
  · split
    · exact hu.reportFail
    · exact hu.reportDone
theorem SoundMaps.sweep (h : SoundMaps s) : SoundMaps s.sweep := by
  unfold State.sweep
  refine .foldl ?_ fun _ ht _ => ht.closeLaunch
  refine .foldl h fun _ ht _ => .foldl ht fun _ ht1 _ => ?_
  dsimp only
  split
  · exact .ite ht1.retireCluster ht1
  · exact ht1
theorem SoundMaps.execWarpRetire (h : SoundMaps s) : KeepsMaps (execWarpRetire s) := by
  unfold Machine.execWarpRetire
  refine .next ?_
  split
  · exact h.sweep
  · exact .sweep (.ite h.endWarp h.endWarp.clearOut)
theorem SoundMaps.missStart {l} (h : SoundMaps s) : SoundMaps (s.missStart l) := by
  unfold State.missStart
  refine .noteWaiting (.updLaunch ?_ fun _ hl => hl.of_map rfl fun _ hc => ⟨hc.1, hc.2⟩)
  refine .foldl ?_ fun _ ht _ => ht.reportFail
  refine .foldl (.foldl h fun _ ht _ => ht.endWarp.clearOut) fun _ ht _ => ?_
  split
  · exact ht.freeRoom
  · exact ht
theorem SoundMaps.startLaunch {l} (h : SoundMaps s) : SoundMaps (s.startLaunch l) :=
  .mapWarps h.updLaunch fun _ hw => .ite (hw.of_regs rfl) hw

/-! ## Machine/Saved.lean: what a saved context holds -/

theorem overlay_sound {w : Warp} {bs off} : (w.overlay bs off).Sound := rising_msetAll _ _ rfl
theorem copiedLaunch_sound {p lid asid w d} : (s.copiedLaunch p lid asid w d).Sound := fun _ hc => absurd hc List.not_mem_nil
theorem copiedCluster_sound {l r bs} : (s.copiedCluster l r bs).Sound := .of_nil rfl rfl
theorem readWarps_sound {l c bs k} : ∀ w ∈ s.readWarps l c bs k, w.Sound := by
  intro w hw
  obtain ⟨m, _, rfl⟩ := List.mem_map.1 hw
  exact overlay_sound.setReopen
theorem readWait_sound {w : Warp} {kept v data x} (hw : w.Sound) (hk : kept.before.Sound) (e : readWait w kept v data = some x) : x.before.Sound := by
  obtain ⟨k, _, rfl⟩ := Option.map_eq_some_iff.1 e
  exact .ite hw hk
theorem readWaits_sound {w : Warp} {kept next b} (hw : w.Sound) (hk : ∀ x ∈ kept, x.before.Sound) :
    ∀ x ∈ readWaits w kept next b, x.before.Sound := by
  intro x hx
  refine (List.mem_append.1 hx).elim (fun hx => ?_) fun hx => hk x (List.mem_of_mem_drop hx)
  obtain ⟨j, _, e⟩ := List.mem_filterMap.1 hx
  refine readWait_sound hw ?_ e
  cases ej : kept[j]? with
  | none => exact .default
  | some y => exact hk y (List.mem_of_getElem? ej)
/-- A warp of a list, or one at reset. -/
theorem getD_sound {o : Option Warp} (h : ∀ w ∈ o, w.Sound) : (o.getD {}).Sound := by
  cases o with
  | none => exact .default
  | some w => exact h w rfl
theorem readSection_sound {l : Launch} {c : Cluster} {bs k ws} (hc : ∀ x ∈ c.waits, x.before.Sound) (hws : ∀ w ∈ ws, w.Sound) :
    ∀ x ∈ (s.readSection l c bs k ws).2.1, x.before.Sound := by
  unfold State.readSection
  extract_lets o at_ area kept next windows holder old sel cmds selOps waits replays
  intro x hx
  obtain hx | hx := List.mem_append.1 hx
  · obtain ⟨m, _, hx⟩ := List.mem_flatMap.1 hx
    refine readWaits_sound (getD_sound fun w hw => hws w (List.mem_of_getElem? hw)) (fun y hy => hc y (List.mem_filter.1 hy).1) x hx
  · obtain ⟨i, _, rfl⟩ := List.mem_map.1 hx
    have hholder : holder.Sound := getD_sound fun w hw => hws w (List.mem_of_find?_eq_some hw)
    dsimp only [readSelOp]
    cases ef : c.waits.find? (·.id == ((cmds[i]?).getD (.res, 0)).2) with
    | none => exact hholder
    | some y => exact hc y (List.mem_of_find?_eq_some ef)
theorem readCluster_sound {l : Launch} {c : Cluster} {bs} (hc : c.Sound) : (s.readCluster l c bs).Sound := by
  constructor
  · intro w hw
    obtain ⟨z, hz, hw⟩ := List.mem_flatMap.1 hw
    obtain ⟨j, _, rfl⟩ := List.mem_map.1 hz
    exact readWarps_sound w hw
  · intro x hx
    obtain ⟨z, hz, hx⟩ := List.mem_flatMap.1 hx
    obtain ⟨j, _, rfl⟩ := List.mem_map.1 hz
    exact readSection_sound hc.2 readWarps_sound x hx
theorem SoundMaps.room {p idx kind r} (h : SoundMaps s) (e : s.room? p idx kind = some r) : r.Sound := by
  obtain ⟨e, _⟩ := Option.filter_eq_some_iff.1 e
  obtain ⟨v, _, rfl⟩ := Option.map_eq_some_iff.1 e
  unfold State.roomOf
  intro k hk
  cases ef : (s.pdk p).rooms.find? (·.idx == idx) with
  | none =>
    rw [ef] at hk
    cases hk
  | some q =>
    rw [ef] at hk
    exact h.pdk.2.2 q (List.mem_of_find?_eq_some ef) k hk
/-- The launch of a copied room is one of those there are, or has no clusters. -/
theorem SoundMaps.launchFor {p r asid w d} (h : SoundMaps s) : (s.launchFor p r asid w d).Sound := by
  unfold State.launchFor
  split
  next e => exact h.launches _ (List.mem_of_find?_eq_some e)
  · exact copiedLaunch_sound
  · split
    · exact fun _ hc => absurd hc List.not_mem_nil
    · exact fun _ hc => absurd hc List.not_mem_nil
theorem SoundMaps.readRecord {p r k} (h : SoundMaps s) (e : s.readRecord p r = some k) : k.1.before.Sound ∧ ∀ m ∈ k.2, m.Sound := by
  obtain ⟨hd, -, e⟩ := Option.bind_eq_some_iff.1 e
  obtain ⟨bs, -, rfl⟩ := Option.map_eq_some_iff.1 e
  refine ⟨overlay_sound, fun m hm => ?_⟩
  dsimp only at hm
  split at hm
  · cases hm
  · exact newLaunch_eq hm ▸ h.launchFor
/-- What is found in a room is a cluster of a launch, or has no warps and no waits. -/
theorem SoundMaps.savedIn {p r l c bs} (h : SoundMaps s) (e : s.savedIn p r = some (l, c, bs)) : l.Sound ∧ c.Sound := by
  obtain ⟨hd, -, e⟩ := Option.bind_eq_some_iff.1 e
  obtain ⟨bs', -, e⟩ := Option.map_eq_some_iff.1 e
  dsimp only at e
  split at e
  next x ex =>
    cases e
    obtain ⟨m, hm, em⟩ := List.exists_of_findSome?_eq_some ex
    obtain ⟨d, hd, rfl⟩ := Option.map_eq_some_iff.1 em
    have hw := h.launches m (List.mem_filter.1 hm).1
    exact ⟨hw, hw d (List.mem_of_find?_eq_some hd)⟩
  · cases e
    exact ⟨h.launchFor, copiedCluster_sound⟩

/-! ## Machine/Saved.lean -/

theorem SoundMaps.ctxNote {p reads} (h : SoundMaps s) : SoundMaps (s.ctxNote p reads) :=
  .foldl h fun _ ht _ => .ite ht.ifError ht.noteReads
theorem SoundMaps.adoptRoom {p r} (h : SoundMaps s) (hr : r.Sound) : SoundMaps (s.adoptRoom p r) :=
  h.updPdk fun _ hq => .ite hq (hq.addRoom hr)
theorem SoundMaps.adopt {l c} (h : SoundMaps s) (hl : l.Sound) (hc : c.Sound) : SoundMaps (s.adopt l c) :=
  have ht : SoundMaps { s with launches := s.launches ++ s.newLaunch l, nextId := s.nextId + 2 ^ 12 * (c.cores.length + 2) } :=
    .same (by rfl) (h.addLaunches fun _ hm => newLaunch_eq hm ▸ hl)
  ht.updLaunch fun _ hx => .ite hx (hx.addCluster hc)

/-! ## Machine/Preempt.lean -/

theorem SoundMaps.requestCluster {l cl why} (h : SoundMaps s) : SoundMaps (s.requestCluster l cl why) :=
  h.updCluster.mapWarps fun _ hw => .ite (hw.of_regs rfl) hw
theorem SoundMaps.execPreemptRequest {p lid clid} (h : SoundMaps s) : KeepsMaps (execPreemptRequest p lid clid s) := by
  unfold Machine.execPreemptRequest
  refine .next ?_
  split
  · exact h
  · exact .ite h (.foldl h fun _ ht _ => ht.requestCluster)
theorem SoundMaps.execPreempt {p seq payload} (h : SoundMaps s) : KeepsMaps (execPreempt p seq payload s) := by
  unfold Machine.execPreempt
  refine h.command fun _ ht => .ite ht.reportFail ?_
  split
  · exact ht.reportFail
  · exact .ite ht.reportFail (ht.updCmd.same (by rfl))
theorem SoundMaps.sealCore {l cl k c} (h : SoundMaps s) : SoundMaps (s.sealCore l cl k c) := by
  unfold State.sealCore
  extract_lets ws mine own co now windows z waits t u
  have ht : SoundMaps t := h.updCore
  have hu : SoundMaps u := ht.filterOps
  exact hu.updCluster fun _ hc => ⟨hc.1, fun x hx => (List.mem_append.1 hx).elim (hc.2 x) fun hx => h.ops x (List.mem_filter.1 hx).1⟩
theorem SoundMaps.execCoreSeal (h : SoundMaps s) : KeepsMaps (execCoreSeal s) := by
  unfold Machine.execCoreSeal
  refine .next ?_
  split
  · exact h
  · exact h.sealCore
theorem SoundMaps.notePreempted {p room} (h : SoundMaps s) : SoundMaps (s.notePreempted p room) := h.mapPdks
theorem SoundMaps.saveFrames {l} (h : SoundMaps s) : SoundMaps (s.saveFrames l) := by
  unfold State.saveFrames
  refine .ite h ?_
  dsimp only
  split
  · exact h.updRink
  next e => exact (h.updRink.reserveRoom (.of_park rfl) _ e).updRoom.writeRoom
theorem SoundMaps.leaveCore {l cl mine c} (h : SoundMaps s) : SoundMaps (s.leaveCore l cl mine c) := by
  unfold State.leaveCore
  refine .releaseWindows (.updCore ?_)
  split
  · exact .ite h.freeSel h
  · exact h
theorem timedRest_sound {w : Warp} (h : w.Sound) : (s.timedRest w).Sound := by
  unfold State.timedRest
  split
  · exact h
  · exact h.of_regs rfl
theorem SoundMaps.saveCluster {l cl} (h : SoundMaps s) : SoundMaps (s.saveCluster l cl) := by
  unfold State.saveCluster
  extract_lets ws mine bytes saved t u v
  have hsaved : ∀ w ∈ saved, w.Sound := by
    intro w hw
    obtain ⟨v, hv, rfl⟩ := List.mem_map.1 hw
    have hv := h.warps v (List.mem_filter.1 (List.mem_filter.1 hv).1).1
    exact .ite (timedRest_sound hv) hv
  have ht : SoundMaps t := .foldl (h.setWarps fun w hw => h.warps w (List.mem_filter.1 hw).1) fun _ ht _ => ht.leaveCore
  have hu : SoundMaps u := ht.updCluster fun _ hc => ⟨hsaved, hc.2⟩
  refine .noteWaiting (.retryQueue (.saveFrames ?_))
  dsimp only [v]
  split
  · exact hu
  · exact hu.updRoom.writeRoom.notePreempted
theorem SoundMaps.execClusterSave (h : SoundMaps s) : KeepsMaps (execClusterSave s) := by
  unfold Machine.execClusterSave
  refine .next ?_
  split
  · exact h
  · exact h.saveCluster
/-- The warp of a record keeps the registers of the lanes that the record holds. -/
theorem parkedWarp_sound {r : Parked} (h : r.before.Sound) : r.warp.Sound := by
  dsimp only [Warp.Sound, Parked.warp]
  exact rising_mdrop _ _ h
theorem SoundMaps.resumeRecord {p seq r rec' more} (h : SoundMaps s) (hr : r.Sound) (hrec : rec'.before.Sound) (hm : ∀ m ∈ more, m.Sound) :
    SoundMaps (s.resumeRecord p seq r rec' more) := by
  have ha : SoundMaps { s.adoptRoom p r with launches := s.launches ++ more, nextId := s.nextId + more.length } :=
    .same (by rfl) ((h.adoptRoom (p := p) hr).addLaunches hm)
  unfold State.resumeRecord
  dsimp only
  refine .noteWaiting (.updLaunch (.setSeqs (ha.takeId.updRoom fun _ _ => .of_park rfl).ctxPut) fun _ hl => hl.addCluster ?_)
  exact ⟨fun w hw => List.mem_singleton.1 hw ▸ (parkedWarp_sound hrec).of_regs rfl, fun _ hx => absurd hx List.not_mem_nil⟩
theorem SoundMaps.execPresume {p seq payload} (h : SoundMaps s) : KeepsMaps (execPresume p seq payload s) := by
  unfold Machine.execPresume
  refine h.command fun _ ht => .ite ht.reportFail ?_
  dsimp only
  split
  · exact ht.ctxNote.reportFail
  next er =>
    split
    next e =>
      obtain ⟨hk, hm⟩ := ht.readRecord e
      exact ht.ctxNote.resumeRecord (ht.room er) hk hm
    · exact ht.ctxNote.reportFail
theorem SoundMaps.rebaseTask {l new} (h : SoundMaps s) : SoundMaps (s.rebaseTask l new) := by
  unfold State.rebaseTask
  dsimp only
  split
  · exact h.updLaunch
  · split
    · exact (h.updRink.mapLaunches fun _ hl => by exact Launch.Sound.ite hl hl).freeRoom
    · exact h.updRink.mapLaunches fun _ hl => by exact Launch.Sound.ite hl hl
theorem SoundMaps.execCresume {p seq payload} (h : SoundMaps s) : KeepsMaps (execCresume p seq payload s) := by
  unfold Machine.execCresume
  refine h.command fun _ ht => .ite ht.reportFail ?_
  split
  · exact ht.ctxNote.reportFail
  next er =>
    dsimp only
    split
    · exact ht.ctxNote.reportFail
    next l c bs e =>
      obtain ⟨hl, hc⟩ := ht.savedIn e
      refine .ite ht.ctxNote.reportFail (.ite ht.ctxNote.reportFail (.noteWaiting (.updCluster ?_ ?_)))
      · exact .ite_of ((ht.ctxNote.adoptRoom (ht.room er)).adopt hl hc) (·.rebaseTask) id
      · exact fun _ _ => readCluster_sound hc
/-! ## Machine/Ring.lean -/

theorem SoundMaps.setRreg {p off v} (h : SoundMaps s) : SoundMaps (s.setRreg p off v) := .ite h.setMgmt h.setReg
theorem SoundMaps.crstat {p bit on} (h : SoundMaps s) : SoundMaps (s.crstat p bit on) := h.setRreg
theorem SoundMaps.writeHeader {p} (h : SoundMaps s) : SoundMaps (s.writeHeader p) := .ite h.updRing h.updRing.devWrite
theorem SoundMaps.hostPage {via p k} (h : SoundMaps s) (hk : ∀ t, SoundMaps t → SoundMaps (k t)) :
    SoundMaps (s.hostPage via p k) := by
  unfold State.hostPage
  split
  · exact h.same (by rfl)
  · exact .ite (h.same (by rfl)) (.same (by rfl) (hk _ h))
theorem SoundMaps.ringFail {p cause} (h : SoundMaps s) : SoundMaps (s.ringFail p cause) := .ite h.crstat h.ifError
theorem SoundMaps.acceptEntry {p e x} (h : SoundMaps s) : SoundMaps (s.acceptEntry p e x) :=
  .ite_of (.ite_of h.setRreg.writeHeader.updRing (·.crstat) id) (·.reportFail) id
theorem SoundMaps.execRingEntryRead {p} (h : SoundMaps s) : KeepsMaps (execRingEntryRead p s) := by
  unfold Machine.execRingEntryRead
  refine .next (.ite h ?_)
  dsimp only
  split
  · exact h.noteReads.ringFail
  · exact .ite h.noteReads.setRreg.updRing (.ite h.noteReads.ringFail (.ite h.noteReads.ringFail (.ite h.noteReads.ringFail h.noteReads.acceptEntry)))
theorem SoundMaps.reportAll {p} (h : SoundMaps s) : SoundMaps (s.reportAll p) := by
  unfold State.reportAll
  refine .foldl ?_ fun _ ht _ => .ite ht.report (.ite ht.reportDone ht)
  refine .foldl (.foldl h fun _ ht _ => ht.reportLanes) fun _ ht _ => ?_
  split
  · exact .ite ht.reportFail ht
  · exact ht
theorem SoundMaps.hostPut {a bs} (h : SoundMaps s) : SoundMaps (s.hostPut a bs) := h.same (by rfl)
theorem SoundMaps.putRecord {p c r} (h : SoundMaps s) : SoundMaps (s.putRecord p c r) :=
  .ite h.hostPut.raise.updRing.setRreg.setRreg.setRreg.crstat.crstat.updRing.writeHeader h.hostPut.raise.updRing.setRreg.crstat.writeHeader
theorem SoundMaps.execCompletionRecordWrite {p} (h : SoundMaps s) : KeepsMaps (execCompletionRecordWrite p s) := by
  unfold Machine.execCompletionRecordWrite
  refine .next ?_
  split
  · exact h.reportAll
  · exact .ite h.reportAll.putRecord h.reportAll.crstat
theorem SoundMaps.failAll {p status reason} (h : SoundMaps s) : SoundMaps (s.failAll p status reason) := h.updRing
theorem SoundMaps.flushRecords {p n} (h : SoundMaps s) : SoundMaps (s.flushRecords p n) := by
  induction n generalizing s with
  | zero => exact h
  | succ n ih =>
    unfold State.flushRecords
    split
    · exact .ite (ih h.putRecord) h
    · exact h
theorem SoundMaps.restartRing {p v} (h : SoundMaps s) : SoundMaps (s.restartRing p v) :=
  h.setRreg.setRreg.updRing.writeHeader.flushRecords
theorem SoundMaps.abortSaved {p host size ack d n} (h : SoundMaps s) : SoundMaps (s.abortSaved p host size ack d n).2 := by
  induction n generalizing s d with
  | zero => exact h
  | succ n ih => exact .snd_ite h (.snd_ite h.crstat (ih h.hostPut.raise.setRreg.crstat))
theorem SoundMaps.execRingRestart {p} (h : SoundMaps s) : KeepsMaps (execRingRestart p s) := by
  unfold Machine.execRingRestart
  refine .next ?_
  split
  · exact h
  · exact .ite h (h.setRreg.setRreg.abortSaved.writeHeader.same (by rfl))
theorem SoundMaps.putMgmt {off v} (h : SoundMaps s) : SoundMaps (s.putMgmt off v) :=
  .ite h.setMgmt (.ite h.updRink (.ite h.updRink h.setMgmt))
theorem SoundMaps.putReg {page off val} (h : SoundMaps s) : SoundMaps (s.putReg page off val) :=
  .ite (.ite (.foldl h fun _ ht _ => ht.ifError) (.ite h h.putMgmt)) (.ite h (.ite h.ifError (.ite h h.setReg)))
theorem SoundMaps.hold {i} (h : SoundMaps s) : SoundMaps (s.hold i) := .ite h (h.same (by rfl))
theorem SoundMaps.unhold {i} (h : SoundMaps s) : SoundMaps (s.unhold i) := h.same (by rfl)

/-! ## Machine/Commands.lean -/

theorem SoundMaps.execShgrant {p seq payload} (h : SoundMaps s) : KeepsMaps (execShgrant p seq payload s) := by
  unfold Machine.execShgrant
  refine h.command fun _ ht => .ite ht.reportFail (.ite ht.reportFail ?_)
  dsimp only
  split
  · exact .ite ht.reportFail (.ite ht.updPdk.reportDone ht.updPdk.updCmd)
  · exact .reportDone (.ite ht ht.updPdk)
/-- The words of a template are put one by one. -/
theorem rising_words {m : SMap 16} {l : List Nat} {key : Nat → Nat} {val : Nat → BitVec 16} (h : rising 0 m = true) :
    rising 0 (l.foldl (fun m j => mset m (key j) (val j)) m) = true :=
  List.foldlRecOn (motive := fun m => rising 0 m = true) l _ h fun m hm j _ => rising_mset m 0 (key j) (val j) (Nat.zero_le _) hm
theorem SoundMaps.execTmplset {p seq payload} (h : SoundMaps s) : KeepsMaps (execTmplset p seq payload s) := by
  unfold Machine.execTmplset
  refine h.command fun _ ht => .ite ht.reportFail ?_
  split
  · exact ht.reportFail
  · dsimp only
    split
    · exact ht.noteGets.reportFail
    · refine .ite ht.noteGets.reportFail (.reportDone (.updPdk ht.noteGets ?_))
      intro q hq
      refine ⟨hq.1, ?_, hq.2.2⟩
      dsimp only
      exact rising_words hq.2.1
theorem SoundMaps.execXmap {p seq payload} (h : SoundMaps s) : KeepsMaps (execXmap p seq payload s) := by
  unfold Machine.execXmap
  refine h.command fun _ ht => .ite ht.reportFail (.ite ht.reportFail ?_)
  extract_lets at_ read t
  have ht : SoundMaps t := ht.noteGets
  -- the walk of the code range as a variable, so that checking the splits does not evaluate it
  obtain ⟨walk, e⟩ : ∃ walk, t.codeFrames p (fld payload.toNat 176 16) = walk := ⟨_, rfl⟩
  rw [e]
  split
  · exact ht.reportFail
  · split
    · exact ht.reportFail
    · exact ht.takeId.updPdk.addDrain
theorem SoundMaps.setEx {p asid va v} (h : SoundMaps s) : SoundMaps (s.setEx p asid va v) := by
  unfold State.setEx
  split
  · exact .ite h.devWrite h
  · exact h
theorem SoundMaps.finishXmap {p j} (h : SoundMaps s) : SoundMaps (s.finishXmap p j) := by
  unfold State.finishXmap
  split
  · exact h
  · dsimp only
    split
    · exact h.updPdk.noteGets.updPdk.reportFail
    · split
      · exact h.updPdk.noteGets.updPdk.report
      · exact .report (.updPdk (.foldl h.updPdk.noteGets fun _ ht _ => ht.setEx))
theorem SoundMaps.execXmapLeaseDrained (h : SoundMaps s) : KeepsMaps (execXmapLeaseDrained s) := by
  unfold Machine.execXmapLeaseDrained
  refine .next ?_
  split
  · exact h
  · exact h.finishXmap
theorem SoundMaps.execXunmap {p seq payload} (h : SoundMaps s) : KeepsMaps (execXunmap p seq payload s) := by
  unfold Machine.execXunmap
  refine h.command fun _ ht => .ite ht.reportFail ?_
  split
  · exact ht.reportFail
  · exact .updPdk (.addDrain (.takeId (.foldl ht fun _ ht1 _ => ht1.setEx.stalePage)))
theorem SoundMaps.setMeas {k v} (h : SoundMaps s) : SoundMaps (s.setMeas k v) := h.same (by rfl)
theorem SoundMaps.extend {k v} (h : SoundMaps s) : SoundMaps (s.extend k v) := h.setMeas
theorem SoundMaps.extendEntry {seq opc payload} (h : SoundMaps s) : SoundMaps (s.extendEntry seq opc payload) := h.extend
theorem SoundMaps.scramble {p} (h : SoundMaps s) : SoundMaps (s.scramble p) :=
  h.same (by rfl)
theorem rising_pageReset : rising 0 pageReset = true := by decide
theorem SoundMaps.scrubWorld {p} (h : SoundMaps s) : SoundMaps (s.scrubWorld p) := by
  unfold State.scrubWorld
  extract_lets t q slices mine cores keep regs gone lineMine u
  have ht : SoundMaps t := h.drawKeys
  refine ⟨ht.mgmt, ht.clocks, ht.frontier, fun q hq => ?_, fun w hw => ht.warps w (List.mem_filter.1 hw).1,
    fun x hx => ht.ops x (List.mem_filter.1 hx).1,
    fun d hd => ht.deferred d (List.mem_filter.1 hd).1, fun r hr => ht.parked r (List.mem_filter.1 hr).1, fun k hk => ?_,
    fun l hl => ht.launches l (List.mem_filter.1 hl).1⟩
  · obtain ⟨x, hx, rfl⟩ := List.mem_map.1 hq
    exact .ite (ht.pdks x hx) ⟨rising_msetAll _ _ rising_pageReset, rfl, fun _ hr => absurd hr List.not_mem_nil⟩
  · obtain ⟨j, hj, rfl⟩ := List.mem_map.1 hk
    exact .ite (.of_nil rfl) (ht.cores j hj)
theorem SoundMaps.execBgzeroLine {p line} (h : SoundMaps s) : KeepsMaps (execBgzeroLine p line s) := by
  unfold Machine.execBgzeroLine
  refine .next ?_
  split
  · exact .ite h h.updPdk
  · exact h
theorem SoundMaps.giveSlices {p mask add} (h : SoundMaps s) : SoundMaps (s.giveSlices p mask add) := .ite h h.setReg
theorem SoundMaps.execPdcreate {p seq payload} (h : SoundMaps s) : KeepsMaps (execPdcreate p seq payload s) := by
  unfold Machine.execPdcreate
  refine h.command fun _ ht => .ite ht.reportFail (.ite ht.reportFail
    (SoundMaps.setPdks ht.giveSlices fun q hq => ?_).drawKeys.scramble.extendEntry.reportDone)
  refine (List.mem_append.1 hq).elim (ht.giveSlices.pdks q) fun e => ?_
  exact List.mem_singleton.1 e ▸ ⟨rising_msetAll _ _ rising_pageReset, rfl, fun _ hr => absurd hr List.not_mem_nil⟩
theorem SoundMaps.closePdk {no} (h : SoundMaps s) : SoundMaps (s.closePdk no) :=
  (h.mapWarps (by exact fun _ hw => .ite (hw.of_regs rfl) hw)).updPdk.failAll.flushRecords
theorem SoundMaps.destroyPdk {p c no} (h : SoundMaps s) : SoundMaps (s.destroyPdk p c no) :=
  have ht := h.scrubWorld.giveSlices
  (ht.setPdks fun q hq => ht.pdks q (List.mem_filter.1 hq).1).extendEntry.reportDone
theorem SoundMaps.endDestroys (h : SoundMaps s) : SoundMaps s.endDestroys := .foldl h fun _ ht _ => ht.destroyPdk
theorem SoundMaps.execPddestroy {p seq payload} (h : SoundMaps s) : KeepsMaps (execPddestroy p seq payload s) :=
  .ite (.next h) (h.command fun _ ht => .ite ht.reportFail (.ite ht.reportFail ht.closePdk.updCmd.endDestroys))
theorem SoundMaps.formRink {c} (h : SoundMaps s) : SoundMaps (s.formRink c) := h.updRink.setMgmtAll
theorem SoundMaps.formDone (h : SoundMaps s) : SoundMaps s.formDone := .foldl h fun _ ht _ => ht.extendEntry.reportDone
theorem SoundMaps.failForm {came} (h : SoundMaps s) : SoundMaps (s.failForm came) :=
  .foldl h.updRink.flood fun _ ht _ => ht.reportFail
theorem SoundMaps.execRkform {p seq payload} (h : SoundMaps s) : KeepsMaps (execRkform p seq payload s) := by
  unfold Machine.execRkform
  refine h.command fun t ht => .ite ht.reportFail (.ite ht.reportFail ?_)
  have hops := SoundMaps.foldl_snd (l := t.rinkPorts) (p := (([] : List (Nat × BitVec 10)), t))
    (g := fun r k => (r.1 ++ [(k, r.2.freeVal.1.truncate 10)], r.2.freeVal.2)) ht fun _ _ hr => hr.freeVal
  exact .ite (.failForm hops.updRink.setMgmtAll) (.ite (.formDone (.formRink hops.updRink.setMgmtAll)) (.updRink hops.updRink.setMgmtAll))
theorem SoundMaps.execRinkStart {port fails} (h : SoundMaps s) : KeepsMaps (execRinkStart port fails s) :=
  .next (.ite h (.ite h.failForm h.formRink.flood.formDone))
theorem SoundMaps.retireShare {p} (h : SoundMaps s) : SoundMaps (s.retireShare p).2 :=
  .updPdk (.foldl h.updPdk fun _ ht _ => ht.moveFrame)
theorem SoundMaps.execHtestComplete {p report} (h : SoundMaps s) : KeepsMaps (execHtestComplete p report s) := by
  unfold Machine.execHtestComplete
  refine .next ?_
  split
  · exact h
  · exact h.retireShare.scrubWorld.updPdk.extend.reportDone.setMgmt

/-! ## Machine/CrossLane.lean -/

theorem SoundMaps.crossOp {f k} (h : SoundMaps s) (hk : ∀ wid w t, SoundMaps t → w.Sound → SoundMaps (k wid w t)) :
    KeepsMaps (crossOp f s k) := h.issue fun _ _ _ ht hw => hk _ _ _ ht hw
theorem SoundMaps.exchange {f index} (h : SoundMaps s) : KeepsMaps (exchange f s index) := h.crossOp fun _ _ _ ht _ => ht.fixed
theorem SoundMaps.execBcast {f} (h : SoundMaps s) : KeepsMaps (execBcast f s) := by
  unfold Machine.execBcast
  refine h.issue fun _ _ _ ht _ => .ite ?_ ht.fixed
  dsimp only
  split
  · exact .ite ht.fixed ht.trapAt
  · exact ht.fixed

/-! ## Machine/Root.lean -/

theorem SoundMaps.rootInstr {α : Type} [BEq α] {f} {v : Warp → Nat → α} {k} (h : SoundMaps s)
    (hk : ∀ wid w x t, SoundMaps t → w.Sound → SoundMaps (k wid w x t)) : KeepsMaps (rootInstr f s v k) := by
  unfold Machine.rootInstr
  refine h.issue fun _ _ _ ht hw => .ite ht.trapAt (.ite ht.trapAt (.ite ht.simpleOp ?_))
  split
  · exact ht.trapAt
  · exact hk _ _ _ _ ht hw
theorem SoundMaps.status {wid w f v} (h : SoundMaps s) (hw : w.Sound := by assumption) : SoundMaps (s.status wid w f v) := h.addOp
theorem SoundMaps.rootPages {w a perm walks l} (h : SoundMaps s) : SoundMaps (s.rootPages w a perm walks l).2 := by
  induction l generalizing s with
  | nil => exact h
  | cons r rest ih =>
    unfold State.rootPages
    split
    next e => exact h.findPages.of_eq e
    next e => exact h.findPages.of_eq e
    next e => exact ih (h.findPages.of_eq e)
theorem SoundMaps.rootLane {w x what a walks} (h : SoundMaps s) : SoundMaps (s.rootLane w x what a walks).2 := by
  unfold State.rootLane
  split
  · exact h
  · dsimp only
    split
    next e1 => exact h.rootPages.of_eq e1
    next e1 => exact h.rootPages.of_eq e1
    next e1 =>
      split
      all_goals next e2 => exact (h.rootPages.of_eq e1).rootPages.of_eq e2
theorem SoundMaps.rootOp {wid w f what v nregs} (h : SoundMaps s) (hw : w.Sound := by assumption) : SoundMaps (s.rootOp wid w f what v nregs) :=
  .ite h.trapAt h.enterOp
theorem SoundMaps.rootWalk {o m what} (h : SoundMaps s) : SoundMaps (s.rootWalk o m what) := by
  unfold State.rootWalk
  split
  · exact h
  next e =>
    have := h.op e
    exact .ite h (.ite (.foldl_snd h fun _ _ ht => ht.rootLane.updAcc) (.laneFaults (.foldl_snd h fun _ _ ht => ht.rootLane.updAcc)))
theorem SoundMaps.rootRead {x a l} (h : SoundMaps s) : SoundMaps (s.rootRead x a l).2 := by
  induction l generalizing s with
  | nil => exact h
  | cons p r ih =>
    unfold State.rootRead
    refine .snd_ite h.ecc ?_
    dsimp only
    split
    next e => exact (ih (.snd_ite h.ecc.loadBytes h.ecc)).of_eq e
    · exact ih (.snd_ite h.ecc.loadBytes h.ecc)
theorem SoundMaps.rootWrite {x a stamp l bs} (h : SoundMaps s) : SoundMaps (s.rootWrite x a stamp l bs).2 := by
  induction l generalizing s bs with
  | nil => exact h
  | cons p r ih => exact .snd_ite h (.snd_ite h.eccWrite (ih (.ite h.eccWrite.applyWrite h.eccWrite)))
theorem SoundMaps.rootInputs {x a l} (h : SoundMaps s) : SoundMaps (s.rootInputs x a l).2 := by
  induction l generalizing s with
  | nil => exact h
  | cons r rest ih =>
    unfold State.rootInputs
    refine .snd_ite (ih h) ?_
    split
    next e => exact h.rootRead.of_eq e
    next e =>
      have ht := ih (h.rootRead.of_eq e)
      split
      next e => exact ht.of_eq e
      · exact ht
theorem SoundMaps.rootAct {x what a} (h : SoundMaps s) (hx : x.before.Sound := by assumption) : SoundMaps (s.rootAct x what a) := by
  unfold State.rootAct
  dsimp only
  split
  next e => exact (h.rootInputs.of_eq e).laneFaults
  next ins t e =>
    have ht := h.rootInputs.of_eq e
    split
    · refine SoundMaps.laneFaults ?_
      split
      · exact ht.stampAt.rootWrite
      · exact ht
    · refine (SoundMaps.updOp ?_).settle
      split
      · refine SoundMaps.setMeas ?_
        split
        · exact ht.stampAt.rootWrite
        · exact ht
      · split
        · exact ht.stampAt.rootWrite
        · exact ht
theorem SoundMaps.rootApply {x what} (h : SoundMaps s) (hx : x.before.Sound := by assumption) : SoundMaps (s.rootApply x what) := by
  unfold State.rootApply
  refine .ite h ?_
  split
  · exact h.warpTrap
  next e =>
    split
    · exact (YieldsMaps.ite h.detCheck (.some h) _ e).updOp.rootAct
    · exact YieldsMaps.ite h.detCheck (.some h) _ e
theorem SoundMaps.execPageWalkComplete {op lanes} (h : SoundMaps s) : KeepsMaps (execPageWalkComplete op lanes s) := by
  unfold Machine.execPageWalkComplete
  refine .next ?_
  split
  · exact h
  · split
    · exact h.copyWalk
    · exact h.pageInstrWalk
    · exact h.selWalk
    · exact h.rootWalk
    · exact h.updOp
    · exact h.pageWalk
theorem SoundMaps.execHomeApply {op lane} (h : SoundMaps s) : KeepsMaps (execHomeApply op lane s) := by
  unfold Machine.execHomeApply
  refine .next ?_
  split
  · exact h
  next e =>
    have := h.op e
    split
    · exact h.detGate fun _ ht => ht.bitsetWord
    · exact h.rootApply
    · exact h.homeApply
theorem SoundMaps.startScrub {p o stop} (h : SoundMaps s) : SoundMaps (s.startScrub p o stop) :=
  .ite h.updPdk.scrubWorld.updRing h.updPdk.scrubWorld
theorem SoundMaps.setIf {p v} (h : SoundMaps s) : SoundMaps (s.setIf p v) := h.setReg
theorem SoundMaps.lockIf {p} (h : SoundMaps s) : SoundMaps (s.lockIf p) :=
  h.updPdk fun _ hq => hq.setReg.setWatch
theorem SoundMaps.errIf {p} (h : SoundMaps s) : SoundMaps (s.errIf p) := .ite h.setIf h.ifError
theorem SoundMaps.scrubClosed {p o} (h : SoundMaps s) : SoundMaps (s.scrubClosed p o) := .ite h.startScrub h.updPdk
theorem SoundMaps.stopIf {p o} (h : SoundMaps s) : SoundMaps (s.stopIf p o) := h.closePdk.scrubClosed
theorem SoundMaps.execLockif {f} (h : SoundMaps s) : KeepsMaps (execLockif f s) := by
  unfold Machine.execLockif
  refine h.rootInstr fun _ _ _ _ ht _ => .ite ht.status (.ite ht.status ?_)
  split
  · exact ht.lockIf.status
  · exact ht.setIf.status
  · exact ht.addOp.stopIf
  · exact ht.errIf.status
theorem SoundMaps.answerStop {p} (h : SoundMaps s) : SoundMaps (s.answerStop p) := .ite (h.same (by rfl)) h
theorem SoundMaps.endScrub {q} (h : SoundMaps s) : SoundMaps (s.endScrub q) :=
  .answerStop (.foldl (.ite h.updPdk.setIf h.updPdk) fun _ ht _ => ht.landRegs.endOp)

/-! ## Machine/Spdm.lean -/

theorem SoundMaps.updSpdm {f} (h : SoundMaps s) : SoundMaps (s.updSpdm f) := h.same (by rfl)
theorem SoundMaps.spdmReply {r} (h : SoundMaps s) : SoundMaps (s.spdmReply r) := h.updSpdm
theorem SoundMaps.spdmFree {k} (h : SoundMaps s) (hk : ∀ t, SoundMaps t → SoundMaps (k t)) : KeepsMaps (s.spdmFree k) :=
  .next (.ite h.spdmReply (hk _ h))
theorem SoundMaps.spdmRequest {inOrder ver ok k} (h : SoundMaps s) (hk : ∀ t, SoundMaps t → SoundMaps (k t).2) :
    KeepsMaps (s.spdmRequest inOrder ver ok k) :=
  h.spdmFree fun _ ht => .ite ht.spdmReply (.ite ht.spdmReply (.ite ht.spdmReply (hk _ ht).spdmReply))
theorem SoundMaps.signed {content} (h : SoundMaps s) : SoundMaps (s.signed content).2 := h.same (by rfl)
theorem SoundMaps.spdmMeasurements {block} (h : SoundMaps s) : SoundMaps (s.spdmMeasurements block).2 :=
  h.signed (content := (s.spdmBlocks block).flatMap fun b => digestBytes b.2)
theorem SoundMaps.endSession {id} (h : SoundMaps s) : SoundMaps (s.endSession id) := by
  unfold State.endSession
  split
  · exact h
  · exact .ite_of (.ite_of h.updSpdm (·.updRing) fun ht => ht) (·.ifError) fun ht => ht
theorem SoundMaps.execChallenge {ver slot} (h : SoundMaps s) : KeepsMaps (execChallenge ver slot s) :=
  h.spdmRequest fun _ ht => ht.signed (content := [])
theorem SoundMaps.execKeyExchange {ver iface} (h : SoundMaps s) : KeepsMaps (execKeyExchange ver iface s) :=
  h.spdmRequest fun _ ht => .same (by rfl) (ht.signed (content := []))
theorem SoundMaps.execFinish {ver session} (h : SoundMaps s) : KeepsMaps (execFinish ver session s) := by
  unfold Machine.execFinish
  refine h.spdmRequest fun _ ht => ?_
  dsimp only
  split
  · exact ht
  · exact ht.updSpdm.updRing.crstat
theorem SoundMaps.tdisp {session v k} (h : SoundMaps s) (hk : ∀ q t, SoundMaps t → SoundMaps (k q t)) :
    KeepsMaps (s.tdisp session v k) := by
  unfold State.tdisp
  refine h.spdmFree fun _ ht => ?_
  split
  · exact ht.spdmReply
  · exact .ite ht.spdmReply (.spdmReply (hk _ _ ht))
theorem SoundMaps.beginStop {p} (h : SoundMaps s) : SoundMaps (s.beginStop p) := h.stopIf.updSpdm

/-! ## Machine/Pcie.lean -/

theorem SoundMaps.hostPoke {pa p bs} (h : SoundMaps s) : SoundMaps (s.hostPoke pa p bs) :=
  .ite h.eccWrite.devStore (h.eccWrite.same (by rfl))
theorem SoundMaps.execHostMemoryWrite {via addr bytes} (h : SoundMaps s) : KeepsMaps (execHostMemoryWrite via addr bytes s) := by
  unfold Machine.execHostMemoryWrite
  refine .next ?_
  split
  · exact h.hold
  · exact h.same (by rfl)
  · exact .ite h.hold (.foldl_snd (h.same (by rfl)) fun _ _ ht => ht.hostPoke)
theorem SoundMaps.execHostMemoryRead {via addr len} (h : SoundMaps s) : KeepsMaps (execHostMemoryRead via addr len s) := by
  unfold Machine.execHostMemoryRead
  refine .next (.ite (h.same (by rfl)) ?_)
  dsimp only
  split
  · exact h.hold
  · exact h.same (by rfl)
  · exact .same (by rfl) (.foldl_snd_snd h.unhold fun _ _ hr => hr.ecc)
theorem SoundMaps.resetPdk {p v} (h : SoundMaps s) : SoundMaps (s.resetPdk p v) :=
  (h.mapWarps (by exact fun _ hw => .ite (hw.of_regs rfl) hw)).restartRing.scrubClosed
theorem soundMaps_coldBoot {flash powered} : SoundMaps (s.coldBoot flash powered) :=
  ⟨rising_mset _ 0 _ _ (Nat.zero_le _) rfl, rfl, rfl, fun _ hq => absurd hq List.not_mem_nil, fun _ hw => absurd hw List.not_mem_nil,
    fun _ hx => absurd hx List.not_mem_nil, fun _ hd => absurd hd List.not_mem_nil, fun _ hr => absurd hr List.not_mem_nil,
    fun _ hk => absurd hk List.not_mem_nil, fun _ hl => absurd hl List.not_mem_nil⟩
theorem keepsMaps_execPowerLoss : KeepsMaps (execPowerLoss s) :=
  .next { soundMaps_coldBoot (s := s) (flash := []) (powered := false) with mgmt := rfl }
theorem SoundMaps.deriveAlias (h : SoundMaps s) : SoundMaps s.deriveAlias :=
  have hseed (v : BitVec 256) : SoundMaps { s with aliasSeed := v } := h.same (by rfl)
  hseed _
theorem SoundMaps.setStage {stage fail} (h : SoundMaps s) : SoundMaps (s.setStage stage fail) := h.setMgmt
theorem SoundMaps.execPowerGood {rootImage others fail} (h : SoundMaps s) : KeepsMaps (execPowerGood rootImage others fail s) :=
  have hpowered : SoundMaps { s with powered := true } := h.same (by rfl)
  .next (.ite h (.ite hpowered.setStage
    (.ite_of (.foldl hpowered.extend.deriveAlias fun _ ht _ => ht.extend) (·.setStage) (·.setStage))))

/-! ## Machine/Ethernet.lean -/

theorem SoundMaps.updPort {n f} (h : SoundMaps s) : SoundMaps (s.updPort n f) := h.same (by rfl)
theorem SoundMaps.nqError {p k cause} (h : SoundMaps s) : SoundMaps (s.nqError p k cause) :=
  h.updPdk fun _ hq => hq.setReg.setReg
theorem SoundMaps.putNqctl {p q val} (h : SoundMaps s) : SoundMaps (s.putNqctl p q val) :=
  .ite h (.ite h.ifError (.ite h.nqError h.setReg))
theorem SoundMaps.nqNote {p asid base size} (h : SoundMaps s) : SoundMaps (s.nqNote p asid base size) := h.noteGets
theorem SoundMaps.nqStore {p asid va bs} (h : SoundMaps s) : SoundMaps (s.nqStore p asid va bs) := by
  unfold State.nqStore
  refine .foldl_snd h fun _ _ ht => ?_
  split
  · exact ht.devStore
  · exact ht
theorem SoundMaps.nqDone {p asid base at_ cons status} (h : SoundMaps s) : SoundMaps (s.nqDone p asid base at_ cons status) :=
  h.nqStore.nqStore
theorem SoundMaps.notePause {port prio} (h : SoundMaps s) : SoundMaps (s.notePause port prio) := .ite h (h.same (by rfl))
theorem SoundMaps.netTake {p len} (h : SoundMaps s) : SoundMaps (s.netTake p len) := h.updPdk
theorem SoundMaps.setSent {b} (h : SoundMaps s) : SoundMaps { s with sentFrames := b } := h.same (by rfl)
theorem SoundMaps.execEthSendDescriptor {p q} (h : SoundMaps s) : KeepsMaps (execEthSendDescriptor p q s) := by
  unfold Machine.execEthSendDescriptor
  refine .next (.ite h.notePause ?_)
  dsimp only
  split
  · exact h.notePause.nqNote.nqError
  · refine .ite h.notePause.nqNote.updPdk.nqDone ?_
    split
    · exact h.notePause.nqNote.updPdk.noteGets.nqDone
    · exact h.notePause.nqNote.updPdk.noteGets.setSent.netTake.nqDone
theorem SoundMaps.nqReceive {p asid base at_ cons d bs} (h : SoundMaps s) : SoundMaps (s.nqReceive p asid base at_ cons d bs) :=
  .nqDone (.nqStore (.ite h.nqStore h))
theorem SoundMaps.nqDrop {p k} (h : SoundMaps s) : SoundMaps (s.nqDrop p k) := h.updPdk fun _ hq => hq.setReg
theorem SoundMaps.nqDeliver {p k c bytes} (h : SoundMaps s) : SoundMaps (s.nqDeliver p k c bytes) := by
  unfold State.nqDeliver
  refine .notePause ?_
  split
  · exact h.nqNote.nqError
  · exact .ite h.nqNote.nqReceive h.nqNote.nqDrop
theorem SoundMaps.execEthFrameReceive {port fcsOk vlan bytes} (h : SoundMaps s) :
    KeepsMaps (execEthFrameReceive port fcsOk vlan bytes s) := by
  unfold Machine.execEthFrameReceive
  refine .next (.ite h.unhold ?_)
  split
  · exact h.unhold.mgmtCount
  · exact .ite h.unhold.nqDeliver h.hold

/-! ## Machine/FloatOps.lean -/

theorem SoundMaps.f64Block {w f} (h : SoundMaps s) : SoundMaps (s.f64Block w f) := .ite h.updCore h
theorem SoundMaps.floatIssue {f k} (h : SoundMaps s) (hk : ∀ wid w t, SoundMaps t → w.Sound → SoundMaps (k wid w t)) :
    KeepsMaps (floatIssue f s k) := h.issue fun _ _ _ ht hw => .ite ht.trapAt (hk _ _ _ ht hw)
theorem SoundMaps.floatOp {f block g} (h : SoundMaps s) : KeepsMaps (floatOp f s block g) :=
  h.floatIssue fun _ _ _ ht _ => .ite (.fixed (.ite ht.f64Block ht)) (.fixed (.ite ht.f64Block ht))
theorem SoundMaps.divAccept {x} (h : SoundMaps s) : SoundMaps (s.divAccept x) := h.updCore.updOp
theorem SoundMaps.divideOp {f root g} (h : SoundMaps s) : KeepsMaps (divideOp f s root g) := by
  unfold Machine.divideOp
  refine h.issue fun _ _ _ ht _ => .ite ht.trapAt (.ite ?_ (.addOp (.ite ht.simpleOp ht)))
  split
  · exact .divAccept (.addOp (.ite ht.simpleOp ht))
  · exact .addOp (.ite ht.simpleOp ht)
theorem SoundMaps.execDivideUnitAccept (h : SoundMaps s) : KeepsMaps (execDivideUnitAccept s) := by
  unfold Machine.execDivideUnitAccept
  refine .next ?_
  split
  · exact h.divAccept
  · exact h
theorem SoundMaps.execDivideComplete (h : SoundMaps s) : KeepsMaps (execDivideComplete s) := by
  unfold Machine.execDivideComplete
  refine .next ?_
  split
  · exact h
  · exact h.landRegs.endOp
theorem SoundMaps.dotInt {f} (h : SoundMaps s) : KeepsMaps (dotInt f s) := h.issue fun _ _ _ ht _ => ht.fixed
theorem SoundMaps.dotScaledOp {f} (h : SoundMaps s) : KeepsMaps (dotScaledOp f s) := h.issue fun _ _ _ ht _ => ht.fixed

/-! ## Machine/Fetch.lean -/

theorem SoundMaps.fetchFault {wid} (h : SoundMaps s) : SoundMaps (s.fetchFault wid) :=
  .laneFaults (.ite h.noteIssue h.setIssuing) h.warp

/-! ## Machine/Issue.lean -/

/-- The slot traps a warp that sits in it. -/
theorem pick_trap {core slot w} (e : s.pick core slot = .trap w) : w ∈ s.warps := by
  have timed {w r} (e : s.timedWords core slot = w :: r) : w ∈ s.warps := by
    have hw : w ∈ s.timedWords core slot := e ▸ List.mem_cons_self
    exact (List.mem_filter.1 (List.mem_filter.1 (mem_of_mem_sortBy hw)).1).1
  unfold State.pick at e
  split at e
  · cases e
  · split at e
    · split at e
      next e' =>
        cases e
        exact timed e'
      · cases e
    · split at e
      · cases e
      · split at e
        next e' =>
          split at e
          · cases e
          · cases e
            exact timed e'
        · split at e <;> cases e
theorem SoundMaps.execSlotIssue {core slot} (h : SoundMaps s) : KeepsMaps (execSlotIssue core slot s) := by
  unfold Machine.execSlotIssue
  refine .next ?_
  split
  next w _ =>
    have hp : SoundMaps { s with warps := s.warps.map (s.pass w) } := h.mapWarps fun _ hv => .ite (hv.of_regs rfl) hv
    exact hp.setIssuing
  next e => exact h.trapAt (h.warps _ (pick_trap e))
  · exact h
theorem SoundMaps.beginLaunch {l} (h : SoundMaps s) : SoundMaps (s.beginLaunch l) := .ite h.startLaunch.trapTask h.startLaunch
theorem SoundMaps.pageWrite {own at_ k} (h : SoundMaps s) (hk : ∀ t, SoundMaps t → SoundMaps (k t)) :
    SoundMaps (s.pageWrite own at_ k) := .ite h.hold (h.unhold.hostPage fun _ ht => hk _ ht)

/-! ## Machine/Sfu.lean -/

theorem SoundMaps.sfuOp {f g} (h : SoundMaps s) : KeepsMaps (sfuOp f s g) := h.laneOp

/-! ## Machine/Schedule.lean -/

theorem SoundMaps.countFrozen (h : SoundMaps s) : SoundMaps s.countFrozen := .foldl h fun _ ht _ => ht.updCore
theorem SoundMaps.rinkRegs (h : SoundMaps s) : SoundMaps s.rinkRegs := .ite h.setMgmtAll h
theorem countEnd_sound {w : Warp} (h : w.Sound) : w.countWait.endCycle.Sound := by
  unfold Warp.countWait
  split <;> exact h.of_regs rfl
theorem SoundMaps.tick (h : SoundMaps s) : SoundMaps s.tick :=
  have ht : SoundMaps (State.countFrozen { s with warps := s.warps.map fun w => w.countWait.endCycle }) :=
    .countFrozen (h.mapWarps fun _ hw => countEnd_sound hw)
  (ht.same (by rfl)).rinkRegs
/-! ## The dispatch and the step -/

/-- Every instruction and every event. An arm with a rule of its own cites it; the others follow their short definitions here. -/
theorem SoundMaps.exec (h : SoundMaps s) (i : Instr) : KeepsMaps (exec i s) := by
  cases i
  all_goals dsimp only [Machine.exec]
  case nop => exact h.issue fun _ _ _ ht _ => ht
  case prep => exact h.issue fun _ _ _ ht _ => ht.prepare
  case prepv => exact h.execPrepv
  case xfer => exact h.issue fun _ _ _ ht _ => .ite (ht.through fun _ ht1 => ht1) (.ite ht.trapAt ht)
  case call => exact h.issue fun _ _ _ ht _ => ht.through fun _ ht1 => ht1.prepare
  case ret => exact h.issue fun _ _ _ ht _ => ht.through fun _ ht1 => ht1
  case loop => exact h.issue fun _ _ _ ht _ => .ite ht.updWarp (ht.through fun _ ht1 => ht1.updWarp)
  case xfers => exact h.execXfers
  case join => exact h.execJoin
  case hold | sleep => exact h.issue fun _ _ _ ht _ => ht.updWarp
  case exit => exact h.issue fun _ _ _ ht _ => ht.updWarp fun _ hw => .ite (hw.of_regs rfl) (hw.of_regs rfl)
  case icinv => exact h.issue fun _ _ _ ht _ => ht.staleWarp
  case trap => exact h.execTrap
  case targetFetchReady => exact .next h
  case holdDeferredTrap => exact h.execHoldDeferredTrap
  case holdOverrun => exact h.execHoldOverrun
  case iadd | isub | imul | imulh | imad | ineg | iabs | imin | imax | iclamp | iset | sel | shl | shr | sar | rotl | rotr | andOp | orOp | xorOp |
    andn | brev | bfx | bfi | bperm | mov | movi | keyf | keyr => exact h.laneOp
  case iaddc | isubb | imadw | icmp | logt | popc | clz | fnsb | trnode | rng | dot2h | cvt | pack | unpk => exact h.issue fun _ _ _ ht _ => ht.fixed
  case movx | movxw => exact h.moveIndexed
  case movs => exact h.execMovs
  case movsw => exact h.issue fun _ _ _ ht _ => .ite ht.trapAt ht.fixed
  case ld | st | ldro => exact h.memOp
  case pref => exact h.execPref
  case tlock => exact h.issue fun _ _ _ ht _ => ht.updWarp.enterOp.tryLock
  case tfree => exact h.issue fun _ _ _ ht _ => ht.freeLocks.simpleOp
  case portStamp => exact .next h.portStamp
  case frontierBroadcast => exact .next (.ite h.setFrontier.noteSince h)
  case loadComplete => exact .next h.loadComplete
  case tlbLeaseExpire => exact .next h.dropExpired
  case fixedResultLand => exact .next h.landResults.landResults
  case waitFlagCountDown => exact .next (.foldl h fun _ ht _ => ht.landRegs.endOp)
  case lds | sts => exact h.padOp
  case sptag => exact h.issue fun _ _ _ ht _ => ht.detTags fun _ ht1 => ht1.fixed
  case spset => exact h.issue fun _ _ _ ht _ => ht.tagLanes
  case spclr => exact h.issue fun _ _ _ ht _ => .ite ht.tagLanes (ht.detTags fun _ ht1 => ht1.updCore.landIn)
  case coreFreezeEnd => exact .next (h.mapCores fun _ hk => .ite (hk.of_padq rfl) hk)
  case rinkFrameExpire => exact .next h.updRink.setMgmt
  case pcieConfigRequest => exact .next (h.same (by rfl))
  case timedStop =>
    have hw : SoundMaps { s with warps := s.warps.map fun w => if s.taskStopped w then { w with stopped := true } else w } :=
      h.mapWarps fun _ hw => .ite (hw.of_regs rfl) hw
    exact .next (hw.mapLaunches fun _ hl => hl.map fun _ hc => .ite ⟨hc.1, hc.2⟩ hc)
  case privateSlotRetry => exact .next (h.mapLaunches fun _ hl => hl.map fun _ hc => .ite ⟨hc.1, hc.2⟩ hc)
  case atom | red | cas => exact h.atomGlobal
  case atoms | cass => exact h.atomPad
  case fence => exact h.issue fun _ _ _ ht _ => .ite ht.simpleOp ht.addOp
  case cwt => exact h.issue fun _ _ _ ht _ => ht.memIssue
  case cwtPeriodicEval => exact .next (.foldl h fun _ ht _ => ht.lookAt)
  case cpy | cpym | cpyg | cscat => exact h.copyOp
  case copySourceReadDone => exact h.execCopySourceReadDone
  case copyDestWrite => exact h.execCopyDestWrite
  case cseal => exact h.issue fun _ _ _ ht _ => ht.updWarp.fixed
  case cwait => exact h.issue fun _ _ _ ht _ => ht.enterOp
  case batchComplete => exact .next (.foldl h fun _ ht _ => ht.endOp)
  case bar | bara => exact h.arriveOp
  case barw => exact h.execBarw
  case nbar => exact h.execNbar
  case gjoin => exact h.issue fun _ _ _ ht _ => .ite ht.simpleOp (.ite ht.trapAt ht.updWarp.groupOp)
  case gleave => exact h.issue fun _ _ _ ht _ => .ite ht.simpleOp (.ite ht.trapAt ht.groupOp)
  case barrierArrivalApply => exact h.execBarrierArrivalApply
  case barrierNotify => exact h.execBarrierNotify
  case bitset | bitwait => exact h.bitOp
  case parkedRecordWrite => exact h.execParkedRecordWrite
  case selectCommandStart => exact .next (.foldl (.foldl h fun _ ht _ => ht.selReturn) fun _ ht _ => ht.selStart)
  case selectCommandComplete => exact .next (.foldl (.foldl h fun _ ht _ => ht.selRead) fun _ ht _ => ht.selFinish)
  case qsbind => exact h.execQsbind
  case qsmask | qsrank | qsstep | qsrun | qsres => exact h.selCommand
  case pgspec | pgcmt | pgdrop => exact h.pageInstr
  case pageOpApply => exact h.execPageOpApply
  case sequenceFork => exact h.execSequenceFork
  case matrixCommandStart => exact h.execMatrixCommandStart
  case scratchAccessCycle => exact .next (.foldl h fun _ ht _ => ht.bankCycle)
  case matrixCommandComplete => exact h.execMatrixCommandComplete
  case matrixStatusUpdate => exact h.execMatrixStatusUpdate
  case mres => exact h.execMres
  case mrel | mldb | mlda | mma | mspr | mzero | mmov | mput | mstat => exact h.matInstr
  case handlerStart => exact h.execHandlerStart
  case handlerFail => exact h.execHandlerFail
  case faultReplay => exact .next (.foldl h fun _ ht _ => ht.updOp.settle)
  case tret => exact h.execTret
  case eject => exact h.handlerOp fun _ _ _ ht _ => ht.ejectLanes
  case pgmap => exact h.execPgmap
  case pgunmap => exact h.execPgunmap
  case unmapComplete => exact h.execUnmapComplete
  case tsnd => exact h.issue fun _ _ _ ht _ => ht.rinkIssue fun _ ht1 => .ite ht1.trapAt ht1.updRink.sendFrame.simpleOp
  case trcv => exact h.execTrcv
  case atc => exact h.issue fun _ _ _ ht _ => .ite ht (.ite ht.trapAt ht.updWarp)
  case drft => exact h.execDrft
  case drftPhaseStep | driftobsRefresh => exact .next (.ite h.updRink h)
  case timingFault => exact .next h.findFault
  case timingAbortReceive => exact .next (.ite h (.abortTask (.ite h.noteFault h.noteFault.flood)))
  case rinkLinkLost => exact .next (.ite h.memberFault h)
  case timingFlitReceive => exact .next (.ite h (.ite h.updRink h.updRink.memberFault))
  case rinkFrameArrive => exact .next (.ite h (.ite h.frameFault h.updRink))
  case rinkFrameRelay => exact h.execRinkFrameRelay
  case unplannedSkid => exact .next (.ite h.freeze h)
  case skidAnnounceReceive => exact .next (.ite h (.ite h.flood.updRink.memberFault h.flood.updRink))
  case skidTake => exact h.execSkidTake
  case skidEnd => exact .next (.ite (.foldl h.updRink fun _ ht _ => ht.trapTask) h)
  case plannedSkidAnnounce => exact .next h.planSkid
  case rinkPreemptAnnounce => exact h.execRinkPreemptAnnounce
  case preemptionAnnouncementReceive => exact .next (.ite h.learnStop h)
  case clusterPlace => exact h.execClusterPlace
  case clusterRestore => exact h.execClusterRestore
  case launch => exact h.execLaunch
  case yardFormTimeout => exact .next (.foldl h fun _ ht _ => ht.formYards)
  case yardpost => exact h.execYardpost
  case yardcreate => exact h.execYardcreate
  case yarddestroy => exact h.execYarddestroy
  case warpRetire => exact h.execWarpRetire
  case shareRecompute => exact .next (.ite h h.updWarp.updRing)
  case preemptRequest => exact h.execPreemptRequest
  case quantumExpire => exact .next (.foldl h fun _ ht _ => ht.requestCluster)
  case preempt => exact h.execPreempt
  case coreSeal => exact h.execCoreSeal
  case clusterSave => exact h.execClusterSave
  case presume => exact h.execPresume
  case cresume => exact h.execCresume
  case doorbellWrite => exact .next (h.hostPage fun _ ht => ht.setRreg.updRing)
  case crheadWrite => exact .next (h.hostPage fun _ ht => ht.setRreg)
  case ringEntryRead => exact h.execRingEntryRead
  case rekey => exact .ite (.next h) (h.command fun _ ht => .ite ht.reportFail ht.reportDone)
  case completionRecordWrite => exact h.execCompletionRecordWrite
  case ringRestart => exact h.execRingRestart
  case shgrant => exact h.execShgrant
  case tmplset => exact h.execTmplset
  case xmap => exact h.execXmap
  case xmapLeaseDrained => exact h.execXmapLeaseDrained
  case xunmap => exact h.execXunmap
  case bgzeroLine => exact h.execBgzeroLine
  case bgzeroPassEnd => exact .next (.foldl h fun _ ht _ => ht.updPdk)
  case pdcreate => exact h.execPdcreate
  case pddestroy => exact h.execPddestroy
  case pdbudget => exact h.command fun _ ht => .ite ht.reportFail (.ite ht.reportFail
    (ht.updPdk fun _ hq => hq.setReg.setReg).extendEntry.reportDone)
  case rkform => exact h.execRkform
  case rinkStartFlit => exact h.execRinkStart
  case htest => exact .ite (.next h) (h.command fun _ ht => .ite ht.reportFail (.ite ht.reportFail ht.closePdk.updCmd))
  case htestComplete => exact h.execHtestComplete
  case shfl | shflx | shflu | shfld => exact h.exchange
  case bcast => exact h.execBcast
  case vote | ballot | matchOp | redi | redf | scan | compact => exact h.crossOp fun _ _ _ ht _ => ht.fixed
  case redm => exact h.crossOp fun _ _ _ ht _ => .ite ht.fixed ht.fixed
  case mext | shab | edsign => exact h.rootInstr fun _ _ _ _ ht _ => ht.rootOp
  case pageWalkComplete => exact h.execPageWalkComplete
  case homeApply => exact h.execHomeApply
  case scrub => exact h.rootInstr fun _ _ _ _ ht _ => .ite ht.status (.ite ht.status ht.addOp.startScrub)
  case lockif => exact h.execLockif
  case scrubComplete => exact .next (.foldl (.endDestroys (.foldl h fun _ ht _ => ht.startScrub)) fun _ ht _ => ht.endScrub)
  case getVersion => exact h.spdmFree fun _ ht => .updSpdm (.foldl ht fun _ ht1 _ => ht1.endSession)
  case getCapabilities | negotiateAlgorithms | keyUpdate => exact h.spdmRequest fun _ ht => .snd_mk ht.updSpdm
  case getCertificate => exact h.spdmRequest fun _ ht => ht
  case challenge => exact h.execChallenge
  case getMeasurements => exact h.spdmRequest fun _ ht => ht.spdmMeasurements
  case keyExchange => exact h.execKeyExchange
  case finish => exact h.execFinish
  case spdmDecryptFail => exact .next h.endSession.spdmReply
  case spdmUnsupportedRequest => exact h.spdmFree fun _ ht => ht.spdmReply
  case lockInterfaceRequest => exact h.tdisp fun _ _ ht => ht.lockIf
  case startInterfaceRequest => exact h.tdisp fun _ _ ht => ht.setIf
  case stopInterfaceRequest => exact h.tdisp fun _ _ ht => ht.beginStop
  case hostMemoryWrite => exact h.execHostMemoryWrite
  case hostMemoryRead => exact h.execHostMemoryRead
  case flrVf => exact .next (.ite h.unhold (.ite h.hold h.unhold.resetPdk))
  case dieReset => exact .next (.ite h.hold (.foldl h.unhold fun _ ht _ => ht.resetPdk))
  case deviceReset => exact .next (.ite soundMaps_coldBoot (h.same (by rfl)))
  case thermalTrip => exact .next (.ite h soundMaps_coldBoot)
  case powerLoss => exact keepsMaps_execPowerLoss
  case powerGood => exact h.execPowerGood
  case bootReady => exact .next (.ite h.setStage h)
  case throttleStart => exact .next (.ite h { h.updCore with mgmt := rising_mset _ 0 _ _ (Nat.zero_le _) h.mgmt })
  case throttleEnd => exact .next h.updCore
  case portLinkDown => exact .next (.ite h (.updPort (.ite h.memberFault h)))
  case portLinkUp | flowControlFrameReceive => exact .next (.ite h h.updPort)
  case ethSendDescriptor => exact h.execEthSendDescriptor
  case ethFrameReceive => exact h.execEthFrameReceive
  case fadd | fsub | fmul | ffma | fmin | fmax | fminp | fmaxp | frnd => exact h.floatOp
  case fcmp | fclass | fscale => exact h.floatIssue fun _ _ _ ht _ => ht.fixed
  case fexp => exact h.floatIssue fun _ _ _ ht _ => .ite (.ite ht.fixed ht.fixed) ht.fixed
  case fdiv | fsqrt => exact h.divideOp
  case divideUnitAccept => exact h.execDivideUnitAccept
  case divideComplete => exact h.execDivideComplete
  case dot4 | dot8 => exact h.dotInt
  case dotf8 | dotf4 => exact h.dotScaledOp
  case slotIssue => exact h.execSlotIssue
  case timedLaunchStart => exact .next (.foldl h fun _ ht _ => .ite ht.beginLaunch ht.missStart.sweep)
  case registerWrite => exact .next (h.pageWrite fun _ ht => ht.putReg)
  case nqctlWrite => exact .next (.ite h (h.pageWrite fun _ ht => ht.putNqctl))
  case rcp | rsq | ex2 | lg2 | fsin | fcos | tanh | sigm => exact h.sfuOp

theorem SoundMaps.step (h : SoundMaps s) : KeepsMaps (step s) := by
  unfold Machine.step
  split
  · exact (h.same (by rfl)).exec _
  · split
    · split
      · exact .next h.fetchFault
      · split
        · exact h.exec _
        · exact .fault
    · split
      · exact h.exec _
      · exact .next h.tick

/-- Settles O59: the head of the agenda, the word that issues, the event that is due and the passing of a cycle each keep every map in the canonical
form. -/
theorem stepKeepsMaps : Obligations.StepKeepsMaps := fun _ t h e => mapsCanonical_iff.2 ((mapsCanonical_iff.1 h).step t e)

end
end Sys2Proof.Safety

/-! O24. Barriers, joins and leaves complete their issue (R83, R84, R272 to R276).

Each of these words does one of two things where it does not trap: it puts one operation in flight behind those that were, or, as no lane executes it,
counts its flag down. So the issue of an operation is proved once (`addOp_issues`), and each word follows its own checks to it. The checks look at
groups, launches and operations, none of which the issue changes (`noteIssue_eq`). -/
namespace Sys2Proof.Safety
open Sys2Proof Sys2Proof.Machine

/-! ## What the checks look at stands as it was -/

section
variable (s : State) (wid : Nat) (f : Fields)

/-- The issue of a word changes warps and cores alone. -/
theorem noteIssue_eq : ∃ ws ks, s.noteIssue wid f = { s with warps := ws, cores := ks, issuing := none } := by
  unfold State.noteIssue State.updCore
  dsimp only
  split
  · exact ⟨_, _, rfl⟩
  · exact ⟨_, _, rfl⟩
theorem wall_noteIssue : (s.noteIssue wid f).wall = s.wall := by
  obtain ⟨ws, ks, e⟩ := noteIssue_eq s wid f
  rw [e]
theorem pdk_noteIssue (p : Nat) : (s.noteIssue wid f).pdk p = s.pdk p := by
  obtain ⟨ws, ks, e⟩ := noteIssue_eq s wid f
  rw [e]
  rfl
theorem launchRec_noteIssue (l : Nat) : (s.noteIssue wid f).launchRec l = s.launchRec l := by
  obtain ⟨ws, ks, e⟩ := noteIssue_eq s wid f
  rw [e]
  rfl
theorem clusterOf_noteIssue (w : Warp) : (s.noteIssue wid f).clusterOf w = s.clusterOf w := by
  unfold State.clusterOf
  rw [launchRec_noteIssue]
theorem isMember_noteIssue (w : Warp) (g : Nat) : (s.noteIssue wid f).isMember w g = s.isMember w g := by
  obtain ⟨ws, ks, e⟩ := noteIssue_eq s wid f
  rw [e]
  rfl
theorem leaving_noteIssue (w : Warp) (p : Nat → Bool) : (s.noteIssue wid f).leaving w p = s.leaving w p := by
  obtain ⟨ws, ks, e⟩ := noteIssue_eq s wid f
  rw [e]
  rfl
theorem joining_noteIssue (p g : Nat) : (s.noteIssue wid f).joining p g = s.joining p g := by
  obtain ⟨ws, ks, e⟩ := noteIssue_eq s wid f
  rw [e]
  rfl
theorem boundGroup_noteIssue (w : Warp) (n : Nat) : (s.noteIssue wid f).boundGroup w n = s.boundGroup w n := by
  unfold State.boundGroup
  rw [clusterOf_noteIssue]
theorem issuedWarp_place (w : Warp) :
    (s.issuedWarp f w).launch = w.launch ∧ (s.issuedWarp f w).members = w.members ∧ (s.issuedWarp f w).clno = w.clno := by
  unfold State.issuedWarp
  cases f.flag <;> exact ⟨rfl, rfl, rfl⟩
/-- The warp that issues keeps its launch, its groups and its cluster. -/
theorem joinedClusters_noteIssue (l : Launch) (g : Nat) : (s.noteIssue wid f).joinedClusters l g = s.joinedClusters l g := by
  have hw : (s.noteIssue wid f).warps = s.warps.map fun w => if w.id == wid then s.issuedWarp f w else w := by
    show (State.updCore _ _ _).warps = _
    rw [State.updCore_warps]
    rfl
  have hplace (w : Warp) : (if w.id == wid then s.issuedWarp f w else w).launch = w.launch ∧
      (if w.id == wid then s.issuedWarp f w else w).members = w.members ∧ (if w.id == wid then s.issuedWarp f w else w).clno = w.clno := by
    split
    · exact issuedWarp_place s f w
    · exact ⟨rfl, rfl, rfl⟩
  unfold State.joinedClusters
  simp only [hw, List.filter_map, List.map_map, Function.comp_def, (hplace _).1, (hplace _).2.1, (hplace _).2.2]
theorem groupDie_noteIssue (g : Group) : (s.noteIssue wid f).groupDie g = s.groupDie g := by
  unfold State.groupDie State.setDie State.dieSetOf
  simp only [launchRec_noteIssue, pdk_noteIssue, joinedClusters_noteIssue]
theorem joinBad_noteIssue (w : Warp) (g : Nat) : (s.noteIssue wid f).joinBad w g = s.joinBad w g := by
  unfold State.joinBad
  simp only [launchRec_noteIssue, pdk_noteIssue, isMember_noteIssue, leaving_noteIssue, joining_noteIssue, clusterOf_noteIssue, groupDie_noteIssue]
end

/-! ## The operation that enters -/

/-- A change of the warp that leaves it on its core leaves its cycle. -/
theorem now_updWarp {t : State} {wid : Nat} (k : Warp → Warp) (hid : ∀ w, (k w).id = w.id) (hcore : ∀ w, (k w).core = w.core)
    (h : t.hasWarp wid = true) : (t.updWarp wid k).now ((t.updWarp wid k).warp wid) = t.now (t.warp wid) := by
  rw [t.warp_updWarp wid k hid h]
  unfold State.now
  rw [hcore]
  rfl
/-- An operation enters after the issue. -/
theorem addOp_issues {s t : State} {wid : Nat} {f : Fields} {g : Warp → Warp} {h : Core → Core} {x : Op} (H : Issues s t wid f g [] h)
    (hnow : t.now (t.warp wid) = s.now (s.warp wid)) (hwall : t.wall = s.wall) (hx : x.wid = wid) :
    Issues s (t.addOp x).2 wid f g [enters s wid x] h where
  has := H.has
  warp := H.warp
  others := H.others
  inFlight := by
    subst hx
    show t.ops ++ [{ x with id := t.nextId, issued := t.now (t.warp x.wid), wall := t.wall }] = _
    rw [H.inFlight, List.append_nil, hnow, hwall, H.nextId]
    rfl
  nextId := congrArg (· + 1) H.nextId
  core := H.core
  cores := H.cores
  issuing := H.issuing
  rest := H.rest

section
variable {s : State} {wid : Nat} (h : Chosen s wid) (f : Fields)
include h

/-- A word that only counts its flag down. -/
theorem simpleOp_issues (n : Nat) : Issues s ((s.noteIssue wid f).simpleOp wid (s.warp wid) f n) wid f id [quietOp s wid f n] := by
  unfold State.simpleOp quietOp
  rw [s.noteIssue_now]
  exact addOp_issues (State.noteIssue_issues h f) (State.noteIssue_warp_now h f) (wall_noteIssue s wid f) rfl
theorem groupOp_issues (k : OpKind) :
    Issues s ((s.noteIssue wid f).groupOp wid (s.warp wid) f k) wid f id [enters s wid { opOf wid (s.warp wid) f k with nregs := 1 }] :=
  addOp_issues (State.noteIssue_issues h f) (State.noteIssue_warp_now h f) (wall_noteIssue s wid f) rfl
end

/-- Lanes that supply one value, if there is a lane, supply it uniformly. -/
theorem uniform_eq {m : Lanes} {g : Nat → Word} {v : Word} (hm : m ≠ 0) (hg : ∀ i ∈ lanesOf m, g i = v) : uniform m g = some v := by
  unfold uniform
  split
  next e =>
    refine absurd (BitVec.eq_of_getLsbD_eq fun i _ => ?_) hm
    have hi := mt (mem_lanesOf (i := i)).2 (e ▸ List.not_mem_nil)
    exact (Bool.eq_false_iff.2 hi).trans BitVec.getLsbD_zero.symm
  next i r e =>
    rw [e] at hg
    have hi := hg i List.mem_cons_self
    rw [if_pos, hi]
    exact List.all_eq_true.2 fun j hj => beq_iff_eq.2 ((hg j (List.mem_cons_of_mem i hj)).trans hi.symm)

/-! ## The words -/

/-- A word that puts an operation of a group in flight: after its issue it comes to `groupOp`. -/
theorem enters_groupOp {i : Fields → Instr} {x : Fields → State → Out} {k : Fields → Nat → Warp → State → State}
    {kind : Fields → OpKind} {ok : State → Warp → Fields → Prop}
    (hx : ∀ f s, exec (i f) s = x f s) (hi : ∀ f s, x f s = s.issue f (k f))
    (hk : ∀ s wid f, ok s (s.warp wid) f →
      k f wid (s.warp wid) (s.noteIssue wid f) = (s.noteIssue wid f).groupOp wid (s.warp wid) f (kind f)) :
    Enters i (fun s wid f => { opOf wid (s.warp wid) f (kind f) with nregs := 1 }) ok := fun s wid f h hok =>
  ⟨_, by rw [hx, hi, State.issue_chosen h, hk s wid f hok], groupOp_issues h f _⟩
/-- A word that no lane executes only counts down. -/
theorem idleEnters_of {i : Fields → Instr} {x : Fields → State → Out} {k : Fields → Nat → Warp → State → State}
    (hx : ∀ f s, exec (i f) s = x f s) (hi : ∀ f s, x f s = s.issue f (k f))
    (hk : ∀ f wid w s, w.exec f = 0 → k f wid w s = s.simpleOp wid w f 1) : IdleEnters i := fun s wid f h hf =>
  ⟨_, by rw [hx, hi, State.issue_chosen h, hk f wid _ _ hf], simpleOp_issues h f 1⟩

theorem enters_arrive {i : Fields → Instr} {b : Bool} (hexec : ∀ f s, exec (i f) s = arriveOp f s b) :
    Enters i (fun s wid f => { opOf wid (s.warp wid) f (.arrive false (f.immVal.toNat % 256) b) with nregs := 1 })
      fun s w f => w.exec f ≠ 0 ∧ s.isMember w (f.immVal.toNat % 256) = true := by
  refine enters_groupOp hexec (fun _ _ => rfl) fun s wid f hok => ?_
  obtain ⟨hf, hm⟩ := hok
  rw [← isMember_noteIssue s wid f] at hm
  simp only [beq_false_of_ne hf, hm, Bool.not_true, Bool.false_eq_true, if_false]
theorem enters_barw {v : Word} :
    Enters .barw (fun s wid f => { opOf wid (s.warp wid) f (.await false (f.immVal.toNat % 256) v) with nregs := 1 })
      fun s w f => (w.exec f ≠ 0 ∧ s.isMember w (f.immVal.toNat % 256) = true) ∧ ∀ i ∈ lanesOf (w.exec f), w.src f.a i = v := by
  refine enters_groupOp (x := execBarw) (fun _ _ => rfl) (fun _ _ => rfl) fun s wid f hok => ?_
  obtain ⟨⟨hf, hm⟩, hv⟩ := hok
  rw [← isMember_noteIssue s wid f] at hm
  simp only [beq_false_of_ne hf, hm, uniform_eq hf hv, Bool.not_true, Bool.false_eq_true, if_false]
theorem enters_nbar :
    Enters .nbar (fun s wid f => { opOf wid (s.warp wid) f (.arrive true (f.immVal.toNat % 16) (f.var == 0)) with nregs := 1 })
      fun s w f => (w.exec f ≠ 0 ∧ ∃ g, s.boundGroup w (f.immVal.toNat % 16) = some g ∧ s.isMember w g = true) ∧ f.var ≠ 2 := by
  refine enters_groupOp (x := execNbar) (fun _ _ => rfl) (fun _ _ => rfl) fun s wid f hok => ?_
  obtain ⟨⟨hf, g, hg, hm⟩, hv⟩ := hok
  rw [← boundGroup_noteIssue s wid f] at hg
  rw [← isMember_noteIssue s wid f] at hm
  simp only [beq_false_of_ne hf, hg, hm, beq_false_of_ne hv, Bool.not_true, Bool.false_eq_true, if_false]
theorem enters_nbar_wait {v : Word} :
    Enters .nbar (fun s wid f => { opOf wid (s.warp wid) f (.await true (f.immVal.toNat % 16) v) with nregs := 1 })
      fun s w f => (w.exec f ≠ 0 ∧ ∃ g, s.boundGroup w (f.immVal.toNat % 16) = some g ∧ s.isMember w g = true) ∧ f.var = 2 ∧
        ∀ i ∈ lanesOf (w.exec f), w.src f.a i = v := by
  refine enters_groupOp (x := execNbar) (fun _ _ => rfl) (fun _ _ => rfl) fun s wid f hok => ?_
  obtain ⟨⟨hf, g, hg, hm⟩, hvar, hv⟩ := hok
  rw [← boundGroup_noteIssue s wid f] at hg
  rw [← isMember_noteIssue s wid f] at hm
  simp only [beq_false_of_ne hf, hg, hm, hvar, BEq.rfl, uniform_eq hf hv, Bool.not_true, Bool.false_eq_true, if_false, if_true]
theorem enters_gleave :
    Enters .gleave (fun s wid f => { opOf wid (s.warp wid) f (.leave (f.immVal.toNat % 256)) with nregs := 1 })
      fun s w f => (w.exec f ≠ 0 ∧ s.isMember w (f.immVal.toNat % 256) = true) ∧
        ¬((s.launchRec w.launch).desc.det = true ∧ (s.launchRec w.launch).desc.phaseg = f.immVal.toNat % 256) := by
  refine enters_groupOp (x := execGleave) (fun _ _ => rfl) (fun _ _ => rfl) fun s wid f hok => ?_
  obtain ⟨⟨hf, hm⟩, hp⟩ := hok
  rw [← isMember_noteIssue s wid f] at hm
  rw [← launchRec_noteIssue s wid f] at hp
  simp only [beq_false_of_ne hf, hm, Bool.not_true, Bool.false_eq_true, if_false, Bool.false_or, Bool.and_eq_true, beq_iff_eq, hp]
/-- GJOIN takes its member slot before the join enters. -/
theorem enters_gjoin :
    Enters .gjoin (fun s wid f => { opOf wid (s.warp wid) f (.join (f.immVal.toNat % 256)) with nregs := 1 })
      (fun s w f => w.exec f ≠ 0 ∧ s.joinBad w (f.immVal.toNat % 256) = false)
      (fun _ _ f w => { w with members := w.members ++ [{ group := f.immVal.toNat % 256 }] }) := by
  intro s wid f h hok
  obtain ⟨hf, hj⟩ := hok
  rw [← joinBad_noteIssue s wid f] at hj
  refine ⟨_, (rfl : _ = execGjoin f s).trans (State.issue_chosen h f _), ?_⟩
  simp only [beq_false_of_ne hf, hj, Bool.false_eq_true, if_false]
  have H := issues_updWarp (State.noteIssue_issues h f) (fun w => { w with members := w.members ++ [{ group := f.immVal.toNat % 256 }] }) fun _ => rfl
  refine addOp_issues H ?_ (wall_noteIssue s wid f) rfl
  refine (now_updWarp _ ?_ ?_ (State.noteIssue_issues h f).has).trans (State.noteIssue_warp_now h f)
  · exact fun _ => rfl
  · exact fun _ => rfl

/-- Settles O24: no word traps under its hypotheses, so each reaches the operation that it puts in flight. -/
theorem groups : Obligations.Groups :=
  ⟨enters_arrive fun _ _ => rfl, enters_arrive fun _ _ => rfl, fun _ => enters_barw, enters_nbar, fun _ => enters_nbar_wait, enters_gjoin,
    enters_gleave,
    idleEnters_of (x := (arriveOp · · true)) (fun _ _ => rfl) (fun _ _ => rfl) fun _ _ _ _ hf => if_pos (beq_iff_eq.2 hf),
    idleEnters_of (x := (arriveOp · · false)) (fun _ _ => rfl) (fun _ _ => rfl) fun _ _ _ _ hf => if_pos (beq_iff_eq.2 hf),
    idleEnters_of (x := execBarw) (fun _ _ => rfl) (fun _ _ => rfl) fun _ _ _ _ hf => if_pos (beq_iff_eq.2 hf),
    idleEnters_of (x := execNbar) (fun _ _ => rfl) (fun _ _ => rfl) fun _ _ _ _ hf => if_pos (beq_iff_eq.2 hf),
    idleEnters_of (x := execGjoin) (fun _ _ => rfl) (fun _ _ => rfl) fun _ _ _ _ hf => if_pos (beq_iff_eq.2 hf),
    idleEnters_of (x := execGleave) (fun _ _ => rfl) (fun _ _ => rfl) fun _ _ _ _ hf => if_pos (beq_iff_eq.2 hf)⟩

end Sys2Proof.Safety

/-! SUPPORT. What the device's own work leaves alone, for O41 and O44: a translation, a fault, the write of a room or of a record, a wait that is
looked at again. None of them launches or places anything, and none forms or drops a warp. The rules have the shape of those of O60, and stand in the
order of the model's files. -/
namespace Sys2Proof.Machine
open Sys2Proof

/-- What of a paddock only a command changes: its number, its groups and its yards. -/
def Pdk.sets (q : Pdk) : Nat × List Group × List Yard := (q.no, q.groups, q.yards)
/-- What of a core the matrix and selection units have of their own: the reservations, and the unit's binding. -/
def Core.units (k : Core) : List Reservation × SelUnit := (k.res, k.sel)

end Sys2Proof.Machine

namespace Sys2Proof.Safety
open Sys2Proof Sys2Proof.Machine

/-- In `s` the launches, the wall clock, who is there, the groups, the yards and the units are those of `b`. -/
structure Steady (b s : State) : Prop where
  launches : s.launches = b.launches
  wall : s.wall = b.wall
  ids : s.warps.map (·.id) = b.warps.map (·.id)
  sets : s.pdks.map Pdk.sets = b.pdks.map Pdk.sets
  units : ∀ c, (s.core c).units = (b.core c).units

theorem Steady.refl (s : State) : Steady s s := ⟨rfl, rfl, rfl, rfl, fun _ => rfl⟩
theorem Steady.hasWarp {b s : State} (h : Steady b s) (v : Nat) : s.hasWarp v = b.hasWarp v := by
  have e (t : State) : t.hasWarp v = (t.warps.map (·.id)).any (· == v) := by
    rw [List.any_map]
    rfl
  rw [e, e, h.ids]
theorem sets_pdk (s : State) (p : Nat) : (s.pdk p).sets = ((s.pdks.map Pdk.sets).find? (·.1 == p)).getD (p, [], []) := by
  rw [List.find?_map]
  unfold State.pdk
  show (Option.getD (s.pdks.find? fun q => q.no == p) _).sets = (Option.map Pdk.sets (s.pdks.find? fun q => q.no == p)).getD _
  cases s.pdks.find? fun q => q.no == p <;> rfl
theorem Steady.pdk {b s : State} (h : Steady b s) (p : Nat) : (s.pdk p).sets = (b.pdk p).sets := by
  rw [sets_pdk, sets_pdk, h.sets]
theorem Steady.groups {b s : State} (h : Steady b s) (p : Nat) : (s.pdk p).groups = (b.pdk p).groups := congrArg (·.2.1) (h.pdk p)
theorem Steady.yards {b s : State} (h : Steady b s) (p : Nat) : (s.pdk p).yards = (b.pdk p).yards := congrArg (·.2.2) (h.pdk p)

section
set_option Elab.async false
variable {b s : State}

/-- The state that an optional answer carries at `π`, if any, is steady. -/
def YieldsSteady {α : Type} (b : State) (π : α → State) (o : Option α) : Prop := ∀ x, o = some x → Steady b (π x)
/-- So is the state of a try that succeeds. -/
def PlacesSteady (b : State) (r : Placed) : Prop := ∀ t, r = .done t → Steady b t

theorem YieldsSteady.none {α : Type} {π : α → State} : YieldsSteady b π none := nofun
theorem YieldsSteady.some {α : Type} {π : α → State} {x : α} (h : Steady b (π x)) : YieldsSteady b π (some x) := by
  intro y e
  cases e
  exact h
theorem YieldsSteady.ite {α : Type} {π : α → State} {l r : Option α} {c : Prop} [Decidable c] (hl : YieldsSteady b π l)
    (hr : YieldsSteady b π r) : YieldsSteady b π (if c then l else r) := by
  split
  · exact hl
  · exact hr
theorem YieldsSteady.map {α β : Type} {π : α → State} {o : Option β} {g : β → α} (hg : ∀ x, o = Option.some x → Steady b (π (g x))) :
    YieldsSteady b π (o.map g) := by
  intro y e
  obtain ⟨x, hx, rfl⟩ := Option.map_eq_some_iff.1 e
  exact hg x hx
theorem YieldsSteady.bind {α β : Type} {π : α → State} {o : Option β} {g : β → Option α}
    (hg : ∀ x, o = Option.some x → YieldsSteady b π (g x)) : YieldsSteady b π (o.bind g) := by
  intro y e
  obtain ⟨x, hx, hy⟩ := Option.bind_eq_some_iff.1 e
  exact hg x hx y hy
theorem PlacesSteady.noSlots {w e} : PlacesSteady b (.noSlots w e) := by
  intro t e
  cases e

/-- A change of other parts; the equation is given as `(by rfl)`, which is checked last, when the state after is known. -/
theorem Steady.same {t : State} (e : (t.launches, t.wall, t.warps, t.pdks, t.cores) = (s.launches, s.wall, s.warps, s.pdks, s.cores))
    (h : Steady b s) : Steady b t := by
  simp only [Prod.mk.injEq] at e
  obtain ⟨el, ew, ei, ep, ek⟩ := e
  exact ⟨el.trans h.launches, ew.trans h.wall, ei ▸ h.ids, ep ▸ h.sets, fun c => by rw [State.core, ek]; exact h.units c⟩
theorem Steady.ite {l r : State} {c : Prop} [Decidable c] (hl : Steady b l) (hr : Steady b r) : Steady b (if c then l else r) := by
  split
  · exact hl
  · exact hr
theorem Steady.ite_of {l r t : State} {c : Prop} [Decidable c] (h : Steady b t) (hl : Steady b t → Steady b l)
    (hr : Steady b t → Steady b r) : Steady b (if c then l else r) := .ite (hl h) (hr h)
theorem Steady.snd_ite {α : Type} {l r : α × State} {c : Prop} [Decidable c] (hl : Steady b l.2) (hr : Steady b r.2) :
    Steady b (if c then l else r).2 := by
  split
  · exact hl
  · exact hr
theorem Steady.of_eq {α : Type} {p : α × State} {a : α} {t : State} (h : Steady b p.2) (e : p = (a, t)) : Steady b t := by
  cases e
  exact h
theorem Steady.getD {o : Option State} (ho : YieldsSteady b (·) o) (h : Steady b s) : Steady b (o.getD s) := by
  cases o with
  | none => exact h
  | some t => exact ho t rfl
theorem Steady.foldl {α : Type} {g : State → α → State} {l : List α} (h : Steady b s) (hg : ∀ t, Steady b t → ∀ a, Steady b (g t a)) :
    Steady b (l.foldl g s) := List.foldlRecOn l g h fun t ht a _ => hg t ht a
theorem Steady.foldl_snd {α β : Type} {g : β × State → α → β × State} {l : List α} {p : β × State} (h : Steady b p.2)
    (hg : ∀ p a, Steady b p.2 → Steady b (g p a).2) : Steady b (l.foldl g p).2 :=
  List.foldlRecOn (motive := fun p => Steady b p.2) l g h fun p hp a _ => hg p a hp
theorem Steady.foldSome {α : Type} {g : State → α → Option State} {l : List α} (h : Steady b s)
    (hg : ∀ t, Steady b t → ∀ a, YieldsSteady b (·) (g t a)) : YieldsSteady b (·) (foldSome g s l) := by
  induction l generalizing s with
  | nil => exact .some h
  | cons a r ih => exact .bind fun t e => ih (hg s h a t e)

/-- Every warp changes, but keeps its identifier, as most changes do by `rfl`. -/
theorem Steady.mapWarps {g : Warp → Warp} (h : Steady b s) (hg : ∀ w, (g w).id = w.id := by exact fun _ => rfl) :
    Steady b { s with warps := s.warps.map g } :=
  { h with
    ids := by
      rw [← h.ids, List.map_map]
      exact List.map_congr_left fun w _ => hg w }
theorem Steady.updWarp {wid f} (h : Steady b s) (hf : ∀ w, (f w).id = w.id := by exact fun _ => rfl) : Steady b (s.updWarp wid f) :=
  h.mapWarps fun w => by
    split
    · exact hf w
    · rfl
theorem Steady.updPdk {p f} (h : Steady b s) (hf : ∀ q, (f q).sets = q.sets := by exact fun _ => rfl) : Steady b (s.updPdk p f) :=
  { h with
    sets := by
      show (s.pdks.map _).map _ = _
      rw [← h.sets, List.map_map]
      refine List.map_congr_left fun q _ => ?_
      show Pdk.sets (if _ then _ else _) = _
      split
      · exact hf q
      · rfl }
theorem Steady.updCore {c f} (h : Steady b s) (hid : ∀ k, (f k).id = k.id := by exact fun _ => rfl)
    (hf : ∀ k, (f k).units = k.units := by exact fun _ => rfl) : Steady b (s.updCore c f) := by
  have ht : ({ s with cores := (s.updCore c f).cores } : State) = s.updCore c f := by
    unfold State.updCore
    split <;> rfl
  rw [← ht]
  refine { h with units := fun d => ?_ }
  have hd : (State.core { s with cores := (s.updCore c f).cores } d).units = (s.core d).units := by
    rw [ht]
    by_cases e : d = c
    · rw [e, State.core_updCore s c f hid]
      exact hf _
    · rw [State.core_updCore_ne s c d f hid e]
  exact hd.trans (h.units d)

/-! ## Machine/Ops.lean -/

theorem Steady.mapOps {f} (h : Steady b s) : Steady b (s.mapOps f) := h.same (by rfl)
theorem Steady.updOp {o f} (h : Steady b s) : Steady b (s.updOp o f) := h.same (by rfl)
theorem Steady.filterOps {p : Op → Bool} (h : Steady b s) : Steady b { s with ops := s.ops.filter p } := h.same (by rfl)
theorem Steady.takeId (h : Steady b s) : Steady b s.takeId.2 := h.same (by rfl)
theorem Steady.ownSkid (h : Steady b s) : Steady b s.ownSkid := h.same (by rfl)
theorem Steady.ownSkids {n} (h : Steady b s) : Steady b (s.ownSkids n) := by
  induction n generalizing s with
  | zero => exact h
  | succ n ih => exact ih h.ownSkid
theorem Steady.freeze {c n} (h : Steady b s) : Steady b (s.freeze c n) := .ite h (.ite h.ownSkids
  (h.updCore (fun _ => by split <;> rfl) fun _ => by split <;> rfl))
theorem Steady.landRegs {wid o ws} (h : Steady b s) : Steady b (s.landRegs wid o ws) :=
  .same (by rfl) (h.updWarp (wid := wid) (f := fun w => { w with regs := msetAll w.regs ws }))
theorem Steady.endOp {o} (h : Steady b s) : Steady b (s.endOp o) := by
  unfold State.endOp
  split
  · exact h
  · exact (h.filterOps.updWarp fun w => w.flagDown_id _).same (by rfl)
theorem Steady.leaveOp {x} (h : Steady b s) : Steady b (s.leaveOp x) := (h.updWarp fun w => w.flagDown_id _).updOp
theorem Steady.settle {o} (h : Steady b s) : Steady b (s.settle o) := by
  unfold State.settle
  split
  · exact h
  · exact .ite h (.ite h.landRegs.leaveOp h.landRegs.endOp)
theorem Steady.poke {pa bs} (h : Steady b s) : Steady b (s.poke pa bs) := h.same (by rfl)
theorem Steady.raise {p vec} (h : Steady b s) : Steady b (s.raise p vec) := h.same (by rfl)
theorem Steady.ifError {p cause} (h : Steady b s) : Steady b (s.ifError p cause) :=
  .ite h (.ite_of (.ite_of (.ite_of h.updPdk (·.updPdk) id) id (·.raise)) id fun ht => ht.mapWarps fun _ => by split <;> rfl)
theorem Steady.mgmtCount {off} (h : Steady b s) : Steady b (s.mgmtCount off) := h.same (by rfl)
theorem Steady.retire {p pa} (h : Steady b s) : YieldsSteady b (·) (s.retire p pa) := by
  unfold State.retire
  split
  · exact .none
  next r _ => exact .some (.mgmtCount (.same (by rfl) (h.updPdk (p := p) (f := fun q => { q with pool := r }))))
theorem Steady.retried {core pa} (h : Steady b s) : Steady b (s.retried core pa) := by
  unfold State.retried
  split
  · exact .ite h.freeze h
  · exact h
theorem Steady.eccMark {core p pa spec x} (h : Steady b s) : Steady b (s.eccMark core p pa spec x).2 := by
  unfold State.eccMark
  split
  · exact h
  · exact (h.same (by rfl)).mgmtCount.retried
  · exact h
  · exact .snd_ite h.retried (.getD h.retried.retire h.retried)
theorem Steady.ecc {core p pa n spec} (h : Steady b s) : Steady b (s.ecc core p pa n spec).2 := .snd_ite h h.eccMark
theorem Steady.eccWrite {core p pa n spec} (h : Steady b s) : Steady b (s.eccWrite core p pa n spec).2 :=
  .snd_ite h.eccMark h.ecc
theorem Steady.noteS2 {p pa} (h : Steady b s) : Steady b (s.noteS2 p pa) := .foldl h fun _ ht _ => ht.ecc
theorem Steady.noteReads {p reads} (h : Steady b s) : Steady b (s.noteReads p reads) := by
  unfold State.noteReads
  refine .foldl h fun _ ht _ => ?_
  dsimp only
  split
  · exact .foldl ht.noteS2 fun _ ht1 _ => ht1.ecc
  · exact ht.noteS2
theorem Steady.fillCore {c e life} (h : Steady b s) : Steady b (s.fillCore c e life) := .ite h h.updCore
theorem Steady.translate {c p asid va} (h : Steady b s) : Steady b (s.translate c p asid va).2 := by
  unfold State.translate
  split
  · exact h
  · dsimp only
    split
    · exact h.fillCore
    · split
      · exact h.noteReads
      · exact .ite h.noteReads.noteS2.fillCore (h.noteReads.noteS2.fillCore.same (by rfl))
theorem Steady.mergeClock {die stamp} (h : Steady b s) : Steady b (s.mergeClock die stamp) := h.same (by rfl)
theorem Steady.evalWait {o} (h : Steady b s) : Steady b (s.evalWait o) := by
  unfold State.evalWait
  split
  · exact h
  · exact .ite h (.ite h (.ite_of (.updOp (.foldl h fun _ ht _ => .ite ht ht.mergeClock)) id (·.settle)))
theorem Steady.wake {pa} (h : Steady b s) : Steady b (s.wake pa) := .foldl h fun _ ht _ => ht.evalWait
theorem Steady.applyWrite {p pa bs stamp} (h : Steady b s) : Steady b (s.applyWrite p pa bs stamp) :=
  (Steady.same (by rfl) (h.poke (pa := pa) (bs := bs))).wake
theorem Steady.stampAt {die} (h : Steady b s) : Steady b (s.stampAt die).2 := h.same (by rfl)
theorem Steady.devStore {p die pa bs} (h : Steady b s) : Steady b (s.devStore p die pa bs) :=
  .ite h (.foldl h.stampAt fun _ ht _ => .ite ht.eccWrite.applyWrite ht.eccWrite)
theorem Steady.devWrite {p pa bs} (h : Steady b s) : Steady b (s.devWrite p pa bs) := by
  unfold State.devWrite
  dsimp only
  split
  · exact h.noteS2.devStore
  · exact h.noteS2.ifError
theorem Steady.postFault {p asid code block bitmap events write pc lid idx} (h : Steady b s) :
    Steady b (s.postFault p asid code block bitmap events write pc lid idx) := by
  unfold State.postFault
  refine .ite h ?_
  split
  · exact h.ifError
  · dsimp only
    split
    · exact h.noteReads.devStore.updPdk.raise
    · exact .ite h.noteReads.updPdk h.noteReads.devStore.updPdk.updPdk.raise
theorem Steady.postLane {w asid f pc idx} (h : Steady b s) : Steady b (s.postLane w asid f pc idx) := h.postFault
theorem Steady.countReg {p off n} (h : Steady b s) : Steady b (s.countReg p off n) := h.updPdk
theorem Steady.dropLanes {wid o m} (h : Steady b s) : Steady b (s.dropLanes wid o m) :=
  .foldl (h.mapOps) fun _ ht _ => ht.settle
theorem Steady.unwait {wid o m} (h : Steady b s) : Steady b (s.unwait wid o m) := .foldl h.mapOps fun _ ht _ => ht.settle
theorem Steady.ejectAsid {wid asid resume before o faults reopen} (h : Steady b s) :
    Steady b (s.ejectAsid wid asid resume before o faults reopen).2 := .snd_ite h (h.takeId.same (by rfl)).updWarp.dropLanes.unwait
theorem Steady.handlerDies {wid o} (h : Steady b s) : Steady b (s.handlerDies wid o) := h.updWarp.dropLanes
theorem Steady.trapNow {wid code pc resume before o reopen} (h : Steady b s) :
    Steady b (s.trapNow wid code pc resume before o reopen) :=
  .ite h.handlerDies (.updWarp (.filterOps (.filterOps (.mapOps (.foldl h fun _ ht _ => ht.ejectAsid.postFault)))))
theorem Steady.takeTrap {wid code pc before o} (h : Steady b s) : Steady b (s.takeTrap wid code pc before o) := by
  unfold State.takeTrap
  dsimp only
  split
  · exact (h.same (by rfl)).updWarp.dropLanes
  · exact h.trapNow
theorem Steady.warpTrap {wid code pc before o timing} (h : Steady b s) : Steady b (s.warpTrap wid code pc before o timing) :=
  .ite (h.takeTrap.same (by rfl)) h.takeTrap
theorem Steady.cancelExited {w o fs pc} (h : Steady b s) : Steady b (s.cancelExited w o fs pc) :=
  .foldl h fun _ ht _ => ht.countReg.postLane.updOp.settle
theorem Steady.resolveNow {wid o pc before faults inPlace reopen} (h : Steady b s) :
    Steady b (s.resolveNow wid o pc before faults inPlace reopen) :=
  .settle (.updOp (.foldl h fun _ ht _ => .foldl ht.ejectAsid fun _ ht1 _ => ht1.postLane))
theorem Steady.retarget {w asid o pc before faults} (h : Steady b s) : Steady b (s.retarget w asid o pc before faults) := by
  unfold State.retarget
  split
  · exact h.dropLanes
  · exact .dropLanes (.foldl (h.same (by rfl)) fun _ ht _ => ht.postLane)
theorem Steady.laneFaults {wid o pc before faults} (h : Steady b s) : Steady b (s.laneFaults wid o pc before faults) := by
  unfold State.laneFaults
  refine .ite_of (.foldl h.cancelExited fun _ ht _ => ht.retarget) id fun ht => .ite ht.handlerDies ?_
  split
  · exact .dropLanes (.updWarp (.same (by rfl) ht))
  · exact ht.resolveNow
theorem Steady.search {c p asid va rd wr} (h : Steady b s) : Steady b (s.search c p asid va rd wr).2 := by
  unfold State.search
  split
  all_goals next e => exact h.translate.of_eq e
theorem Steady.updAcc {o lane f} (h : Steady b s) : Steady b (s.updAcc o lane f) := h.updOp
theorem Steady.fillRo {c pa} (h : Steady b s) : Steady b (s.fillRo c pa) := h.updCore
theorem Steady.lockEntry {w k} (h : Steady b s) : Steady b (s.lockEntry w k) := h.updCore.updWarp
theorem Steady.tryLock {o} (h : Steady b s) : Steady b (s.tryLock o) := by
  unfold State.tryLock
  split
  · exact h
  next e =>
    refine .ite h (.ite ?_ ?_)
    · refine .warpTrap (.foldl_snd h ?_)
      intro _ _ ht
      split
      all_goals next e => exact ht.translate.of_eq e
    · refine .settle (.updOp ?_)
      refine .foldl ?_ fun _ ht _ => ht.lockEntry
      refine .foldl_snd h fun _ _ ht => ?_
      split
      all_goals next e => exact ht.translate.of_eq e
theorem Steady.walkLane {x a} (h : Steady b s) : Steady b (s.walkLane x a).2 := by
  unfold State.walkLane
  dsimp only
  split
  all_goals next e => exact h.search.of_eq e
theorem Steady.walkLanes {x m} (h : Steady b s) : Steady b (s.walkLanes x m).2 := by
  unfold State.walkLanes
  refine .foldl_snd h fun _ _ ht => ?_
  dsimp only
  split <;> exact ht.walkLane.updAcc
theorem Steady.afterWalk {x fs} (h : Steady b s) : Steady b (s.afterWalk x fs) := by
  unfold State.afterWalk
  split
  · exact .settle (.updOp (.ite (.foldl h fun _ ht _ => .ite ht.fillRo ht) h))
  · exact .tryLock (.ite h h.laneFaults)
  · exact .ite h h.laneFaults
theorem Steady.walkWait {x m} (h : Steady b s) : Steady b (s.walkWait x m) := .ite h.warpTrap h.walkLanes.afterWalk
theorem Steady.updRing {p f} (h : Steady b s) : Steady b (s.updRing p f) := .ite (h.same (by rfl)) h.updPdk
theorem Steady.report {p r} (h : Steady b s) : Steady b (s.report p r) := by
  unfold State.report
  dsimp only
  exact h.updRing
theorem Steady.reportDone {p seq} (h : Steady b s) : Steady b (s.reportDone p seq) := h.report
theorem Steady.passPhase {w nb g t} (h : Steady b s) : Steady b (s.passPhase w nb g t) := .ite h.updWarp h
theorem Steady.notify {x} (h : Steady b s) : Steady b (s.notify x) := by
  unfold State.notify
  refine .ite h ?_
  split
  · refine .endOp (.passPhase ?_)
    split
    · split
      · exact h.mergeClock
      · exact h
    · exact h
  · exact h
theorem Steady.dropRecs {c k n} (h : Steady b s) : Steady b (s.dropRecs c k n) := h.same (by rfl)
theorem Steady.assignWindow {c p launch asid n} (h : Steady b s) : YieldsSteady b (·) (s.assignWindow c p launch asid n) :=
  .ite (.some h) (.map fun _ _ => h.dropRecs.updCore)
theorem Steady.releaseWindows {c} (h : Steady b s) : Steady b (s.releaseWindows c) := h.updCore
theorem Steady.setMapBit {p asid slot v} (h : Steady b s) : Steady b (s.setMapBit p asid slot v) := by
  unfold State.setMapBit
  split
  · exact h
  · exact h.ecc.devStore
theorem Steady.takeSlots {w x} (h : Steady b s) (e : s.takeSlots w = .ok x) : Steady b x.2 := by
  unfold State.takeSlots at e
  dsimp only at e
  split at e
  · cases e
    exact h
  · revert x
    refine @fun x => List.foldlRecOn
      (motive := fun (r : Except (Option (Nat × Nat × Nat)) (SMap 32 × State)) => ∀ x, r = .ok x → Steady b x.2) _ _ ?_ ?_ x
    · intro x e
      cases e
      exact h
    · intro r hr i _ x e
      split at e
      · cases e
      · have ht := hr _ rfl
        split at e
        · cases e
          exact ht
        · split at e
          · cases e
          · cases e
          · cases e
            exact ht.setMapBit
theorem Steady.ctxPut {p pa bs} (h : Steady b s) : Steady b (s.ctxPut p pa bs) := .ite h.devWrite h.ifError
theorem Steady.ctxWrite {p pa bs} (h : Steady b s) : Steady b (s.ctxWrite p pa bs) := .foldl h fun _ ht _ => ht.ctxPut
theorem Steady.writeEntry {p r} (h : Steady b s) : Steady b (s.writeEntry p r) := h.ctxPut
theorem Steady.updRoom {p idx f} (h : Steady b s) : Steady b (s.updRoom p idx f) := by
  unfold State.updRoom
  split
  · exact h
  · exact h.updPdk.writeEntry
theorem Steady.writeRoom {p idx bs} (h : Steady b s) : Steady b (s.writeRoom p idx bs) := by
  unfold State.writeRoom
  split
  · exact h
  · exact h.ctxWrite
theorem Steady.reserveRoom {p n r} (h : Steady b s) : YieldsSteady b Prod.snd (s.reserveRoom p n r) := by
  unfold State.reserveRoom
  dsimp only
  split
  · exact .some h.updPdk.writeEntry
  · exact .none
theorem Steady.updRink {f} (h : Steady b s) : Steady b (s.updRink f) := h.same (by rfl)
theorem Steady.planSkid (h : Steady b s) : Steady b s.planSkid := .ite h (h.same (by rfl))
theorem Steady.joinTimed {old : State} {c} (h : Steady b s) : Steady b (old.joinTimed s c) :=
  .ite h (.ite h.freeze.planSkid h.freeze)
theorem Steady.openWindow {c x} (h : Steady b s) : YieldsSteady b (·) (s.openWindow c x) :=
  .ite (.some h) (.map fun _ e => .updCore (.same (by rfl) (h.assignWindow _ e)))
theorem Steady.applyReplay {l cores e} (h : Steady b s) : Steady b (s.applyReplay l cores e) := by
  unfold State.applyReplay
  split
  · exact h
  · split
    · exact h
    · exact h.updCore
theorem Steady.relock {wid} (h : Steady b s) : Steady b (s.relock wid) := by
  unfold State.relock
  refine .foldl h.updWarp fun _ ht _ => ?_
  dsimp only
  split
  next e => exact .ite (ht.translate.of_eq e).lockEntry ht
  · exact ht
theorem Steady.reopenWait {cores cl x} (h : Steady b s) : Steady b (s.reopenWait cores cl x) := h.same (by rfl)
theorem Steady.reopenEval {o} (h : Steady b s) : Steady b (s.reopenEval o) := by
  unfold State.reopenEval
  split
  · exact h
  · exact .ite h.walkWait.evalWait h.notify
theorem Steady.warpRooms {l wid} (h : Steady b s) : YieldsSteady b (·) (s.warpRooms l wid) :=
  h.foldSome fun _ ht _ => .map fun _ e => (ht.reserveRoom _ e).updWarp
theorem Steady.roomsFor {l cl cores ids} (h : Steady b s) : YieldsSteady b Prod.snd (s.roomsFor l cl cores ids) := by
  unfold State.roomsFor
  split
  · exact .some h.updRoom
  · exact .bind fun _ e1 => .map fun _ e2 => (((h.reserveRoom _ e1).foldSome fun _ ht _ => ht.warpRooms) _ e2)
theorem Steady.reopen {l cl cores ids} (h : Steady b s) : Steady b (s.reopen l cl cores ids) :=
  .foldl (.foldl (.foldl (.foldl h fun _ ht _ => ht.applyReplay) fun _ ht _ => ht.relock) fun _ ht _ => ht.reopenWait) fun _ ht _ => ht.reopenEval
theorem Steady.slotsAll {l} (h : Steady b s) : PlacesSteady b (s.slotsAll l) := by
  induction l generalizing s with
  | nil => exact fun _ e => by cases e; exact h
  | cons wid r ih =>
    unfold State.slotsAll
    split
    · exact .noSlots
    next e => exact ih (h.takeSlots e).updWarp
theorem Steady.noteWaiting {p} (h : Steady b s) : Steady b (s.noteWaiting p) := .ite h.updPdk h
theorem Steady.notePreempted {p room} (h : Steady b s) : Steady b (s.notePreempted p room) := by
  refine { h with sets := ?_ }
  show (s.pdks.map _).map _ = _
  rw [← h.sets, List.map_map]
  rfl
theorem Steady.saveFrames {l} (h : Steady b s) : Steady b (s.saveFrames l) := by
  unfold State.saveFrames
  refine .ite h ?_
  dsimp only
  split
  · exact h.updRink
  next e => exact (h.updRink.reserveRoom _ e).updRoom.writeRoom

end
end Sys2Proof.Safety

/-! O41. Grants, seals, pre-emption and placement (R68, R70, R93, R357, R390, R391, R393, R397, R426).

A request is a map over warps and launches, so that a run of requests is one (`foldl_requestCluster`). A save and a placement are followed through
the parts of the state that the statement names: the launches (`Stands`), who is there (`Stays`, `Seats`), and the units of a core (`Bare`). -/
namespace Sys2Proof.Safety
open Sys2Proof Sys2Proof.Machine

section
set_option Elab.async false

/-! ## Shares and requests (R68, R70, R390, R397, R426) -/

/-- A ring changes in its commands alone: those of its own paddock by `f`, and the others stand. -/
theorem cmds_updRing (s : State) (p q : Nat) (f : Cmd → Cmd) :
    ((s.updRing q fun g => { g with cmds := g.cmds.map f }).ringOf p).cmds = (s.ringOf p).cmds.map fun c => if p = q then f c else c := by
  by_cases e : p = q
  · subst e
    simp only [if_true]
    by_cases h : p = 0 ∨ s.hasPdk p = true
    · rw [ringOf_updRing h]
    · obtain ⟨hp, hn⟩ := not_or.1 h
      have none (t : State) (ht : t.hasPdk p ≠ true) : (t.ringOf p).cmds = [] := by
        rw [State.ringOf, if_neg hp, pdk_of_not_hasPdk ht]
      rw [none s hn, none _ (by rwa [updRing_hasPdk])]
      rfl
  · simp only [e, if_false, List.map_id']
    unfold State.updRing State.ringOf
    by_cases hq : q = 0
    · simp only [hq, if_true, if_neg (hq ▸ e)]
      rfl
    · rw [if_neg hq]
      split
      · rfl
      · rw [s.pdk_updPdk_ne q p _ (fun _ => by rfl) e]

theorem share_recomputed (wid : Nat) : Does (.shareRecompute wid)
    (fun s => s.hasWarp wid = true ∧ (s.warp wid).region = none ∧ s.isSealedWarp (s.warp wid) = false) fun s t =>
      t.warp wid = { s.warp wid with share := s.shareNow (s.warp wid) } ∧ (∀ v, v ≠ wid → t.warp v = s.warp v) ∧
      (∀ p, (t.ringOf p).cmds = (s.ringOf p).cmds.map fun c =>
        if p = (s.warp wid).pdk ∧ c.waitsShare = true then { c with left := c.left.filter (· != wid) } else c) ∧
      { t with warps := s.warps, pdks := s.pdks, root := s.root } = s := by
  rintro s ⟨hw, hr, hs⟩
  have e : exec (.shareRecompute wid) s = .next ((s.updWarp wid fun w => { w with share := s.shareNow w }).updRing (s.warp wid).pdk
      fun g => { g with cmds := g.cmds.map fun c => if c.waitsShare then { c with left := c.left.filter (· != wid) } else c }) := by
    show execShareRecompute wid s = _
    simp [execShareRecompute, hw, hr, hs]
  refine ⟨_, e, ?_, fun v hv => ?_, fun p => ?_, ?_⟩
  · rw [State.warp, updRing_warps]
    exact s.warp_updWarp wid _ (fun _ => by rfl) hw
  · rw [State.warp, updRing_warps]
    exact s.warp_updWarp_ne wid v _ (fun _ => by rfl) hv
  · rw [cmds_updRing]
    refine List.map_congr_left fun c _ => ?_
    by_cases hp : p = (s.warp wid).pdk <;> simp [hp]
  · unfold State.updRing
    split <;> rfl

/-- One request more, before the others. -/
theorem requested_cons (s : State) (x : Nat × Nat) (xs : List (Nat × Nat)) (why : Nat) :
    requested (s.requestCluster x.1 x.2 why) xs why = requested s (x :: xs) why := by
  obtain ⟨a, n⟩ := x
  unfold requested State.requestCluster State.updCluster State.updLaunch
  congr 1
  · rw [List.map_map]
    refine List.map_congr_left fun w _ => ?_
    by_cases hx : w.launch = a ∧ w.clno = n
    · obtain ⟨rfl, rfl⟩ := hx
      by_cases hk : w.kind = .handler <;> simp [hk]
    · simp [hx]
  · rw [List.map_map]
    refine List.map_congr_left fun l _ => ?_
    by_cases hl : l.id = a
    · subst hl
      simp only [Function.comp, beq_self_eq_true, if_true, List.map_map]
      refine congrArg (fun cs => { l with clusters := cs }) (List.map_congr_left fun c _ => ?_)
      by_cases hc : c.no = n
      · subst hc
        simp
      · simp [hc]
    · simp [hl]
theorem requested_nil (s : State) (why : Nat) : requested s [] why = s := by
  simp [requested]
theorem foldl_requestCluster (s : State) (xs : List (Nat × Nat)) (why : Nat) :
    xs.foldl (fun t x => t.requestCluster x.1 x.2 why) s = requested s xs why := by
  induction xs generalizing s with
  | nil => exact (requested_nil s why).symm
  | cons x xs ih => rw [List.foldl_cons, ih, requested_cons]
theorem preemptRequest_known (p lid clid : Nat) (s : State) (l : Launch) (h : s.byLid p lid = some l) : exec (.preemptRequest p lid clid) s =
    .next (if l.desc.timed = true ∨ s.pdkRuns p = false then s else requested s ((l.named clid).map fun c => (l.id, c.no)) 1) := by
  show execPreemptRequest p lid clid s = _
  simp only [execPreemptRequest, h, ← foldl_requestCluster, List.foldl_map, Bool.or_eq_true, Bool.not_eq_true']
theorem preemptRequest_unknown (p lid clid : Nat) (s : State) (h : s.byLid p lid = none) : exec (.preemptRequest p lid clid) s = .next s := by
  show execPreemptRequest p lid clid s = _
  simp only [execPreemptRequest, h]
theorem quantum_expires (s : State) : exec .quantumExpire s = .next (requested s s.expiredQuanta 0) := by
  rw [← foldl_requestCluster]
  rfl

/-- R93: the clusters that have waited their time try again. -/
theorem slots_retried (s : State) : exec .privateSlotRetry s = .next { s with launches := s.launches.map fun l =>
    { l with clusters := l.clusters.map fun c =>
        if c.queued = true ∧ c.retry ≠ 0 ∧ c.retry + 800000 ≤ s.wall then { c with retry := 0 } else c } } := by
  show execPrivateSlotRetry s = _
  simp [execPrivateSlotRetry, State.slotRetryDue, and_assoc]
/-! ## Seals (R305, R335, R391) -/

/-- What a core keeps of its units when a cluster seals on it, whose bindings `own` tells. -/
def sealedUnits (l : Launch) (cl : Cluster) (own : SelUnit → Bool) (k : Core) : Core :=
  { k with sel := if own k.sel then { holder := k.sel.holder } else k.sel
           selWait := k.selWait.filter (!own ·)
           res := k.res.map fun r => if r.ofCluster l cl then { r with closed := true } else r }
theorem sealCore_eq (s : State) (l : Launch) (cl : Cluster) (k c : Nat) :
    let mine (wid : Nat) : Bool := (s.warpsOn l.id cl.no c).any (·.id == wid)
    ∃ z, s.sealCore l cl k c = State.updCluster { s.updCore c (sealedUnits l cl (·.holder.any mine)) with ops := s.ops.filter (!mine ·.wid) }
        l.id cl.no (fun x => { x with sealed := x.sealed ++ [z], waits := x.waits ++ s.ops.filter (mine ·.wid) }) ∧
      z.k = k ∧ z.res = ((s.core c).res.filter (·.ofCluster l cl)).map (s.core c).saveRes := by
  intro mine
  have own : (fun u : SelUnit => match u.holder with | some h => mine h | none => false) = fun u => u.holder.any mine := by
    funext u
    cases u.holder <;> rfl
  rw [← own]
  unfold State.sealCore
  simp only [State.updCore_ops]
  exact ⟨_, rfl, rfl, rfl⟩
theorem core_seals (l : Launch) (cl : Cluster) (k c : Nat) : Does .coreSeal (fun s => s.sealDue = some (l, cl, k, c)) fun s t =>
    let mine (wid : Nat) : Bool := (s.warpsOn l.id cl.no c).any (·.id == wid)
    let own (u : SelUnit) : Bool := u.holder.any mine
    t.core c = { s.core c with
      sel := if own (s.core c).sel then { holder := (s.core c).sel.holder } else (s.core c).sel
      selWait := (s.core c).selWait.filter (!own ·)
      res := (s.core c).res.map fun r => if r.ofCluster l cl then { r with closed := true } else r } ∧
    (∀ d, d ≠ c → t.core d = s.core d) ∧ t.ops = s.ops.filter (!mine ·.wid) ∧
    (∃ z, z.k = k ∧ z.res = ((s.core c).res.filter (·.ofCluster l cl)).map (s.core c).saveRes ∧
      t.launches = s.launches.map fun m => if m.id = l.id then { m with clusters := m.clusters.map fun x =>
        if x.no = cl.no then { x with sealed := x.sealed ++ [z], waits := x.waits ++ s.ops.filter (mine ·.wid) } else x } else m) ∧
    { t with cores := s.cores, ops := s.ops, launches := s.launches } = s := by
  intro s h
  have e : exec .coreSeal s = .next (s.sealCore l cl k c) := by
    show execCoreSeal s = _
    simp only [execCoreSeal, h]
  obtain ⟨z, eq, hk, hres⟩ := sealCore_eq s l cl k c
  rw [eq] at e
  refine ⟨_, e, s.core_updCore c _ fun _ => rfl, fun d hd => s.core_updCore_ne c d _ (fun _ => rfl) hd, rfl, ⟨z, hk, hres, ?_⟩, ?_⟩
  · show List.map _ (s.updCore c _).launches = _
    rw [State.updCore_launches]
    simp only [beq_iff_eq]
  · unfold State.updCore
    split <;> rfl
/-! ## Saves (R391, R393) -/

/-- A cluster of a launch, by their numbers, of which `ok` holds. -/
def Stands (t : State) (l no : Nat) (ok : Cluster → Prop) : Prop := ∃ m ∈ t.launches, m.id = l ∧ ∃ c ∈ m.clusters, c.no = no ∧ ok c

theorem Stands.of_launches {s t : State} {l no : Nat} {ok : Cluster → Prop} (e : t.launches = s.launches) (h : Stands s l no ok) :
    Stands t l no ok := by
  obtain ⟨m, hm, r⟩ := h
  exact ⟨m, e ▸ hm, r⟩
theorem stands_of_mem {s : State} {l : Launch} {cl : Cluster} (hl : l ∈ s.launches) (hc : cl ∈ l.clusters) :
    Stands s l.id cl.no fun _ => True := ⟨l, hl, rfl, cl, hc, rfl, trivial⟩
section
variable {s : State} {l no : Nat} {ok : Cluster → Prop} {f : Cluster → Cluster} (hno : ∀ c, (f c).no = c.no)
include hno
/-- A change of a cluster, of the same one or of another, that leaves what holds of it. -/
theorem Stands.updCluster {m n : Nat} (h : Stands s l no ok) (hok : ∀ c, ok c → ok (f c)) : Stands (s.updCluster m n f) l no ok := by
  obtain ⟨x, hx, rfl, c, hc, rfl, k⟩ := h
  refine ⟨_, List.mem_map.2 ⟨x, hx, rfl⟩, ?_⟩
  split
  · refine ⟨rfl, _, List.mem_map.2 ⟨c, hc, rfl⟩, ?_⟩
    split
    · exact ⟨hno c, hok c k⟩
    · exact ⟨rfl, k⟩
  · exact ⟨rfl, c, hc, rfl, k⟩
/-- What the change brings about holds of the cluster afterwards. -/
theorem Stands.changed (h : Stands s l no fun _ => True) (hok : ∀ c, ok (f c)) : Stands (s.updCluster l no f) l no ok := by
  obtain ⟨x, hx, rfl, c, hc, rfl, -⟩ := h
  refine ⟨_, List.mem_map.2 ⟨x, hx, rfl⟩, ?_⟩
  rw [if_pos (beq_self_eq_true _)]
  exact ⟨rfl, _, List.mem_map.2 ⟨c, hc, rfl⟩, by rw [if_pos (beq_self_eq_true _)]; exact ⟨hno c, hok c⟩⟩
end
theorem Stands.retryQueue {s : State} {l no p : Nat} {ok : Cluster → Prop} (h : Stands s l no ok) (hok : ∀ c, ok c → ok { c with retry := 0 }) :
    Stands (s.retryQueue p) l no ok := by
  obtain ⟨m, hm, rfl, c, hc, rfl, k⟩ := h
  refine ⟨_, List.mem_map.2 ⟨m, hm, rfl⟩, ?_⟩
  split
  · exact ⟨rfl, _, List.mem_map.2 ⟨c, hc, rfl⟩, rfl, hok c k⟩
  · exact ⟨rfl, c, hc, rfl, k⟩
theorem mem_of_saveDue {s : State} {l : Launch} {cl : Cluster} (h : s.saveDue = some (l, cl)) : l ∈ s.launches ∧ cl ∈ l.clusters := by
  obtain ⟨m, hm, h⟩ := List.exists_of_findSome?_eq_some h
  obtain ⟨c, hc, e⟩ := Option.map_eq_some_iff.1 h
  cases e
  exact ⟨(List.mem_filter.1 hm).1, List.mem_of_find?_eq_some hc⟩

/-- From `s` to `t` the units of some cores have changed, but who is there, the launches and the wall clock have not. -/
structure Stays (s t : State) : Prop where
  launches : t.launches = s.launches
  ids : t.warps.map (·.id) = s.warps.map (·.id)

theorem Stays.trans {s t u : State} (h : Stays s t) (k : Stays t u) : Stays s u := ⟨k.launches.trans h.launches, k.ids.trans h.ids⟩
theorem Steady.stays {s t : State} (h : Steady s t) : Stays s t := ⟨h.launches, h.ids⟩

section
variable (l : Launch) (cl : Cluster) (mine : Nat → Bool)

/-- Nothing of a cluster, of whose warps `mine` holds, stands on a core any more. -/
def Bare (u : List Reservation × SelUnit) : Prop := (∀ r ∈ u.1, r.ofCluster l cl = false) ∧ ∀ h, u.2.holder = some h → mine h = false

theorem freeSel_stays (s : State) (c : Nat) : Stays s (s.freeSel c) := by
  unfold State.freeSel
  split
  · exact (Steady.refl s).stays
  next wid _ =>
    have hcore : Stays s (s.updCore c fun k => { k with sel := {}, selFreed := s.wall + 1 }) :=
      ⟨State.updCore_launches .., by rw [State.updCore_warps]⟩
    exact hcore.trans (Steady.refl _).updWarp.stays
theorem freeSel_units (s : State) (c d : Nat) :
    ((s.freeSel c).core d).units = if d = c ∧ (s.core c).sel.holder.isSome = true then ((s.core c).res, {}) else (s.core d).units := by
  unfold State.freeSel
  split
  next h => simp [h]
  next wid h =>
    rw [((Steady.refl _).updWarp).units]
    by_cases hd : d = c
    · subst hd
      rw [State.core_updCore s d _ fun _ => by rfl]
      simp [h, Core.units]
    · rw [State.core_updCore_ne s c d _ (fun _ => by rfl) hd]
      simp [hd]

/-- What a core lets go first: its selection unit, where a warp of the cluster holds it. -/
def freedSel (s : State) (c : Nat) : State := match (s.core c).sel.holder with | some h => (if mine h then s.freeSel c else s) | none => s
theorem freedSel_stays (s : State) (c : Nat) : Stays s (freedSel mine s c) := by
  unfold freedSel
  split
  · split
    · exact freeSel_stays s c
    · exact (Steady.refl s).stays
  · exact (Steady.refl s).stays
theorem freedSel_units_ne (s : State) {c d : Nat} (h : d ≠ c) : ((freedSel mine s c).core d).units = (s.core d).units := by
  unfold freedSel
  split
  · split
    · rw [freeSel_units, if_neg fun e => h e.1]
    · rfl
  · rfl
theorem freedSel_holder (s : State) (c h : Nat) (e : ((freedSel mine s c).core c).sel.holder = some h) : mine h = false := by
  unfold freedSel at e
  split at e
  next a ha =>
    split at e
    · have hu := congrArg (·.2.holder) (freeSel_units s c c)
      rw [if_pos ⟨rfl, by rw [ha]; rfl⟩] at hu
      exact absurd (e.symm.trans hu) nofun
    next hm =>
      cases ha.symm.trans e
      exact Bool.eq_false_of_not_eq_true hm
  next hn => exact absurd (hn.symm.trans e) nofun

theorem leaveCore_eq (s : State) (c : Nat) : ∃ f : Core → Core, s.leaveCore l cl mine c = ((freedSel mine s c).updCore c f).releaseWindows c ∧
    (∀ k, (f k).id = k.id) ∧ ∀ k, (f k).units = (k.res.filter (!·.ofCluster l cl), k.sel) :=
  ⟨_, rfl, fun _ => rfl, fun _ => rfl⟩
theorem leaveCore_stays (s : State) (c : Nat) : Stays s (s.leaveCore l cl mine c) := by
  obtain ⟨f, e, -⟩ := leaveCore_eq l cl mine s c
  rw [e]
  have hcore : Stays (freedSel mine s c) ((freedSel mine s c).updCore c f) := ⟨State.updCore_launches .., by rw [State.updCore_warps]⟩
  exact (freedSel_stays mine s c).trans (hcore.trans (Steady.refl _).releaseWindows.stays)
theorem leaveCore_bare (s : State) (c : Nat) : Bare l cl mine ((s.leaveCore l cl mine c).core c).units := by
  obtain ⟨f, e, hid, hf⟩ := leaveCore_eq l cl mine s c
  rw [e, (Steady.refl _).releaseWindows.units, State.core_updCore _ c f hid, hf]
  exact ⟨fun r hr => by simpa using (List.mem_filter.1 hr).2, freedSel_holder mine s c⟩
theorem leaveCore_units_ne (s : State) {c d : Nat} (h : d ≠ c) : ((s.leaveCore l cl mine c).core d).units = (s.core d).units := by
  obtain ⟨f, e, hid, -⟩ := leaveCore_eq l cl mine s c
  rw [e, (Steady.refl _).releaseWindows.units, State.core_updCore_ne _ c d f hid h, freedSel_units_ne mine s h]

theorem leaveCores_stays (s : State) (cs : List Nat) : Stays s (cs.foldl (fun t c => t.leaveCore l cl mine c) s) :=
  List.foldlRecOn (motive := fun t => Stays s t) cs _ (Steady.refl s).stays fun t ht c _ => ht.trans (leaveCore_stays l cl mine t c)
/-- Each core of the list is bare at the end: those after it leave it so. -/
theorem leaveCores_bare {s : State} {cs : List Nat} {k : Nat} (h : k ∈ cs ∨ Bare l cl mine (s.core k).units) :
    Bare l cl mine ((cs.foldl (fun t c => State.leaveCore t l cl mine c) s).core k).units := by
  induction cs generalizing s with
  | nil => exact h.resolve_left List.not_mem_nil
  | cons c cs ih =>
    refine ih ?_
    by_cases e : k = c
    · subst e
      exact .inr (leaveCore_bare l cl mine s k)
    · rw [leaveCore_units_ne l cl mine s e]
      exact h.imp_left fun hk => (List.mem_cons.1 hk).resolve_left e
end

/-- The warps of a cluster leave, and its cores let go. -/
def unseated (s : State) (l : Launch) (cl : Cluster) : State :=
  let mine (wid : Nat) : Bool := (s.warpsOf l.id cl.no).any (·.id == wid)
  cl.cores.foldl (fun t c => State.leaveCore t l cl mine c) { s with warps := s.warps.filter (!mine ·.id) }
/-- The record of a saved cluster. -/
def savedAs (s : State) (l : Launch) (cl c : Cluster) : Cluster :=
  { c with state := .saved, queued := cl.preempt == some 0, entered := (unseated s l cl).wall, preempt := none
           warps := ((s.warpsOf l.id cl.no).filter (!·.gone)).map fun w => if w.timed then s.timedRest w else w }
/-- A cluster is saved: its units are free and its record has its warps; then its room, its frames and its paddock's register are written. -/
theorem saveCluster_eq (s : State) (l : Launch) (cl : Cluster) : ∃ u,
    s.saveCluster l cl = (u.retryQueue l.pdk).noteWaiting l.pdk ∧ Steady ((unseated s l cl).updCluster l.id cl.no (savedAs s l cl)) u := by
  refine ⟨_, rfl, Steady.saveFrames ?_⟩
  split
  · exact .refl _
  · exact ((Steady.refl _).updRoom.writeRoom).notePreempted
theorem unseated_stays (s : State) (l : Launch) (cl : Cluster) :
    Stays { s with warps := s.warps.filter fun w => !(s.warpsOf l.id cl.no).any (·.id == w.id) } (unseated s l cl) :=
  leaveCores_stays l cl _ _ _
theorem unseated_gone {s : State} {l : Launch} {cl : Cluster} {w : Warp} (hw : w ∈ s.warpsOf l.id cl.no) :
    (unseated s l cl).hasWarp w.id = false := by
  refine List.any_eq_false.2 fun v hv ev => ?_
  obtain ⟨x, hx, ex⟩ := List.mem_map.1 ((unseated_stays s l cl).ids ▸ List.mem_map_of_mem hv)
  have hn := (List.mem_filter.1 hx).2
  rw [ex, Bool.not_eq_true', List.any_eq_false] at hn
  exact hn w hw (by simpa using (beq_iff_eq.1 ev).symm)
theorem unseated_bare (s : State) {l : Launch} {cl : Cluster} {k : Nat} (hk : k ∈ cl.cores) :
    Bare l cl (fun wid => (s.warpsOf l.id cl.no).any (·.id == wid)) ((unseated s l cl).core k).units :=
  leaveCores_bare l cl _ (.inl hk)

theorem cluster_saves (l : Launch) (cl : Cluster) : Does .clusterSave (fun s => s.saveDue = some (l, cl)) fun s t =>
    let ws := s.warpsOf l.id cl.no
    (∀ w ∈ ws, t.hasWarp w.id = false) ∧
    (Stands t l.id cl.no fun c => c.state = .saved ∧ c.preempt = none ∧ c.queued = (cl.preempt == some 0) ∧
      ((∀ w ∈ ws, w.timed = false) → c.warps = ws.filter (!·.gone))) ∧
    ∀ k ∈ cl.cores, (∀ r ∈ (t.core k).res, r.ofCluster l cl = false) ∧ ∀ h, (t.core k).sel.holder = some h → ∀ w ∈ ws, w.id ≠ h := by
  intro s h
  obtain ⟨hl, hc⟩ := mem_of_saveDue h
  obtain ⟨u, eq, hu⟩ := saveCluster_eq s l cl
  have e : exec .clusterSave s = .next ((u.retryQueue l.pdk).noteWaiting l.pdk) := by
    show execClusterSave s = _
    simp only [execClusterSave, h, eq]
  have note := (Steady.refl (u.retryQueue l.pdk)).noteWaiting (p := l.pdk)
  have left := unseated_stays s l cl
  refine ⟨_, e, fun w hw => ?_, ?_, fun k hk => ?_⟩
  · rw [note.hasWarp]
    exact (hu.hasWarp w.id).trans (unseated_gone hw)
  · refine Stands.of_launches note.launches (Stands.retryQueue (Stands.of_launches hu.launches
      (Stands.changed (fun _ => by rfl) ((stands_of_mem hl hc).of_launches left.launches) fun _ => ⟨rfl, rfl, rfl, fun ht => ?_⟩)) fun _ k => k)
    refine (List.map_congr_left fun w hw => ?_).trans (List.map_id _)
    rw [ht w (List.mem_filter.1 hw).1]
    rfl
  · have eu : ((unseated s l cl).core k).units = _ := ((note.units k).trans (hu.units k)).symm
    obtain ⟨hres, hsel⟩ := eu ▸ unseated_bare s hk
    refine ⟨hres, fun h e w hw ew => ?_⟩
    exact List.any_eq_false.1 (hsel h e) w hw (beq_iff_eq.2 ew)

/-! ## Seats -/

/-- From `s` to `t` warps may have come, but none has gone, and the launches and the wall clock are the same. -/
structure Seats (s t : State) : Prop where
  launches : t.launches = s.launches
  wall : t.wall = s.wall
  has : ∀ v, s.hasWarp v = true → t.hasWarp v = true

theorem Seats.trans {s t u : State} (h : Seats s t) (k : Seats t u) : Seats s u :=
  ⟨k.launches.trans h.launches, k.wall.trans h.wall, fun v hv => k.has v (h.has v hv)⟩
theorem Steady.seats {s t : State} (h : Steady s t) : Seats s t := ⟨h.launches, h.wall, fun v hv => (h.hasWarp v).trans hv⟩
theorem Seats.refl (s : State) : Seats s s := (Steady.refl s).seats

/-- Steps that each answer a state, and each bring something about that later ones leave: all of it stands at the end. -/
theorem foldSome_seats {α : Type} {g : State → α → Option State} {Q : State → α → Prop} (hQ : ∀ s t a, Seats s t → Q s a → Q t a)
    (hg : ∀ s t a, g s a = some t → Seats s t ∧ Q t a) {l : List α} {s t : State} (e : foldSome g s l = some t) :
    Seats s t ∧ ∀ a ∈ l, Q t a := by
  induction l generalizing s with
  | nil =>
    cases e
    exact ⟨.refl _, fun _ ha => absurd ha List.not_mem_nil⟩
  | cons a r ih =>
    obtain ⟨u, hu, e⟩ := Option.bind_eq_some_iff.1 e
    obtain ⟨hsu, ha⟩ := hg _ _ _ hu
    obtain ⟨hut, hr⟩ := ih e
    exact ⟨hsu.trans hut, List.forall_mem_cons.2 ⟨hQ _ _ _ hut ha, hr⟩⟩

theorem seats_seat {s t : State} {c : Nat} {w : Warp} (e : s.seat c w = some t) : Seats s t ∧ t.hasWarp w.id = true := by
  obtain ⟨k, _, rfl⟩ := Option.map_eq_some_iff.1 e
  refine ⟨⟨rfl, rfl, fun v hv => ?_⟩, ?_⟩
  · show (s.warps ++ _).any _ = true
    rw [List.any_append, show s.warps.any _ = true from hv, Bool.true_or]
  · show (s.warps ++ _).any _ = true
    rw [List.any_append]
    simp
theorem seats_seatCore {s t : State} {slots c : Nat} {ws : List Warp} (e : s.seatCore slots ws c = some t) :
    Seats s t ∧ ∀ w ∈ ws, t.hasWarp w.id = true := by
  obtain ⟨u, hu, e⟩ := Option.bind_eq_some_iff.1 e
  have hw := (Steady.refl s).foldSome (fun _ ht _ => ht.assignWindow) u hu
  obtain ⟨hut, hws⟩ := foldSome_seats (Q := fun t w => t.hasWarp w.id = true) (fun _ _ w h hq => h.has w.id hq) (fun _ _ _ => seats_seat) e
  exact ⟨hw.seats.trans hut, hws⟩
theorem seats_openRes {s t : State} {c : Nat} {x : SavedRes} (e : s.openRes c x = some t) : Seats s t := by
  unfold State.openRes at e
  dsimp only at e
  split at e
  · cases e
  · split at e
    · cases e
      exact ⟨by simp, by simp, fun _ hv => by simpa [State.hasWarp] using hv⟩
    · cases e
theorem seats_seatSaved {s t : State} {slots c : Nat} {g : Sealed × List Warp} (e : s.seatSaved slots g c = some t) :
    Seats s t ∧ ∀ w ∈ g.2, t.hasWarp w.id = true := by
  obtain ⟨u, hu, e⟩ := Option.bind_eq_some_iff.1 e
  obtain ⟨v, hv, e⟩ := Option.bind_eq_some_iff.1 e
  obtain ⟨r, hr, rfl⟩ := Option.map_eq_some_iff.1 e
  have hsu := (Steady.refl s).foldSome (fun _ ht _ => ht.openWindow) u hu
  obtain ⟨huv, hws⟩ := seats_seatCore hv
  obtain ⟨hvr, _⟩ := foldSome_seats (Q := fun _ _ => True) (fun _ _ _ _ h => h) (fun _ _ _ e => ⟨seats_openRes e, trivial⟩) hr
  have hsel : Seats r (match g.1.sel with | some u => r.openSel c g.1 u | none => r) := by
    split
    · exact ((Steady.refl r).updCore).seats
    · exact .refl r
  exact ⟨hsu.seats.trans (huv.trans (hvr.trans hsel)), fun w hw => hsel.has _ (hvr.has _ (hws w hw))⟩
theorem seats_seatCores {α : Type} {sit : State → α → Nat → Option State} {Q : State → α → Prop}
    (hQ : ∀ s t g, Seats s t → Q s g → Q t g) (hsit : ∀ s t g c, sit s g c = some t → Seats s t ∧ Q t g)
    {s : State} {cs : List Nat} {gs : List α} {x : List Nat × State}
    (e : seatCores sit s cs gs = some x) : Seats s x.2 ∧ ∀ g ∈ gs, Q x.2 g := by
  fun_induction seatCores sit s cs gs generalizing x with
  | case1 s cs =>
    cases e
    exact ⟨.refl _, fun _ hg => absurd hg List.not_mem_nil⟩
  | case2 => cases e
  | case3 s c cs g gs l t eb ih =>
    obtain ⟨u, hu, eb⟩ := Option.bind_eq_some_iff.1 eb
    obtain ⟨hsu, hg⟩ := hsit _ _ _ _ hu
    obtain ⟨hut, hgs⟩ := ih u eb
    cases e
    exact ⟨hsu.trans hut, List.forall_mem_cons.2 ⟨hQ _ _ _ hut hg, hgs⟩⟩
  | case4 s c cs g gs _ _ ih => exact ih e
theorem seats_seatSlices {α : Type} {sit : State → α → Nat → Option State} {Q : State → α → Prop}
    (hQ : ∀ s t g, Seats s t → Q s g → Q t g) (hsit : ∀ s t g c, sit s g c = some t → Seats s t ∧ Q t g)
    {s : State} {gs : List α} {l : List Nat} {x : Nat × List Nat × State}
    (e : seatSlices sit s gs l = some x) : Seats s x.2.2 ∧ ∀ g ∈ gs, Q x.2.2 g := by
  induction l with
  | nil => cases e
  | cons sl r ih =>
    unfold seatSlices at e
    split at e
    next e' =>
      cases e
      exact seats_seatCores hQ hsit e'
    · exact ih e

/-- A cluster that finds a slice has its warps there. -/
theorem seats_seatCluster {s : State} {l : Launch} {cl : Cluster} {die : Option Nat} {x : Nat × List Nat × List Nat × State}
    (e : s.seatCluster l cl die = some x) : Seats s x.2.2.2 ∧ ∀ ws ∈ s.partsOf l cl, ∀ w ∈ ws, x.2.2.2.hasWarp w.id = true := by
  unfold State.seatCluster at e
  dsimp only at e
  obtain ⟨y, hy, rfl⟩ := Option.map_eq_some_iff.1 e
  have hids : Seats s (if cl.warps.isEmpty then { s with nextId := s.nextId + ((s.partsOf l cl).flatten.map (·.id)).length } else s) := by
    split
    · exact ⟨rfl, rfl, fun _ => id⟩
    · exact .refl s
  have hjoin : Seats y.2.2 (y.2.1.foldl s.joinTimed y.2.2) := ((Steady.refl y.2.2).foldl fun _ ht _ => ht.joinTimed).seats
  have hparts : Seats s y.2.2 ∧ ∀ ws ∈ s.partsOf l cl, ∀ w ∈ ws, y.2.2.hasWarp w.id = true := by
    split at hy
    · obtain ⟨hst, hall⟩ := seats_seatSlices (Q := fun t g => ∀ w ∈ g.2, t.hasWarp w.id = true) (fun _ _ _ h hq w hw => h.has w.id (hq w hw))
        (fun _ _ _ _ => seats_seatSaved) hy
      refine ⟨hids.trans hst, fun ws hws w hw => ?_⟩
      obtain ⟨k, hk, rfl⟩ := List.getElem_of_mem hws
      refine hall _ (List.mem_map.2 ⟨k, List.mem_range.2 hk, rfl⟩) w ?_
      rw [List.getElem?_eq_getElem hk]
      exact hw
    · obtain ⟨hst, hall⟩ := seats_seatSlices (Q := fun t ws => ∀ w ∈ ws, t.hasWarp w.id = true) (fun _ _ _ h hq w hw => h.has w.id (hq w hw))
        (fun _ _ _ _ => seats_seatCore) hy
      exact ⟨hids.trans hst, hall⟩
  exact ⟨hparts.1.trans hjoin, fun ws hws w hw => hjoin.has _ (hparts.2 ws hws w hw)⟩

/-! ## Placements (R357, R393) -/

/-- A cluster's record says that it is resident since a cycle. -/
def ResidentSince (now : Nat) (c : Cluster) : Prop := c.state = .resident ∧ c.queued = false ∧ c.since = now

/-- The record of a cluster as it becomes resident. -/
def residentAs (now slice : Nat) (cores : List Nat) (room : Nat) (c : Cluster) : Cluster :=
  { c with state := .resident, slice, cores, room := some room, queued := false, since := now, retry := 0, preempt := none, cmd := none
           warps := [], waits := [], replays := [], sealed := [] }
theorem seated_launches (s : State) (l : Launch) (cl : Cluster) (slice : Nat) (cores ids : List Nat) (room : Nat) :
    (s.seated l cl slice cores ids room).launches = (s.updCluster l.id cl.no (residentAs s.wall slice cores room)).launches := rfl
theorem seated_hasWarp (s : State) (l : Launch) (cl : Cluster) (slice : Nat) (cores ids : List Nat) (room v : Nat) :
    (s.seated l cl slice cores ids room).hasWarp v = s.hasWarp v := by
  refine ((Steady.refl (s.updCluster l.id cl.no _)).mapWarps fun w => ?_).hasWarp v
  dsimp only
  split
  · rfl
  · split <;> rfl

/-- What the placement of one cluster brings about. -/
structure PlacedOne (s t : State) (l : Launch) (cl : Cluster) : Prop where
  launches : ∃ slice cores room, t.launches = (s.updCluster l.id cl.no (residentAs s.wall slice cores room)).launches
  wall : t.wall = s.wall
  parts : ∀ ws ∈ s.partsOf l cl, ∀ w ∈ ws, t.hasWarp w.id = true

theorem placedOne {s t : State} {l : Launch} {cl : Cluster} {die : Option Nat} (e : s.placeOne l cl die = .done t) : PlacedOne s t l cl := by
  unfold State.placeOne at e
  split at e
  · cases e
  next slice cores ids u hseat =>
    split at e
    · cases e
    next room v hroom =>
      split at e
      next w hslots =>
        obtain ⟨seats, parts⟩ := seats_seatCluster hseat
        have huw : Steady u w := ((Steady.refl u).roomsFor _ hroom).slotsAll w hslots
        have hsw := seats.trans huw.seats
        have rest : Steady (w.seated l cl slice cores ids room) t := by
          cases e
          have h := (Steady.refl (w.seated l cl slice cores ids room)).reopen (l := l) (cl := cl) (cores := cores) (ids := ids)
          split
          · exact h.reportDone
          · exact h
        refine ⟨⟨slice, cores, room, ?_⟩, rest.wall.trans hsw.wall, fun ws hws x hx => ?_⟩
        · rw [rest.launches, seated_launches, State.updCluster, State.updLaunch, State.updCluster, State.updLaunch, hsw.launches, hsw.wall]
        · rw [rest.hasWarp, seated_hasWarp, huw.hasWarp]
          exact parts ws hws x hx
      next hn => exact absurd e (hn t)

/-- A try among several that succeeds is one of them. -/
theorem firstPlaced_done {α : Type} {try_ : α → Placed} {l : List α} {t : State} (e : firstPlaced try_ l = .done t) : ∃ a, try_ a = .done t := by
  unfold firstPlaced at e
  revert e
  refine List.foldlRecOn (motive := fun r => r = Placed.done t → ∃ a, try_ a = .done t) l _ (fun h => by cases h) fun r ih a _ h => ?_
  split at h
  · exact ih h
  · exact ⟨a, h⟩
  · split at h
    next hu => exact ⟨a, hu.trans h⟩
    · cases h

theorem PlacedOne.stands {s t : State} {l : Launch} {cl : Cluster} (h : PlacedOne s t l cl) (k : Stands s l.id cl.no fun _ => True) :
    Stands t l.id cl.no (ResidentSince s.wall) := by
  obtain ⟨slice, cores, room, e⟩ := h.launches
  exact .of_launches e (.changed (fun _ => by rfl) k fun _ => ⟨rfl, rfl, rfl⟩)
theorem PlacedOne.keeps {s t : State} {l : Launch} {cl : Cluster} (h : PlacedOne s t l cl) {m no : Nat} {ok : Cluster → Prop}
    (hok : ∀ c d, d.state = .resident → d.queued = false → d.since = s.wall → ok c → ok d) (k : Stands s m no ok) : Stands t m no ok := by
  obtain ⟨slice, cores, room, e⟩ := h.launches
  exact .of_launches e (.updCluster (fun _ => by rfl) k fun c => hok c _ rfl rfl rfl)
/-- Each cluster of a unit is resident at the end: those placed after it leave it so. -/
theorem placeUnit_stands {s t : State} {l : Nat} {cls : List Cluster} (hl : ∃ x ∈ s.launches, x.id = l)
    (hc : ∀ c ∈ cls, Stands s l c.no fun _ => True)
    (e : s.placeUnit State.placeOne l cls = .done t) {now : Nat} (hw : s.wall = now) :
    (∀ no, Stands s l no (ResidentSince now) → Stands t l no (ResidentSince now)) ∧
      ∀ c ∈ cls, Stands t l c.no (ResidentSince now) := by
  induction cls generalizing s with
  | nil =>
    cases e
    exact ⟨fun _ h => h, fun _ hc => absurd hc List.not_mem_nil⟩
  | cons cl cls ih =>
    obtain ⟨die, e⟩ := firstPlaced_done e
    split at e
    next u hu =>
      have one := placedOne hu
      have hid := launchRec_id hl
      have keep (no : Nat) (h : Stands s l no (ResidentSince now)) : Stands u l no (ResidentSince now) :=
        one.keeps (fun c d h1 h2 h3 _ => ⟨h1, h2, h3.trans hw⟩) h
      have first : Stands u l cl.no (ResidentSince now) := by
        have := one.stands (by rw [hid]; exact hc cl List.mem_cons_self)
        rwa [hid, hw] at this
      obtain ⟨hkeep, hrest⟩ := ih (s := u) (first.imp fun m h => ⟨h.1, h.2.1⟩)
        (fun c hm => one.keeps (fun _ _ _ _ _ _ => trivial) (hc c (List.mem_cons_of_mem _ hm))) e (one.wall.trans hw)
      exact ⟨fun no h => hkeep no (keep no h), List.forall_mem_cons.2 ⟨hkeep _ first, hrest⟩⟩
    next hn => exact absurd e (hn t)

theorem placeHead_done {s u : State} {p : Nat} {l : Launch} {cl : Cluster} (h : s.placeHead p = some (l, cl, .done u)) :
    l ∈ s.launches ∧ cl ∈ l.clusters ∧
      (if ((l.desc.kind == 1 || l.desc.timed) && cl.state == .waiting && cl.warps.isEmpty) = true then
        s.placeUnit State.placeOne l.id (l.clusters.filter (·.state == .waiting)) else s.placeSome l cl) = .done u := by
  unfold State.placeHead at h
  split at h
  · cases h
  next m c hq =>
    split at h
    · cases h
    · have hmem := queue_mem (List.mem_of_find?_eq_some hq)
      split at h
      next hu =>
        simp only [Option.some.injEq, Prod.mk.injEq] at h
        obtain ⟨rfl, rfl, e⟩ := h
        exact ⟨hmem.1, hmem.2, by rw [if_pos hu, e]⟩
      next hu =>
        simp only [Option.some.injEq, Prod.mk.injEq] at h
        obtain ⟨rfl, rfl, e⟩ := h
        exact ⟨hmem.1, hmem.2, by rw [if_neg hu, e]⟩
/-- The cluster at the head is resident after its placement, alone or with its unit. -/
theorem placeHead_stands {s u : State} {p : Nat} {l : Launch} {cl : Cluster} (h : s.placeHead p = some (l, cl, .done u)) :
    Stands u l.id cl.no (ResidentSince s.wall) := by
  obtain ⟨hl, hc, e⟩ := placeHead_done h
  split at e
  next hu =>
    have hwait : cl.state == .waiting := by
      simp only [Bool.and_eq_true] at hu
      exact hu.1.2
    exact (placeUnit_stands ⟨l, hl, rfl⟩ (fun c hm => stands_of_mem hl (List.mem_filter.1 hm).1) e rfl).2 cl (List.mem_filter.2 ⟨hc, hwait⟩)
  · obtain ⟨die, e⟩ := firstPlaced_done e
    exact (placedOne e).stands (stands_of_mem hl hc)
theorem placeHead_parts {s u : State} {p : Nat} {l : Launch} {cl : Cluster} (h : s.placeHead p = some (l, cl, .done u))
    (hone : ((l.desc.kind == 1 || l.desc.timed) && cl.state == .waiting && cl.warps.isEmpty) = false) :
    ∀ ws ∈ s.partsOf l cl, ∀ w ∈ ws, u.hasWarp w.id = true := by
  obtain ⟨-, -, e⟩ := placeHead_done h
  rw [hone] at e
  obtain ⟨die, e⟩ := firstPlaced_done e
  exact (placedOne e).parts

theorem cluster_places (p : Nat) (l : Launch) (cl : Cluster) (u : State) : Does (.clusterPlace p)
    (fun s => s.placeHead p = some (l, cl, .done u)) fun s t =>
    (Stands t l.id cl.no fun c => c.state = .resident ∧ c.queued = false ∧ c.since = s.wall) ∧
    (l.desc.kind = 0 → l.desc.timed = false → cl.state = .waiting → cl.warps = [] → ∀ k ≤ l.desc.c, ∀ m ≤ l.desc.w,
      t.hasWarp (s.nextId + k * (l.desc.w + 1) + m) = true) := by
  intro s h
  have e : exec (.clusterPlace p) s = .next (u.noteWaiting p) := by
    show execClusterPlace p s = _
    simp only [execClusterPlace, h]
  have note := (Steady.refl u).noteWaiting (p := p)
  refine ⟨_, e, (placeHead_stands h).of_launches note.launches, fun hk ht hs hw k hkc m hm => ?_⟩
  rw [note.hasWarp]
  refine placeHead_parts h (by simp [hk, ht]) ((List.range (l.desc.w + 1)).map fun m => s.gridWarp l cl (s.nextId + k * (l.desc.w + 1) + m) k m) ?_
    (s.gridWarp l cl (s.nextId + k * (l.desc.w + 1) + m) k m) ?_
  · unfold State.partsOf
    simp only [hs, hw]
    exact List.mem_map.2 ⟨k, List.mem_range.2 (Nat.lt_succ_of_le hkc), rfl⟩
  · exact List.mem_map.2 ⟨m, List.mem_range.2 (Nat.lt_succ_of_le hm), rfl⟩
theorem cluster_restores (p idx : Nat) (l : Launch) (cl : Cluster) (u : State) : Does (.clusterRestore p idx)
    (fun s => s.placeHead p = some (l, cl, .done u) ∧ cl.state = .saved ∧ cl.room = some idx) fun s t =>
    (Stands t l.id cl.no fun c => c.state = .resident ∧ c.queued = false ∧ c.since = s.wall) ∧
    ∀ w ∈ cl.warps, w.core ∈ cl.cores → t.hasWarp w.id = true := by
  rintro s ⟨h, hs, hr⟩
  have e : exec (.clusterRestore p idx) s = .next (u.noteWaiting p) := by
    show execClusterRestore p idx s = _
    simp [execClusterRestore, h, hs, hr]
  have note := (Steady.refl u).noteWaiting (p := p)
  refine ⟨_, e, (placeHead_stands h).of_launches note.launches, fun w hw hc => ?_⟩
  rw [note.hasWarp]
  refine placeHead_parts h (by simp [hs]) (cl.warps.filter (·.core == w.core)) ?_ w (List.mem_filter.2 ⟨hw, beq_self_eq_true _⟩)
  unfold State.partsOf
  rw [hs]
  exact List.mem_map.2 ⟨w.core, hc, rfl⟩

end

/-- Settles O41: each event by its own lemma above. -/
theorem preemptionEvents : Obligations.PreemptionEvents := by
  unfold Obligations.PreemptionEvents
  exact ⟨share_recomputed, preemptRequest_known, preemptRequest_unknown, quantum_expires, core_seals, cluster_saves, cluster_places, cluster_restores,
    slots_retried⟩

end Sys2Proof.Safety

/-! O44. LAUNCH, yards and timed starts (R72 to R75, R353 to R355, R357, R358, R361): a theorem for each clause.

Each command is the next of its ring to start, and its hypotheses say which way its checks go; where nothing that is read fails (`Clean`), the reads
leave the state as it was. What follows an entry, the writes of barrier objects and of a register, keeps launches, groups and yards (`Steady`). -/
namespace Sys2Proof.Safety
open Sys2Proof Sys2Proof.Machine

section
set_option Elab.async false

/-! ## LAUNCH (R354, R355) -/

theorem Open.fails {s : State} {p seq opc : Nat} (h : Open s p seq opc) (reason : Nat) : Reported (s.reportFail p seq reason) p seq 1 reason := by
  obtain ⟨c, hc, hs, -, -, hr⟩ := h
  exact reported_of_mem (r := { seq, status := 1, reason }) hc hs hr

section
variable {b s : State}

theorem Steady.devVWrite {p asid va bs lid} (h : Steady b s) : Steady b (s.devVWrite p asid va bs lid) := by
  unfold State.devVWrite
  split
  · exact h.devStore
  · exact h.postFault
theorem Steady.mirror {p g} (h : Steady b s) : Steady b (s.mirror p g) := by
  unfold State.mirror
  split
  · exact h
  · exact h.devVWrite
end

/-- R355: the record of an accepted launch is of its ring's paddock. -/
theorem checkLaunch_pdk {s : State} {p seq : Nat} {x : BitVec 256} {gs : List Group} {l : Launch} (h : s.checkLaunch p seq x = .ok (gs, l)) :
    l.pdk = p := by
  revert h
  unfold State.checkLaunch
  dsimp only
  repeat' split
  all_goals
    intro h
    cases h
  rfl

/-- The launch is behind the others, and its groups behind those of its paddock: the barrier objects are written without a change of either. -/
theorem enterLaunch_steady (s : State) (gs : List Group) (l : Launch) :
    Steady (({ s with nextId := s.nextId + 1, launches := s.launches ++ [l] } : State).updPdk l.pdk fun q =>
      { q with groups := q.groups ++ gs.map fun g => { g with launch := l.id } }) (s.enterLaunch gs l) :=
  Steady.noteWaiting (.foldl (.refl _) fun _ ht _ => .ite_of ht.mirror (·.devVWrite) id)

theorem launch_enters (gs : List Group) (l : Launch) : Command .launch 0x01
    (fun u p seq x => unusedZero x [(144, 112)] = true ∧ u.hasPdk p = true ∧ Clean u p ∧ u.checkLaunch p seq x = .ok (gs, l))
    (fun s t p _ _ => t.launches = s.launches ++ [l] ∧
      (t.pdk p).groups = (s.pdk p).groups ++ gs.map fun g => { g with launch := l.id }) := by
  rintro s p seq x h ⟨hz, hp, hc, hl⟩
  have e : exec (.launch p seq x) s = .next ((began s p seq).enterLaunch gs l) := by
    rw [exec_launch, execLaunch, command_next h]
    simp only [hz, hp, hc.noteGets, hl, Bool.not_true, Bool.false_eq_true, if_false]
  have hpdk := checkLaunch_pdk hl
  have steady := enterLaunch_steady (began s p seq) gs l
  have groups : ((began s p seq).pdk p).groups = (s.pdk p).groups := pdk_began_keep s p seq p Pdk.groups fun _ _ => rfl
  refine ⟨_, e, steady.launches.trans (congrArg (· ++ [l]) (began_launches s p seq)), (steady.groups p).trans ?_⟩
  subst hpdk
  rw [← groups]
  exact congrArg Pdk.groups (State.pdk_updPdk _ l.pdk _ (fun _ => by rfl) hp)
theorem launch_refused (r : Nat) : Command .launch 0x01
    (fun u p seq x => unusedZero x [(144, 112)] = true ∧ u.hasPdk p = true ∧ Clean u p ∧ u.checkLaunch p seq x = .error r)
    (fun s t p seq _ => Reported t p seq 1 r ∧ t.launches = s.launches ∧ t.mem = s.mem) := by
  rintro s p seq x h ⟨hz, hp, hc, hl⟩
  have e : exec (.launch p seq x) s = .next ((began s p seq).reportFail p seq r) := by
    rw [exec_launch, execLaunch, command_next h]
    simp only [hz, hp, hc.noteGets, hl, Bool.not_true, Bool.false_eq_true, if_false]
  exact ⟨_, e, (began_open h).fails r, (updRing_launches _ _ _).trans (began_launches s p seq), (updRing_mem _ _ _).trans (began_mem s p seq)⟩

/-! ## Yards (R72 to R75, R455) -/

theorem hasPdk_of_yard {s : State} {p y : Nat} {yd : Yard} (h : (s.pdk p).yard y = some yd) : s.hasPdk p = true := by
  by_contra hn
  rw [pdk_of_not_hasPdk hn] at h
  cases h
/-- What a paddock's yards say depends on its yards alone. -/
theorem yard_congr {q r : Pdk} (h : q.yards = r.yards) (y : Nat) : q.yard y = r.yard y := by
  rw [Pdk.yard, h]
  rfl
theorem yard_reportDone (s : State) (p q seq y : Nat) : ((s.reportDone p seq).pdk q).yard y = (s.pdk q).yard y :=
  yard_congr ((Steady.refl s).reportDone.yards q) y
theorem yard_updYard {s : State} {p y : Nat} {yd : Yard} (h : (s.pdk p).yard y = some yd) (f : Yard → Yard) (hf : ∀ x, (f x).no = x.no) :
    ((s.updYard p y f).pdk p).yard y = some (f yd) := by
  rw [State.updYard, State.pdk_updPdk _ p _ (fun _ => by rfl) (hasPdk_of_yard h)]
  show (List.map _ _).find? _ = _
  rw [find?_map_key Yard.no _ y y f hf, show List.find? _ _ = some yd from h]
  simp

theorem yardpost_queues (yd : Yard) : Command .yardpost 0x02
    (fun u p _ x => unusedZero x [(168, 88)] = true ∧ fld x.toNat 176 16 ≠ 0 ∧ (u.pdk p).yard (fld x.toNat 168 8) = some yd ∧
      yd.pending.length < Config.yardLimit ∧ u.privOk p (fld x.toNat 176 16) yd.desc.privkb = true)
    (fun s t p seq x =>
      let r : Request := { seq, asid := fld x.toNat 176 16, arg := BitVec.ofNat 64 (fld x.toNat 192 64), time := s.wall }
      let u := (began s p seq).updYard p (fld x.toNat 168 8) fun y => { y with pending := y.pending ++ [r] }
      (u.yardDue (u.pdk p) = false → (t.pdk p).yard (fld x.toNat 168 8) = some { yd with pending := yd.pending ++ [r] }) ∧
        (u.yardDue (u.pdk p) = true → t = u.formYards p)) := by
  rintro s p seq x h ⟨hz, ha, hy, hroom, hpriv⟩
  have hwall : (began s p seq).wall = s.wall := (Steady.refl s).updRing.wall
  have e : exec (.yardpost p seq x) s = .next (
      let r : Request := { seq, asid := fld x.toNat 176 16, arg := BitVec.ofNat 64 (fld x.toNat 192 64), time := s.wall }
      let u := (began s p seq).updYard p (fld x.toNat 168 8) fun y => { y with pending := y.pending ++ [r] }
      if u.yardDue (u.pdk p) then u.formYards p else u) := by
    rw [exec_yardpost, execYardpost, command_next h]
    simp only [hz, ha, hy, hpriv, hwall, Nat.not_le.2 hroom, Bool.not_true, Bool.false_eq_true, if_false]
  refine ⟨_, e, fun hd => ?_, fun hd => ?_⟩
  · dsimp only
    rw [hd, if_neg Bool.false_ne_true]
    exact yard_updYard hy (fun y => { y with pending := y.pending ++ [_] }) fun _ => rfl
  · exact if_pos hd

theorem yardcreate_makes (no : Nat) (d : Desc) : Command .yardcreate 0x20
    (fun u p seq x => unusedZero x [(192, 64), (184, 8), (160, 16)] = true ∧ u.named p seq = some no ∧ fld x.toNat 184 8 < 64 ∧
      (u.pdk no).yard (fld x.toNat 184 8) = none ∧ u.readDesc no (fld x.toNat 160 16) (fld x.toNat 192 64) = some d ∧
      Clean u no ∧ (∀ v ∈ d.nbbind, v = 0xFF) ∧ d.kind = 2 ∧ d.argptr = 0 ∧ d.gridx = 0 ∧ d.gridy = 0 ∧ d.c = 0 ∧ d.w = 0 ∧ d.glist = 0 ∧
      d.gcount = 0 ∧ d.timed = false ∧ u.descFault no d = none)
    (fun s t p seq x => (∃ yd, (t.pdk no).yard (fld x.toNat 184 8) = some yd ∧ yd.desc = d ∧ yd.pending = []) ∧ Reported t p seq 0 0 ∧
      t.mem = s.mem) := by
  rintro s p seq x h ⟨hz, hno, hlt, hfree, hd, hc, hnb, hkind, harg, hx, hy, hcc, hw, hgl, hgc, ht, hok⟩
  have hnone : (d.nbbind.any (· != 0xFF)) = false := List.any_eq_false.2 fun v hv => by simp [hnb v hv]
  obtain ⟨ident, e⟩ : ∃ ident, exec (.yardcreate p seq x) s =
      .next (((began s p seq).updPdk no fun q =>
        { q with yards := q.yards ++ [{ no := fld x.toNat 184 8, ident, desc := d }] }).reportDone p seq) := by
    rw [exec_yardcreate, execYardcreate, command_next h]
    simp only [hz, hno, hfree, hd, hc.noteGets, hnone, hkind, harg, hx, hy, hcc, hw, hgl, hgc, ht, hok, Nat.not_le.2 hlt, Bool.not_true,
      Option.isSome_none, Bool.or_self, Bool.false_eq_true, if_false, bne_self_eq_false, decide_false]
    exact ⟨_, rfl⟩
  refine ⟨_, e, ⟨{ no := fld x.toNat 184 8, ident, desc := d }, ?_, rfl, rfl⟩, ((began_open h).updPdk no _ (fun _ => by rfl) fun _ => by rfl).done,
    (updRing_mem _ _ _).trans (began_mem s p seq)⟩
  rw [yard_reportDone, State.pdk_updPdk _ no _ (fun _ => by rfl) (named_hasPdk hno)]
  show (_ ++ [_]).find? _ = _
  rw [List.find?_append, show List.find? _ _ = none from hfree]
  simp

/-- A report of another command. -/
theorem Open.report_ne {s : State} {p seq opc : Nat} (h : Open s p seq opc) {r : Report} (hr : r.seq ≠ seq) : Open (s.report p r) p seq opc := by
  have hring := h.hasRing
  obtain ⟨c, hc, rfl, k⟩ := h
  rw [Open, State.report, ringOf_updRing hring]
  exact ⟨c, List.mem_map.2 ⟨c, hc, if_neg (by simp [hr.symm])⟩, rfl, k⟩
theorem yarddestroy_ends (yd : Yard) : Command .yarddestroy 0x21
    (fun u p _ x => unusedZero x [(248, 8)] = true ∧ (u.pdk p).yard (fld x.toNat 248 8) = some yd)
    (fun s t p seq x => (t.pdk p).yard (fld x.toNat 248 8) = none ∧ ((∀ r ∈ yd.pending, r.seq ≠ seq) → Reported t p seq 0 0) ∧ t.mem = s.mem) := by
  rintro s p seq x h ⟨hz, hy⟩
  have e : exec (.yarddestroy p seq x) s = .next (((yd.pending.foldl (fun t r => t.reportFail p r.seq 0x0B) (began s p seq)).updPdk p fun q =>
      { q with yards := q.yards.filter (·.no != fld x.toNat 248 8) }).reportDone p seq) := by
    rw [exec_yarddestroy, execYarddestroy, command_next h]
    simp only [hz, hy, Bool.not_true, Bool.false_eq_true, if_false]
  have told : (yd.pending.foldl (fun t r => t.reportFail p r.seq 0x0B) (began s p seq)).hasPdk p = true ∧
      (yd.pending.foldl (fun t r => t.reportFail p r.seq 0x0B) (began s p seq)).mem = s.mem := by
    refine List.foldlRecOn (motive := fun t : State => t.hasPdk p = true ∧ t.mem = s.mem) _ _ ⟨hasPdk_of_yard hy, began_mem s p seq⟩
      fun t ht r _ => ?_
    exact ⟨(updRing_hasPdk _ _ _ _).trans ht.1, (updRing_mem _ _ _).trans ht.2⟩
  refine ⟨_, e, ?_, fun hr => ?_, (updRing_mem _ _ _).trans told.2⟩
  · rw [yard_reportDone, State.pdk_updPdk _ p _ (fun _ => by rfl) told.1]
    refine List.find?_eq_none.2 fun y hm hn => ?_
    have := (List.mem_filter.1 hm).2
    simp [beq_iff_eq.1 hn] at this
  · have still : Open (yd.pending.foldl (fun t r => t.reportFail p r.seq 0x0B) (began s p seq)) p seq 0x21 :=
      List.foldlRecOn (motive := fun t : State => Open t p seq 0x21) _ _ (began_open h) fun t ht r hm => ht.report_ne (hr r hm)
    exact (still.updPdk p _ (fun _ => by rfl) fun _ => by rfl).done

/-- R14, R78: where lanes 0 to `n` start, the ASID of each is its own. -/
theorem asid_of_lane {n i : Nat} (hn : n ≤ 32) (hi : i < n) (asid : Nat → Nat) :
    (mget (msetAll [] ((lanesOf (maskOf fun i => decide (i < n))).map fun i => (i, BitVec.ofNat 16 (asid i)))) i).toNat = asid i % 2 ^ 16 := by
  have hmem : i ∈ lanesOf (maskOf fun i => decide (i < n)) := mem_lanesOf.2 ((getLsbD_maskOf _ (by omega)).trans (decide_eq_true hi))
  have hkeys : (((lanesOf (maskOf fun i => decide (i < n))).map fun i => (i, BitVec.ofNat 16 (asid i))).map Prod.fst).Nodup := by
    rw [List.map_map]
    exact (List.map_id _).symm ▸ List.nodup_range.filter _
  have := mget_msetAll_of_mem (m := []) (x := (i, BitVec.ofNat 16 (asid i))) rfl hkeys (List.mem_map.2 ⟨i, hmem, rfl⟩)
  exact (congrArg BitVec.toNat this).trans (BitVec.toNat_ofNat _ _)

/-- R74, R75: the oldest requests of a yard leave it for a launch of one warp. -/
theorem formYardWarp_forms {s : State} {p y : Nat} {yd : Yard} (h : (s.pdk p).yard y = some yd) (l : List Request) :
    ∃ (r : Launch) (w : Warp), (s.formYardWarp p y l).launches = s.launches ++ [r] ∧ r.yard = some y ∧ r.clusters.map (·.warps) = [[w]] ∧
      w.live = (maskOf fun i => decide (i < (l.take 32).length)) ∧
      (∀ i < (l.take 32).length, w.asidOf i = ((l[i]?).getD {}).asid % 2 ^ 16) ∧
      ((s.formYardWarp p y l).pdk p).yard y = some { yd with pending := yd.pending.filter fun r => !(l.take 32).contains r } := by
  have hn : (l.take 32).length ≤ 32 := List.length_take_le _ _
  unfold State.formYardWarp
  rw [h]
  refine ⟨_, _, rfl, rfl, rfl, rfl, fun i hi => ?_, ?_⟩
  · refine (asid_of_lane hn hi _).trans ?_
    rw [show l[i]? = (l.take 32)[i]? from (List.getElem?_take_of_lt (by omega)).symm]
  · exact yard_updYard (s := { s with nextId := s.nextId + 1 + 1 }) h _ fun _ => rfl

theorem yard_forms (q : Pdk) (yd : Yard) : Does .yardFormTimeout
    (fun s => s.pdks.filter s.yardDue = [q] ∧ s.pdk q.no = q ∧ q.yards = [yd] ∧ q.isSealed = false)
    fun s t =>
      (∃ l w, t.launches = s.launches ++ [l] ∧ l.yard = some yd.no ∧ l.clusters.map (·.warps) = [[w]] ∧
        w.live = (maskOf fun i => decide (i < (yd.pending.take 32).length)) ∧
        ∀ i < (yd.pending.take 32).length, w.asidOf i = ((yd.pending[i]?).getD {}).asid % 2 ^ 16) ∧
      ∃ y, (t.pdk q.no).yard yd.no = some y ∧ ∀ r ∈ yd.pending.take 32, r ∉ y.pending := by
  rintro s ⟨hq, hp, hy, hs⟩
  have hlines : yd.lines false = [yd.pending] := rfl
  have hdue : formsAt s.wall yd.pending = true := by
    have : q ∈ s.pdks.filter s.yardDue := hq ▸ List.mem_singleton_self q
    have := (List.mem_filter.1 this).2
    simpa [State.yardDue, hy, hs, hlines] using this
  have hyard : (s.pdk q.no).yard yd.no = some yd := by
    rw [hp, Pdk.yard, hy]
    simp
  have e : exec .yardFormTimeout s = .next ((s.formYardWarp q.no yd.no yd.pending).noteWaiting q.no) := by
    rw [exec_yardFormTimeout, execYardFormTimeout, hq]
    simp [State.formYards, hp, hy, hs, hlines, hdue, sortBy, insertBy]
  obtain ⟨l, w, hl, hno, hws, hlive, hasid, hleft⟩ := formYardWarp_forms hyard yd.pending
  have note := (Steady.refl (s.formYardWarp q.no yd.no yd.pending)).noteWaiting (p := q.no)
  refine ⟨_, e, ⟨l, w, note.launches.trans hl, hno, hws, hlive, hasid⟩, _, (yard_congr (note.yards q.no) _).trans hleft, fun r hr hm => ?_⟩
  have := (List.mem_filter.1 hm).2
  simp [hr] at this

/-! ## Timed starts (R361) -/

theorem timedLaunch_starts (l : Launch) : Does .timedLaunchStart
    (fun s => s.launches.filter s.startDue = [l] ∧ l.startAt.toNat = s.rink.rinkc.toNat ∧
      (∀ c ∈ l.clusters, c.state = .resident ∨ c.state = .retired) ∧ s.startsNow l = true ∧ l.desc.tstart ∉ s.rink.aborted)
    fun s t => (∀ m ∈ t.launches, m.id = l.id → m.started = true) ∧ t.mem = s.mem ∧
      t.warps = s.warps.map fun w => if w.launch = l.id ∧ w.ready ≤ s.now w then { w with ready := s.now w, target := true } else w := by
  rintro s ⟨hl, hat, hc, hnow, hab⟩
  have hall : (l.clusters.all fun c => c.state == .resident || c.state == .retired) = true := List.all_eq_true.2 fun c hm => by simpa using hc c hm
  have e : exec .timedLaunchStart s = .next (s.startLaunch l) := by
    rw [exec_timedLaunchStart, execTimedLaunchStart, hl]
    have hab : (s.startLaunch l).rink.aborted.contains l.desc.tstart = false := by
      simpa using show l.desc.tstart ∉ (s.startLaunch l).rink.aborted from hab
    simp only [List.foldl_cons, List.foldl_nil, hat, hall, hnow, State.beginLaunch, hab, beq_self_eq_true, Bool.and_self, if_true,
      Bool.false_eq_true, if_false]
  refine ⟨_, e, fun m hm hid => ?_, rfl, List.map_congr_left fun w _ => ?_⟩
  · obtain ⟨x, hx, rfl⟩ := List.mem_map.1 hm
    by_cases hx' : x.id = l.id
    · rw [if_pos (beq_iff_eq.2 hx')]
    · rw [if_neg fun hn => hx' (beq_iff_eq.1 hn)] at hid
      exact absurd hid hx'
  · simp [State.started]

end

/-- Settles O44: each command and event by its own lemma above. -/
theorem launchCommands : Obligations.LaunchCommands := by
  unfold Obligations.LaunchCommands
  exact ⟨launch_enters, launch_refused, yardpost_queues, yardcreate_makes, yarddestroy_ends, yard_forms, timedLaunch_starts⟩

end Sys2Proof.Safety

/-! # What an issue keeps of places and translations -/

namespace Sys2Proof.Safety
open Sys2Proof Sys2Proof.Machine

/-- `t` is `s` but for the warps, the cores, and the operations in flight, and its cores have the TLBs, windows and clocks of those of `s`: what
a lane's address, its translation and a deterministic check look at. -/
structure SamePlaces (s t : State) : Prop where
  rest : ∃ ws ks os n i, t = { s with warps := ws, cores := ks, ops := os, nextId := n, issuing := i }
  tlb : ∀ c, (t.core c).tlb = (s.core c).tlb
  windows : ∀ c, (t.core c).windows = (s.core c).windows
  frozen : ∀ c, (t.core c).frozen = (s.core c).frozen

namespace SamePlaces
variable {s t : State} (h : SamePlaces s t)
include h

theorem ucyc (c : Nat) : t.ucyc c = s.ucyc c := by
  have hwall : t.wall = s.wall := by
    obtain ⟨_, _, _, _, _, rfl⟩ := h.rest
    rfl
  rw [State.ucyc, hwall, h.frozen]
  rfl
theorem tlbHit (c p asid va : Nat) : t.tlbHit c p asid va = s.tlbHit c p asid va := by
  rw [State.tlbHit, h.tlb, h.ucyc]
  rfl
theorem deviceAt (e : TlbEntry) (va : Nat) : t.deviceAt e va = s.deviceAt e va := by
  obtain ⟨_, _, _, _, _, rfl⟩ := h.rest
  rfl
theorem leafFound (p : Nat) (e : TlbEntry) (va : Nat) (rd wr : Bool) : t.leafFound p e va rd wr = s.leafFound p e va rd wr := by
  obtain ⟨_, _, _, _, _, rfl⟩ := h.rest
  rfl
theorem lookup (c p asid va : Nat) (rd wr : Bool) : t.lookup c p asid va rd wr = s.lookup c p asid va rd wr := by
  simp only [State.lookup, h.tlbHit, h.leafFound]
theorem arena (w : Warp) (lane : Nat) : t.arena w lane = s.arena w lane := by
  obtain ⟨_, _, _, _, _, rfl⟩ := h.rest
  rfl
theorem spot (w : Warp) (lane n al : Nat) (pads privs : Bool) (ea : DWord) : t.spot w lane n al pads privs ea = s.spot w lane n al pads privs ea := by
  simp only [State.spot, State.window?, h.windows, h.arena]
theorem seen (w : Warp) (lane : Nat) (p : Spot) : t.seen w lane p = s.seen w lane p := by
  cases p <;> simp only [State.seen, h.tlbHit, h.deviceAt]
theorem probe (w : Warp) (a : Acc) (rd wr write : Bool) (p : Spot) : t.probe w a rd wr write p = s.probe w a rd wr write p := by
  cases p <;> simp only [State.probe, h.lookup]
theorem now (w : Warp) : t.now w = s.now w := h.ucyc w.core
theorem det : t.det = s.det := by
  obtain ⟨_, _, _, _, _, rfl⟩ := h.rest
  rfl
end SamePlaces

/-- R263: the check of a warp's accesses looks at the records and the launches, and changes the records alone. -/
theorem detCheck_of_rest (w : Warp) (l : List (Nat × DetKind)) : ∀ {s t : State},
    (∃ ws ks os n i, t = { s with warps := ws, cores := ks, ops := os, nextId := n, issuing := i }) →
      t.detCheck w l = (s.detCheck w l).map fun u => { t with det := u.det } := by
  induction l with
  | nil =>
    rintro s _ ⟨_, _, _, _, _, rfl⟩
    rfl
  | cons x r ih =>
    rintro s _ ⟨ws, ks, os, n, i, rfl⟩
    have ho : State.ordinalOf { s with warps := ws, cores := ks, ops := os, nextId := n, issuing := i } w = s.ordinalOf w := rfl
    unfold State.detCheck
    dsimp only
    rw [ho]
    generalize DetRec.check _ _ _ _ _ = c
    cases c with
    | none => rfl
    | some c => exact ih ⟨ws, ks, os, n, i, rfl⟩

theorem core_noteIssue (s : State) (wid : Nat) (f : Fields) (c : Nat) :
    ∃ iss, (s.noteIssue wid f).core c = { s.core c with issued := iss } := by
  by_cases e : c = (s.warp wid).core
  · subst e
    exact ⟨_, (s.updWarp wid (s.issuedWarp f)).core_updCore (s.warp wid).core _ fun _ => rfl⟩
  · exact ⟨_, (s.updWarp wid (s.issuedWarp f)).core_updCore_ne (s.warp wid).core c _ (fun _ => rfl) e⟩

theorem samePlaces_noteIssue (s : State) (wid : Nat) (f : Fields) : SamePlaces s (s.noteIssue wid f) := by
  have hcore := core_noteIssue s wid f
  refine ⟨?_, fun c => ?_, fun c => ?_, fun c => ?_⟩
  · obtain ⟨ws, ks, e⟩ := noteIssue_eq s wid f
    exact ⟨ws, ks, _, _, _, e⟩
  all_goals
    obtain ⟨_, e⟩ := hcore c
    rw [e]

section
variable {s t : State} {wid : Nat} {f : Fields} {g : Warp → Warp} {h : Core → Core} {u : State → State}

theorem issues_setDet {ops : List Op} (H : Issues s t wid f g ops h id) (d : List DetRec) :
    Issues s { t with det := d } wid f g ops h (fun s => { s with det := d }) where
  has := H.has
  warp := H.warp
  others := H.others
  inFlight := H.inFlight
  nextId := H.nextId
  core := H.core
  cores := H.cores
  issuing := H.issuing
  rest := congrArg (fun v : State => { v with det := d }) H.rest
theorem issues_updCore {ops : List Op} (H : Issues s t wid f g ops h u) (k : Core → Core) (hid : ∀ c, (k c).id = c.id)
    (hk : ∀ c n, k { c with issued := n } = { k c with issued := n }) :
    Issues s (t.updCore (s.warp wid).core k) wid f g ops (fun c => k (h c)) u where
  has := by
    rw [State.hasWarp, State.updCore_warps]
    exact H.has
  warp := by
    rw [State.warp, State.updCore_warps]
    exact H.warp
  others v hv := by
    rw [State.warp, State.updCore_warps]
    exact H.others v hv
  inFlight := (t.updCore_ops _ _).trans H.inFlight
  nextId := (t.updCore_nextId _ _).trans H.nextId
  core := by
    rw [t.core_updCore _ k hid, ← H.core]
    exact (hk _ _).symm
  cores c hc := (t.core_updCore_ne _ c k hid hc).trans (H.cores c hc)
  issuing := (t.updCore_issuing _ _).trans H.issuing
  rest := by
    refine Eq.trans ?_ H.rest
    unfold State.updCore
    split <;> rfl

/-- An operation that has entered is the one of its identifier. -/
theorem op?_entered {x : Op} (H : Issues s t wid f g [x] h u) (hf : FreshId s) (hx : x.id = s.nextId) : t.op? s.nextId = some x := by
  rw [State.op?, H.inFlight, List.find?_append, List.find?_eq_none.2 fun y hy => by simpa using hf y hy]
  simp [hx]
theorem issues_updOp {x : Op} (H : Issues s t wid f g [x] h u) (hf : FreshId s) (hx : x.id = s.nextId) (k : Op → Op) :
    Issues s (t.updOp s.nextId k) wid f g [k x] h u :=
  { H with
    inFlight := by
      have hold : (s.ops.map fun y => if y.id == s.nextId then k y else y) = s.ops :=
        (List.map_congr_left fun y hy => if_neg (by simpa using hf y hy)).trans (List.map_id' _)
      show t.ops.map _ = _
      rw [H.inFlight, List.map_append, hold]
      simp [hx] }
end

theorem SamePlaces.updWarp {s t : State} (h : SamePlaces s t) (wid : Nat) (g : Warp → Warp) : SamePlaces s (t.updWarp wid g) := by
  obtain ⟨⟨ws, ks, os, n, i, rfl⟩, htlb, hwin, hfro⟩ := h
  exact ⟨⟨_, ks, os, n, i, rfl⟩, htlb, hwin, hfro⟩
theorem SamePlaces.addOp {s t : State} (h : SamePlaces s t) (x : Op) : SamePlaces s (t.addOp x).2 := by
  obtain ⟨⟨ws, ks, os, n, i, rfl⟩, htlb, hwin, hfro⟩ := h
  exact ⟨⟨ws, ks, _, _, i, rfl⟩, htlb, hwin, hfro⟩

theorem hasWarp_updCore (t : State) (c : Nat) (g : Core → Core) (v : Nat) : (t.updCore c g).hasWarp v = t.hasWarp v := by
  rw [State.hasWarp, State.updCore_warps]
  rfl
theorem warp_updCore (t : State) (c : Nat) (g : Core → Core) (v : Nat) : (t.updCore c g).warp v = t.warp v := by
  rw [State.warp, State.updCore_warps]
  rfl

section
variable {s t : State} {wid : Nat} {f : Fields} {g : Warp → Warp} {h : Core → Core}

/-- The issue leaves the clock, and the cycle of its warp, where the warp stays on its core and the core keeps its count of frozen cycles. -/
theorem issues_wall {ops : List Op} (H : Issues s t wid f g ops h) : t.wall = s.wall := (congrArg State.wall H.rest :)
theorem issues_now {ops : List Op} (H : Issues s t wid f g ops h) (hh : ∀ c, (h c).frozen = c.frozen) {w : Warp}
    (hw : w.core = (s.warp wid).core) : t.now w = s.now (s.warp wid) := by
  have hfrozen : (t.core (s.warp wid).core).frozen = (s.core (s.warp wid).core).frozen := (congrArg Core.frozen H.core).trans (hh _)
  unfold State.now State.ucyc
  rw [hw, hfrozen, issues_wall H]
theorem issues_addOp_after {x : Op} (H : Issues s t wid f g [] h) (hg : ∀ w, (g w).core = w.core) (hh : ∀ c, (h c).frozen = c.frozen)
    (hx : x.wid = wid) : Issues s (t.addOp x).2 wid f g [enters s wid x] h := by
  refine addOp_issues H (issues_now H hh ?_) (issues_wall H) hx
  rw [H.warp, hg, s.issuedWarp_core]
theorem issues_simpleOp_after (H : Issues s t wid f g [] h) (hg : ∀ w, (g w).core = w.core) (hh : ∀ c, (h c).frozen = c.frozen) (n : Nat) :
    Issues s (t.simpleOp wid (s.warp wid) f n) wid f g [quietOp s wid f n] h := by
  unfold State.simpleOp quietOp
  rw [issues_now H hh rfl]
  exact issues_addOp_after H hg hh rfl
end

theorem lanesOf_eq_nil {m : Lanes} : lanesOf m = [] ↔ m = 0 := by
  refine ⟨fun e => BitVec.eq_of_getLsbD_eq fun i _ => ?_, fun e => ?_⟩
  · have hi := mt (mem_lanesOf (i := i)).2 (e ▸ List.not_mem_nil)
    exact (Bool.eq_false_iff.2 hi).trans BitVec.getLsbD_zero.symm
  · subst e
    exact List.eq_nil_iff_forall_not_mem.2 fun i hi => Bool.false_ne_true (BitVec.getLsbD_zero.symm.trans (mem_lanesOf.1 hi))

/-- R229: scratchpad lanes are ready as they are found. -/
theorem probe_pad {s : State} {w : Warp} {a : Acc} {rd wr write : Bool} {p : Spot} (ha : a.pad = false)
    (hp : (s.probe w a rd wr write p).1.pad = true) : (s.probe w a rd wr write p).1.stage = .ready := by
  cases p with
  | fault => exact absurd (ha.symm.trans hp) Bool.false_ne_true
  | pad => rfl
  | glob va =>
    revert hp
    unfold State.probe
    dsimp only
    split
    all_goals exact fun hp => absurd (ha.symm.trans hp) Bool.false_ne_true
theorem probe_lane (s : State) (w : Warp) (a : Acc) (rd wr write : Bool) (p : Spot) : (s.probe w a rd wr write p).1.lane = a.lane := by
  cases p with
  | fault => rfl
  | pad => rfl
  | glob va =>
    unfold State.probe
    dsimp only
    split <;> rfl

/-- Lanes that have found no fault enter as they are. -/
theorem enterOp_eq (t : State) (wid : Nat) (w : Warp) (f : Fields) (x : Op) {ps : List (Acc × Option LaneFault)} (hne : ps ≠ [])
    (hok : ∀ p ∈ ps, p.2 = none) : t.enterOp wid w f x ps = t.addOp { x with accs := ps.map (·.1) } := by
  have hfs : ps.filterMap (·.2) = [] := List.filterMap_eq_nil_iff.2 hok
  simp only [State.enterOp, hfs, List.isEmpty_eq_false_iff.2 hne]
  rfl

end Sys2Proof.Safety

/-! # LD, ST and LDRO (R90 to R93, R105, R115 to R117) -/

namespace Sys2Proof.Safety
open Sys2Proof Sys2Proof.Machine

/-- R229: what `State.queuePads` puts into the pipeline of an operation's core. -/
def padEntry (x : Op) (k : PadKind) (now land : Nat) : PadAccess :=
  { wid := x.wid, slot := x.before.slot, kind := k, due := now + 8, land := now + land, bytes := x.bytes, ty := x.ty, var := x.var, dst := x.dst
    nregs := x.nregs, op := some x.id, pc := x.pc, accs := x.accs.filter fun a => a.pad && a.stage == .ready, before := x.before }
/-- The operation whose ready scratchpad lanes note the cycle in which they land. -/
def landsAt (n : Nat) (x : Op) : Op := x.mapAccs fun a => if a.pad && a.stage == .ready then { a with len := n } else a

theorem queuePads_eq {t : State} {x : Op} {o : Nat} (k : PadKind) (land : Nat) (hx : t.op? o = some x) :
    t.queuePads o k land = if (x.accs.filter fun a => a.pad && a.stage == .ready) = [] then t else
      (t.updOp o (landsAt (t.now x.before + land))).updCore x.before.core fun c => { c with padq := c.padq ++ [padEntry x k (t.now x.before) land] } := by
  unfold State.queuePads padEntry
  rw [hx, State.op?_id hx]
  simp only [List.isEmpty_iff]
  rfl
theorem landsAt_of_none {x : Op} (n : Nat) (h : (x.accs.filter fun a => a.pad && a.stage == .ready) = []) : landsAt n x = x := by
  have hmap : (x.accs.map fun a => if a.pad && a.stage == .ready then { a with len := n } else a) = x.accs :=
    (List.map_congr_left fun a ha => if_neg (List.filter_eq_nil_iff.1 h a ha)).trans (List.map_id' _)
  unfold landsAt Op.mapAccs
  rw [hmap]

section
variable {s t : State} {wid : Nat} {f : Fields} {g : Warp → Warp} {h : Core → Core} {u : State → State}

/-- The scratchpad lanes of the operation that has entered go into its core's pipeline. -/
theorem queuePads_issues {x : Op} (H : Issues s t wid f g [x] h u) (hf : FreshId s) (hx : x.id = s.nextId) (hw : x.before = s.warp wid)
    (hnow : t.now x.before = s.now (s.warp wid)) (k : PadKind) (land : Nat) :
    Issues s (t.queuePads s.nextId k land) wid f g [landsAt (s.now (s.warp wid) + land) x]
      (fun c => if (x.accs.filter fun a => a.pad && a.stage == .ready) = [] then h c else
        { h c with padq := (h c).padq ++ [padEntry x k (s.now (s.warp wid)) land] }) u := by
  rw [queuePads_eq k land (op?_entered H hf hx), hnow]
  split
  next e =>
    rw [landsAt_of_none _ e]
    exact H
  next e =>
    rw [hw]
    exact issues_updCore (issues_updOp H hf hx _) (fun c => { c with padq := c.padq ++ [padEntry x k (s.now (s.warp wid)) land] })
      (fun _ => rfl) fun _ _ => rfl
end

/-! ## A memory word (R105, R117, R229, R263) -/

section
variable {m : MemWord} {s : State} {wid : Nat} {f : Fields} {d : List DetRec}

/-- A lane's access before the scratchpad lanes of the word are queued: those note how long they take. -/
def MemWord.placed (m : MemWord) (s : State) (w : Warp) (f : Fields) : List Acc :=
  (m.found s w f).map fun p => if p.1.pad then { p.1 with len := padLand f } else p.1

variable (m s f) in
theorem MemWord.pads_ready (w : Warp) (hacc : ∀ i, (m.acc s w f i).pad = false) : ∀ p ∈ m.found s w f, p.1.pad = true → p.1.stage = .ready := by
  intro p hp
  obtain ⟨i, -, rfl⟩ := List.mem_map.1 hp
  exact probe_pad (hacc i)
/-- Of the accesses of scratchpad lanes, the same ones are queued before and after they note how long they take. -/
theorem MemWord.placed_pads (w : Warp) : (m.placed s w f).filter (fun a => a.pad && a.stage == .ready) =
    (((m.found s w f).map (·.1)).filter fun a => a.pad && a.stage == .ready).map fun a => { a with len := padLand f } := by
  unfold MemWord.placed
  induction m.found s w f with
  | nil => rfl
  | cons p r ih =>
    simp only [List.map_cons, List.filter_cons]
    cases hp : p.1.pad <;> cases hs : p.1.stage == .ready <;> simp_all

/-- No lane of a word that runs on is held back by a walk. -/
theorem MemWord.runs.unlocked {w : Warp} (hruns : m.runs s w f) :
    (w.lockOpen && (m.found s w f).any (·.1.stage == .walk) || m.timed w f && (!w.lockOpen || (m.found s w f).any (·.1.stage == .walk))) = false := by
  obtain ⟨-, -, hwalk, htimed⟩ := hruns
  have hmiss (e : w.lockOpen = true ∨ m.timed w f = true) : (m.found s w f).any (·.1.stage == .walk) = false :=
    List.any_eq_false.2 fun p hp => by simpa using hwalk e p hp
  cases ht : m.timed w f with
  | true => simp [(htimed ht).1, hmiss (.inr ht)]
  | false =>
    cases hl : w.lockOpen with
    | true => simp [hmiss (.inl hl)]
    | false => rfl
/-- A timed word that runs on stays in the SRAM tier. -/
theorem MemWord.runs.inTier {w : Warp} (hruns : m.runs s w f) :
    (m.timed w f && ((lanesOf (w.exec f)).filterMap fun i => s.seen w i (m.spot s w f i)).any fun pa => !inSramTier pa) = false := by
  obtain ⟨-, -, -, htimed⟩ := hruns
  cases ht : m.timed w f with
  | false => rfl
  | true =>
    refine List.any_eq_false.2 fun pa hpa => ?_
    obtain ⟨i, hi, e⟩ := List.mem_filterMap.1 hpa
    simp [(htimed ht).2 i hi pa e]
theorem MemWord.runs.found_ok {w : Warp} (hruns : m.runs s w f) : (m.found s w f).filter (·.2.isNone) = m.found s w f :=
  List.filter_eq_self.2 fun p hp => Option.isNone_iff_eq_none.2 (hruns.2.1 p hp)
theorem MemWord.runs.mixed_eq {w : Warp} (hruns : m.runs s w f) :
    (w.det && (m.pad f).isSome && (m.found s w f).any fun p => !p.1.pad && (p.2.isNone || p.2.any (·.ft))) = m.mixed s w f := by
  have hany : ((m.found s w f).any fun p => !p.1.pad && (p.2.isNone || p.2.any (·.ft))) = (m.found s w f).any fun p => !p.1.pad := by
    rw [Bool.eq_iff_iff, List.any_eq_true, List.any_eq_true]
    exact exists_congr fun p => and_congr_right fun hp => by simp [hruns.2.1 p hp]
  rw [hany]
  rfl
theorem MemWord.runs.found_ne {w : Warp} (hruns : m.runs s w f) : m.found s w f ≠ [] := by
  obtain ⟨hne, -⟩ := hruns
  exact fun e => hne (lanesOf_eq_nil.1 (List.map_eq_nil_iff.1 e))
/-- The check of the scratchpad lanes goes as well after the issue. -/
theorem MemWord.checked.noteIssue (hdet : m.checked s (s.warp wid) f wid d) :
    (if (s.warp wid).det && !m.mixed s (s.warp wid) f then (s.noteIssue wid f).detCheck (s.warp wid)
        ((((m.found s (s.warp wid) f).map (·.1)).filter (·.pad)).flatMap fun a =>
          (detKinds (m.op wid (s.warp wid) f).kind (m.op wid (s.warp wid) f).ty).map fun k => (padKey (s.warp wid).core a.pa, k))
      else some (s.noteIssue wid f)) = some { s.noteIssue wid f with det := d } := by
  have same := samePlaces_noteIssue s wid f
  unfold MemWord.checked at hdet
  dsimp only at hdet
  split at hdet
  next e =>
    rw [if_pos e, detCheck_of_rest _ _ same.rest, hdet]
    rfl
  next e =>
    have hd : s.det = d := congrArg State.det (Option.some.inj hdet)
    rw [if_neg e, ← hd, ← same.det]

theorem MemWord.lanes_of_held {w : Warp} (e : ((m.pad f).isSome && !m.mixed s w f) = false) : m.lanes s w f = m.placed s w f := by
  unfold MemWord.lanes
  simp only [e, Bool.false_eq_true, if_false]
  rfl
theorem MemWord.lanes_of_queued {w : Warp} (e : ((m.pad f).isSome && !m.mixed s w f) = true) (hacc : ∀ i, (m.acc s w f i).pad = false) :
    (m.placed s w f).map (fun a => if a.pad && a.stage == .ready then { a with len := s.now w + padLand f } else a) = m.lanes s w f := by
  unfold MemWord.lanes MemWord.placed
  rw [List.map_map]
  refine List.map_congr_left fun p hp => ?_
  simp only [e, Function.comp_apply, if_true]
  cases hpad : p.1.pad with
  | false => simp [hpad]
  | true => simp [MemWord.pads_ready m s f w hacc p hp hpad]

/-- The word's operation as its issue finds its lanes. -/
def MemWord.entering (m : MemWord) (s : State) (wid : Nat) (f : Fields) : Op :=
  { m.op wid (s.warp wid) f with
    accs := m.placed s (s.warp wid) f
    due := if m.timed (s.warp wid) f then some (s.now (s.warp wid) + m.land s (s.warp wid) f) else none
    checked := (s.warp wid).det && (m.found s (s.warp wid) f).any (·.1.pad) && !m.mixed s (s.warp wid) f }

theorem MemWord.runs.enterOp {w : Warp} (hruns : m.runs s w f) (t : State) (x : Op) :
    t.enterOp wid w f x ((m.found s w f).map fun p => if p.1.pad then ({ p.1 with len := padLand f }, p.2) else p) =
      t.addOp { x with accs := m.placed s w f } := by
  have hfst : ((m.found s w f).map fun p => if p.1.pad then ({ p.1 with len := padLand f }, p.2) else p).map (·.1) = m.placed s w f := by
    rw [List.map_map]
    refine List.map_congr_left fun p _ => ?_
    dsimp only [Function.comp_apply]
    split <;> rfl
  rw [enterOp_eq _ _ _ _ _ (mt List.map_eq_nil_iff.1 hruns.found_ne), hfst]
  intro p hp
  obtain ⟨q, hq, rfl⟩ := List.mem_map.1 hp
  split <;> exact hruns.2.1 q hq

/-- R105, R263: where every lane is well, the word's operation enters, and its scratchpad lanes are queued unless they wait for the check of others. -/
theorem memIssue_eq (hruns : m.runs s (s.warp wid) f) (hdet : m.checked s (s.warp wid) f wid d)
    (hwrite : (m.op wid (s.warp wid) f).write = (m.op 0 (s.warp wid) f).write) :
    (s.noteIssue wid f).memIssue wid (s.warp wid) f (m.op wid (s.warp wid) f) (m.acc s (s.warp wid) f) (m.spot s (s.warp wid) f)
        m.rd m.wr (m.timed (s.warp wid) f) (m.pad f) =
      match m.pad f with
      | some k => if m.mixed s (s.warp wid) f then (State.addOp { s.noteIssue wid f with det := d } (m.entering s wid f)).2
        else (State.addOp { s.noteIssue wid f with det := d } (m.entering s wid f)).2.queuePads (s.noteIssue wid f).nextId k (padLand f)
      | none => (State.addOp { s.noteIssue wid f with det := d } (m.entering s wid f)).2 := by
  have same := samePlaces_noteIssue s wid f
  have hps : (lanesOf ((s.warp wid).exec f)).map (fun i => (s.noteIssue wid f).probe (s.warp wid) (m.acc s (s.warp wid) f i) m.rd m.wr
      (m.op wid (s.warp wid) f).write (m.spot s (s.warp wid) f i)) = m.found s (s.warp wid) f := by
    simp only [same.probe, hwrite]
    rfl
  have hany : (!(((m.found s (s.warp wid) f).map (·.1)).filter (·.pad)).isEmpty) = (m.found s (s.warp wid) f).any (·.1.pad) := by
    rw [Bool.eq_iff_iff]
    simp
  have hland : (16 + if f.patterned then 2 else 0) = padLand f := rfl
  have hnow : State.now { s.noteIssue wid f with det := d } (s.warp wid) = s.now (s.warp wid) := same.now _
  unfold State.memIssue
  simp only [hps, same.seen, hruns.found_ok, hruns.unlocked, hruns.inTier, hruns.mixed_eq, Bool.false_eq_true, if_false]
  rw [hdet.noteIssue]
  dsimp only
  rw [hland, hruns.enterOp, hany, hnow]
  rfl
/-- Where no scratchpad lane is queued, the operation that has entered is the whole effect. -/
theorem MemWord.held_issues {t : State} {u : State → State} (H : Issues s t wid f id [enters s wid (m.entering s wid f)] id u)
    (e : ((m.pad f).isSome && !m.mixed s (s.warp wid) f) = false) :
    Issues s t wid f id [enters s wid { m.entering s wid f with accs := m.lanes s (s.warp wid) f }] (m.queued s wid f) u := by
  have hid : m.queued s wid f = id := by
    funext k
    unfold MemWord.queued
    dsimp only
    split
    · rfl
    next hp =>
      have hm : m.mixed s (s.warp wid) f = true := by simpa [hp] using e
      exact if_pos (.inr hm)
  rw [MemWord.lanes_of_held e, hid]
  exact H
theorem MemWord.queued_eq {k : PadKind} (hp : m.pad f = some k) (hm : m.mixed s (s.warp wid) f = false)
    (hwid : (m.op wid (s.warp wid) f).wid = wid) (hbefore : (m.op wid (s.warp wid) f).before = s.warp wid) :
    m.queued s wid f = fun c =>
      if ((enters s wid (m.entering s wid f)).accs.filter fun a => a.pad && a.stage == .ready) = [] then id c else
        { id c with padq := (id c).padq ++ [padEntry (enters s wid (m.entering s wid f)) k (s.now (s.warp wid)) (padLand f)] } := by
  funext c
  unfold MemWord.queued
  simp only [hp, hm, Bool.false_eq_true, or_false]
  unfold padEntry
  simp only [show (enters s wid (m.entering s wid f)).accs = m.placed s (s.warp wid) f from rfl, MemWord.placed_pads, List.map_eq_nil_iff,
    show (enters s wid (m.entering s wid f)).wid = wid from hwid, show (enters s wid (m.entering s wid f)).before = s.warp wid from hbefore]
  rfl
/-- R105, R229, R263: the issue of a word that runs on. -/
theorem memIssue_issues (h : Chosen s wid) (hf : FreshId s) (hruns : m.runs s (s.warp wid) f) (hdet : m.checked s (s.warp wid) f wid d)
    (hacc : ∀ i, (m.acc s (s.warp wid) f i).pad = false) (hwid : (m.op wid (s.warp wid) f).wid = wid)
    (hbefore : (m.op wid (s.warp wid) f).before = s.warp wid) (hwrite : (m.op wid (s.warp wid) f).write = (m.op 0 (s.warp wid) f).write) :
    Issues s ((s.noteIssue wid f).memIssue wid (s.warp wid) f (m.op wid (s.warp wid) f) (m.acc s (s.warp wid) f) (m.spot s (s.warp wid) f)
        m.rd m.wr (m.timed (s.warp wid) f) (m.pad f)) wid f id
      [enters s wid { m.entering s wid f with accs := m.lanes s (s.warp wid) f }] (m.queued s wid f) fun s => { s with det := d } := by
  have hnext : (s.noteIssue wid f).nextId = s.nextId := (State.noteIssue_issues h f).nextId
  have H : Issues s (State.addOp { s.noteIssue wid f with det := d } (m.entering s wid f)).2 wid f id [enters s wid (m.entering s wid f)] id
      fun s => { s with det := d } :=
    issues_setDet (addOp_issues (x := m.entering s wid f) (State.noteIssue_issues h f) (State.noteIssue_warp_now h f) (wall_noteIssue s wid f) hwid) d
  rw [memIssue_eq hruns hdet hwrite, hnext]
  cases hp : m.pad f with
  | none => exact MemWord.held_issues H (by rw [hp]; rfl)
  | some k =>
    cases hm : m.mixed s (s.warp wid) f with
    | true => exact MemWord.held_issues H (by rw [hp, hm]; rfl)
    | false =>
      have hq : ((m.pad f).isSome && !m.mixed s (s.warp wid) f) = true := by rw [hp, hm]; rfl
      have hnow : State.now (State.addOp { s.noteIssue wid f with det := d } (m.entering s wid f)).2 (s.warp wid) = s.now (s.warp wid) :=
        (samePlaces_noteIssue s wid f).now _
      have Q := queuePads_issues H hf rfl hbefore ((congrArg _ hbefore).trans hnow) k (padLand f)
      rw [show landsAt _ (enters s wid (m.entering s wid f)) = enters s wid { m.entering s wid f with accs := m.lanes s (s.warp wid) f } from
        congrArg (fun l => enters s wid { m.entering s wid f with accs := l }) (MemWord.lanes_of_queued hq hacc)] at Q
      rwa [← MemWord.queued_eq hp hm hwid hbefore] at Q
end

/-- The word completes, where its meaning is to issue its accesses. -/
theorem MemWord.completes_of {m : MemWord} {i : Fields → Instr} {ok : State → Warp → Fields → Prop}
    (hexec : ∀ s wid f, Chosen s wid → exec (i f) s = .next ((s.noteIssue wid f).memIssue wid (s.warp wid) f (m.op wid (s.warp wid) f)
      (m.acc s (s.warp wid) f) (m.spot s (s.warp wid) f) m.rd m.wr (m.timed (s.warp wid) f) (m.pad f)))
    (hacc : ∀ s w f i, (m.acc s w f i).pad = false) (hwid : ∀ wid w f, (m.op wid w f).wid = wid) (hbefore : ∀ wid w f, (m.op wid w f).before = w)
    (hwrite : ∀ wid w f, (m.op wid w f).write = (m.op 0 w f).write) : m.Completes i ok := fun s wid f _ h hf _ hruns hdet =>
  ⟨_, hexec s wid f h, memIssue_issues h hf hruns hdet (hacc s _ f) (hwid wid _ f) (hbefore wid _ f) (hwrite wid _ f)⟩

theorem accessWord_completes {i : Fields → Instr} {k : OpKind} (hexec : ∀ f s, exec (i f) s = memOp f s k) : (accessWord k).Completes i := by
  refine MemWord.completes_of (fun s wid f h => ?_) (fun _ _ _ _ => rfl) (fun _ _ _ => rfl) (fun _ _ _ => rfl) fun _ _ _ => rfl
  rw [hexec, memOp, State.issue_chosen h]
  simp only [(samePlaces_noteIssue s wid f).spot]
  rfl

/-- A word that no lane executes only counts down, where no operation has the identifier 0, under which its scratchpad lanes are then looked up. -/
theorem memIssue_idle {s : State} {wid : Nat} {w : Warp} {f : Fields} (hf : w.exec f = 0) (h0 : ∀ y ∈ s.ops, y.id ≠ 0) (x : Op) (mk : Nat → Acc)
    (spot : Nat → Spot) (rd wr : Bool) {timed : Bool} (ht : timed = true → w.lockOpen = true) (pad : Option PadKind) :
    s.memIssue wid w f x mk spot rd wr timed pad = s.simpleOp wid w f 1 := by
  have hopen : (timed && !w.lockOpen) = false := by
    cases timed with
    | false => rfl
    | true => rw [ht rfl]; rfl
  have hqueue (k : PadKind) (land : Nat) : (s.simpleOp wid w f 1).queuePads 0 k land = s.simpleOp wid w f 1 := by
    cases hx : (s.simpleOp wid w f 1).op? 0 with
    | none =>
      unfold State.queuePads
      rw [hx]
    | some y =>
      have hnil : y.accs = [] := by
        have hy : y ∈ s.ops ++ [_] := State.op?_mem hx
        rcases List.mem_append.1 hy with hold | hnew
        · exact absurd (State.op?_id hx) (h0 y hold)
        · rw [List.mem_singleton.1 hnew]
          rfl
      rw [queuePads_eq k land hx, if_pos (by rw [hnil]; rfl)]
  unfold State.memIssue
  rw [lanesOf_eq_nil.2 hf]
  cases pad with
  | none => simp [State.enterOp, State.detCheck, hopen]
  | some k => simp [State.enterOp, State.detCheck, hopen, hqueue]

/-- An access word that no lane executes, timed ones in a locked region. -/
theorem accessWord_idle {i : Fields → Instr} {k : OpKind} (hexec : ∀ f s, exec (i f) s = memOp f s k) :
    Enters i (fun s wid f => quietOp s wid f 1) fun s w f =>
      (w.exec f = 0 ∧ (8 ≤ f.var.toNat → w.timed = true → w.lockOpen = true)) ∧ ∀ y ∈ s.ops, y.id ≠ 0 := by
  rintro s wid f h ⟨⟨hf, ht⟩, h0⟩
  refine ⟨_, (hexec f s).trans (State.issue_chosen h f _), ?_⟩
  dsimp only
  have hops : (s.noteIssue wid f).ops = s.ops := (State.noteIssue_issues h f).inFlight.trans (List.append_nil _)
  rw [memIssue_idle hf (by rwa [hops])]
  · exact simpleOp_issues h f 1
  · simpa using ht

/-- What O17 says of words that some lane executes, and of others where no operation has identifier 0. -/
theorem accessWords_complete :
    (accessWord (.load false)).Completes .ld ∧ (accessWord .store).Completes .st ∧ (accessWord (.load true)).Completes .ldro ∧
    (let idle (s : State) (w : Warp) (f : Fields) : Prop :=
      (w.exec f = 0 ∧ (8 ≤ f.var.toNat → w.timed = true → w.lockOpen = true)) ∧ ∀ y ∈ s.ops, y.id ≠ 0
     Enters .ld (fun s wid f => quietOp s wid f 1) idle ∧ Enters .st (fun s wid f => quietOp s wid f 1) idle ∧
     Enters .ldro (fun s wid f => quietOp s wid f 1) idle) :=
  ⟨accessWord_completes fun _ _ => rfl, accessWord_completes fun _ _ => rfl, accessWord_completes fun _ _ => rfl,
    accessWord_idle fun _ _ => rfl, accessWord_idle fun _ _ => rfl, accessWord_idle fun _ _ => rfl⟩

/-! ## The counterexample -/

/-- A warp without a live lane is chosen while a scratchpad lane of an operation with identifier 0 is ready. -/
def zeroNamed : State :=
  { State.reset with issuing := some 3, warps := [{ id := 3 }], ops := [{ accs := [{ stage := .ready, pad := true }] }] }
/-- The landing cycles that the lanes in flight note. -/
def landingsOf (s : State) : List Nat := s.ops.flatMap fun x => x.accs.map (·.len)

/-- The word that no lane executes queues that lane: it notes its landing 16 cycles on. -/
theorem ld_queues_zeroNamed : ∃ t, exec (.ld default) zeroNamed = .next t ∧ landingsOf t = [16] := ⟨_, rfl, by decide⟩

/-- Refutes O17: a word without lanes takes 0 for its operation's identifier and queues the scratchpad lanes of whatever operation has it. The
machine numbers operations from 1, but the statement is about every state: `accessWords_complete` is what holds. -/
theorem not_loadsAndStores : ¬ Obligations.LoadsAndStores := by
  unfold Obligations.LoadsAndStores
  rintro ⟨-, -, -, idle, -, -⟩
  obtain ⟨t, e, H⟩ := idle zeroNamed 3 default ⟨rfl, rfl⟩ (by decide)
  obtain ⟨u, e', moved⟩ := ld_queues_zeroNamed
  cases e.symm.trans e'
  have kept : landingsOf t = [0] := by
    rw [landingsOf, H.inFlight]
    rfl
  cases kept.symm.trans moved

end Sys2Proof.Safety

/-! # PREF, TLOCK and TFREE (R103, R119 to R121) -/

namespace Sys2Proof.Safety
open Sys2Proof Sys2Proof.Machine

/-! ## PREF (R119) -/

/-- R119, R120: what the lanes of a PREF or a TLOCK find. -/
def touched (s : State) (w : Warp) (f : Fields) : List (Acc × Option LaneFault) :=
  (lanesOf (w.exec f)).map fun i =>
    s.probe w { lane := i, asid := w.asidOf i, addr := w.effAddr f i } true false false (s.spot w i 1 1 true true (w.effAddr f i))
theorem touched_eq {s t : State} (same : SamePlaces s t) (w : Warp) (f : Fields) :
    ((lanesOf (w.exec f)).map fun i =>
      t.probe w { lane := i, asid := w.asidOf i, addr := w.effAddr f i } true false false (t.spot w i 1 1 true true (w.effAddr f i))) = touched s w f := by
  simp only [same.probe, same.spot]
  rfl
theorem lanes_touched (s : State) (w : Warp) (f : Fields) : (touched s w f).map (·.1.lane) = lanesOf (w.exec f) := by
  unfold touched
  rw [List.map_map]
  exact (List.map_congr_left fun i _ => probe_lane s w _ true false false _).trans (List.map_id' _)

/-- R119: how a PREF takes what a lane has found: a lane that needs a walk, outside a locked region, goes on. -/
def prefetching (w : Warp) (p : Acc × Option LaneFault) : Acc × Option LaneFault :=
  if p.2.isSome || (w.lockOpen && p.1.stage == .walk) then ({ p.1 with stage := .gone }, none)
  else if p.1.stage == .walk then (p.1, none) else ({ p.1 with stage := .done }, none)
theorem prefetching_cases (w : Warp) (p : Acc × Option LaneFault) :
    (prefetching w p).2 = none ∧ (prefetching w p).1.lane = p.1.lane ∧
      ((prefetching w p).1.stage = .walk ∧ (p.2 = none ∧ p.1.stage = .walk ∧ w.lockOpen = false) ∨
       ((prefetching w p).1.stage = .done ∨ (prefetching w p).1.stage = .gone) ∧ ¬(p.2 = none ∧ p.1.stage = .walk ∧ w.lockOpen = false)) := by
  unfold prefetching
  split
  next e =>
    refine ⟨rfl, rfl, .inr ⟨.inr rfl, ?_⟩⟩
    rintro ⟨hf, hs, hl⟩
    simp [hf, hl] at e
  next e =>
    split
    next hs =>
      refine ⟨rfl, rfl, .inl ⟨beq_iff_eq.1 hs, ?_, beq_iff_eq.1 hs, ?_⟩⟩
      · exact Option.not_isSome_iff_eq_none.1 fun hsome => e (by rw [hsome]; rfl)
      · exact Bool.eq_false_iff.2 fun hl => e (by rw [hl, hs]; exact Bool.or_true _)
    next hs => exact ⟨rfl, rfl, .inr ⟨.inl rfl, fun hw => hs (beq_iff_eq.2 hw.2.1)⟩⟩

/-- R119: a line stands first in the read-only cache. -/
def withLine (k : Core) (pa : Nat) : Core := { k with ro := ((pa / 64) :: k.ro.filter (· != pa / 64)).take Config.roLines }
/-- R119: the lanes of a PREF whose line the core can fetch at once. -/
def prefetchHits (s : State) (w : Warp) (f : Fields) : List (Acc × Option LaneFault) :=
  (touched s w f).filter fun p => p.2.isNone && p.1.stage == .ready && !p.1.pad
/-- R119: their lines in the read-only cache, for the core and for the state after the issue. -/
def prefetched (s : State) (w : Warp) (f : Fields) (k : Core) : Core :=
  if f.var = 1 then (prefetchHits s w f).foldl (fun k p => withLine k p.1.pa) k else k
def prefetchFill (s : State) (wid : Nat) (f : Fields) : State :=
  if f.var == 1 then ((prefetchHits s (s.warp wid) f).map (·.1)).foldl (fun t a => t.fillRo (s.warp wid).core a.pa) (s.noteIssue wid f)
  else s.noteIssue wid f

theorem issues_fillRo {s t : State} {wid : Nat} {f : Fields} {g : Warp → Warp} {h : Core → Core} {ops : List Op} (l : List (Acc × Option LaneFault)) :
    Issues s t wid f g ops h →
      Issues s ((l.map (·.1)).foldl (fun t a => t.fillRo (s.warp wid).core a.pa) t) wid f g ops fun k => l.foldl (fun k p => withLine k p.1.pa) (h k) := by
  induction l generalizing t h with
  | nil => exact id
  | cons p r ih => exact fun H => ih (issues_updCore H (fun k => withLine k p.1.pa) (fun _ => rfl) fun _ _ => rfl)
theorem frozen_prefetched (s : State) (w : Warp) (f : Fields) (k : Core) : (prefetched s w f k).frozen = k.frozen := by
  unfold prefetched
  split
  · exact List.foldlRecOn (motive := fun c : Core => c.frozen = k.frozen) _ _ rfl fun c hc _ _ => hc
  · rfl

section
variable {s : State} {wid : Nat} (h : Chosen s wid) (f : Fields)
include h

theorem prefetchFill_issues : Issues s (prefetchFill s wid f) wid f id [] (prefetched s (s.warp wid) f) := by
  have H := State.noteIssue_issues h f
  unfold prefetchFill prefetched
  cases hv : f.var == 1 with
  | true =>
    simp only [beq_iff_eq.1 hv, if_true]
    exact issues_fillRo _ H
  | false =>
    simp only [beq_eq_false_iff_ne.1 hv, if_false]
    exact H
/-- A PREF fills what it hits; then its walks, if any, go on. -/
theorem exec_pref_eq : exec (.pref f) s = .next (
    if ((touched s (s.warp wid) f).map (prefetching (s.warp wid))).all fun p => p.1.stage != .walk
    then (prefetchFill s wid f).simpleOp wid (s.warp wid) f 1
    else ((prefetchFill s wid f).enterOp wid (s.warp wid) f { opOf wid (s.warp wid) f (.pref (f.var == 1)) with bytes := 1 }
      ((touched s (s.warp wid) f).map (prefetching (s.warp wid)))).2) := by
  refine (State.issue_chosen h f _ : execPref f s = _).trans ?_
  dsimp only
  rw [touched_eq (samePlaces_noteIssue s wid f)]
  rfl

theorem pref_fills (hp : ∀ p ∈ touched s (s.warp wid) f, ¬(p.2 = none ∧ p.1.stage = .walk ∧ (s.warp wid).lockOpen = false)) :
    ∃ t, exec (.pref f) s = .next t ∧ Issues s t wid f id [quietOp s wid f 1] (prefetched s (s.warp wid) f) := by
  have hall : (((touched s (s.warp wid) f).map (prefetching (s.warp wid))).all fun p => p.1.stage != .walk) = true := by
    refine List.all_eq_true.2 fun q hq => ?_
    obtain ⟨p, hm, rfl⟩ := List.mem_map.1 hq
    obtain ⟨-, -, ⟨-, hw⟩ | ⟨hs, -⟩⟩ := prefetching_cases (s.warp wid) p
    · exact absurd hw (hp p hm)
    · rcases hs with hs | hs <;> simp [hs]
  refine ⟨_, (exec_pref_eq h f).trans (congrArg _ (if_pos hall)), ?_⟩
  exact issues_simpleOp_after (prefetchFill_issues h f) (fun _ => rfl) (frozen_prefetched s _ f) 1
theorem pref_walks (hp : ∃ p ∈ touched s (s.warp wid) f, p.2 = none ∧ p.1.stage = .walk ∧ (s.warp wid).lockOpen = false) :
    ∃ t accs, exec (.pref f) s = .next t ∧
      Issues s t wid f id [enters s wid { opOf wid (s.warp wid) f (.pref (f.var == 1)) with bytes := 1, accs }] (prefetched s (s.warp wid) f) ∧
      accs.map (·.lane) = lanesOf ((s.warp wid).exec f) ∧ ∀ a ∈ accs, a.stage = .walk ∨ a.stage = .done ∨ a.stage = .gone := by
  obtain ⟨p, hm, hw⟩ := hp
  have hall : ¬(((touched s (s.warp wid) f).map (prefetching (s.warp wid))).all fun p => p.1.stage != .walk) = true := by
    intro hall
    have hne := List.all_eq_true.1 hall _ (List.mem_map_of_mem hm)
    obtain ⟨-, -, ⟨hs, -⟩ | ⟨-, hs⟩⟩ := prefetching_cases (s.warp wid) p
    · simp [hs] at hne
    · exact hs hw
  have hne : (touched s (s.warp wid) f).map (prefetching (s.warp wid)) ≠ [] := fun e => List.not_mem_nil (e ▸ List.mem_map_of_mem hm)
  have hok : ∀ q ∈ (touched s (s.warp wid) f).map (prefetching (s.warp wid)), q.2 = none := by
    intro q hq
    obtain ⟨p, -, rfl⟩ := List.mem_map.1 hq
    exact (prefetching_cases _ p).1
  refine ⟨_, ((touched s (s.warp wid) f).map (prefetching (s.warp wid))).map (·.1),
    (exec_pref_eq h f).trans (congrArg _ (if_neg hall)), ?_, ?_, ?_⟩
  · rw [enterOp_eq _ _ _ _ _ hne hok]
    exact issues_addOp_after (prefetchFill_issues h f) (fun _ => rfl) (frozen_prefetched s _ f) rfl
  · rw [← lanes_touched s, List.map_map, List.map_map]
    exact List.map_congr_left fun p _ => (prefetching_cases _ p).2.1
  · intro a ha
    obtain ⟨q, hq, rfl⟩ := List.mem_map.1 ha
    obtain ⟨p, -, rfl⟩ := List.mem_map.1 hq
    obtain ⟨-, -, ⟨hs, -⟩ | ⟨hs, -⟩⟩ := prefetching_cases (s.warp wid) p
    · exact .inl hs
    · exact .inr hs

end

/-! ## TLOCK (R103, R104, R120) -/

/-- R120: keys noted one after another. -/
def noteKeys (l ks : List LockKey) : List LockKey := ks.foldl (fun l k => (l ++ [k]).eraseDups) l
theorem mem_noteKeys {l ks : List LockKey} {k : LockKey} : k ∈ noteKeys l ks ↔ k ∈ l ∨ k ∈ ks := by
  induction ks generalizing l with
  | nil => simp [noteKeys]
  | cons a r ih =>
    refine (ih (l := (l ++ [a]).eraseDups)).trans ?_
    simp [or_assoc]
theorem length_eraseDups_le {α : Type} [BEq α] [LawfulBEq α] : ∀ l : List α, l.eraseDups.length ≤ l.length
  | [] => Nat.le_refl _
  | a :: l => by
    rw [List.eraseDups_cons]
    exact Nat.succ_le_succ ((length_eraseDups_le _).trans (List.length_filter_le _ l))
termination_by l => l.length
decreasing_by exact Nat.lt_succ_of_le (List.length_filter_le _ _)
theorem length_noteKeys (l ks : List LockKey) : (noteKeys l ks).length ≤ l.length + ks.length := by
  induction ks generalizing l with
  | nil => exact Nat.le_refl _
  | cons a r ih =>
    refine (ih (l ++ [a]).eraseDups).trans ?_
    have := length_eraseDups_le (l ++ [a])
    simp at this ⊢
    omega

/-- R99: a translation that the core TLB holds changes nothing. -/
theorem translate_hit {t : State} {c p asid va : Nat} {e : TlbEntry} (h : t.tlbHit c p asid va = some e) :
    t.translate c p asid va = (.leaf e, t) := by
  unfold State.translate
  rw [h]
theorem tlbHit_of_lookup {t : State} {c p asid va pa : Nat} {rd wr spec : Bool} (h : t.lookup c p asid va rd wr = .hit pa spec) :
    ∃ e, t.tlbHit c p asid va = some e := by
  unfold State.lookup at h
  split at h
  · cases h
  next e he => exact ⟨e, he⟩
theorem lockedIn_updWarp (t : State) (wid c slot : Nat) {g : Warp → Warp}
    (hg : ∀ w, (g w).core = w.core ∧ (g w).slot = w.slot ∧ (g w).locks = w.locks ∧ (g w).pdk = w.pdk) :
    (t.updWarp wid g).lockedIn c slot = t.lockedIn c slot := by
  have hw (w : Warp) : (if w.id == wid then g w else w).core = w.core ∧ (if w.id == wid then g w else w).slot = w.slot ∧
      (if w.id == wid then g w else w).locks = w.locks ∧ (if w.id == wid then g w else w).pdk = w.pdk := by
    split
    · exact hg w
    · exact ⟨rfl, rfl, rfl, rfl⟩
  unfold State.lockedIn State.updWarp
  simp only [List.filter_map, List.flatMap_map, Function.comp_def, (hw _).1, (hw _).2.1, (hw _).2.2.1, (hw _).2.2.2]
theorem issuedWarp_locks (s : State) (f : Fields) (w : Warp) :
    (s.issuedWarp f w).core = w.core ∧ (s.issuedWarp f w).slot = w.slot ∧ (s.issuedWarp f w).locks = w.locks ∧ (s.issuedWarp f w).pdk = w.pdk := by
  unfold State.issuedWarp
  cases f.flag <;> exact ⟨rfl, rfl, rfl, rfl⟩
theorem lockedIn_noteIssue (s : State) (wid : Nat) (f : Fields) (c slot : Nat) : (s.noteIssue wid f).lockedIn c slot = s.lockedIn c slot := by
  have hw : (s.noteIssue wid f).warps = (s.updWarp wid (s.issuedWarp f)).warps := State.updCore_warps _ _ _
  unfold State.lockedIn
  rw [hw]
  exact lockedIn_updWarp s wid c slot (issuedWarp_locks s f)

theorem hasWarp_lockEntry (t : State) (w : Warp) (k : LockKey) (v : Nat) : (t.lockEntry w k).hasWarp v = t.hasWarp v := by
  unfold State.lockEntry
  dsimp only
  rw [State.hasWarp_updWarp, hasWarp_updCore]
  exact fun _ => rfl
theorem warp_lockEntry {t : State} {w : Warp} (k : LockKey) (hw : t.hasWarp w.id = true) :
    (t.lockEntry w k).warp w.id = { t.warp w.id with locks := noteKeys (t.warp w.id).locks [k] } := by
  unfold State.lockEntry
  dsimp only
  rw [State.warp_updWarp, warp_updCore]
  · rfl
  · exact fun _ => rfl
  · exact (hasWarp_updCore t _ _ _).trans hw
/-- R120: the entries of a warp locked one after another: the warp notes their keys. -/
theorem lockEntries {t : State} {w : Warp} (hw : t.hasWarp w.id = true) (ks : List LockKey) :
    (ks.foldl (fun t k => t.lockEntry w k) t).hasWarp w.id = true ∧
      (ks.foldl (fun t k => t.lockEntry w k) t).warp w.id = { t.warp w.id with locks := noteKeys (t.warp w.id).locks ks } ∧
      (ks.foldl (fun t k => t.lockEntry w k) t).ops = t.ops ∧ (ks.foldl (fun t k => t.lockEntry w k) t).mem = t.mem := by
  induction ks generalizing t with
  | nil => exact ⟨hw, rfl, rfl, rfl⟩
  | cons k r ih =>
    obtain ⟨hhas, hwarp, hops, hmem⟩ := ih ((hasWarp_lockEntry t w k w.id).trans hw)
    refine ⟨hhas, hwarp.trans ?_, hops.trans (State.updCore_ops _ _ _), hmem.trans (State.updCore_mem _ _ _)⟩
    rw [warp_lockEntry k hw]
    rfl

theorem foldl_noteKeys {t : State} {k : List LockKey × State → Acc → List LockKey × State} {key : Acc → LockKey} (l : List Acc)
    (hk : ∀ ks, ∀ a ∈ l, k (ks, t) a = ((ks ++ [key a]).eraseDups, t)) (ks : List LockKey) : l.foldl k (ks, t) = (noteKeys ks (l.map key), t) := by
  induction l generalizing ks with
  | nil => rfl
  | cons a r ih =>
    rw [List.foldl_cons, hk ks a List.mem_cons_self, ih fun ks b hb => hk ks b (List.mem_cons_of_mem a hb)]
    rfl

/-- R120: a TLOCK with a lane that walks waits. -/
theorem tryLock_waits {t : State} {o : Nat} {x : Op} (hx : t.op? o = some x) (hw : ∃ a ∈ x.accs, a.stage = .walk) : t.tryLock o = t := by
  obtain ⟨a, ha, hs⟩ := hw
  have hany : (x.accs.any fun a => a.stage == .walk || a.stage == .touch) = true := List.any_eq_true.2 ⟨a, ha, by rw [hs]; rfl⟩
  unfold State.tryLock
  rw [hx]
  exact if_pos hany

/-- A lane that hits the core TLB. -/
theorem probe_hit {s : State} {w : Warp} {a : Acc} {va pa : Nat} {rd wr write spec : Bool} {p : Spot} (hp : p = .glob va)
    (hh : s.lookup w.core w.pdk (w.asidOf a.lane) va rd wr = .hit pa spec) :
    s.probe w a rd wr write p = ({ a with va, stage := .ready, pa, spec }, none) := by
  subst hp
  unfold State.probe
  dsimp only
  rw [hh]
/-- R99: the key under which the core TLB's entry for a lane is locked. -/
def keyAt (t : State) (w : Warp) (a : Acc) : LockKey := lockKeyOf ((t.tlbHit w.core w.pdk a.asid a.va).getD {})

theorem flagDown_keeps_locks (w : Warp) (n : Option Nat) : (w.flagDown n).lockOpen = w.lockOpen ∧ (w.flagDown n).locks = w.locks := by
  cases n <;> exact ⟨rfl, rfl⟩

/-- A lane whose translation the core TLB of a warp holds. -/
def Hits (t : State) (w : Warp) (a : Acc) : Prop :=
  a.stage = .ready ∧ a.pad = false ∧ ∃ e, t.tlbHit w.core w.pdk a.asid a.va = some e

section
variable {t : State} {o : Nat} {x : Op} (hx : t.op? o = some x) (hhit : ∀ a ∈ x.accs, Hits t (t.warp x.wid) a)
  (hroom : (t.lockedIn (t.warp x.wid).core (t.warp x.wid).slot).length + x.accs.length ≤ 16)
include hx hhit hroom

/-- R104, R120: a TLOCK whose every lane hits the core TLB, and whose keys there is room for, locks them all and ends. -/
theorem tryLock_locks : t.tryLock o =
    (((noteKeys [] (x.accs.map (keyAt t (t.warp x.wid)))).foldl (fun u k => u.lockEntry (t.warp x.wid) k) t).updOp o
      fun x => x.mapAccs fun a => if a.stage == .ready then { a with stage := .done } else a).settle o := by
  have hany : (x.accs.any fun a => a.stage == .walk || a.stage == .touch) = false :=
    List.any_eq_false.2 fun a ha => by rw [(hhit a ha).1]; exact Bool.false_ne_true
  have hlive : x.accs.filter (fun a => a.stage == .ready && !a.pad) = x.accs :=
    List.filter_eq_self.2 fun a ha => by rw [(hhit a ha).1, (hhit a ha).2.1]; rfl
  unfold State.tryLock
  rw [hx]
  simp only [hany, hlive, Bool.false_eq_true, if_false]
  rw [foldl_noteKeys (key := keyAt t (t.warp x.wid)) x.accs fun ks a ha => by
    obtain ⟨-, -, e, he⟩ := hhit a ha
    simp only [translate_hit he, keyAt, he, Option.getD_some]]
  refine if_neg (Nat.not_lt.2 ((Nat.add_le_add_left ?_ _).trans hroom))
  exact (List.length_filter_le _ _).trans ((length_noteKeys [] _).trans (by simp))
theorem tryLock_ends (hw : t.hasWarp x.wid = true) : ((t.tryLock o).warp x.wid).lockOpen = (t.warp x.wid).lockOpen ∧
    (t.tryLock o).mem = t.mem ∧ ∀ a ∈ x.accs, keyAt t (t.warp x.wid) a ∈ ((t.tryLock o).warp x.wid).locks := by
  have hid := t.warp_id x.wid hw
  obtain ⟨hhas, hwarp, hops, hmem⟩ := lockEntries (w := t.warp x.wid) (hid.symm ▸ hw) (noteKeys [] (x.accs.map (keyAt t (t.warp x.wid))))
  rw [hid] at hhas hwarp
  rw [tryLock_locks hx hhit hroom]
  generalize (noteKeys [] (x.accs.map (keyAt t (t.warp x.wid)))).foldl (fun u k => u.lockEntry (t.warp x.wid) k) t = u at hhas hwarp hops hmem
  have hu : u.op? o = some x := by
    rw [State.op?, hops]
    exact hx
  have hv := State.op?_updOp_self (fun x => x.mapAccs fun a => if a.stage == .ready then { a with stage := .done } else a) (fun _ => rfl) hu
  rw [State.settle_all hv fun a ha => by
    obtain ⟨b, hb, rfl⟩ := List.mem_map.1 ha
    rw [if_pos (beq_iff_eq.2 (hhit b hb).1)]
    exact .inl rfl]
  have hend := State.warp_landEnd (Op.lastWrites (x.mapAccs fun a => if a.stage == .ready then { a with stage := .done } else a)) hv hhas
  refine ⟨?_, (State.near_endOp _ o).mem.trans hmem, fun a ha => ?_⟩
  · refine (congrArg Warp.lockOpen hend).trans ((flagDown_keeps_locks _ _).1.trans ?_)
    exact (congrArg Warp.lockOpen hwarp :)
  · have hlocks := (congrArg Warp.locks hend).trans ((flagDown_keeps_locks _ _).2.trans (congrArg Warp.locks hwarp :))
    exact hlocks ▸ mem_noteKeys.2 (.inr (mem_noteKeys.2 (.inr (List.mem_map_of_mem ha))))
end

section
variable {s : State} {wid : Nat} (h : Chosen s wid) (f : Fields)
include h

/-- R120: a TLOCK opens the region, and where no lane faults its operation is in flight and tries to lock. -/
def locking (s : State) (wid : Nat) (f : Fields) : State :=
  (((s.noteIssue wid f).updWarp wid fun w => { w with lockOpen := true }).addOp
    { opOf wid (s.warp wid) f .tlock with bytes := 1, accs := (touched s (s.warp wid) f).map (·.1) }).2
theorem locking_issues : Issues s (locking s wid f) wid f (fun w => { w with lockOpen := true })
    [enters s wid { opOf wid (s.warp wid) f .tlock with bytes := 1, accs := (touched s (s.warp wid) f).map (·.1) }] := by
  refine issues_addOp_after (issues_updWarp (State.noteIssue_issues h f) (fun w => { w with lockOpen := true }) fun _ => rfl) ?_ (fun _ => rfl) rfl
  exact fun _ => rfl
omit h in
theorem samePlaces_locking : SamePlaces s (locking s wid f) := ((samePlaces_noteIssue s wid f).updWarp _ _).addOp _
theorem exec_tlock_eq (hne : touched s (s.warp wid) f ≠ []) (hok : ∀ p ∈ touched s (s.warp wid) f, p.2 = none) :
    exec (.tlock f) s = .next ((locking s wid f).tryLock s.nextId) := by
  have hnext : (s.noteIssue wid f).nextId = s.nextId := (State.noteIssue_issues h f).nextId
  refine (State.issue_chosen h f _ : execTlock f s = _).trans ?_
  dsimp only
  rw [touched_eq ((samePlaces_noteIssue s wid f).updWarp _ _), enterOp_eq _ _ _ _ _ hne hok, ← hnext]
  rfl

theorem tlock_waits (hf : FreshId s) (hok : ∀ p ∈ touched s (s.warp wid) f, p.2 = none) (hw : ∃ p ∈ touched s (s.warp wid) f, p.1.stage = .walk) :
    ∃ t, exec (.tlock f) s = .next t ∧ Issues s t wid f (fun w => { w with lockOpen := true })
      [enters s wid { opOf wid (s.warp wid) f .tlock with bytes := 1, accs := (touched s (s.warp wid) f).map (·.1) }] := by
  obtain ⟨p, hp, hs⟩ := hw
  have H := locking_issues h f
  refine ⟨_, exec_tlock_eq h f (List.ne_nil_of_mem hp) hok, ?_⟩
  rw [tryLock_waits (op?_entered H hf rfl) ⟨_, List.mem_map_of_mem hp, hs⟩]
  exact H
/-- R120: the region's operation looks its lanes up where and as its warp did before the issue. -/
theorem warp_locking : ((locking s wid f).warp wid).core = (s.warp wid).core ∧ ((locking s wid f).warp wid).slot = (s.warp wid).slot ∧
    ((locking s wid f).warp wid).pdk = (s.warp wid).pdk ∧ ((locking s wid f).warp wid).lockOpen = true := by
  obtain ⟨hcore, hslot, -, hpdk⟩ := issuedWarp_locks s f (s.warp wid)
  rw [(locking_issues h f).warp]
  exact ⟨hcore, hslot, hpdk, rfl⟩
omit h in
theorem lockedIn_locking (c slot : Nat) : (locking s wid f).lockedIn c slot = s.lockedIn c slot :=
  (lockedIn_updWarp (s.noteIssue wid f) wid c slot (g := fun w => { w with lockOpen := true }) fun _ => ⟨rfl, rfl, rfl, rfl⟩).trans
    (lockedIn_noteIssue s wid f c slot)
theorem touched_hits (hhit : ∀ i ∈ lanesOf ((s.warp wid).exec f), ∃ va pa spec,
      s.spot (s.warp wid) i 1 1 true true ((s.warp wid).effAddr f i) = .glob va ∧
        s.lookup (s.warp wid).core (s.warp wid).pdk ((s.warp wid).asidOf i) va true false = .hit pa spec) :
    ∀ p ∈ touched s (s.warp wid) f, p.2 = none ∧ Hits (locking s wid f) ((locking s wid f).warp wid) p.1 := by
  obtain ⟨hcore, -, hpdk, -⟩ := warp_locking h f
  intro p hp
  obtain ⟨i, hi, rfl⟩ := List.mem_map.1 hp
  obtain ⟨va, pa, spec, hspot, hl⟩ := hhit i hi
  rw [probe_hit hspot hl, Hits, hcore, hpdk, (samePlaces_locking f).tlbHit]
  exact ⟨rfl, rfl, rfl, tlbHit_of_lookup hl⟩
theorem tlock_locks (hf : FreshId s) (hne : (s.warp wid).exec f ≠ 0)
    (hroom : (s.lockedIn (s.warp wid).core (s.warp wid).slot).length + (lanesOf ((s.warp wid).exec f)).length ≤ 16)
    (hhit : ∀ i ∈ lanesOf ((s.warp wid).exec f), ∃ va pa spec, s.spot (s.warp wid) i 1 1 true true ((s.warp wid).effAddr f i) = .glob va ∧
      s.lookup (s.warp wid).core (s.warp wid).pdk ((s.warp wid).asidOf i) va true false = .hit pa spec) :
    ∃ t, exec (.tlock f) s = .next t ∧ (t.warp wid).lockOpen = true ∧ t.mem = s.mem ∧
      ∀ i ∈ lanesOf ((s.warp wid).exec f), ∀ va, s.spot (s.warp wid) i 1 1 true true ((s.warp wid).effAddr f i) = .glob va →
        ∃ e, s.tlbHit (s.warp wid).core (s.warp wid).pdk ((s.warp wid).asidOf i) va = some e ∧ lockKeyOf e ∈ (t.warp wid).locks := by
  have H := locking_issues h f
  have hfound := touched_hits h f hhit
  obtain ⟨hcore, hslot, hpdk, hopen⟩ := warp_locking h f
  have hacc (a : Acc) (ha : a ∈ (touched s (s.warp wid) f).map (·.1)) : Hits (locking s wid f) ((locking s wid f).warp wid) a := by
    obtain ⟨p, hp, rfl⟩ := List.mem_map.1 ha
    exact (hfound p hp).2
  have hroom' : ((locking s wid f).lockedIn ((locking s wid f).warp wid).core ((locking s wid f).warp wid).slot).length +
      ((touched s (s.warp wid) f).map (·.1)).length ≤ 16 := by
    rw [hcore, hslot, lockedIn_locking, List.length_map, touched, List.length_map]
    exact hroom
  obtain ⟨hopen', hmem, hkeys⟩ := tryLock_ends (op?_entered H hf rfl) hacc hroom' H.has
  have hlanes : touched s (s.warp wid) f ≠ [] := mt List.map_eq_nil_iff.1 (mt lanesOf_eq_nil.1 hne)
  refine ⟨_, exec_tlock_eq h f hlanes fun p hp => (hfound p hp).1, hopen'.trans hopen, hmem.trans (congrArg State.mem H.rest :), ?_⟩
  intro i hi va hva
  obtain ⟨va', pa, spec, hspot, hl⟩ := hhit i hi
  cases hva.symm.trans hspot
  obtain ⟨e, he⟩ := tlbHit_of_lookup hl
  have hk := hkeys _ (List.mem_map_of_mem (List.mem_map.2 ⟨i, hi, probe_hit hspot hl⟩))
  rw [keyAt, enters, opOf] at hk
  dsimp only at hk
  rw [hcore, hpdk, (samePlaces_locking f).tlbHit, he] at hk
  exact ⟨e, he, hk⟩
end

/-! ## TFREE (R121) -/

theorem tfree_releases {s : State} {wid : Nat} (h : Chosen s wid) (f : Fields) : ∃ t, exec (.tfree f) s = .next t ∧
    Issues s t wid f (fun w => { w with locks := [], lockOpen := false }) [quietOp s wid f 1]
      fun k => { k with tlb := k.tlb.map fun e => { e with locks := e.locks.filter (·.2 != wid) } } := by
  have H := State.noteIssue_issues h f
  have hcore : ((s.noteIssue wid f).warp wid).core = (s.warp wid).core := by
    rw [H.warp]
    exact s.issuedWarp_core f _
  have freed : Issues s ((s.noteIssue wid f).freeLocks wid) wid f (fun w => { w with locks := [], lockOpen := false }) []
      fun k => { k with tlb := k.tlb.map fun e => { e with locks := e.locks.filter (·.2 != wid) } } := by
    unfold State.freeLocks
    dsimp only
    rw [hcore]
    exact issues_updWarp (issues_updCore H (fun k => { k with tlb := k.tlb.map fun e => { e with locks := e.locks.filter (·.2 != wid) } })
      (fun _ => rfl) fun _ _ => rfl) (fun w => { w with locks := [], lockOpen := false }) fun _ => rfl
  exact ⟨_, (State.issue_chosen h f _ : execTfree f s = _), issues_simpleOp_after freed (fun _ => rfl) (fun _ => rfl) 1⟩

/-- Settles O20: a clause for each word and each way it goes. -/
theorem prefetchAndLocks : Obligations.PrefetchAndLocks :=
  ⟨fun _ _ f h hp => pref_fills h f hp, fun _ _ f h hp => pref_walks h f hp, fun _ _ f h hf hok hw => tlock_waits h f hf hok hw,
    fun _ _ f h hf hne hroom hhit => tlock_locks h f hf hne hroom hhit, fun _ _ f h => tfree_releases h f⟩

end Sys2Proof.Safety

/-! # Walks and homes (R98, R252, R253, R255, R269, R279) -/

namespace Sys2Proof.Safety
open Sys2Proof Sys2Proof.Machine

/-! ## A walk (R98) -/

/-- R99, R100: where no line fails, a translation changes the TLBs alone. -/
theorem fillCore_eq (s : State) (c : Nat) (e : TlbEntry) (life : Nat) : ∃ ks, s.fillCore c e life = { s with cores := ks } := by
  unfold State.fillCore State.updCore
  split
  · exact ⟨_, rfl⟩
  · split <;> exact ⟨_, rfl⟩
theorem Clean.translate {s : State} {p : Nat} (h : Clean s p) (c asid va : Nat) :
    ∃ ks ts, (s.translate c p asid va).2 = { s with cores := ks, stlb := ts } := by
  unfold State.translate
  simp only [h.noteReads, h.noteS2]
  split
  · exact ⟨_, _, rfl⟩
  · split
    next e _ =>
      obtain ⟨ks, hk⟩ := fillCore_eq s c e (e.ends - s.wall)
      exact ⟨ks, _, hk⟩
    · split
      · exact ⟨_, _, rfl⟩
      next e _ =>
        obtain ⟨ks, hk⟩ := fillCore_eq s c { s.compose e with lease := fld ((s.pdk p).reg 0x000).toNat 0 16 } (fld ((s.pdk p).reg 0x000).toNat 0 16 * 64)
        simp only [hk]
        split <;> exact ⟨_, _, rfl⟩
theorem Clean.search {s : State} {p : Nat} (h : Clean s p) (c asid va : Nat) (rd wr : Bool) :
    ∃ ks ts, (s.search c p asid va rd wr).2 = { s with cores := ks, stlb := ts } := by
  obtain ⟨ks, ts, e⟩ := h.translate c asid va
  refine ⟨ks, ts, ?_⟩
  unfold State.search
  split
  next he => exact (congrArg Prod.snd he).symm.trans e
  next he => exact (congrArg Prod.snd he).symm.trans e

/-- An operation in flight on a core that is not frozen, one of whose lanes is looked at. -/
def LaneFlies (s : State) (x : Op) (a : Acc) : Prop := Flies s x ∧ x.acc? a.lane = some a ∧ s.frozen x.before.core = false

theorem walk_finds (x : Op) (a : Acc) (m : Lanes) (c : Bool) (pa : Nat) (spec : Bool) : Does (.pageWalkComplete x.id m)
    (fun s => LaneFlies s x a ∧ x.kind = .load c ∧ Clean s x.before.pdk ∧ x.accs.filter (fun a => a.stage == .walk && m.getLsbD a.lane) = [a] ∧
      (s.search x.before.core x.before.pdk a.asid a.va x.kind.needs.1 x.kind.needs.2).1 = .hit pa spec)
    fun s t => (∃ y b, t.op? x.id = some y ∧ y.acc? a.lane = some b ∧ b = { a with stage := .ready, pa, spec }) ∧ t.mem = s.mem := by
  rintro s ⟨⟨⟨hx, -⟩, ha, hfro⟩, hk, hclean, hone, hhit⟩
  obtain ⟨ks, ts, hs⟩ := hclean.search x.before.core a.asid a.va x.kind.needs.1 x.kind.needs.2
  have hlane : s.walkLane x a = (({ a with stage := .ready, pa, spec }, none), { s with cores := ks, stlb := ts }) := by
    unfold State.walkLane
    dsimp only
    rw [show s.search _ _ _ _ _ _ = (Found.hit pa spec, { s with cores := ks, stlb := ts }) from Prod.ext hhit hs]
  have hwalks : s.walkLanes x m = ([], State.updAcc { s with cores := ks, stlb := ts } x.id a.lane fun _ => { a with stage := .ready, pa, spec }) := by
    unfold State.walkLanes
    rw [hone]
    simp only [List.foldl_cons, List.foldl_nil, hlane]
  have e : exec (.pageWalkComplete x.id m) s =
      .next (State.updAcc { s with cores := ks, stlb := ts } x.id a.lane fun _ => { a with stage := .ready, pa, spec }) := by
    simp only [exec_pageWalkComplete, execPageWalkComplete, hx, hk, State.pageWalk, hfro, OpKind.walks, Bool.not_true, Bool.or_self, Bool.false_eq_true,
      if_false, State.walkWait, OpKind.waits, Bool.false_and, hwalks, State.afterWalk, List.isEmpty_nil, if_true]
  refine ⟨_, e, ⟨_, _, State.op?_updAcc_self a.lane _ hx, ?_, rfl⟩, rfl⟩
  rw [Op.acc?_updAcc x a.lane (fun _ => { a with stage := .ready, pa, spec }) fun _ _ => rfl, ha]
  rfl

/-! ## Homes (R252, R253, R255, R269, R279) -/

/-- R13, R62: the bytes at an address, in a frame that is not executable, stand as they were written. -/
def SoundBytes (s : State) (x : Op) (pa n : Nat) : Prop :=
  s.execDev x.before.pdk pa = false ∧ s.markOf x.before.pdk pa = none ∧ s.poisoned pa n = false
/-- R252: a home may apply an access, and no other stands before it. -/
def FirstHome (s : State) (x : Op) (a : Acc) (n : Nat) : Prop :=
  s.applicable (dieOfCore x.before.core) a.stamp = true ∧
    s.firstAt (a.pa + a.put) n (a.since.getD s.wall) (dieOfCore x.before.core) (mget a.stamp (dieOfCore x.before.core)).toNat = true

section
variable {s : State} {x : Op} {pa n : Nat} (h : SoundBytes s x pa n)
include h
theorem SoundBytes.ecc (core : Option Nat) (spec : Bool) : s.ecc core x.before.pdk pa n spec = (true, s) := by
  obtain ⟨-, hmark, hpoison⟩ := h
  rw [State.ecc, hpoison, hmark]
  rfl
theorem SoundBytes.eccWrite (core : Option Nat) (spec : Bool) : s.eccWrite core x.before.pdk pa n spec = (true, s) := by
  have hmark : alist s.marks (s.home pa / 64) = none := by
    have := h.2.1
    unfold State.markOf at this
    split at this
    · cases this
    · exact this
  unfold State.eccWrite
  rw [hmark, h.ecc]
  split <;> rfl
end

/-- A write at a home leaves the operation that makes it, and every warp, as it was. -/
theorem applyWrite_keeps {s : State} {x : Op} (hx : Flies s x) (hk : x.kind.waits = false) (p pa : Nat) (bs : List (BitVec 8)) (st : SMap 48) :
    Flies (s.applyWrite p pa bs st) x ∧ (∀ v, ((s.applyWrite p pa bs st).warp v).regs = (s.warp v).regs) ∧
      (s.applyWrite p pa bs st).mem = (s.poke pa bs).mem := by
  have calm := State.calm_wake { (s.poke pa bs).own p pa bs.length with
    wstamps := if st.isEmpty then s.wstamps else (List.range bs.length).foldl (fun m k => aput m (s.home pa + k) st) s.wstamps } pa
  exact ⟨⟨calm.op hx.1 hk, (calm.has _).trans hx.2⟩, calm.regs, s.mem_applyWrite p pa bs st⟩

/-- R255: the bytes that a home writes of a store lane together. -/
def pieceOf (x : Op) (a : Acc) : Nat := min x.piece (x.bytes - a.put)
theorem storeAt_eq {s : State} {x : Op} {a : Acc} {n : Nat} (h : SoundBytes s x (a.pa + a.put) n) (st : SMap 48) :
    s.storeAt x a st n =
      let u := s.applyWrite x.before.pdk (a.pa + a.put) (((leBytes a.data.toNat x.bytes).drop a.put).take n) st
      if a.put + n < x.bytes then u.updAcc x.id a.lane fun b => { b with put := a.put + n }
      else (State.updAcc { u with outbound := u.outbound.filter fun e => !(e.op == x.id && e.lane == a.lane) } x.id a.lane
        fun a => { a with stage := .done }).settle x.id := by
  unfold State.storeAt
  simp only [h.1, h.eccWrite, Bool.false_eq_true, if_false, if_true, Bool.not_true, Bool.false_and]
theorem exec_homeApply_store {s : State} {x : Op} {a : Acc} (hl : LaneFlies s x a) (hk : x.kind = .store) (hs : a.stage = .stamped ∨ a.stage = .left)
    (hp : a.pad = false) (hfirst : FirstHome s x a (pieceOf x a)) :
    exec (.homeApply x.id a.lane) s = .next (s.storeAt x a a.stamp (pieceOf x a)) := by
  obtain ⟨⟨hx, -⟩, ha, hfro⟩ := hl
  have hport : a.atPort = true := by rcases hs with hs | hs <;> simp [Acc.atPort, hp, hs]
  obtain ⟨h1, h2⟩ := hfirst
  simp only [exec_homeApply, execHomeApply, hx, hk, ha, State.homeApply, hport, hfro, OpKind.stores, Bool.not_true, Bool.or_self,
    Bool.false_eq_true, if_false, if_true]
  exact congrArg Host.Outcome.next (if_pos (by rw [h1]; exact h2))

/-- R15, R41: once the one lane of an operation is done, the operation ends with its last values. -/
theorem lone_ends {u : State} {x : Op} {a : Acc} (hx : Flies u x) (hone : x.accs = [a]) {p : Acc → Bool} (hp : p a = true) {g : Acc → Acc}
    (hg : (g a).stage = .done) :
    let t := (u.updOp x.id fun x => x.mapAccs fun b => if p b then g b else b).settle x.id
    t.op? x.id = none ∧ (t.warp x.wid).regs = msetAll (u.warp x.wid).regs (Op.lastWrites { x with accs := [g a] }) ∧ t.mem = u.mem := by
  have hone' : (x.mapAccs fun b => if p b then g b else b) = { x with accs := [g a] } := by simp [Op.mapAccs, hone, hp]
  have hy := State.op?_updOp_self (fun x => x.mapAccs fun b => if p b then g b else b) (fun _ => rfl) hx.1
  rw [hone'] at hy
  dsimp only
  rw [State.settle_all hy (by simp [hg])]
  refine ⟨State.op?_endOp_self _ _, ?_, (State.near_endOp _ _).mem⟩
  rw [State.regs_endOp]
  exact congrArg Warp.regs (State.warp_landRegs x.id _ hx.2)

/-- R252, R255: a home writes the next bytes of a store lane; the last ones end the lane. -/
theorem home_stores (x : Op) (a : Acc) : Does (.homeApply x.id a.lane)
    (fun s => LaneFlies s x a ∧ x.kind = .store ∧ (a.stage = .stamped ∨ a.stage = .left) ∧ a.pad = false ∧
      SoundBytes s x (a.pa + a.put) (pieceOf x a) ∧ FirstHome s x a (pieceOf x a) ∧ ∀ b ∈ x.accs, b.lane = a.lane → b.put = a.put)
    fun s t => t.mem = (s.poke (a.pa + a.put) (((leBytes a.data.toNat x.bytes).drop a.put).take (pieceOf x a))).mem ∧
      (a.put + pieceOf x a < x.bytes →
        t.op? x.id = some (x.mapAccs fun b => if b.lane == a.lane then { b with put := b.put + pieceOf x a } else b)) ∧
      (x.bytes ≤ a.put + pieceOf x a → (∀ e ∈ t.outbound, ¬(e.op = x.id ∧ e.lane = a.lane)) ∧ (x.accs = [a] → t.op? x.id = none)) := by
  rintro s ⟨hl, hk, hs, hp, hsound, hfirst, hput⟩
  refine ⟨_, exec_homeApply_store hl hk hs hp hfirst, ?_⟩
  obtain ⟨⟨hx, hw⟩, -, hmem⟩ := applyWrite_keeps hl.1 (by rw [hk]; rfl) x.before.pdk (a.pa + a.put)
    (((leBytes a.data.toNat x.bytes).drop a.put).take (pieceOf x a)) a.stamp
  rw [storeAt_eq hsound]
  generalize s.applyWrite _ _ _ _ = u at hx hw hmem
  dsimp only
  split
  next hlt =>
    refine ⟨hmem, fun _ => ?_, fun hle => absurd hlt (Nat.not_lt.2 hle)⟩
    rw [State.op?_updAcc_self a.lane _ hx]
    refine congrArg (fun l => some { x with accs := l }) (List.map_congr_left fun b hb => ?_)
    split
    next hlane => rw [hput b hb (beq_iff_eq.1 hlane)]
    next => rfl
  next hge =>
    refine ⟨(State.near_settle _ _).mem.trans hmem, fun hlt => absurd hlt hge, fun _ => ⟨fun e he => ?_, fun hone => ?_⟩⟩
    · rw [(State.near_settle _ _).outbound] at he
      have hne := (List.mem_filter.1 he).2
      exact fun h => by simp [h.1, h.2] at hne
    · exact (lone_ends (u := { u with outbound := u.outbound.filter fun e => !(e.op == x.id && e.lane == a.lane) }) ⟨hx, hw⟩ hone
        (p := fun b => b.lane == a.lane) (beq_self_eq_true _) (g := fun b => { b with stage := .done }) rfl).1

/-- R267: what memory holds where an atomic's lane goes, and the state after the atomic's write there. -/
def heldAt (s : State) (x : Op) (a : Acc) : Nat := ofLe (s.peek a.pa x.bytes)
def atomWritten (s : State) (x : Op) (a : Acc) : State :=
  match atomWrite x.kind x.ty (heldAt s x a) a.data.toNat a.cmp.toNat with
  | some v => s.applyWrite x.before.pdk a.pa (leBytes v x.bytes) a.stamp
  | none => s
/-- R267, R269: a lane whose atomic is done brings its result. -/
def atomDone (s : State) (x : Op) (a b : Acc) : Acc :=
  { b with stage := .done, old := BitVec.ofNat 128 (atomResult x.before.det x.kind x.ty (heldAt s x a)) }
theorem atomAt_eq {s : State} {x : Op} {a : Acc} (h : SoundBytes s x a.pa x.bytes) :
    s.atomAt x a = (atomWritten s x a).updAcc x.id a.lane (atomDone s x a) := by
  unfold State.atomAt
  simp only [h.1, h.ecc, Bool.false_eq_true, if_false, if_true]
  rfl
theorem atomWritten_keeps {s : State} {x : Op} (hx : Flies s x) (hk : x.kind.waits = false) (a : Acc) :
    Flies (atomWritten s x a) x ∧ (∀ v, ((atomWritten s x a).warp v).regs = (s.warp v).regs) ∧
      (atomWritten s x a).mem = match atomWrite x.kind x.ty (heldAt s x a) a.data.toNat a.cmp.toNat with
        | some v => (s.poke a.pa (leBytes v x.bytes)).mem
        | none => s.mem := by
  unfold atomWritten
  split
  · exact applyWrite_keeps hx hk _ _ _ _
  · exact ⟨hx, fun _ => rfl, rfl⟩
theorem exec_homeApply_atomic {s : State} {x : Op} {a : Acc} {op : AtomOp} {r : Bool} (hl : LaneFlies s x a) (hk : x.kind = .atomic op r)
    (hone : x.accs = [a]) (hs : a.stage = .stamped) (hp : a.pad = false) (hfirst : FirstHome s x a x.bytes) :
    exec (.homeApply x.id a.lane) s = .next ((s.atomAt x a).settle x.id) := by
  obtain ⟨⟨hx, -⟩, ha, hfro⟩ := hl
  have hport : a.atPort = true := by simp [Acc.atPort, hp, hs]
  have hgroup : sortBy Acc.lane (x.accs.filter fun b => b.stage == .stamped && !b.pad && b.pa == a.pa) = [a] := by
    rw [hone]
    simp [hs, hp, sortBy, insertBy]
  obtain ⟨h1, h2⟩ := hfirst
  simp only [exec_homeApply, execHomeApply, hx, hk, ha, State.homeApply, hport, hfro, OpKind.stores, hgroup, Bool.not_true, Bool.or_self,
    Bool.false_eq_true, if_false]
  exact congrArg Host.Outcome.next (if_pos (by rw [List.head?_cons, Option.getD_some, h1]; exact h2))
/-- R267, R269: a home applies an atomic to what memory holds, and the lane's register takes its result. -/
theorem home_atomic (x : Op) (a : Acc) (op : AtomOp) (r : Bool) : Does (.homeApply x.id a.lane)
    (fun s => LaneFlies s x a ∧ x.kind = .atomic op r ∧ x.accs = [a] ∧ a.stage = .stamped ∧ a.pad = false ∧ SoundBytes s x a.pa x.bytes ∧
      FirstHome s x a x.bytes)
    fun s t =>
      t.mem = (match atomWrite x.kind x.ty (heldAt s x a) a.data.toNat a.cmp.toNat with
        | some v => (s.poke a.pa (leBytes v x.bytes)).mem
        | none => s.mem) ∧
      t.op? x.id = none ∧
      (t.warp x.wid).regs = msetAll (s.warp x.wid).regs
        (regWrites x.dst a.lane x.nregs (BitVec.ofNat 128 (atomResult x.before.det x.kind x.ty (heldAt s x a))).toNat) := by
  rintro s ⟨hl, hk, hone, hs, hp, hsound, hfirst⟩
  refine ⟨_, exec_homeApply_atomic hl hk hone hs hp hfirst, ?_⟩
  obtain ⟨hx, hregs, hmem⟩ := atomWritten_keeps hl.1 (by rw [hk]; rfl) a
  obtain ⟨hnone, hlast, hkept⟩ := lone_ends hx hone (p := fun b => b.lane == a.lane) (beq_self_eq_true _) (g := atomDone s x a) rfl
  rw [atomAt_eq hsound]
  refine ⟨hkept.trans hmem, hnone, hlast.trans ?_⟩
  rw [hregs]
  simp [Op.lastWrites, hk, atomDone]

/-- R263: outside deterministic mode nothing is checked. -/
theorem detGate_off {s : State} {o : Nat} {x : Op} (hx : s.op? o = some x) (hdet : x.before.det = false) (k : State → State) :
    s.detGate o k = k s := by
  unfold State.detGate
  rw [hx]
  exact if_pos (by rw [hdet]; rfl)
/-- R279: the word of a BITSET's lane with the lane's bit set, and the home's write of it, whose mark is the die's next. -/
def bitSet (s : State) (a : Acc) : List (BitVec 8) :=
  leBytes (ofLe (s.peek (a.pa / 8 * 8) 8) ||| 2 ^ (8 * (a.pa % 8) + a.data.toNat)) 8
def bitWritten (s : State) (x : Op) (a : Acc) : State :=
  (s.stampAt (dieOfCore x.before.core)).2.applyWrite x.before.pdk (a.pa / 8 * 8) (bitSet s a) (s.stampAt (dieOfCore x.before.core)).1
/-- R279: what a home asks before it applies a BITSET. -/
def BitHome (s : State) (x : Op) (a : Acc) : Prop :=
  s.quiet (dieOfCore x.before.core) = true ∧ s.blocked x a = false ∧ SoundBytes s x (a.pa / 8 * 8) 8 ∧
    s.firstAt (a.pa / 8 * 8) 8 s.wall 8 0 = true
theorem exec_homeApply_bitset {s : State} {x : Op} {a : Acc} {g : Nat} (hl : LaneFlies s x a) (hk : x.kind = .bitset g)
    (hdet : x.before.det = false) (hone : x.accs = [a]) (hs : a.stage = .ready) (hhome : BitHome s x a) :
    exec (.homeApply x.id a.lane) s = .next (((bitWritten s x a).updOp x.id fun x =>
      x.mapAccs fun b => if b.stage == .ready && b.pa / 8 == a.pa / 8 then { b with stage := .done } else b).settle x.id) := by
  obtain ⟨⟨hx, -⟩, ha, hfro⟩ := hl
  obtain ⟨hquiet, hfree, hsound, hfirst⟩ := hhome
  have hmine : x.accs.filter (fun b => b.stage == .ready && b.pa / 8 == a.pa / 8) = [a] := by
    rw [hone]
    simp [hs]
  simp only [exec_homeApply, execHomeApply, hx, hk, ha, detGate_off hx hdet, State.bitsetWord, hs, hfro, hquiet, hfree, hfirst, hsound.1, hsound.ecc,
    hmine, bne_self_eq_false, Bool.not_true, Bool.or_self, Bool.false_eq_true, if_false, if_true, Bool.true_or, List.foldl_cons, List.foldl_nil,
    Nat.zero_or]
  rfl
theorem home_bitset (x : Op) (a : Acc) (g : Nat) : Does (.homeApply x.id a.lane)
    (fun s => LaneFlies s x a ∧ x.kind = .bitset g ∧ x.before.det = false ∧ x.accs = [a] ∧ a.stage = .ready ∧ BitHome s x a)
    fun s t => t.mem = (s.poke (a.pa / 8 * 8) (bitSet s a)).mem ∧ t.op? x.id = none := by
  rintro s ⟨hl, hk, hdet, hone, hs, hhome⟩
  refine ⟨_, exec_homeApply_bitset hl hk hdet hone hs hhome, ?_⟩
  have hx : Flies (s.stampAt (dieOfCore x.before.core)).2 x := hl.1
  obtain ⟨hx', -, hmem⟩ := applyWrite_keeps hx (by rw [hk]; rfl) x.before.pdk (a.pa / 8 * 8) (bitSet s a) (s.stampAt (dieOfCore x.before.core)).1
  obtain ⟨hnone, -, hkept⟩ := lone_ends hx' hone (p := fun b => b.stage == .ready && b.pa / 8 == a.pa / 8) (by simp [hs])
    (g := fun b => { b with stage := .done }) rfl
  exact ⟨hkept.trans hmem, hnone⟩

/-! ## The counterexample -/

/-- A vector store with two accesses of lane 0, as no word makes one: the first has written nothing yet, the second its first word. -/
def twice : Op :=
  { id := 7, wid := 3, kind := .store, var := 3, bytes := 8, before := { id := 3 }
    accs := [{ stage := .stamped }, { stage := .done, put := 4 }] }
def storing : State := { State.reset with warps := [{ id := 3 }], ops := [twice] }

/-- The bytes that each access of an operation has written. -/
def writtenOf (x : Op) : List Nat := x.accs.map (·.put)

/-- The home sets what both have written to the first one's count. -/
theorem homeApply_levels : ∃ t, exec (.homeApply 7 0) storing = .next t ∧ (t.op? 7).map writtenOf = some [4, 4] :=
  ⟨_, rfl, by decide⟩

/-- Refutes O34: where an operation has two accesses of one lane, a home's write of the first counts both up to the first one's bytes; the
statement adds to each. The words make one access of a lane, but the statement is about every operation: `walk_finds`, `home_stores` with
its last hypothesis, `home_atomic` and `home_bitset` are what holds. -/
theorem not_walksAndHomes : ¬ Obligations.WalksAndHomes := by
  unfold Obligations.WalksAndHomes
  rintro ⟨-, store, -, -⟩
  obtain ⟨t, e, -, moved, -⟩ := store twice { stage := .stamped } storing
    ⟨⟨⟨rfl, rfl⟩, rfl, rfl⟩, rfl, .inl rfl, rfl, ⟨rfl, rfl, rfl⟩, rfl, rfl⟩
  obtain ⟨u, e', level⟩ := homeApply_levels
  cases e.symm.trans e'
  have apart : (t.op? 7).map writtenOf = some [4, 8] := congrArg (Option.map writtenOf) (moved (by decide))
  cases apart.symm.trans level

end Sys2Proof.Safety

/-! SUPPORT. The integer functions bit by bit and element by element (R125, R144 to R160): shifts and sign extension are those of `BitVec`, a value
made of elements has their bits, and a search through the bits of a value finds what R157 and R158 say. -/
namespace Sys2Proof.Machine
open Sys2Proof Sys2Proof.Safety

/-! ## Widths (R125) -/

/-- The elements of a type fill its register or pair. -/
theorem elemBits_mul_elemCount (t : Ty) : elemBits t * elemCount t = 32 * tyRegs t := by cases t <;> rfl
/-- R148: the types of the shifts have one element. -/
theorem elemCount_wordTypes {t : Ty} (h : t ∈ wordTypes) : elemCount t = 1 := by
  revert h
  cases t <;> decide

theorem mapElems_lt (t : Ty) (g : Nat → Nat) (a : Nat) : mapElems t g a < 2 ^ (32 * tyRegs t) := by
  have := unelems_lt (elemBits t) ((elems (elemBits t) (elemCount t) a).map g)
  rwa [List.length_map, length_elems, elemBits_mul_elemCount] at this

/-- R48: modifiers keep a value within its registers. -/
theorem applyMods_lt (t : Ty) (x : Src) {v : Nat} (h : v < 2 ^ (32 * tyRegs t)) : applyMods t x v < 2 ^ (32 * tyRegs t) := by
  have half (lo : Nat) : fld v lo 16 * 0x10001 < 2 ^ (32 * tyRegs t) := by
    have hf := fld_lt v lo 16
    have hr : 2 ^ 32 ≤ 2 ^ (32 * tyRegs t) := Nat.pow_le_pow_right (by omega) (by unfold tyRegs; split <;> omega)
    omega
  have map {c : Bool} {g : Nat → Nat} {y : Nat} (hy : y < 2 ^ (32 * tyRegs t)) :
      (if c then mapElems t g y else y) < 2 ^ (32 * tyRegs t) := by
    split
    · exact mapElems_lt t g y
    · exact hy
  unfold applyMods
  cases x.half with
  | none => exact map (map h)
  | lo => exact map (map (half 0))
  | hi => exact map (map (half 16))

theorem opnd_lt (w : Warp) (t : Ty) (x : Src) (i : Nat) : w.opnd t x i < 2 ^ (32 * tyRegs t) := by
  refine applyMods_lt t x ?_
  unfold tyRegs
  cases t.is64
  · exact (w.src x i).isLt
  · exact (w.src64 x i).isLt

/-- Operand a of a shift, a bit field or a selection of bytes lies within the width. -/
theorem opA_lt {f : Fields} (h : f.ty ∈ wordTypes) (w : Warp) (i : Nat) : w.opA f.ty f i < 2 ^ elemBits f.ty := by
  have := opnd_lt w f.ty f.a i
  rwa [← elemBits_mul_elemCount, elemCount_wordTypes h, Nat.mul_one] at this

/-! ## Elements (R125, R144, R149) -/

section
variable {t : Ty} {j : Nat} (h : j < elemCount t)
include h

theorem elem_int2 (sat : Bool) (g : Int → Int → Int) (a b : Nat) :
    elem t (int2 t sat g a b) j = intOut t sat (g (intVal t (elem t a j)) (intVal t (elem t b j))) :=
  (elems_zipElems t _ a b j h).trans (intOut_mod _ _ _)
theorem elem_mapInt (sat : Bool) (g : Int → Int) (a : Nat) :
    elem t (mapElems t (fun x => intOut t sat (g (intVal t x))) a) j = intOut t sat (g (intVal t (elem t a j))) :=
  (elems_mapElems t _ a j h).trans (intOut_mod _ _ _)
theorem elem_int3 (sat : Bool) (g : Int → Int → Int → Int) (a b c : Nat) :
    elem t (zipElems3 t (fun x y z => intOut t sat (g (intVal t x) (intVal t y) (intVal t z))) a b c) j =
      intOut t sat (g (intVal t (elem t a j)) (intVal t (elem t b j)) (intVal t (elem t c j))) :=
  (elems_zipElems3 t _ a b c j h).trans (intOut_mod _ _ _)
/-- R152: an element of ISET holds all ones or zero. -/
theorem elem_zipMask (p : Nat → Nat → Bool) (a b : Nat) :
    elem t (zipElems t (fun x y => if p x y then 2 ^ elemBits t - 1 else 0) a b) j =
      if p (elem t a j) (elem t b j) then 2 ^ elemBits t - 1 else 0 := by
  have hpos := Nat.two_pow_pos (elemBits t)
  refine (elems_zipElems t _ a b j h).trans (Nat.mod_eq_of_lt ?_)
  split <;> omega
end

/-! ## Bits of a value -/

theorem bitAt_of_lt {x j : Nat} (h : x < 2 ^ j) : bitAt x j = false := by rw [bitAt_eq, Nat.testBit_lt_two_pow h]
@[simp] theorem bitAt_zero (j : Nat) : bitAt 0 j = false := bitAt_of_lt (Nat.two_pow_pos j)
@[simp] theorem bitAt_and (x y j : Nat) : bitAt (x &&& y) j = (bitAt x j && bitAt y j) := by simp only [bitAt_eq, Nat.testBit_and]
@[simp] theorem bitAt_or (x y j : Nat) : bitAt (x ||| y) j = (bitAt x j || bitAt y j) := by simp only [bitAt_eq, Nat.testBit_or]
@[simp] theorem bitAt_xor (x y j : Nat) : bitAt (x ^^^ y) j = (bitAt x j != bitAt y j) := by simp only [bitAt_eq, Nat.testBit_xor]
/-- A value with the bits of a width inverted. -/
theorem bitAt_not {w j : Nat} (h : j < w) (x : Nat) : bitAt (x ^^^ (2 ^ w - 1)) j = !bitAt x j := by
  simp [bitAt_eq, Nat.testBit_xor, Nat.testBit_two_pow_sub_one, h]
@[simp] theorem fld_zero (x lo : Nat) : fld x lo 0 = 0 := Nat.mod_one _
theorem fld_one (x j : Nat) : fld x j 1 = (bitAt x j).toNat := by
  have := Nat.mod_two_eq_zero_or_one (x / 2 ^ j)
  unfold fld bitAt
  rcases this with h | h <;> simp [h]
theorem toNat_mod_two (b : Bool) : (b.toNat % 2 == 1) = b := by cases b <;> rfl
/-- R4: a field replaced. -/
theorem bitAt_setFld (x lo n v j : Nat) :
    bitAt (setFld x lo n v) j = if lo ≤ j ∧ j < lo + n then bitAt v (j - lo) else bitAt x j := by
  have hlow : x % 2 ^ lo < 2 ^ lo := Nat.mod_lt _ (Nat.two_pow_pos lo)
  have hmid : v % 2 ^ n < 2 ^ n := Nat.mod_lt _ (Nat.two_pow_pos n)
  have hdigits : setFld x lo n v = 2 ^ lo * (2 ^ n * (x / 2 ^ (lo + n)) + v % 2 ^ n) + x % 2 ^ lo := by
    unfold setFld
    rw [Nat.pow_add]
    ring
  rw [bitAt_eq, hdigits, Nat.testBit_two_pow_mul_add _ hlow, Nat.testBit_two_pow_mul_add _ hmid, bitAt_eq, bitAt_eq]
  simp only [Nat.testBit_mod_two_pow, Nat.testBit_div_two_pow]
  by_cases h1 : j < lo
  · simp [h1, Nat.not_le.2 h1]
  · by_cases h2 : j < lo + n
    · simp [h1, h2, Nat.le_of_not_lt h1, show j - lo < n by omega]
    · simp only [h1, h2, show ¬ j - lo < n by omega, if_false, and_false]
      congr 1
      omega
/-- The bits of a value made of elements. -/
theorem bitAt_unelems_elem (b : Nat) (l : List Nat) {k j : Nat} (hj : j < b) (hk : k < l.length) :
    bitAt (unelems b l) (b * k + j) = bitAt l[k] j := by
  have := congrArg (bitAt · j) (fld_unelems b l k hk)
  simp only [bitAt_fld, hj, decide_true, Bool.true_and] at this
  rw [this]
  simp only [bitAt_eq, Nat.testBit_mod_two_pow, hj, decide_true, Bool.true_and]
/-- R152, R180: the bits of a comparison. -/
theorem bitAt_cmpBits (t : Ty) (c : Nat → Nat → Bool) (a b j : Nat) :
    bitAt (cmpBits t c a b) j = (decide (j < elemCount t) && c (elem t a j) (elem t b j)) := by
  unfold cmpBits
  rw [bitAt_unelems]
  by_cases h : j < elemCount t
  · simp only [List.getElem?_map, List.getElem?_range h, Option.map_some, Option.getD_some, h, decide_true, Bool.true_and]
    show ((if c (elem t a j) (elem t b j) = true then 1 else 0) % 2 == 1) = _
    cases c (elem t a j) (elem t b j) <;> rfl
  · simp [h]

/-! ## Shifts and rotates (R154) -/

theorem sx_toNat {n : Nat} (x : BitVec n) : sx n x.toNat = x.toInt := by
  have hlt := x.isLt
  rw [BitVec.toInt_eq_toNat_cond, sx, Nat.mod_eq_of_lt hlt]
  cases n with
  | zero =>
    have : x.toNat = 0 := by omega
    simp [this]
  | succ n =>
    have h2 : 2 ^ (n + 1) = 2 * 2 ^ n := by rw [Nat.pow_succ, Nat.mul_comm]
    have hcond : x.toNat < 2 ^ (n + 1 - 1) ↔ 2 * x.toNat < 2 ^ (n + 1) := by
      rw [h2, Nat.add_sub_cancel]
      omega
    simp only [hcond]
theorem sx_eq (n x : Nat) : sx n x = (BitVec.ofNat n x).toInt := by
  rw [← sx_toNat, BitVec.toNat_ofNat]
  unfold sx
  rw [Nat.mod_mod]
theorem tc_eq_toNat (n : Nat) (x : Int) : tc n x = (BitVec.ofInt n x).toNat := (BitVec.toNat_ofInt x).symm
theorem tc_eq_emod (n : Nat) (x : Int) : tc n x = (x % 2 ^ n).toNat := by
  unfold tc
  push_cast
  rfl
theorem bitAt_toNat {n : Nat} (x : BitVec n) (j : Nat) : bitAt x.toNat j = x.getLsbD j := by rw [bitAt_eq, BitVec.testBit_toNat]

theorem bitAt_shl {w j : Nat} (hj : j < w) (x s : Nat) : bitAt (shl w x s) j = (decide (s ≤ j) && bitAt x (j - s)) := by
  unfold shl
  split
  · simp [bitAt_eq, Nat.testBit_mod_two_pow, hj, Nat.testBit_mul_two_pow]
  next hs => simp [show ¬ s ≤ j by omega]
theorem bitAt_shr {w x : Nat} (hx : x < 2 ^ w) (s j : Nat) : bitAt (shr w x s) j = (decide (j + s < w) && bitAt x (j + s)) := by
  have hout : ¬ j + s < w → bitAt x (j + s) = false := fun h =>
    bitAt_of_lt (hx.trans_le (Nat.pow_le_pow_right (by omega) (Nat.le_of_not_lt h)))
  have hin : bitAt x (j + s) = (decide (j + s < w) && bitAt x (j + s)) := by
    by_cases h : j + s < w
    · simp [h]
    · simp [h, hout h]
  unfold shr
  split
  · rw [bitAt_eq, Nat.testBit_div_two_pow, ← bitAt_eq]
    exact hin
  next hs => simp [show ¬ j + s < w by omega]
/-- The sign of a value shifts in. -/
theorem bitAt_sar {w j : Nat} (hj : j < w) (x s : Nat) : bitAt (sar w x s) j = bitAt x (min (j + s) (w - 1)) := by
  have hshift : sar w x s = ((BitVec.ofNat w x).sshiftRight (min s (w - 1))).toNat := by
    unfold sar
    rw [tc_eq_toNat, sx_eq, ← Int.shiftRight_eq_div_pow, ← BitVec.toInt_sshiftRight, BitVec.ofInt_toInt]
  rw [hshift, bitAt_toNat, BitVec.getLsbD_sshiftRight, BitVec.msb_eq_getLsbD_last, BitVec.getLsbD_ofNat, BitVec.getLsbD_ofNat, bitAt_eq]
  split
  next h =>
    rw [show min s (w - 1) + j = min (j + s) (w - 1) by omega]
    simp [show ¬ w ≤ j by omega, show min (j + s) (w - 1) < w by omega]
  next h =>
    rw [show min (j + s) (w - 1) = w - 1 by omega]
    simp [show ¬ w ≤ j by omega, show w - 1 < w by omega]
/-- R154: what leaves a rotated value at the top comes in at the bottom. -/
theorem bitAt_rotl {w x j : Nat} (hx : x < 2 ^ w) (hj : j < w) (s : Nat) : bitAt (rotl w x s) j = bitAt x ((j + w - s % w) % w) := by
  have hr : s % w < w := Nat.mod_lt _ (by omega)
  unfold rotl
  generalize s % w = r at hr
  have hw : 2 ^ w = 2 ^ r * 2 ^ (w - r) := by rw [← Nat.pow_add]; congr 1; omega
  have htop : x / 2 ^ (w - r) < 2 ^ r := Nat.div_lt_of_lt_mul (by rwa [Nat.mul_comm, ← hw])
  rw [Nat.mul_comm x, hw, Nat.mul_mod_mul_left, bitAt_eq, Nat.testBit_two_pow_mul_add _ htop, bitAt_eq]
  split
  next h =>
    rw [Nat.testBit_div_two_pow, Nat.mod_eq_of_lt (by omega)]
    congr 1
    omega
  next h =>
    rw [Nat.testBit_mod_two_pow, show j + w - r = j - r + w by omega, Nat.add_mod_right, Nat.mod_eq_of_lt (show j - r < w by omega)]
    simp [show j - r < w - r by omega]
/-- A rotation to the right is one to the left by what is missing to the width. -/
theorem bitAt_rotr {w x j : Nat} (hx : x < 2 ^ w) (hj : j < w) (s : Nat) : bitAt (rotl w x (w - s % w)) j = bitAt x ((j + s) % w) := by
  have hr : s % w < w := Nat.mod_lt _ (by omega)
  rw [bitAt_rotl hx hj, Nat.add_mod j s, Nat.mod_eq_of_lt hj]
  congr 1
  generalize s % w = r at hr
  rcases Nat.eq_zero_or_pos r with h | h
  · subst h
    rw [Nat.sub_zero, Nat.mod_self, Nat.sub_zero, Nat.add_mod_right, Nat.add_zero]
  · rw [Nat.mod_eq_of_lt (show w - r < w by omega), show j + w - (w - r) = j + r by omega]

/-! ## Truth tables and reversal (R156, R157) -/

theorem bitAt_logt (tab a b c : Nat) {j : Nat} (hj : j < 32) :
    bitAt (logt tab a b c) j = bitAt tab ((bitAt a j).toNat + 2 * (bitAt b j).toNat + 4 * (bitAt c j).toNat) := by
  unfold logt
  simp only [bitAt_unelems, List.getElem?_map, List.getElem?_range hj, Option.map_some, Option.getD_some, fld_one, toNat_mod_two]
theorem bitAt_brev {w j : Nat} (hj : j < w) (x : Nat) : bitAt (brev w x) j = bitAt x (w - 1 - j) := by
  have hget : (List.range w).reverse[j]? = some (w - 1 - j) := by
    rw [List.getElem?_reverse (by simpa using hj), List.length_range, List.getElem?_range (by omega)]
  unfold brev
  rw [bitAt_unelems, List.getElem?_map, hget]
  simp only [Option.map_some, Option.getD_some, fld_one, toNat_mod_two]

/-! ## Searches (R157, R158) -/

theorem clz_eq_findIdx (w x : Nat) : clz w x = (List.range w).reverse.findIdx (bitAt x) := by
  unfold clz
  rw [List.takeWhile_eq_take_findIdx_not, List.length_take]
  simp only [Bool.not_not]
  exact Nat.min_eq_left List.findIdx_le_length
theorem clz_le (w x : Nat) : clz w x ≤ w := by
  have := List.findIdx_le_length (xs := (List.range w).reverse) (p := bitAt x)
  rwa [← clz_eq_findIdx, List.length_reverse, List.length_range] at this
/-- The bits above the first that is set, from the top, are clear. -/
theorem bitAt_above_clz {w x j : Nat} (hj : j < w) (h : w - clz w x ≤ j) : bitAt x j = false := by
  have hk : w - 1 - j < (List.range w).reverse.findIdx (bitAt x) := by rw [← clz_eq_findIdx]; omega
  have := List.not_of_lt_findIdx hk
  rwa [List.getElem_reverse, List.getElem_range, List.length_range, show w - 1 - (w - 1 - j) = j by omega] at this
theorem bitAt_clz {w x : Nat} (h : clz w x < w) : bitAt x (w - 1 - clz w x) = true := by
  have hk : (List.range w).reverse.findIdx (bitAt x) < (List.range w).reverse.length := by
    rwa [← clz_eq_findIdx, List.length_reverse, List.length_range]
  have := List.findIdx_getElem (w := hk)
  rwa [List.getElem_reverse, List.getElem_range, List.length_range, ← clz_eq_findIdx] at this

/-- In a list in strict order, the elements before one are as many as its place says. -/
theorem length_filter_before {r : Nat → Nat → Bool} (irrefl : ∀ a, r a a = false) (asymm : ∀ a b, r a b = true → r b a = false)
    {l : List Nat} (hl : l.Pairwise fun a b => r a b = true) {n : Nat} (hn : n < l.length) : (l.filter fun a => r a l[n]).length = n := by
  induction l generalizing n with
  | nil => cases hn
  | cons x xs ih =>
    obtain ⟨hx, hxs⟩ := List.pairwise_cons.1 hl
    cases n with
    | zero =>
      have hnone : xs.filter (fun a => r a x) = [] := List.filter_eq_nil_iff.2 fun a ha => by simp [asymm x a (hx a ha)]
      simp [irrefl, hnone]
    | succ n =>
      have hn' : n < xs.length := by simpa using hn
      have := ih hxs hn'
      simp [hx xs[n] (List.getElem_mem hn'), this]

/-- R158: FNSB comes to bit j before bit p. -/
def fnsbBefore (rev : Bool) (p j : Nat) : Bool := if rev then decide (p < j) else decide (j < p)
/-- R158: the positions in the order in which FNSB looks at them. -/
def fnsbOrder (w : Nat) (rev : Bool) : List Nat := if rev then (List.range w).reverse else List.range w

theorem fnsb_eq (w : Nat) (rev : Bool) (x n : Nat) : fnsb w rev x n = (((fnsbOrder w rev).filter (bitAt x))[n]?).getD 0xFFFFFFFF := rfl
theorem mem_fnsbOrder {w : Nat} {rev : Bool} {j : Nat} : j ∈ fnsbOrder w rev ↔ j < w := by
  unfold fnsbOrder
  cases rev <;> simp
theorem fnsbOrder_pairwise (w : Nat) (rev : Bool) : (fnsbOrder w rev).Pairwise fun a b => fnsbBefore rev b a = true := by
  unfold fnsbOrder fnsbBefore
  cases rev
  · simpa using List.pairwise_lt_range
  · exact List.pairwise_reverse.2 (by simpa using List.pairwise_lt_range)
/-- Either order has the same number of bits with a property. -/
theorem length_filter_fnsbOrder (w : Nat) (rev : Bool) (p : Nat → Bool) :
    ((fnsbOrder w rev).filter p).length = ((List.range w).filter p).length := by
  unfold fnsbOrder
  cases rev
  · rfl
  · exact (congrArg List.length List.filter_reverse).trans List.length_reverse

theorem fnsb_none {w : Nat} {rev : Bool} {x n : Nat} (h : ((List.range w).filter (bitAt x)).length ≤ n) : fnsb w rev x n = 0xFFFFFFFF := by
  rw [fnsb_eq, List.getElem?_eq_none (by rwa [length_filter_fnsbOrder])]
  rfl
theorem fnsb_found {w : Nat} {rev : Bool} {x n : Nat} (h : n < ((List.range w).filter (bitAt x)).length) :
    fnsb w rev x n < w ∧ bitAt x (fnsb w rev x n) = true ∧
      ((List.range w).filter fun j => bitAt x j && fnsbBefore rev (fnsb w rev x n) j).length = n := by
  have hn : n < ((fnsbOrder w rev).filter (bitAt x)).length := by rwa [length_filter_fnsbOrder]
  have hp : fnsb w rev x n = ((fnsbOrder w rev).filter (bitAt x))[n] := by rw [fnsb_eq, List.getElem?_eq_getElem hn]; rfl
  obtain ⟨hmem, hbit⟩ := List.mem_filter.1 (List.getElem_mem hn)
  refine ⟨hp ▸ mem_fnsbOrder.1 hmem, hp ▸ hbit, ?_⟩
  have hsorted : ((fnsbOrder w rev).filter (bitAt x)).Pairwise fun a b => fnsbBefore rev b a = true := (fnsbOrder_pairwise w rev).filter _
  have hcount := length_filter_before (r := fun a b => fnsbBefore rev b a) (fun a => by simp [fnsbBefore])
    (fun a b => by unfold fnsbBefore; cases rev <;> simp <;> omega) hsorted hn
  rw [← hp, List.filter_filter, length_filter_fnsbOrder] at hcount
  simpa only [Bool.and_comm] using hcount

/-! ## Bit fields and bytes (R159, R160) -/

/-- R159: the position and the length of a field, cut at the width. -/
def fieldPos (ctl : Nat) : Nat := fld ctl 0 8
def fieldLen (w ctl : Nat) : Nat := min (fld ctl 8 8) (w - fieldPos ctl)

/-- A field that is empty has no position. -/
theorem fieldOf_eq (w ctl : Nat) : fieldOf w ctl = if w ≤ fieldPos ctl then (0, 0) else (fieldPos ctl, fieldLen w ctl) := rfl
theorem fieldLen_zero {w ctl : Nat} (h : w ≤ fieldPos ctl) : fieldLen w ctl = 0 := by
  unfold fieldLen
  omega

/-- A field sign-extended. -/
theorem bitAt_signExtend {w n j : Nat} (hj : j < w) (hn : 0 < n) (v : Nat) :
    bitAt (tc w (sx n v)) j = bitAt v (if j < n then j else n - 1) := by
  have hext : tc w (sx n v) = ((BitVec.ofNat n v).signExtend w).toNat := by
    rw [tc_eq_toNat, sx_eq]
    rfl
  rw [hext, bitAt_toNat, BitVec.getLsbD_signExtend, BitVec.msb_eq_getLsbD_last, BitVec.getLsbD_ofNat, BitVec.getLsbD_ofNat, bitAt_eq]
  split
  next h => simp [hj, h]
  next h => simp [hj, show n - 1 < n by omega]

theorem bitAt_bfx (t : Ty) (x ctl : Nat) {j : Nat} (hj : j < elemBits t) :
    bitAt (bfx t x ctl) j =
      if j < fieldLen (elemBits t) ctl then bitAt x (fieldPos ctl + j)
      else t.isSigned && decide (0 < fieldLen (elemBits t) ctl) && bitAt x (fieldPos ctl + fieldLen (elemBits t) ctl - 1) := by
  unfold bfx
  rw [fieldOf_eq]
  by_cases h : elemBits t ≤ fieldPos ctl
  · simp [h, fieldLen_zero h]
  · simp only [h, if_false]
    generalize fieldLen (elemBits t) ctl = len
    rcases Nat.eq_zero_or_pos len with h0 | h0
    · simp [h0]
    cases t.isSigned with
    | false => by_cases hl : j < len <;> simp [bitAt_fld, hl]
    | true =>
      simp only [h0, decide_true, Bool.and_self, if_true, bitAt_signExtend hj h0, bitAt_fld, Bool.true_and]
      by_cases hl : j < len
      · simp [hl]
      · simp [hl, h0, Nat.add_sub_assoc h0]

theorem bitAt_bfi (w x ctl c j : Nat) :
    bitAt (bfi w x ctl c) j =
      if fieldPos ctl ≤ j ∧ j < fieldPos ctl + fieldLen w ctl then bitAt x (j - fieldPos ctl) else bitAt c j := by
  have hempty : fieldLen w ctl = 0 → ¬(fieldPos ctl ≤ j ∧ j < fieldPos ctl + fieldLen w ctl) := by omega
  unfold bfi
  rw [fieldOf_eq]
  by_cases h : w ≤ fieldPos ctl
  · simp only [h, if_true, if_neg (hempty (fieldLen_zero h))]
  · simp only [h, if_false]
    split
    next h0 => rw [if_neg (hempty h0)]
    next => exact bitAt_setFld c _ _ x j

/-- R160: byte k of b above a. -/
def byteOf (n a b k : Nat) : Nat := if k < n then fld a (8 * k) 8 else fld b (8 * (k - n)) 8

theorem fld_above {n a : Nat} (ha : a < 2 ^ (8 * n)) (b k : Nat) : fld (a + b * 2 ^ (8 * n)) (8 * k) 8 = byteOf n a b k := by
  apply Nat.eq_of_testBit_eq
  intro i
  rw [testBit_fld, Nat.add_comm, Nat.mul_comm b, Nat.testBit_two_pow_mul_add _ ha]
  unfold byteOf
  by_cases hk : k < n
  · rw [if_pos hk, testBit_fld]
    by_cases hi : i < 8
    · rw [if_pos (by omega)]
    · simp [hi]
  · rw [if_neg hk, if_neg (by omega), testBit_fld, Nat.mul_sub, Nat.sub_add_comm (by omega)]

/-- R160: without the fourth bit a nibble names one of eight bytes. -/
theorem fld_nibble {c k : Nat} (h : bitAt c (4 * k + 3) = false) : fld c (4 * k) 3 = fld c (4 * k) 4 := by
  apply Nat.eq_of_testBit_eq
  intro i
  rw [testBit_fld, testBit_fld]
  rcases Nat.lt_trichotomy i 3 with hi | rfl | hi
  · simp [hi, show i < 4 by omega]
  · rw [bitAt_eq] at h
    simp [h]
  · simp [show ¬ i < 3 by omega, show ¬ i < 4 by omega]
theorem bitAt_nibble (c k : Nat) : bitAt c (4 * k + 3) = decide (8 ≤ fld c (4 * k) 4) := by
  have hlt := fld_lt c (4 * k) 4
  have hb := bitAt_fld c (4 * k) 4 3
  simp only [show (3 : Nat) < 4 by omega, decide_true, Bool.true_and] at hb
  rw [← hb]
  generalize fld c (4 * k) 4 = v at hlt
  revert v
  decide

theorem bitAt_bperm_wide {a b c j : Nat} (ha : a < 2 ^ 64) (hj : j < 64) :
    bitAt (bperm true a b c) j = bitAt (byteOf 8 a b (fld c (4 * (j / 8)) 4)) (j % 8) := by
  have hk : j / 8 < 8 := by omega
  unfold bperm
  rw [if_pos rfl]
  conv_lhs => rw [← Nat.div_add_mod j 8]
  rw [bitAt_unelems_elem 8 _ (Nat.mod_lt j (by omega)) (by simpa using hk), List.getElem_map, List.getElem_range]
  exact congrArg (bitAt · (j % 8)) (fld_above (n := 8) ha b _)
theorem bitAt_bperm_narrow {a b c j : Nat} (ha : a < 2 ^ 32) (hj : j < 32) :
    bitAt (bperm false a b c) j =
      (decide (fld c (4 * (j / 8)) 4 < 8) && bitAt (byteOf 4 a b (fld c (4 * (j / 8)) 4)) (j % 8)) := by
  have hk : j / 8 < 4 := by omega
  unfold bperm
  rw [if_neg Bool.false_ne_true]
  conv_lhs => rw [← Nat.div_add_mod j 8]
  rw [bitAt_unelems_elem 8 _ (Nat.mod_lt j (by omega)) (by simpa using hk), List.getElem_map, List.getElem_range]
  have hnib := bitAt_nibble c (j / 8)
  by_cases h8 : 8 ≤ fld c (4 * (j / 8)) 4
  · simp [hnib, h8]
  · have hclear : bitAt c (4 * (j / 8) + 3) = false := by simp [hnib, h8]
    simp only [hclear, Bool.false_eq_true, if_false, Nat.lt_of_not_le h8, decide_true, Bool.true_and]
    rw [fld_nibble hclear]
    exact congrArg (bitAt · (j % 8)) (fld_above (n := 4) ha b _)

end Sys2Proof.Machine

/-! O1 to O7. Integer arithmetic, shifts, logic and bit fields (R149 to R160): each word issues and lands the value that its function gives, and the
laws of that function say what the elements or the bits of the value are. -/
namespace Sys2Proof.Safety
open Sys2Proof Sys2Proof.Machine

/-! ## Words of a fixed class (R51) -/

/-- A word that lands one value in every lane. -/
theorem gives_of {i : Fields → Instr} {c : Cls} {n : Fields → Nat} {v : Warp → Fields → Nat → Nat} {ok : State → Warp → Fields → Prop}
    (hx : ∀ f s, exec (i f) s = s.issue f fun wid w s => s.fixed wid w f c (n f) (v w f)) : Gives i c n v ok := fun _ _ f h _ =>
  ⟨_, (hx f _).trans (State.issue_chosen h f _), State.fixed_lands h f _ _ _⟩
theorem givesElems_of {i : Fields → Instr} {c : Cls} {e : Warp → Fields → Nat → Nat → Nat} {g : Warp → Fields → Nat → Nat}
    (hx : ∀ f s, exec (i f) s = laneOp s f c fun w => g w f)
    (he : ∀ w f l j, j < elemCount f.ty → elem f.ty (g w f l) j = e w f l j) : GivesElems i c e := fun s wid f h => by
  obtain ⟨t, ht, hl⟩ := laneOp_lands h f c fun w => g w f
  exact ⟨t, _, (hx f s).trans ht, hl, fun l j hj => he _ f l j hj⟩
theorem givesBits_of {i : Fields → Instr} {n width : Fields → Nat} {b : Warp → Fields → Nat → Nat → Bool}
    {g : Warp → Fields → Nat → Nat}
    (hx : ∀ f s, exec (i f) s = s.issue f fun wid w s => s.fixed wid w f .a (n f) (g w f))
    (hb : ∀ w f l j, (i f).wf 256 = true → j < width f → bitAt (g w f l) j = b w f l j) : GivesBits i n width b := fun s _ f h hwf =>
  ⟨_, _, (hx f s).trans (State.issue_chosen h f _), State.fixed_lands h f _ _ _, fun l j hj => hb _ f l j hwf hj⟩
theorem givesLaneBits_of {i : Fields → Instr} {width : Fields → Nat} {b : Warp → Fields → Nat → Nat → Bool}
    {g : Warp → Fields → Nat → Nat}
    (hx : ∀ f s, exec (i f) s = laneOp s f .a fun w => g w f)
    (hb : ∀ w f l j, (i f).wf 256 = true → j < width f → bitAt (g w f l) j = b w f l j) :
    GivesBits i (fun f => tyRegs f.ty) width b := givesBits_of (g := g) hx hb

/-- R38: a well-formed word has a type that its row admits. -/
theorem tyOk_of_wf {n op : Nat} {i : Instr} {f : Fields} {r : Row} (hwf : i.wf n = true) (hop : i.opFields = some (op, f))
    (hr : rowOf op f = some r) : r.tyOk = true := by
  unfold Instr.wf Instr.reasons at hwf
  rw [hop] at hwf
  simp only [hr, Row.reasons, List.isEmpty_iff, List.append_eq_nil_iff] at hwf
  obtain ⟨⟨⟨⟨⟨⟨⟨h, -⟩, -⟩, -⟩, -⟩, -⟩, -⟩, -⟩ := hwf
  by_contra hty
  simp [hty] at h
theorem mem_wordTypes_of_wf {n op : Nat} {i : Instr} {f : Fields} {r : Row} (hwf : i.wf n = true) (hop : i.opFields = some (op, f))
    (hr : rowOf op f = some r) (hty : r.tyOk = wordTypes.contains f.ty) : f.ty ∈ wordTypes :=
  List.contains_iff_mem.1 (hty ▸ tyOk_of_wf hwf hop hr)
/-- R148: the types of BPERM. -/
theorem naturals_wordTypes : ∀ t ∈ [Ty.n32, .n64], t ∈ wordTypes := by decide

/-! ## Arithmetic (R149 to R153) -/

/-- Settles O1: each of these words is an element function on whole values, whose elements the laws of `int2`, `mapElems` and `zipElems3` name. -/
theorem integerElements : Obligations.IntegerElements :=
  ⟨givesElems_of exec_iadd fun _ _ _ _ h => elem_int2 h _ (· + ·) _ _,
    givesElems_of exec_isub fun _ _ _ _ h => elem_int2 h _ (· - ·) _ _,
    givesElems_of exec_imul fun _ _ _ _ h => elem_int2 h _ (· * ·) _ _,
    givesElems_of exec_imulh fun _ f _ _ h => elem_int2 h false (fun x y => x * y / (2 ^ elemBits f.ty : Nat)) _ _,
    givesElems_of exec_imad fun _ _ _ _ h => elem_int3 h _ (fun x y z => x * y + z) _ _ _,
    givesElems_of exec_ineg fun _ _ _ _ h => elem_mapInt h _ (- ·) _,
    givesElems_of exec_iabs fun _ _ _ _ h => elem_mapInt h _ (fun x => x.natAbs) _,
    givesElems_of exec_imin fun _ _ _ _ h => elem_int2 h _ min _ _,
    givesElems_of exec_imax fun _ _ _ _ h => elem_int2 h _ max _ _,
    givesElems_of exec_iclamp fun _ _ _ _ h => elem_int3 h _ (fun x y z => min (max x y) z) _ _ _,
    givesElems_of exec_iset fun _ f _ _ h => elem_zipMask h (fun x y => intCond f.var.toNat (intVal f.ty x) (intVal f.ty y)) _ _⟩

/-- R151: a sum modulo 2^n is its two's complement; so is the difference of R150 below its borrow. -/
theorem execIsubb_eq (f : Fields) (s : State) : exec (.isubb f) s = s.issue f fun wid w s => s.fixed wid w f .a 2 fun i =>
    let r : Int := (w.opA .n32 f i : Int) - w.opB .n32 f i - (w.opC .n32 f i % 2 : Nat)
    (r % 2 ^ 32).toNat + (if r < 0 then 2 ^ 32 else 0) := by
  simp only [← tc_eq_emod]
  exact exec_isubb f s
theorem execImadw_eq (f : Fields) (s : State) : exec (.imadw f) s = s.issue f fun wid w s => s.fixed wid w f .m 2 fun i =>
    let z := (w.src64 f.c i).toNat
    ((intVal f.ty (w.opA f.ty f i) * intVal f.ty (w.opB f.ty f i) + (if f.ty.isSigned then sx 64 z else z)) % 2 ^ 64).toNat := by
  simp only [← tc_eq_emod]
  exact exec_imadw f s

/-- Settles O2: the pairs are their formulas, ICMP's bits those of a comparison, and SEL masks a by c and b by its complement. -/
theorem integerWide : Obligations.IntegerWide :=
  ⟨gives_of exec_iaddc, gives_of execIsubb_eq, gives_of execImadw_eq,
    givesBits_of exec_icmp fun _ _ _ _ _ _ => bitAt_cmpBits _ _ _ _ _,
    givesLaneBits_of exec_sel fun w f l j _ hj => by
      rw [bitAt_or, bitAt_and, bitAt_and, bitAt_not hj]
      cases bitAt (w.opC f.ty f l) j <;> simp⟩

/-! ## Shifts and logic (R154, R155) -/

/-- Settles O3: the bits of each shift; SHR and the rotates read a value that lies within its width. -/
theorem shifts : Obligations.Shifts :=
  ⟨givesLaneBits_of exec_shl fun _ _ _ _ _ hj => bitAt_shl hj _ _,
    givesLaneBits_of exec_shr fun _ _ _ _ hwf _ => bitAt_shr (opA_lt (mem_wordTypes_of_wf hwf rfl rfl rfl) _ _) _ _,
    givesLaneBits_of exec_sar fun _ _ _ _ _ hj => bitAt_sar hj _ _,
    givesLaneBits_of exec_rotl fun _ _ _ _ hwf hj => bitAt_rotl (opA_lt (mem_wordTypes_of_wf hwf rfl rfl rfl) _ _) hj _,
    givesLaneBits_of exec_rotr fun _ _ _ _ hwf hj => bitAt_rotr (opA_lt (mem_wordTypes_of_wf hwf rfl rfl rfl) _ _) hj _⟩

/-- Settles O4: the bits of each operation; ANDN takes the complement of b within the width. -/
theorem logic : Obligations.Logic :=
  ⟨givesLaneBits_of exec_andOp fun _ _ _ _ _ _ => bitAt_and _ _ _, givesLaneBits_of exec_orOp fun _ _ _ _ _ _ => bitAt_or _ _ _,
    givesLaneBits_of exec_xorOp fun _ _ _ _ _ _ => bitAt_xor _ _ _,
    givesLaneBits_of exec_andn fun _ _ _ _ _ hj => by rw [bitAt_and, bitAt_not hj]⟩

/-! ## Bit fields (R156 to R160) -/

/-- R160: BPERM's byte for either width. -/
theorem bitAt_bperm {w : Warp} {f : Fields} {l j : Nat} (hwf : (Instr.bperm f).wf 256 = true) (hj : j < elemBits f.ty) :
    bitAt (bperm f.ty.is64 (w.opA f.ty f l) (w.opB f.ty f l) (w.src f.c l).toNat) j =
      let nib := fld (w.src f.c l).toNat (4 * (j / 8)) 4
      let byte := byteOf (elemBits f.ty / 8) (w.opA f.ty f l) (w.opB f.ty f l) nib
      if f.ty.is64 then bitAt byte (j % 8) else nib < 8 && bitAt byte (j % 8) := by
  have hty : f.ty ∈ [Ty.n32, .n64] := List.contains_iff_mem.1 (tyOk_of_wf hwf rfl rfl)
  have ha := opA_lt (naturals_wordTypes _ hty) w l
  simp only [List.mem_cons, List.not_mem_nil, or_false] at hty
  rcases hty with e | e
  · rw [e] at ha hj ⊢
    exact bitAt_bperm_narrow ha hj
  · rw [e] at ha hj ⊢
    exact bitAt_bperm_wide ha hj

/-- Settles O5: the bits of the truth table, of a field that is cut at the width, and of the bytes of b above a. -/
theorem fieldMoves : Obligations.FieldMoves :=
  ⟨givesBits_of exec_logt fun _ _ _ _ _ hj => bitAt_logt _ _ _ _ hj, givesLaneBits_of exec_bfx fun _ _ _ _ _ hj => bitAt_bfx _ _ _ hj,
    givesLaneBits_of exec_bfi fun _ _ _ _ _ _ => bitAt_bfi _ _ _ _ _, givesLaneBits_of exec_bperm fun _ _ _ _ hwf hj => bitAt_bperm hwf hj⟩

/-- Settles O6: POPC is its count; CLZ is the place of the first set bit from the top. -/
theorem bitCounts : Obligations.BitCounts :=
  ⟨gives_of exec_popc,
    fun _ _ f h => ⟨_, _, (exec_clz f _).trans (State.issue_chosen h f _), State.fixed_lands h f _ _ _,
      fun _ => ⟨clz_le _ _, fun _ hj h => bitAt_above_clz hj h, bitAt_clz⟩⟩,
    givesLaneBits_of exec_brev fun _ _ _ _ _ hj => bitAt_brev hj _⟩

/-- Settles O7: FNSB takes the element of number n of the set bits in the order in which it looks at them. -/
theorem findSetBit : Obligations.FindSetBit := fun s wid f h =>
  ⟨_, _, (exec_fnsb f s).trans (State.issue_chosen h f _), State.fixed_lands h f _ _ _, fun i => by
    dsimp only
    split
    next hfew => exact fnsb_none hfew
    next hmany => exact fnsb_found (Nat.lt_of_not_le hmany)⟩

end Sys2Proof.Safety

/-! O8, O11. Moves (R161 to R166); conversions, dot products and special functions (R167 to R169, R185, R187 to R189). -/
namespace Sys2Proof.Safety
open Sys2Proof Sys2Proof.Machine

/-! ## Moves (R161, R162) -/

theorem immOpnd_eq (t : Ty) (x : Word) : immOpnd t x = if t = .i64 then ((x.toInt : Int) % 2 ^ 64).toNat else x.toNat := by
  unfold immOpnd
  rw [sx_toNat, tc_eq_emod]
  simp only [beq_iff_eq]
theorem execMovi_eq (f : Fields) (s : State) : exec (.movi f) s = s.issue f fun wid w s => s.fixed wid w f .a (tyRegs f.ty) fun _ =>
    if f.ty = .i64 then ((f.immVal.toInt : Int) % 2 ^ 64).toNat else f.immVal.toNat := by
  simp only [← immOpnd_eq]
  exact exec_movi f s

/-- R162: the register that a lane's index names, and whether REGRANGE refuses it. -/
def movedReg (w : Warp) (f : Fields) (i : Nat) : Nat := f.a.reg.toNat + (w.wordB f i).toNat
def outOfRange (w : Warp) (f : Fields) (wide : Bool) (i : Nat) : Bool :=
  decide (w.n ≤ movedReg w f i) || (wide && (movedReg w f i % 2 == 1 || decide (w.n ≤ movedReg w f i + 1)))

theorem outOfRange_iff {w : Warp} {f : Fields} {wide : Bool} {i : Nat} : outOfRange w f wide i = true ↔
    w.n ≤ movedReg w f i ∨ (wide = true ∧ (movedReg w f i % 2 = 1 ∨ w.n ≤ movedReg w f i + 1)) := by
  simp only [outOfRange, Bool.or_eq_true, Bool.and_eq_true, decide_eq_true_eq, beq_iff_eq]
theorem moveIndexed_eq {s : State} {wid : Nat} (h : Chosen s wid) (f : Fields) (wide : Bool) :
    moveIndexed f s wide = .next (if (lanesOf ((s.warp wid).exec f)).any (outOfRange (s.warp wid) f wide)
      then (s.noteIssue wid f).trapAt wid (s.warp wid) 0x12
      else (s.noteIssue wid f).fixed wid (s.warp wid) f .a (if wide then 2 else 1) fun i =>
        if wide then ((s.warp wid).reg64 (movedReg (s.warp wid) f i) i).toNat else ((s.warp wid).reg (movedReg (s.warp wid) f i) i).toNat) :=
  State.issue_chosen h f _
/-- Every index in range: the registers that the lanes name. -/
theorem moveIndexed_lands {s : State} {wid : Nat} (h : Chosen s wid) (f : Fields) (wide : Bool)
    (hok : ∀ i ∈ lanesOf ((s.warp wid).exec f), ¬ outOfRange (s.warp wid) f wide i = true) :
    ∃ t, moveIndexed f s wide = .next t ∧ Lands s t wid f (lambda f .a) (if wide then 2 else 1) fun i =>
      if wide then ((s.warp wid).reg64 (movedReg (s.warp wid) f i) i).toNat else ((s.warp wid).reg (movedReg (s.warp wid) f i) i).toNat := by
  refine ⟨_, (moveIndexed_eq h f wide).trans (congrArg _ (if_neg ?_)), State.fixed_lands h f _ _ _⟩
  simpa only [List.any_eq_true, not_exists, not_and] using hok

theorem gives_movx : Gives .movx .a (fun _ => 1) (fun w f i => (w.reg (movedReg w f i) i).toNat)
    fun _ w f => ∀ i ∈ lanesOf (w.exec f), movedReg w f i < w.n := fun s wid f h hok =>
  moveIndexed_lands h f false fun i hi => by
    rw [outOfRange_iff]
    have := hok i hi
    simp only [Bool.false_eq_true, false_and, or_false]
    omega
theorem gives_movxw : Gives .movxw .a (fun _ => 2) (fun w f i => (w.reg64 (movedReg w f i) i).toNat)
    fun _ w f => ∀ i ∈ lanesOf (w.exec f), movedReg w f i % 2 = 0 ∧ movedReg w f i + 1 < w.n := fun s wid f h hok =>
  moveIndexed_lands h f true fun i hi => by
    rw [outOfRange_iff]
    obtain ⟨heven, hlt⟩ := hok i hi
    omega

/-! ## Special registers (R163 to R166) -/

/-- What a special register shows is no part of the state that an issue changes. -/
theorem sreg_noteIssue (s : State) (wid : Nat) (f : Fields) (w : Warp) (k i : Nat) : (s.noteIssue wid f).sreg w k i = s.sreg w k i := by
  obtain ⟨ws, ks, e⟩ := noteIssue_eq s wid f
  rw [e]
  rfl
theorem sreg64_noteIssue (s : State) (wid : Nat) (f : Fields) (w : Warp) (k i : Nat) : (s.noteIssue wid f).sreg64 w k i = s.sreg64 w k i := by
  obtain ⟨ws, ks, e⟩ := noteIssue_eq s wid f
  rw [e]
  rfl
/-- R147: what a warp in deterministic mode may not read. -/
theorem timingReg_iff (k : Nat) : timingReg k = true ↔ k ∈ [0x01, 0x02, 0x0C, 0x0E, 0x0F, 0x10] := by
  simp only [timingReg, Bool.or_eq_true, beq_iff_eq, List.mem_cons, List.not_mem_nil, or_false]
  omega
theorem readable {det : Bool} {k : Nat} (h : det = true → k ∉ [0x01, 0x02, 0x0C, 0x0E, 0x0F, 0x10]) : ¬(det && timingReg k) = true := by
  simpa only [Bool.and_eq_true, timingReg_iff, not_and] using h

section
variable {s : State} {wid : Nat} (h : Chosen s wid) (f : Fields)
include h

theorem movs_reads (hvar : f.var = 0) (hdet : (s.warp wid).det = true → f.a.reg.toNat ∉ [0x01, 0x02, 0x0C, 0x0E, 0x0F, 0x10]) :
    ∃ t, exec (.movs f) s = .next t ∧ Lands s t wid f (lambda f .a) 1 fun i => s.sreg (s.warp wid) f.a.reg.toNat i := by
  refine ⟨_, (exec_movs f s).trans ((State.issue_chosen h f _).trans
    (congrArg _ ((if_pos (beq_iff_eq.2 hvar)).trans (if_neg (readable hdet))))), ?_⟩
  simp only [sreg_noteIssue]
  exact State.fixed_lands h f .a 1 _
theorem movsw_reads (hdet : (s.warp wid).det = true → f.a.reg.toNat ∉ [0x01, 0x02, 0x0C, 0x0E, 0x0F, 0x10]) :
    ∃ t, exec (.movsw f) s = .next t ∧ Lands s t wid f (lambda f .a) 2 fun i => s.sreg64 (s.warp wid) f.a.reg.toNat i := by
  refine ⟨_, (exec_movsw f s).trans ((State.issue_chosen h f _).trans (congrArg _ (if_neg (readable hdet)))), ?_⟩
  simp only [sreg64_noteIssue]
  exact State.fixed_lands h f .a 2 _
end

/-- R163: the value that a lane of MOVS `.put` supplies. -/
def putValue (w : Warp) (f : Fields) (i : Nat) : Word := match f.args with | .imm _ x => x | .regs a _ _ => w.src a i
theorem putValue_eq (w : Warp) (f : Fields) (i : Nat) : putValue w f i = if f.isImm then f.immVal else w.src f.a i := by
  unfold putValue Fields.isImm Fields.immVal Fields.a
  cases f.args with
  | regs a b c => rfl
  | imm a x => rfl

/-- R65, R163, R164: MOVS `.put`: nothing without a lane, a trap where values differ, else a new EXM. -/
theorem execMovs_put {s : State} {wid : Nat} (h : Chosen s wid) {f : Fields} (hvar : f.var ≠ 0) :
    exec (.movs f) s = .next (if (s.warp wid).exec f == 0 then (s.noteIssue wid f).landIn wid (lambda f .a) { flag := f.flag }
      else (uniform ((s.warp wid).exec f) (putValue (s.warp wid) f)).elim ((s.noteIssue wid f).trapAt wid (s.warp wid) 0x15)
        fun v => (s.noteIssue wid f).landIn wid (lambda f .a) { exm := some v, flag := f.flag }) := by
  refine (exec_movs f s).trans ((State.issue_chosen h f _).trans (congrArg _ ((if_neg (by simpa using hvar)).trans ?_)))
  refine ite_congr rfl (fun _ => rfl) fun _ => ?_
  show (match uniform ((s.warp wid).exec f) (putValue (s.warp wid) f) with
    | none => (s.noteIssue wid f).trapAt wid (s.warp wid) 0x15
    | some v => (s.noteIssue wid f).landIn wid (lambda f .a) { exm := some v, flag := f.flag }) = _
  cases uniform ((s.warp wid).exec f) (putValue (s.warp wid) f) with
  | none => rfl
  | some v => rfl

/-- Settles O8: under the hypotheses of its clause no move traps. -/
theorem moves : Obligations.Moves :=
  ⟨gives_of exec_mov, gives_of execMovi_eq, gives_movx, gives_movxw, fun _ _ f h => movs_reads h f, fun _ _ f h => movsw_reads h f,
    fun s wid f h hvar hm => by
      refine ⟨_, (execMovs_put h hvar).trans (congrArg _ (if_pos (beq_iff_eq.2 hm))), ?_⟩
      unfold Lands landing
      rw [lanesOf_eq_nil.2 hm]
      exact State.landIn_issues h f _ _,
    fun s wid f v h hvar hm hv => by
      refine ⟨_, (execMovs_put h hvar).trans (congrArg _ (if_neg (by simpa using hm))), ?_⟩
      have huni : uniform ((s.warp wid).exec f) (putValue (s.warp wid) f) = some v := uniform_eq hm fun i hi => (putValue_eq _ f i).trans (hv i hi)
      rw [huni]
      exact State.landIn_issues h f _ _⟩

/-! ## Conversions and dot products (R167 to R169, R187 to R189) -/

/-- R125: the elements of a value, with a function on each. -/
theorem map_elems (t : Ty) (n v : Nat) (g : Nat → Nat) : (elems (elemBits t) n v).map g = (List.range n).map fun j => g (elem t v j) :=
  List.map_map

theorem execCvt_eq (f : Fields) (s : State) : exec (.cvt f) s = s.issue f fun wid w s => s.fixed wid w f .m (tyRegs f.ty) fun i =>
    let S := Ty.ofCode (f.immVal.truncate 4)
    unelems (elemBits f.ty) ((List.range (elemCount f.ty)).map fun j => convert S f.ty f.var.toNat (elem S (w.opnd S f.a i) j)) := by
  simp only [← map_elems _ _ _ (convert _ _ _)]
  exact exec_cvt f s
theorem execUnpk_eq (f : Fields) (s : State) : exec (.unpk f) s = s.issue f fun wid w s => s.fixed wid w f .m 2 fun i =>
    unelems (elemBits (widerOf f.ty)) ((List.range (elemCount f.ty)).map fun j =>
      convert f.ty (widerOf f.ty) 0 (elem f.ty (w.opA f.ty f i) j)) := by
  simp only [← map_elems _ _ _ (convert _ _ _)]
  exact exec_unpk f s
/-- R169: the elements of one value, and behind them those of another. -/
theorem map_elems_append (t : Ty) (n u v : Nat) (g : Nat → Nat) : (elems (elemBits t) n u).map g ++ (elems (elemBits t) n v).map g =
    (List.range (2 * n)).map fun j => g (if j < n then elem t u j else elem t v (j - n)) := by
  rw [Nat.two_mul, List.range_add, List.map_append, List.map_map, map_elems, map_elems]
  congr 1
  · exact List.map_congr_left fun j hj => by rw [if_pos (List.mem_range.1 hj)]
  · exact List.map_congr_left fun j _ => by simp
theorem execPack_eq (f : Fields) (s : State) : exec (.pack f) s = s.issue f fun wid w s => s.fixed wid w f .m 1 fun i =>
    let S := widerOf f.ty
    let n := elemCount f.ty / 2
    unelems (elemBits f.ty) ((List.range (2 * n)).map fun j =>
      convert S f.ty f.var.toNat (if j < n then elem S (w.opnd S f.a i) j else elem S (w.opnd S f.b i) (j - n))) := by
  simp only [← map_elems_append]
  exact exec_pack f s

/-- R187: the products of the elements, in their order. -/
theorem zipWith_elems (t : Ty) (a b : Nat) (g : Nat → Nat → Int) :
    List.zipWith g (elems (elemBits t) (elemCount t) a) (elems (elemBits t) (elemCount t) b) =
      (List.range (elemCount t)).map fun j => g (elem t a j) (elem t b j) :=
  List.zipWith_map.trans List.zipWith_self
theorem dotInt_eq (f : Fields) (s : State) : dotInt f s = s.issue f fun wid w s => s.fixed wid w f .m 1 fun i =>
    let acc : Int := if f.ty.isSigned then sx 32 (w.reg f.dst.toNat i).toNat else ((w.reg f.dst.toNat i).toNat : Int)
    intOut (if f.ty.isSigned then .i32 else .n32) (satVar f)
      (((List.range (elemCount f.ty)).map fun j => intA w f i j * intB w f i j).foldl (· + ·) acc) := by
  unfold dotInt
  simp only [zipWith_elems]
  rfl
/-- R188: the scale is the sum of the two codes less their biases. -/
theorem dotScaledOp_eq (f : Fields) (s : State) : dotScaledOp f s = s.issue f fun wid w s => s.fixed wid w f .m 1 fun i =>
    let c := (w.src f.c i).toNat
    dotFloat (modeOf f) ((fld c 0 8 : Int) + fld c 8 8 - 254) (dotScaled f.ty (w.opA f.ty f i) (fld c 0 8) (fld c 16 16))
      (dotScaled f.ty (w.opB f.ty f i) (fld c 8 8) (fld c 16 16)) (w.reg f.dst.toNat i).toNat := by
  have scale (x y : Int) : x - 127 + (y - 127) = x + y - 254 := by omega
  unfold dotScaledOp
  simp only [scale]

/-- R185: a special function of each element. -/
theorem givesElems_sfu {i : Fields → Instr} {g : Fmt → Nat → Nat} (hx : ∀ f s, exec (i f) s = sfuOp f s g) :
    GivesElems i .s fun w f l j => g (fmtOf f.ty) (elem f.ty (w.opA f.ty f l) j) % 2 ^ elemBits f.ty :=
  givesElems_of hx fun _ f _ j h => elems_mapElems f.ty _ _ j h

/-- Settles O11: each word's lists of elements, rewritten as lists over their places. -/
theorem convertAndDot : Obligations.ConvertAndDot :=
  ⟨gives_of execCvt_eq, gives_of execPack_eq, gives_of execUnpk_eq, gives_of dotInt_eq, gives_of dotInt_eq, gives_of dotScaledOp_eq,
    gives_of dotScaledOp_eq, gives_of exec_dot2h, givesElems_sfu exec_rcp, givesElems_sfu exec_rsq, givesElems_sfu exec_ex2,
    givesElems_sfu exec_lg2, givesElems_sfu exec_fsin, givesElems_sfu exec_fcos, givesElems_sfu exec_tanh, givesElems_sfu exec_sigm⟩

end Sys2Proof.Safety

/-! O52. Where words trap (R162, R194 to R201, R216, R274, R330, R376, R382, R411, R436): each word's checks, in their order, come to the one that the
clause names. -/
namespace Sys2Proof.Safety
open Sys2Proof Sys2Proof.Machine

/-- A word whose meaning, as it issues, comes to a warp trap. -/
theorem traps_of {i : Fields → Instr} {code : Nat} {ok : State → Warp → Fields → Prop} {k : Fields → Nat → Warp → State → State}
    (hx : ∀ f s, exec (i f) s = s.issue f (k f))
    (hk : ∀ s wid f, ok s (s.warp wid) f →
      k f wid (s.warp wid) (s.noteIssue wid f) = (s.noteIssue wid f).trapAt wid (s.warp wid) code) : Traps i code ok :=
  fun s wid f h hok => (hx f s).trans ((State.issue_chosen h f _).trans (congrArg _ (hk s wid f hok)))

/-! ## Lanes that differ (R65) -/

/-- Two executing lanes supply different values. -/
def Mixed {α : Type} (w : Warp) (f : Fields) (g : Nat → α) : Prop := ∃ i ∈ lanesOf (w.exec f), ∃ j ∈ lanesOf (w.exec f), g i ≠ g j

section
variable {α : Type} {w : Warp} {f : Fields} {g : Nat → α} (h : Mixed w f g)
include h

theorem Mixed.exec_ne : w.exec f ≠ 0 := by
  obtain ⟨i, hi, -⟩ := h
  exact fun e => List.ne_nil_of_mem hi (lanesOf_eq_nil.2 e)
theorem Mixed.uniform [BEq α] [LawfulBEq α] : uniform (w.exec f) g = none := by
  obtain ⟨i, hi, j, hj, hne⟩ := h
  unfold Machine.uniform
  split
  next e => cases e ▸ hi
  next a r e =>
    rw [e] at hi hj
    refine if_neg fun hall => hne ?_
    have hsame : ∀ k ∈ a :: r, g k = g a := fun k hk => by
      rcases List.mem_cons.1 hk with rfl | hk
      · rfl
      · exact beq_iff_eq.1 (List.all_eq_true.1 hall k hk)
    rw [hsame i hi, hsame j hj]
end

/-! ## Taken transfers (R196 to R199) -/

theorem through_invalid (s : State) (wid : Nat) {w : Warp} {b : Nat} (k : State → State) (h : (w.bregP b).valid = false) :
    s.through wid w b k = s.trapAt wid w 0x10 := by
  simp [State.through, Warp.checkTarget, h]
theorem through_stale (s : State) (wid : Nat) {w : Warp} {b : Nat} (k : State → State) (h : (w.bregP b).valid = true)
    (hs : (w.bregP b).stale = true) : s.through wid w b k = s.trapAt wid w 0x11 := by
  simp [State.through, Warp.checkTarget, h, hs]

/-- R196: a transfer that is taken traps where its register is not prepared, or stale. -/
theorem traps_unprepared {i : Fields → Instr} {ok : Warp → Fields → Prop} {k : Fields → Nat → Warp → State → State}
    (hx : ∀ f s, exec (i f) s = s.issue f (k f))
    (hk : ∀ f wid w s, ok w f → ∃ g, k f wid w s = s.through wid w f.a.reg.toNat g) :
    Traps i 0x10 (fun _ w f => ok w f ∧ (w.bregP f.a.reg.toNat).valid = false) ∧
    Traps i 0x11 (fun _ w f => ok w f ∧ (w.bregP f.a.reg.toNat).valid = true ∧ (w.bregP f.a.reg.toNat).stale = true) := by
  refine ⟨traps_of hx fun s wid f hok => ?_, traps_of hx fun s wid f hok => ?_⟩
  · obtain ⟨hok, hv⟩ := hok
    obtain ⟨g, e⟩ := hk f wid _ (s.noteIssue wid f) hok
    rw [e, through_invalid _ _ _ hv]
  · obtain ⟨hok, hv, hs⟩ := hok
    obtain ⟨g, e⟩ := hk f wid _ (s.noteIssue wid f) hok
    rw [e, through_stale _ _ _ hv hs]

/-- R197: XFER transfers where the predicate holds in every lane, and some lane is active; without a predicate always. -/
theorem xfer_taken {w : Warp} {f : Fields} (h : f.sched.pen = false ∨ (w.active ≠ 0 ∧ w.active &&& w.predMask f = w.active)) :
    (if f.sched.pen then (if f.var == 1 then w.active &&& w.predMask f != 0 else w.active &&& w.predMask f == w.active && w.active != 0)
      else true) = true := by
  rcases h with hpen | ⟨hne, hall⟩
  · simp only [hpen, Bool.false_eq_true, if_false]
  · simp only [hall, bne, beq_false_of_ne hne, BEq.rfl, Bool.not_false, Bool.and_self, ite_self]
theorem traps_xfer_mixed : Traps .xfer 0x15 fun _ w f =>
    f.sched.pen = true ∧ f.var = 0 ∧ w.active &&& w.predMask f ≠ 0 ∧ w.active &&& w.predMask f ≠ w.active :=
  traps_of exec_xfer fun s wid f hok => by
    obtain ⟨hpen, hvar, hsome, hnot⟩ := hok
    have huni : (f.var == 0) = true := beq_iff_eq.2 hvar
    have hany : (f.var == 1) = false := by rw [hvar]; rfl
    simp only [hpen, huni, hany, bne, beq_false_of_ne hsome, beq_false_of_ne hnot, Bool.false_and, Bool.not_false, Bool.and_self,
      Bool.false_eq_true, if_true, if_false]

/-! ## Values that must agree, ranges, divergence (R162, R194, R201, R216) -/

theorem traps_prepv : Traps .prepv 0x15 fun _ w f => Mixed w f (w.src f.a) :=
  traps_of exec_prepv fun s wid f hok => by
    have hmix : Mixed (s.warp wid) f ((s.warp wid).src f.a) := hok
    simp only [beq_false_of_ne hmix.exec_ne, hmix.uniform, Bool.false_eq_true, if_false]
theorem traps_bcast : Traps .bcast 0x15 fun _ w f => f.var = 0 ∧ Mixed w.prev f (w.prev.wordB f) :=
  traps_of exec_bcast fun s wid f hok => by
    obtain ⟨hvar, hmix⟩ := hok
    simp only [hvar, BEq.rfl, beq_false_of_ne hmix.exec_ne, hmix.uniform, Bool.false_eq_true, if_true, if_false]
theorem traps_movs : Traps .movs 0x15 fun _ w f => f.var ≠ 0 ∧ f.isImm = false ∧ Mixed w f (w.src f.a) := fun s wid f h hok => by
  obtain ⟨hvar, himm, hmix⟩ := hok
  have hput : putValue (s.warp wid) f = (s.warp wid).src f.a := funext fun i => by simp [putValue_eq, himm]
  simp only [execMovs_put h hvar, hput, hmix.uniform, beq_false_of_ne hmix.exec_ne, Bool.false_eq_true, if_false, Option.elim_none]
/-- R162: an index that names no register. -/
theorem traps_moveIndexed {i : Fields → Instr} {wide : Bool} (hx : ∀ f s, exec (i f) s = moveIndexed f s wide) :
    Traps i 0x12 fun _ w f => ∃ i ∈ lanesOf (w.exec f), w.n ≤ movedReg w f i ∨
      (wide = true ∧ (movedReg w f i % 2 = 1 ∨ w.n ≤ movedReg w f i + 1)) := fun s wid f h hok => by
  obtain ⟨i, hi, hbad⟩ := hok
  rw [hx, moveIndexed_eq h, if_pos (List.any_eq_true.2 ⟨i, hi, outOfRange_iff.2 hbad⟩)]
theorem traps_join : Traps .join 0x17 fun _ w _ => w.stack = [] :=
  traps_of exec_join fun s wid f (hok : (s.warp wid).stack = []) => by rw [hok]

/-! ## Matrix words (R330) -/

section
variable {i : Fields → Instr} {g : Fields → Warp → Nat → List Nat} {cmd : Fields → List Nat → MatCmd}
  {data : Fields → Warp → Nat → List (Nat × DWord)} (hx : ∀ f s, exec (i f) s = matInstr f s (g f) (cmd f) (data f))
include hx

theorem traps_convergence : Traps i 0x13 fun _ w _ => w.active ≠ BitVec.allOnes 32 :=
  traps_of hx fun _ _ _ hok => if_pos (bne_iff_ne.2 hok)
end

/-- The values of a word without lane operands agree. -/
theorem uniform_nil (m : Lanes) (hm : m ≠ 0) : uniform m (fun _ => ([] : List Nat)) = some [] := by
  unfold uniform
  split
  next e => exact absurd (lanesOf_eq_nil.1 e) hm
  next => exact if_pos (List.all_eq_true.2 fun _ _ => rfl)
/-- R330: MREL and MSTAT, which take no operands, trap in a warp whose lanes do not all share. -/
theorem traps_owners {i : Fields → Instr} {cmd : Fields → MatCmd}
    (hx : ∀ f s, exec (i f) s = matInstr f s (fun _ _ => []) (fun _ => cmd f) noData)
    (hcmd : ∀ f, cmd f = .mrel ∨ ∃ b, cmd f = .mstat b) :
    Traps i 0x14 fun _ w _ => w.active = BitVec.allOnes 32 ∧ w.spans (BitVec.allOnes 32) = true :=
  traps_of hx fun s wid f hok => by
    obtain ⟨hall, hspan⟩ := hok
    have huni := uniform_nil (BitVec.allOnes 32) (by decide)
    rcases hcmd f with e | ⟨b, e⟩ <;>
      simp only [e, hall, hspan, huni, bne_self_eq_false, Bool.and_false, Bool.false_and, Bool.false_eq_true, if_false, if_true, List.append_nil]

/-! ## Timing, translations, privilege (R103, R117, R376, R382, R411) -/

/-- R376: page operations have no timed form. -/
theorem traps_page {i : Fields → Instr} {op : PageOp} (hx : ∀ f s, exec (i f) s = pageInstr f s op) : Traps i 0x19 fun _ w _ => w.timed = true :=
  traps_of hx fun _ _ _ hok => if_pos hok
/-- R103, R117: a timed access outside a region of locked translations. -/
theorem traps_lockmiss {i : Fields → Instr} {k : OpKind} (hx : ∀ f s, exec (i f) s = memOp f s k) :
    Traps i 0x1A fun _ w f => 8 ≤ f.var.toNat ∧ w.timed = true ∧ w.lockOpen = false :=
  traps_of hx fun s wid f hok => by
    obtain ⟨hvar, htimed, hlock⟩ := hok
    refine if_pos ?_
    simp [hvar, htimed, hlock]
/-- R382: a word of the handler in another warp. -/
theorem traps_handler {i : Fields → Instr} {k : Fields → Nat → Warp → State → State} (hx : ∀ f s, exec (i f) s = handlerOp f s (k f)) :
    Traps i 0x1B fun _ w _ => ¬(w.kind = .handler ∧ w.holds.isSome = true) :=
  traps_of hx fun _ _ _ hok => if_neg (by simpa using hok)
/-- R411: a word of the rink outside timed mode, whether or not a lane executes it. -/
theorem rinkIssue_untimed (s : State) (wid : Nat) {w : Warp} (port : Option Nat) (k : State → State) (h : w.timed = false) :
    s.rinkIssue wid w port k = s.trapAt wid w 0x1B := by
  simp [State.rinkIssue, h]
/-- R436: a root-world word outside the root world, and in timed mode, whether or not a lane executes it. -/
theorem traps_root {α : Type} [BEq α] {i : Fields → Instr} {v : Fields → Warp → Nat → α}
    {k : Fields → Nat → Warp → α → State → State}
    (hx : ∀ f s, exec (i f) s = rootInstr f s (v f) (k f)) :
    Traps i 0x1B (fun _ w _ => w.pdk ≠ 0) ∧ Traps i 0x19 fun _ w _ => w.pdk = 0 ∧ w.timed = true := by
  refine ⟨traps_of hx fun _ _ _ hok => if_pos (bne_iff_ne.2 hok), traps_of hx fun s wid f hok => ?_⟩
  obtain ⟨hpdk, htimed⟩ := hok
  exact (if_neg (by simp [hpdk])).trans (if_pos htimed)

/-! ## Members (R83, R272, R276) -/

/-- A word of a group that a lane of a warp outside it executes; words with checks beside that of membership trap alike. -/
theorem traps_nonmember {i : Fields → Instr} {k : Fields → Nat → Warp → State → State} (hx : ∀ f s, exec (i f) s = s.issue f (k f))
    (hk : ∀ f wid w s, ∃ idle rest, ∃ bad : Bool, (s.isMember w (f.immVal.toNat % 256) = false → bad = true) ∧
      k f wid w s = if w.exec f == 0 then idle else if bad then s.trapAt wid w 0x1B else rest) :
    Traps i 0x1B fun s w f => w.exec f ≠ 0 ∧ s.isMember w (f.immVal.toNat % 256) = false :=
  traps_of hx fun s wid f hok => by
    obtain ⟨hne, hout⟩ := hok
    obtain ⟨idle, rest, bad, hbad, e⟩ := hk f wid (s.warp wid) (s.noteIssue wid f)
    have hbad := hbad ((isMember_noteIssue s wid f _ _).trans hout)
    simp only [e, hbad, beq_false_of_ne hne, Bool.false_eq_true, if_false, if_true]

theorem traps_arrive {i : Fields → Instr} {b : Bool} (hx : ∀ f s, exec (i f) s = arriveOp f s b) :
    Traps i 0x1B fun s w f => w.exec f ≠ 0 ∧ s.isMember w (f.immVal.toNat % 256) = false :=
  traps_nonmember hx fun _ _ _ _ => ⟨_, _, _, fun h => by rw [h]; rfl, rfl⟩

/-- Settles O52: where a word has several checks, the clause's hypotheses decide those before the one that traps. -/
theorem wordsTrap : Obligations.WordsTrap :=
  ⟨traps_unprepared exec_xfer fun _ _ _ _ h => ⟨id, if_pos (xfer_taken h)⟩,
    traps_unprepared exec_call fun _ _ _ _ _ => ⟨_, rfl⟩,
    traps_unprepared exec_ret fun _ _ _ _ _ => ⟨_, rfl⟩,
    traps_unprepared exec_loop fun _ _ _ _ h => ⟨_, if_neg (Nat.not_lt.2 h)⟩,
    traps_moveIndexed exec_movx, traps_moveIndexed exec_movxw,
    traps_convergence fun f s => (exec_mres f s).trans (by unfold execMres; rfl),
    traps_convergence exec_mrel, traps_convergence exec_mldb, traps_convergence exec_mlda,
    traps_convergence exec_mma, traps_convergence exec_mspr, traps_convergence exec_mzero, traps_convergence exec_mmov,
    traps_convergence exec_mput, traps_convergence exec_mstat,
    traps_owners exec_mrel fun _ => .inl rfl, traps_owners exec_mstat fun _ => .inr ⟨_, rfl⟩,
    traps_prepv, traps_xfer_mixed, traps_bcast, traps_movs, traps_of exec_xfers fun _ _ _ h => if_pos h, traps_join,
    traps_page exec_pgspec, traps_page exec_pgcmt, traps_page exec_pgdrop, traps_lockmiss exec_ld, traps_lockmiss exec_st,
    traps_handler exec_tret, traps_handler exec_eject, traps_handler exec_pgmap, traps_handler exec_pgunmap,
    traps_of exec_tsnd fun _ _ _ h => rinkIssue_untimed _ _ _ _ h, traps_of exec_trcv fun _ _ _ h => rinkIssue_untimed _ _ _ _ h,
    traps_of exec_drft fun _ _ _ h => rinkIssue_untimed _ _ _ _ h,
    traps_root exec_scrub, traps_root exec_mext, traps_root exec_shab, traps_root exec_edsign, traps_root exec_lockif,
    traps_arrive exec_bar, traps_arrive exec_bara,
    traps_nonmember exec_barw fun _ _ _ _ => ⟨_, _, _, fun h => by rw [h]; rfl, rfl⟩,
    traps_nonmember exec_gleave fun _ _ _ _ => ⟨_, _, _, fun h => by rw [h]; rfl, rfl⟩⟩

end Sys2Proof.Safety
